-- ==== Sys2Proof/Word.lean ====
section
/-! DEFINITION. Words, bytes, little-endian order (R5) and the sparse maps that hold memories and register files. -/

namespace Sys2Proof

abbrev Byte := BitVec 8
abbrev W32 := BitVec 32
abbrev W64 := BitVec 64

/-- A sparse map: keys strictly rising, and no entry equal to the key's default. -/
abbrev SMap (α : Type) := List (Nat × α)

namespace SMap

/-- The value at a key; an unlisted key has the default. -/
def get {α : Type} (d : Nat → α) : SMap α → Nat → α
  | [], k => d k
  | (a, v) :: m, k => if a = k then v else get d m k

/-- Put an entry in its place. -/
def insert {α : Type} : SMap α → Nat → α → SMap α
  | [], k, v => [(k, v)]
  | (a, w) :: m, k, v =>
    if k < a then (k, v) :: (a, w) :: m
    else if k = a then (k, v) :: m
    else (a, w) :: insert m k v

/-- Remove every entry of a key. -/
def erase {α : Type} : SMap α → Nat → SMap α
  | [], _ => []
  | (a, w) :: m, k => if a = k then erase m k else (a, w) :: erase m k

/-- Write a key, keeping the canonical form: writing the default removes the entry. -/
def set {α : Type} [DecidableEq α] (d : Nat → α) (m : SMap α) (k : Nat) (v : α) : SMap α :=
  if v = d k then erase m k else insert m k v

/-- Drop the entries whose key satisfies `p`: those keys read as their default again. -/
def drop {α : Type} (p : Nat → Bool) : SMap α → SMap α
  | [] => []
  | (a, w) :: m => if p a then drop p m else (a, w) :: drop p m

/-- Every key of the list is above `lo`, and the keys rise. -/
def sortedFrom {α : Type} (lo : Nat) : SMap α → Bool
  | [] => true
  | (a, _) :: m => decide (lo ≤ a) && sortedFrom (a + 1) m

/-- The canonical form. -/
def wf {α : Type} [DecidableEq α] (d : Nat → α) (m : SMap α) : Bool :=
  sortedFrom 0 m && m.all (fun c => decide (c.2 ≠ d c.1))

end SMap

/-- Byte memory. An unlisted byte reads zero: HBM and pool pages are zeroed before they are mapped (R45), a
sector never written reads as zeros (R383), an invalid frame reads zero (R296). -/
abbrev Mem := SMap Byte

namespace Mem

def zero : Nat → Byte := fun _ => 0

def read (m : Mem) (a : Nat) : Byte := SMap.get zero m a

def write (m : Mem) (a : Nat) (b : Byte) : Mem := SMap.set zero m a b

/-- `n` bytes from `a` upwards. -/
def readN (m : Mem) (a : Nat) : Nat → List Byte
  | 0 => []
  | n + 1 => read m a :: readN m (a + 1) n

/-- Bytes written from `a` upwards. -/
def writeL (m : Mem) (a : Nat) : List Byte → Mem
  | [] => m
  | b :: bs => writeL (write m a b) (a + 1) bs

abbrev wf (m : Mem) : Bool := SMap.wf zero m

/-- Every byte in [lo, hi) becomes zero. -/
def clear (m : Mem) (lo hi : Nat) : Mem := SMap.drop (fun a => decide (lo ≤ a) && decide (a < hi)) m

end Mem

/-- The number that a byte list spells, least significant byte first (R5). -/
def leNat : List Byte → Nat
  | [] => 0
  | b :: bs => b.toNat + 256 * leNat bs

/-- The `n` low bytes of a number, least significant byte first (R5). -/
def natLe : Nat → Nat → List Byte
  | 0, _ => []
  | n + 1, v => BitVec.ofNat 8 v :: natLe n (v / 256)

/-- Field of a record: `n` bytes from byte `off`. -/
def fieldN (bs : List Byte) (off n : Nat) : Nat := leNat ((bs.drop off).take n)

def byteAt (bs : List Byte) (off : Nat) : Nat := fieldN bs off 1

/-- Bits [hi:lo] of a number (R6). -/
def bitsOf (v hi lo : Nat) : Nat := (v >>> lo) % (2 ^ (hi + 1 - lo))

def bitOf (v i : Nat) : Bool := v.testBit i

/-- All bytes in a list are zero. -/
def allZero (bs : List Byte) : Bool := bs.all (fun b => decide (b = 0))

/-- Bytes `off` to `off + n - 1` of a record are zero. -/
def zeroAt (bs : List Byte) (off n : Nat) : Bool := allZero ((bs.drop off).take n)

def ceilDiv (a b : Nat) : Nat := (a + b - 1) / b

/-- A number as `n`-bit two's complement. -/
def toInt (n v : Nat) : Int := if v % 2 ^ n < 2 ^ (n - 1) then (v % 2 ^ n : Nat) else ((v % 2 ^ n : Nat) : Int) - (2 ^ n : Nat)

/-- An integer wrapped to `n` bits. -/
def ofInt (n : Nat) (v : Int) : Nat := (v % ((2 ^ n : Nat) : Int)).toNat

/-- Replace element `i` of a list. -/
def setAt {α : Type} : List α → Nat → α → List α
  | [], _, _ => []
  | _ :: xs, 0, v => v :: xs
  | x :: xs, i + 1, v => x :: setAt xs i v

/-- Change the elements that satisfy `p`. -/
def modWhere {α : Type} (p : α → Bool) (f : α → α) (xs : List α) : List α :=
  xs.map (fun x => if p x then f x else x)

/-- Insertion sort by a total comparison `le`; stable. -/
def insertBy {α : Type} (le : α → α → Bool) (x : α) : List α → List α
  | [] => [x]
  | y :: ys => if le x y then x :: y :: ys else y :: insertBy le x ys

def sortBy {α : Type} (le : α → α → Bool) : List α → List α
  | [] => []
  | x :: xs => insertBy le x (sortBy le xs)

/-- First element satisfying `p`, with its position. -/
def findIdx {α : Type} (p : α → Bool) : List α → Nat → Option (Nat × α)
  | [], _ => none
  | x :: xs, i => if p x then some (i, x) else findIdx p xs (i + 1)

/-- Keep the first of repeated elements. -/
def dedup {α : Type} [DecidableEq α] (xs : List α) : List α :=
  xs.foldl (fun acc x => if acc.contains x then acc else acc ++ [x]) []

/-- Half-open ranges overlap. -/
def overlaps (a n b m : Nat) : Bool := decide (a < b + m) && decide (b < a + n) && decide (0 < n) && decide (0 < m)

end Sys2Proof
end

