-- ==== Sys2Proof/Syntax.lean ====
section
/-! DEFINITION. The commands: one constructor per row of spec/opcode_table.json, with the row's operands. -/

namespace Sys2Proof

/-- What a DMA read brings from host memory at admission: the 64 bytes of the descriptor at IN_HEAD and the
ownership flag of each block that it names, IN_REF's first (R69, R79). -/
structure Fetch where
  desc : List Byte
  flags : List W64
  deriving DecidableEq, Repr

/-- A status event of hardware in the same cycle as a host access to the page (R9): the bit and what its capture
holds (R121). -/
structure HwSet where
  bit : Nat
  basin : Nat
  tag : W32
  d2 : W32
  d3 : W32
  deriving DecidableEq, Repr

/-- Bits that changed in one stored copy (0, 1 or 2) of a TMR register since it was last voted (R116); of FLC_DIE_STATE, in
the entry of a die. -/
structure TmrFlip where
  off : Nat
  die : Nat
  staged : Bool
  copy : Nat
  bits : W32
  deriving DecidableEq, Repr

/-- Outcome of a flash sector read (R381). -/
inductive FlashRead where
  | clean | retried | rebuilt | unreadable
  deriving DecidableEq, Repr

/-- A unit that holds an epoch (R402). -/
inductive UnitId where
  | core (m c : Nat) | die (d : Nat) | fwp (n : Nat) | link (port : Nat)
  deriving DecidableEq, Repr

/-- A word found in error by a scrub read: its device address and the bits in error. -/
structure WordError where
  addr : Nat
  bits : Nat
  deriving DecidableEq, Repr

/-- What of a request's own work a word belongs to: its fetched texts, their tokens, the KV store of its stream, the weights
that its jobs read, its logits, its grammar state, the sums of its merge, the list that it has sorted, its tag state (R395). -/
inductive WorkWord where
  | text | tokens | kv | weights | logits | grammar | scratch | list | tagState
  deriving DecidableEq, Repr

/-- A coded word that a step reads (R388): of HBM by device address, of the core's tarn, of the die buffer window, of the
request's input or output by byte offset, of a node-cache record by passage and offset, of a context's save records, of a
basin's namespace write cache by namespace offset, of a request's work. -/
inductive ErrorPlace where
  | hbm (a : Nat) | tarn (off : Nat) | dbuf (off : Nat) | shore (off : Nat) | node (id off : Nat) | save (ctx off : Nat) | cache (off : Nat)
  | work (slot : Nat) (part : WorkWord) (off : Nat)
  deriving DecidableEq, Repr

/-- A word that a step reads in error: where, and the bits in error (Table 17-1); and, where it arrives uncorrectable over a
die-to-die path (R390), the path and whether the second copy does too. -/
structure ReadError where
  place : ErrorPlace
  bits : Nat
  path : Option (Nat × Bool) := none
  deriving DecidableEq, Repr

/-- What a command names and the words that its reads meet in error: a request's slot, a pass, a queued command, a core. -/
structure Reads where
  id : Nat
  errs : List ReadError
  deriving DecidableEq, Repr

/-- What a load command's reads meet: the ownership flags of its blocks when it begins (Table 16-13), the words in error
while it moves them (R388). -/
structure LoadReads where
  flags : List W64
  errs : List ReadError
  deriving DecidableEq, Repr

/-- A function's read access in the page that the row names (R102). -/
structure FnRead where
  fn : Nat
  off : Nat
  size : Nat
  deriving DecidableEq, Repr

/-- A read access in a page of BAR0 (R102). -/
structure PageRead where
  page : Nat
  off : Nat
  size : Nat
  deriving DecidableEq, Repr

/-- The end of a heartbeat period of a core of a mere, or of its die sequencer: whether the heartbeat came (R350). -/
structure Beat where
  core : Nat
  came : Bool
  deriving DecidableEq, Repr

/-- A word of a transfer, by its number in it, that arrives uncorrectable over a die-to-die path (R390): the path, and
whether the second copy is uncorrectable too. -/
structure PathError where
  word : Nat
  path : Nat
  again : Bool
  deriving DecidableEq, Repr

/-- A scheduler's choice: the waiting job, and the physical cores for each job of its set, by logical index (R352); and the
words of the image or of the save records that the start or the resumption reads in error (R315, R358). -/
structure SchedPick where
  ctx : Nat
  place : List (List Nat)
  errs : List ReadError := []
  deriving DecidableEq, Repr

/-- What wakes a module in S4 (Table 18-6). -/
inductive WakeSource where
  | entry (e : Nat) | pin | mctp
  deriving DecidableEq, Repr

/-- The transport of an SPDM message (R441): MCTP over SMBus, MCTP over PCIe vendor-defined messages, the data object
exchange of PF0. -/
inductive Via where
  | smbus | vdm | doe
  deriving DecidableEq, Repr

/-- What an access of a firmware processor names (R435): a processor's memory, the mailbox from one to another, a page of BAR0,
the firmware reserve in HBM; in the firmware area of flash an image, a basin record or another place; or anything else. -/
inductive FwPlace where
  | memory (n : Nat) | mailbox (f t : Nat) | page (p : Nat) | reserve | image | record | flash | other
  deriving DecidableEq, Repr

/-- A register that a debugger reaches (R483): x, v, p, t by number, word n of accumulator a, the PC. -/
inductive DebugReg where
  | x (n : Nat) | v (n : Nat) | p (n : Nat) | t (n : Nat) | acc (a n : Nat) | pc
  deriving DecidableEq, Repr

/-- What a debugger does to a core (R483). Values are bytes, the lowest first. -/
inductive DebugOp where
  | halt | step | resume
  | start (pc : Nat)
  | read (r : DebugReg)
  | write (r : DebugReg) (v : List Byte)
  | readTarn (a n : Nat)
  | writeTarn (a : Nat) (v : List Byte)
  deriving DecidableEq, Repr

/-- Readings of a sensor sweep [°C]: the 72 die sensors, 16m + k of mere m and 64-71 of the shore, the stack 3m + h, the
coolant at IN and at OUT; none where a sensor gives no reading. -/
structure Sweep where
  die : List (Option Nat)
  stack : List (Option Nat)
  inlet : Option Nat
  outlet : Option Nat
  deriving DecidableEq, Repr

/-- What the peer's training frame carries (R452). -/
structure Training where
  node : Nat
  system : Nat
  epoch : Nat
  /-- A lane has failed: the link falls back to x4 (R451). -/
  x4 : Bool
  deriving DecidableEq, Repr

/-- An Ndelar frame (Table 20-5). -/
structure Frame where
  bytes : List Byte
  deriving DecidableEq, Repr

/-- One constructor per row of the table. -/
inductive Instr where
  /-- IN_TAIL. Host writes an inlet ring tail doorbell; a value of 2^s or more is ignored and counted in RING_DBERR. (R71) -/
  | inTail (fn basin ring : Nat) (v : W32)
  /-- OUT_HEAD. Host writes an outlet ring head doorbell; it is accepted only within live OUT_HEAD to OUT_TAIL, otherwise ignored and counted. (R74) -/
  | outHead (fn basin ring : Nat) (v : W32)
  /-- RING_ENABLE. Write of ring enable bits, applied bit by bit; setting restarts a ring and clearing stops it at once. (R77) -/
  | ringEnable (fn basin : Nat) (v : W32)
  /-- APPLY. Write of 1 to RING_CTL.APPLY arms this RING page alone for apply at its safe boundary. (R76) -/
  | apply (fn basin : Nat) (v : W32)
  /-- RING_APPLY. At the RING page safe boundary the staged ring values are applied and each changed ring's head, tail and PHASE are reset. (R76) -/
  | ringApply (basin : Nat)
  /-- BAR2_WRITE. Host write to a shore block; it is discarded and counted when the module holds the block. (R80) -/
  | bar2Write (fn off : Nat) (bytes : List Byte)
  /-- REG_WRITE. BAR0 write to a register without behaviour of its own, acting per its access code, locks and VF restrictions. (R8) -/
  | regWrite (fn off size : Nat) (v : W64) (hw : List HwSet)
  /-- BLK_STAT_RC. Read of the read-and-clear alias returns status bits and clears those returned as 1, subject to R9. (R120) -/
  | blkStatRc (fn : Nat) (r : PageRead) (hw : List HwSet)
  /-- TXN_LAST_LO. Read of TXN_LAST_LO returns the low commit number and latches the high half for TXN_LAST_HI. (R133) -/
  | txnLastLo (r : FnRead)
  /-- SPR_NOW_LO. Read of SPR_NOW_LO returns the low slow-tick count and latches bits 47:32 for SPR_NOW_HI. (R423) -/
  | sprNowLo (r : FnRead)
  /-- MEAS_SEL. Write of a slot number latches that slot's value into MEAS_VALUE at one instant between extensions. (R440) -/
  | measSel (fn : Nat) (v : W32)
  /-- MEAS_LOG_SEL. Write of a log index latches that event-log entry into MEAS_LOG_DATA. (R438) -/
  | measLogSel (fn : Nat) (v : W32)
  /-- THERM_PEAK. Write of THERM_PEAK sets the recorded peak die reading to the written value. (R478) -/
  | thermPeak (fn : Nat) (v : W32)
  /-- RIPPLE_TMO. Write of the slow threshold applies at once to a fire in progress and may set SLOW immediately. (R111) -/
  | rippleTmo (fn : Nat) (v : W32)
  /-- RIPPLE_FIRE. PF0 fires ripple groups, arming every member block or queuing or merging the fire under R109. (R107) -/
  | rippleFire (fn : Nat) (v : W32)
  /-- BLOCK_APPLY. An armed block reaches its safe boundary and applies its captured staged values in one cycle, possibly completing its group's fire. (R112) -/
  | blockApply (page : Nat)
  /-- RIPPLE_SLOW. A fire in progress reaches RIPPLE_TMO microseconds, setting SLOW and naming a laggard. (R111) -/
  | rippleSlow (group laggard : Nat)
  /-- TMR_SCRUB. Background scrub votes every TMR field at least once per millisecond, correcting or reporting mismatches. (R118) -/
  | tmrScrub (flips : List TmrFlip)
  /-- DESCRIPTOR_FETCH_FAIL. A DMA read of a descriptor or ownership flag fails, disabling the inlet ring and leaving the entry unadmitted. (R98) -/
  | descriptorFetchFail (basin ring : Nat)
  /-- DMA_WRITE_FAIL. A DMA write of a completion or flag fails, disabling the outlet ring and holding the completion. (R98) -/
  | dmaWriteFail (basin ring : Nat)
  /-- UNDEFINED_OPCODE. The ring engine takes a descriptor with an undefined or unprivileged opcode and refuses it with INPUT_MALFORMED. (R12) -/
  | undefinedOpcode (f : Fetch) (slot : Nat)
  /-- QUERY. Ring engine takes a QUERY descriptor, runs admission checks, assigns a tag and pins versions and deadlines. (R18) -/
  | query (f : Fetch) (slot : Nat)
  /-- SEARCH. Ring engine admits a SEARCH descriptor that will tokenize, embed, search and select. (R185) -/
  | search (f : Fetch) (slot : Nat)
  /-- EMBED. Ring engine admits an EMBED descriptor that cuts its input and runs the encoder. (R24) -/
  | embed (f : Fetch) (slot : Nat)
  /-- RERANK. Ring engine admits a RERANK descriptor, validates its offered list and scores the first D passages. (R25) -/
  | rerank (f : Fetch) (slot : Nat)
  /-- GENERATE. Ring engine admits a GENERATE descriptor that prefills its prompt and decodes. (R260) -/
  | generate (f : Fetch) (slot : Nat)
  /-- CONTINUE. Ring engine admits a CONTINUE that appends input bytes to an awaiting-input target, or completes INPUT_MALFORMED. (R95) -/
  | continue (f : Fetch) (slot : Nat)
  /-- PARK. Ring engine admits a PARK that parks an awaiting-input target at once, possibly moving a cited handle's store to the pool. (R97) -/
  | park (f : Fetch) (slot : Nat)
  /-- RELEASE_HANDLE. Ring engine admits a RELEASE_HANDLE that frees a live handle or completes PREFIX_EXPIRED. (R91) -/
  | releaseHandle (f : Fetch) (slot : Nat)
  /-- GATHER. Ring engine admits a GATHER that pins a table version and reads rows by index. (R217) -/
  | gather (f : Fetch) (slot : Nat)
  /-- SCATTER_MERGE. Ring engine admits a SCATTER_MERGE that enters the table version's merge queue. (R221) -/
  | scatterMerge (f : Fetch) (slot : Nat)
  /-- RUN_JOB. Ring engine admits a RUN_JOB, pinning table versions and issuing one job to its class queue. (R313) -/
  | runJob (f : Fetch) (slot : Nat)
  /-- TXN. Ring engine admits a TXN descriptor carrying an action list, queued for the TXN engine. (R128) -/
  | txn (f : Fetch) (slot : Nat)
  /-- CANCEL. Ring engine admits a CANCEL that ends its live target at the target's next step boundary. (R35) -/
  | cancel (f : Fetch) (slot : Nat)
  /-- COMPLETION_WRITE. Module writes output, ownership flags, the completion at OUT_TAIL and any MSI-X message, then releases the tag. (R83) -/
  | completionWrite (basin ring : Nat)
  /-- COAL_US. Outlet coalescing timer expires after the first unsignalled completion and signals the ring's vector. (R68) -/
  | coalUs (basin ring : Nat)
  /-- INPUT_IDLE. INPUT_IDLE_MS after the last input instant an awaiting-input request is parked and PARKED set. (R96) -/
  | inputIdle (slot : Nat)
  /-- INPUT_TIMEOUT. INPUT_TTL_MS after the last input instant with no CONTINUE the request ends with INPUT_TIMEOUT. (R96) -/
  | inputTimeout (slot : Nat)
  /-- CUT_PIECE. TOK cuts a text piece by greedy longest match in its mode, keeping carry and hold-back for streamed input. (R235) -/
  | cutPiece (slot : Nat) (errs : List ReadError)
  /-- STAGE_JOB_DONE. A pipeline stage's job set (encoder or cross-encoder) ends and delivers its whole result to the next stage. (R18) -/
  | stageJobDone (r : Reads)
  /-- WALKER_CONTEXT_GRANT. A waiting query obtains a walker context and distance-table slots so its walk can start. (R162) -/
  | walkerContextGrant (slot : Nat)
  /-- DISTANCE_TABLE_BUILD. A mere core builds the query's quantized PQ distance table and sends it to the walker. (R164) -/
  | distanceTableBuild (r : Reads)
  /-- EXPANSION. The walker selects up to W open window entries, marks them visited and issues their node reads. (R168) -/
  | expansion (slot : Nat)
  /-- NODE_READ_ARRIVAL. The last node read of an expansion arrives and the records are applied in selection order. (R168) -/
  | nodeReadArrival (slot : Nat) (errs : List ReadError)
  /-- READ_BUDGET_EXPIRY. A node read's READ_BUDGET_US expires before arrival and the node is settled late. (R173) -/
  | readBudgetExpiry (slot node : Nat)
  /-- SEARCH_DEADLINE. The search deadline falls with CHEAP bit 0 set; the walk stops and the pool is delivered on PQ distance. (R182) -/
  | searchDeadline (slot : Nat)
  /-- SORT_COMMAND. A sorter runs a sort command and writes its output records then its result header. (R194) -/
  | sortCommand (r : Reads)
  /-- FLASH_READ_DONE. A flash sector read completes after LDPC, retries or parity rebuild, or is found unreadable. (R381) -/
  | flashReadDone (basin sector : Nat) (r : FlashRead)
  /-- RERANK_DEADLINE. The re-rank deadline falls with passages unscored and CHEAP bit 1 set; the shallow re-rank is taken. (R29) -/
  | rerankDeadline (slot : Nat)
  /-- PACK. PACK fills the template with ranked passages up to TOK_BUDGET, removing duplicates and truncating. (R247) -/
  | pack (r : Reads)
  /-- MODEL_DEADLINE. MODEL_DL_US falls while GEN_MODEL is not resident and the fallback model is chosen. (R31) -/
  | modelDeadline (slot : Nat)
  /-- PASS_START. GEN starts a prefill, decode or verify pass over ready streams of one model version. (R261) -/
  | passStart (mere : Nat) (slots : List Nat)
  /-- PASS_END. A pass ends; GEN samples and commits tokens, writes output and may end requests. (R265) -/
  | passEnd (r : Reads)
  /-- HANDLE_PARK_IDLE. PARK_IDLE_MS passes without a hold and parking of an IDLE handle's store begins. (R272) -/
  | handleParkIdle (h : Nat)
  /-- HANDLE_PARK_DONE. A handle's store has been moved to the pool and its HBM pages are released. (R275) -/
  | handleParkDone (r : Reads)
  /-- PARK_WRITE_FAIL. A pool write fails while parking, leaving the handle IDLE for a later retry. (R277) -/
  | parkWriteFail (h : Nat)
  /-- HANDLE_UNPARK_DONE. A held handle's store returns to HBM and its pool pages are released. (R275) -/
  | handleUnparkDone (r : Reads)
  /-- HANDLE_TTL_EXPIRY. PARK_TTL_S passes for a PARKED handle and it is freed as expired. (R272) -/
  | handleTtlExpiry (h : Nat)
  /-- TXN_START. The TXN engine takes a queued transaction and validates, locks and checks it. (R132) -/
  | txnStart (errs : List ReadError)
  /-- TXN_COMMIT. At the commit instant every action applies in index order and takes the next commit number; locks release. (R133) -/
  | txnCommit (slot : Nat) (flags : List W64)
  /-- BASIN_ZERO_DONE. Zeroing of a destroyed basin's pages ends and the basin becomes FREE. (R45) -/
  | basinZeroDone (n : Nat)
  /-- VERSION_RETIRE. A superseded version reaches the later of its last pin's release and RETAIN_S and is retired. (R138) -/
  | versionRetire (uid state : Nat)
  /-- FLR_VF. Function-level reset of VF n halts its basin silently and resets its RING page. (R99) -/
  | flrVf (n : Nat)
  /-- FLR_PF0. Function-level reset of PF0 disables every VF, ends basin 0's requests and resets its RING page and ERRLOG_CFG. (R100) -/
  | flrPf0
  /-- NUMVFS_LOWER. The host lowers NumVFs below n and basin n is halted with no completion or flag written. (R43) -/
  | numvfsLower (n : Nat)
  /-- GATH_COMMAND. A GATH engine takes a gather or merge command from a job and validates it. (R229) -/
  | gathCommand (cmd : Nat)
  /-- GATHER_READ. A gather starts reading rows at the edition in force once no apply of the version runs or waits. (R213) -/
  | gatherRead (cmd : Nat) (errs : List ReadError)
  /-- MERGE_SUM_DONE. A merge finishes validating indices and summing gradients into merge scratch. (R223) -/
  | mergeSumDone (cmd : Nat) (errs : List ReadError)
  /-- MERGE_APPLY. A merge whose earlier merges have left the queue applies its sums to rows and advances the edition. (R224) -/
  | mergeApply (r : Reads)
  /-- BUNDLE. A core issues one 256-bit bundle whose enabled slots read sources and act in the same cycle. (R305) -/
  | bundle (ctx core : Nat) (errs : List ReadError)
  /-- DRAW_LANDS. Every byte of a draw is in the tarn and the frame's PENDING clears. (R301) -/
  | drawLands (ctx core xfer : Nat) (errs : List ReadError) (paths : List PathError)
  /-- RETURN_COMPLETES. Every byte of a return is written and visible at its destination. (R301) -/
  | returnCompletes (ctx core xfer : Nat) (paths : List PathError)
  /-- TILE_OP_START. A queued T-slot operation starts once the unit is free and any drain has passed. (R332) -/
  | tileOpStart (ctx core : Nat)
  /-- TILE_OP_END. A tile or mere-wide operation ends after its occupancy, writing its results. (R333) -/
  | tileOpEnd (ctx : Nat) (r : Reads)
  /-- JOB_ISSUE. A job enters its basin's priority-class job queue. (R351) -/
  | jobIssue (slot : Nat)
  /-- SCHEDULING_TICK. At each tick or when cores free, the scheduler picks a basin, class and job, placing or pre-empting. (R353) -/
  | schedulingTick (mere : Nat) (pick : SchedPick)
  /-- SAVE_DONE. The last core ends writing its save record and the cores are released. (R356) -/
  | saveDone (ctx : Nat)
  /-- CONTEXT_END. A context ends and releases its cores, windows, commands and synchronisation state. (R361) -/
  | contextEnd (ctx : Nat)
  /-- HEARTBEAT. Each 4,096-cycle period a core or die sequencer heartbeat is sent to SYNC. (R350) -/
  | heartbeat (m : Nat) (b : Beat)
  /-- HB_LOST. A core misses MISS consecutive heartbeat periods and is reported to FWP4. (R350) -/
  | hbLost (m core : Nat)
  /-- PREEMPT_STOP_TIMEOUT. A core has not stopped 100 µs after a pre-emption instant and is declared dead. (R403) -/
  | preemptStopTimeout (m core : Nat)
  /-- STALE. A message or write carrying an old epoch reaches its receiver and is discarded. (R404) -/
  | stale (unit : UnitId) (epoch : Nat)
  /-- MERE_HEARTBEAT_LOSS. A mere heartbeat is lost and every core of the mere is declared dead. (R411) -/
  | mereHeartbeatLoss (m : Nat)
  /-- SPARED. FWP4 maps a free spare into a vacated grid position, pre-empting and resuming the mere's contexts. (R408) -/
  | spared (m core grid : Nat)
  /-- MERE_MAP. PF0 names a spare and grid position to map, or the write is ignored with MAP_BAD. (R409) -/
  | mereMap (fn m : Nat) (v : W32)
  /-- MERE_READMIT. Write readmits a reset quarantined core with the current epoch as a free spare. (R407) -/
  | mereReadmit (fn m : Nat) (v : W32)
  /-- RST_CORE. Write resets one core's registers, tarn and accumulators. (R428) -/
  | rstCore (fn : Nat) (v : W32)
  /-- LAYER_LANDED. A layer lands in its weir slot and the weir adds N_CORES to LANDED. (R374) -/
  | layerLanded (pass layer : Nat)
  /-- WEIR_LAYER_WRITE. Once FREED reaches N_CORES the weir writes the next layer into a reused slot. (R374) -/
  | weirLayerWrite (layer : Nat) (r : Reads)
  /-- PREFETCH_DROP. No pass of the version starts within 1 ms and prefetched layers are discarded. (R375) -/
  | prefetchDrop (mere : Nat)
  /-- MODEL_LOAD_START. An on-demand model load starts once its charge fits, evicting idle versions of the basin. (R371) -/
  | modelLoadStart (uid : Nat)
  /-- MODEL_LOAD_DONE. Every frame is held in HBM and the version becomes resident, releasing waiting stages. (R371) -/
  | modelLoadDone (uid : Nat)
  /-- LOAD_FAIL. A frame of a load cannot be read; the load stops and waiting requests end FLASH_UNREADABLE. (R372) -/
  | loadFail (uid frame : Nat)
  /-- WRITE_BACK. A dirty frame is written to its lower tier at a flush point or past the high-water mark. (R378) -/
  | writeBack (row : Bool) (owner unit : Nat)
  /-- HBM_SCRUB. The scrub reads and corrects HBM words, poisoning uncorrectable ones, each HOURS period. (R396) -/
  | hbmScrub (stack : Nat) (found : List WordError)
  /-- PAGE_REMAP. FWP4 copies a failing HBM page to a spare page and redirects every reference. (R397) -/
  | pageRemap (page spare : Nat)
  /-- ERRLOG_RECORD. FWP4 writes an error-log record at ERRLOG_TAIL or counts it lost. (R400) -/
  | errlogRecord
  /-- ERRLOG_CE_MS. The coalescing interval ends and a coalesced record is written with its COUNT. (R401) -/
  | errlogCeMs (kind source : Nat)
  /-- ERRLOG_HEAD. Host writes the next unread record index to the error-log doorbell. (R400) -/
  | errlogHead (fn : Nat) (v : W32)
  /-- WRITE. Load command copies blocks into a basin's namespace write cache. (R385) -/
  | flashWrite (fn : Nat) (r : LoadReads)
  /-- READ. Load command reads namespace sectors into basin 0's blocks. (R385) -/
  | flashRead (fn : Nat) (flags : List W64)
  /-- COPY_IN. Load command copies blocks to a basin address. (R385) -/
  | copyIn (fn : Nat) (r : LoadReads)
  /-- COPY_OUT. Load command copies a basin address range to blocks. (R385) -/
  | copyOut (fn : Nat) (r : LoadReads)
  /-- TRIM. Load command releases namespace sectors so they read as zeros. (R383) -/
  | trim (fn : Nat)
  /-- FLUSH. Load command writes namespace write-cache frames of a basin or all basins to flash. (R379) -/
  | flush (fn : Nat)
  /-- LD_DONE. A running load command ends with its RESULT and BUSY clears. (R385) -/
  | ldDone
  /-- FLASH_DIE_TIMEOUT. A die completes no command within 50 ms after a reset, or reaches 64 program failures, and is declared dead. (R403) -/
  | flashDieTimeout (die : Nat)
  /-- DIE_RELOCATED. FWP2 finishes relocating a fenced die's sectors into over-provisioned space. (R412) -/
  | dieRelocated (die : Nat)
  /-- FLC_DIE_READMIT. Write readmits the selected quarantined die after FWP2 erases it. (R407) -/
  | flcDieReadmit (fn : Nat) (v : W32)
  /-- AUTO_POWER_ENTRY. An idle timer expires and a domain enters S1, S2 or S3 down to its FLOOR. (R415) -/
  | autoPowerEntry (dom : Nat)
  /-- S3_ENTRY. A mere domain goes through the S3 entry steps, abandoned by a wake before step 5. (R418) -/
  | s3Entry (m : Nat)
  /-- DEMAND_WAKE. A job, HBM access or BAR access raises a sleeping domain toward S0. (R416) -/
  | demandWake (dom : Nat)
  /-- DOMAIN_RESUMED. A domain completes its resume time and waiting work proceeds. (R416) -/
  | domainResumed (dom : Nat)
  /-- PWR_DEEP. PF0 requests S4; accepted only with every basin FREE or HALTED and no tag held. (R419) -/
  | pwrDeep (fn : Nat) (v : W32)
  /-- DEEP_ENTRY. After the flush the module removes every rail except Spring and flash. (R420) -/
  | deepEntry
  /-- DEEP_EXIT. A wake source resumes the module from S4 as a device reset with WAKE# driven low. (R420) -/
  | deepExit (src : WakeSource)
  /-- WAKE_FIRE. At a slow tick a wake-table entry fires, waking domains and starting its hold. (R423) -/
  | wakeFire (e : Nat)
  /-- WAKE_HOLD_EXPIRY. HOLD_MS after the target instant the shore and meres are released from S1 or above. (R424) -/
  | wakeHoldExpiry
  /-- WAKE_PIN_END. The 10 ms WAKE# drive of a PIN entry ends. (R424) -/
  | wakePinEnd (e : Nat)
  /-- PIN_IN. WAKE# is held low from outside for at least 1 ms and all domains wake. (R469) -/
  | pinIn
  /-- XTAL_FAIL. The crystal stops and Spring continues from its internal oscillator. (R425) -/
  | xtalFail
  /-- PLL_RELOCK. A mere PLL relock for a new frequency ends after 40 µs and the fast clock restarts. (R426) -/
  | pllRelock (m : Nat)
  /-- POWER_ON_RESET. VIN reaches 46 V, Spring powers up and every block resets. (R428) -/
  | powerOnReset
  /-- PWR_EN_RISE. PWR_EN rises and the rail sequence of power-up starts. (R473) -/
  | pwrEnRise
  /-- RAILS_GOOD. Every rail is in regulation and the module releases PWR_GOOD. (R468) -/
  | railsGood
  /-- PWR_GOOD_RISE. PWR_GOOD reads high and the cold reset is released. (R475) -/
  | pwrGoodRise
  /-- PWR_GOOD_LOW. PWR_GOOD is pulled low or a rail leaves regulation and the module is held in cold reset. (R475) -/
  | pwrGoodLow
  /-- PWR_EN_FALL. PWR_EN falls; every request is lost and the rails are removed into S5. (R474) -/
  | pwrEnFall
  /-- PERST_ASSERT. PERST# is asserted, causing a fundamental reset with the link down. (R428) -/
  | perstAssert
  /-- PERST_DEASSERT. PERST# is deasserted and boot may begin. (R473) -/
  | perstDeassert
  /-- DEVICE_RESET. PF0 writes RST_CTL.DEVICE with KEY 0xA5, resetting the device with the link kept up. (R428) -/
  | deviceReset (fn : Nat) (v : W32)
  /-- BOOT. The boot sequence measures and starts firmware, restores basins and sets READY. (R432) -/
  | boot
  /-- WATCHDOG_EXPIRY. A firmware processor's watchdog expires and its restart begins. (R436) -/
  | watchdogExpiry (n : Nat)
  /-- RESTART. PF0 writes FWP_CTL.RESTART, expiring the processor's watchdog at once. (R436) -/
  | restart (fn n : Nat) (v : W32)
  /-- FWP_RESTART_DONE. A restarted processor is readmitted with the current epoch and its services resume. (R437) -/
  | fwpRestartDone (n : Nat)
  /-- PROT. A firmware access outside its protection unit is refused and the processor stops. (R435) -/
  | prot (n : Nat) (write : Bool) (place : FwPlace) (addr : Nat)
  /-- MEAS_EXT_GO. PF0 extends a host measurement slot with the digest in MEAS_EXT_DATA. (R438) -/
  | measExtGo (fn : Nat) (v : W32)
  /-- FWP_UPD_GO. FWP0 writes a firmware image from basin 0's blocks into the bank that did not boot. (R444) -/
  | fwpUpdGo (fn : Nat) (v : W32) (flags : List W64)
  /-- GET_VERSION. SPDM request for supported versions. (R441) -/
  | getVersion (via : Via) (req : List Byte)
  /-- GET_CAPABILITIES. SPDM request for responder capabilities. (R441) -/
  | getCapabilities (via : Via) (req : List Byte)
  /-- NEGOTIATE_ALGORITHMS. SPDM request selecting P-384 ECDSA and SHA-384. (R441) -/
  | negotiateAlgorithms (via : Via) (req : List Byte)
  /-- GET_DIGESTS. SPDM request for certificate chain digests. (R442) -/
  | getDigests (via : Via) (req : List Byte)
  /-- GET_CERTIFICATE. SPDM request for the slot 0 certificate chain. (R442) -/
  | getCertificate (via : Via) (req : List Byte)
  /-- CHALLENGE. SPDM request for a signed response over a nonce and a measurement summary. (R443) -/
  | challenge (via : Via) (req : List Byte)
  /-- GET_MEASUREMENTS. SPDM request returning measurement slots as DMTF blocks, optionally signed. (R443) -/
  | getMeasurements (via : Via) (req : List Byte)
  /-- SPDM_UNSUPPORTED. Any other SPDM request is answered with ERROR UnsupportedRequest. (R441) -/
  | spdmUnsupported (via : Via) (req : List Byte)
  /-- SET_ENDPOINT_ID. MCTP control message from the bus owner assigning the module's endpoint ID. (R480) -/
  | setEndpointId (req : List Byte)
  /-- MCTP_OTHER. An MCTP message of another type is acknowledged and discarded. (R480) -/
  | mctpOther (req : List Byte)
  /-- SMBUS_TIMEOUT. SMB_CLK stays low 25-35 ms and the module releases the bus and abandons the packet. (R481) -/
  | smbusTimeout
  /-- ALERT_RESPONSE. While ALERT# is low the module answers the SMBus Alert Response Address with its own address. (R478) -/
  | alertResponse
  /-- SENSOR_SWEEP. Every 1 ms the thermal sensors are swept and alert status is set. (R478) -/
  | sensorSweep (r : Sweep)
  /-- THERMAL_TRIP. A die sensor reads 115 °C twice; THERMTRIP# asserts and the rails are removed. (R476) -/
  | thermalTrip (die : Nat)
  /-- TRST. TRST# low or five TCK cycles with TMS high resets the TAP to IDCODE. (R482) -/
  | trst
  /-- IDCODE. TAP instruction selecting the 32-bit identity register. (R482) -/
  | idcode
  /-- SAMPLE_PRELOAD. TAP instruction sampling or preloading the boundary-scan register. (R482) -/
  | samplePreload (bits : List Bool)
  /-- EXTEST. TAP instruction driving contacts from boundary scan, only while PERST# is asserted. (R483) -/
  | extest
  /-- HIGHZ. TAP instruction making scanned contacts high impedance, only while PERST# is asserted. (R483) -/
  | highz
  /-- CLAMP. TAP instruction holding preloaded contact values, only while PERST# is asserted. (R483) -/
  | clamp
  /-- CORE_DEBUG. TAP instruction giving debug access to OFFLINE cores only. (R483) -/
  | coreDebug (m core : Nat) (op : DebugOp)
  /-- BYPASS. TAP instruction selecting the one-bit bypass register. (R482) -/
  | bypass
  /-- POOL_ACCESS_FAIL. A pool access completes with abort, unmapped address or poison, failing or poisoning the access. (R449) -/
  | poolAccessFail (addr event slot : Nat)
  /-- FAB_TMO. A pool access has no completion within FAB_TMO_US and fails with FABRIC_ERROR. (R449) -/
  | fabTmo (addr slot : Nat)
  /-- WB_HELD. A failed hot-row write-back is retried every FAB_TMO_US until it succeeds. (R450) -/
  | wbHeld (addr : Nat) (ok : Bool)
  /-- TRAINING. A training frame exchanges NODE, SYSTEM and epoch; the port comes up or sets ID_CONFLICT. (R452) -/
  | training (port : Nat) (t : Training)
  /-- NDL_HEARTBEAT. A heartbeat frame arrives from a peer and keeps the link alive. (R460) -/
  | ndlHeartbeat (port : Nat) (fr : Frame)
  /-- NDL_WRITE. A WRITE frame writes 192 bytes into a linked set job's DBUF window. (R459) -/
  | ndlWrite (port : Nat) (fr : Frame)
  /-- SEM. A SEM frame carries a wait, signal or grant on a set semaphore at the home node. (R457) -/
  | sem (port : Nat) (fr : Frame)
  /-- NDL_BAR. A BAR frame carries a barrier arrival to the home or a release to a member. (R458) -/
  | ndlBar (port : Nat) (fr : Frame)
  /-- NDL_SET. A SET frame carries join, start, pre-empt, resume or end of a linked set. (R455) -/
  | ndlSet (port : Nat) (fr : Frame)
  /-- ROUTE. A ROUTE notice arrives and every module recomputes shortest routes. (R453) -/
  | route (port : Nat) (fr : Frame)
  /-- CRC_REPLAY. A frame whose CRC fails is replayed from its SEQ by the sending port. (R454) -/
  | crcReplay (port seq : Nat)
  /-- NDL_HB_MISS. MISS heartbeat periods pass with no frame and the port declares its peer dead. (R460) -/
  | ndlHbMiss (port : Nat)
  /-- LINK_DOWN_TIMEOUT. The link stays down longer than DOWN_MS and the peer is declared dead. (R460) -/
  | linkDownTimeout (port : Nat)
  /-- RETRAIN. NDL_CTL.RETRAIN makes FWP5 train the port again. (R451) -/
  | retrain (fn port : Nat) (v : W32)
  /-- READMIT. NDL_CTL.READMIT from PF0 readmits a fenced peer after retraining. (R462) -/
  | readmit (fn port : Nat) (v : W32)
  /-- VF_ENABLE. The host sets VF Enable or raises NumVFs so that VF n becomes enabled. (R42) -/
  | vfEnable (n : Nat) (ari : Bool) (masks : List (Nat × Nat × Bool))
  /-- LINK_EXIT_FROM_L1. The host starts the PCIe link's exit from L1.1 or L1.2, which wakes the shore from S2. (R422) -/
  | linkExitFromL1
  /-- LINK_ENTERS_L1. Every function's PCIe link reaches L1.1 or L1.2, which lets the shore enter S2. (R415) -/
  | linkEntersL1
  /-- LINK_REACHES_L0. The PCIe link reaches L0 after a resume from S4, and the module stops driving WAKE# low. (R421) -/
  | linkReachesL0
  /-- FAB_LINK_DOWN. A CXL pool port's link goes down, setting FAB LINK_DOWN and making pool accesses wait for retraining or FAB_TMO_US. (R449) -/
  | fabLinkDown (q : Nat)
  /-- FAB_LINK_RETRAINED. A CXL pool port that lost link is retrained automatically, and waiting pool accesses proceed. (R450) -/
  | fabLinkRetrained (q : Nat)
  /-- DEVICE_EVENT_RECORD. A CXL type-3 device reports an event record, which FWP5 reads over CXL.io and counts in FAB_DEV_EVENTS. (R450) -/
  | deviceEventRecord (q : Nat)
  /-- NDL_LINK_DOWN. An Ndelar port's link goes down, setting LINK_DOWN and starting the DOWN_MS interval. (R460) -/
  | ndlLinkDown (port : Nat)
  /-- LOCK_LOST. A PLL loses lock and relocks, setting CLK BLK_STAT.LOCK_LOST and counting in CLK_RELOCKS. (R426) -/
  | lockLost (clk : Nat)
  /-- VIN_REMOVED. VIN is removed, losing the SPR registers, SPR_NOW and the Spring-held RST registers. (R474) -/
  | vinRemoved
  /-- PWR_EN_RISE_ACTS. A PWR_EN rise that came less than 50 ms after a fall, or during power-down, takes effect once both the 50 ms and the power-down have ended. (R475) -/
  | pwrEnRiseActs
  /-- FWP_UPD_DONE. A firmware image write started by FWP_UPD_GO ends, clearing BUSY and reporting RESULT in FWP_UPD_STAT. (R444) -/
  | fwpUpdDone
  /-- PATROL. While FLC BLK_CTL.PATROL is set, FWP2 reads every written sector at least once a week and relocates those that need retries or rebuild. (R381) -/
  | patrol (basin sector : Nat) (r : FlashRead)
  /-- PROG_FAIL. A flash page program fails, is rewritten elsewhere, sets FLCH PROG_FAIL and counts toward the 64 failures that declare the die. (R403) -/
  | progFail (die page : Nat)
  deriving DecidableEq, Repr

end Sys2Proof
end

