-- ==== Sys2Proof/Machine/Aes.lean ====
section
/-! DEFINITION. AES-256 and its XTS mode, which R54 names for the flash namespaces. The S-box is computed from what it is: the
inverse in the field of 256 elements, and an affine map. -/

namespace Sys2Proof.Machine.Aes

/-- Product with x, modulo x⁸ + x⁴ + x³ + x + 1. -/
def dbl (a : Byte) : Byte := (a <<< 1) ^^^ (if a.getLsbD 7 then 0x1B else 0)

/-- Product in the field of 256 elements. -/
def mul (a b : Byte) : Byte := (List.range 8).foldr (fun i p => dbl p ^^^ (if b.getLsbD i then a else 0)) 0

/-- The inverse: the power 254; zero for zero. -/
def inv (a : Byte) : Byte :=
  let sq := fun (x : Byte) => mul x x
  ((List.range 7).foldl (fun (acc : Byte × Byte) _ => (mul acc.1 (sq acc.2), sq acc.2)) (1, a)).1

def subByte (a : Byte) : Byte :=
  let b := inv a
  b ^^^ b.rotateLeft 1 ^^^ b.rotateLeft 2 ^^^ b.rotateLeft 3 ^^^ b.rotateLeft 4 ^^^ 0x63

def xorL (a b : List Byte) : List Byte := List.zipWith (· ^^^ ·) a b

/-- Round constants of the first seven rounds of the key schedule. -/
def rcon (i : Nat) : Byte := (List.range i).foldl (fun a _ => dbl a) 1

/-- Word i of the expanded key, from the words before it (newest first). -/
def nextWord (i : Nat) (ws : List (List Byte)) : List Byte :=
  let prev := ws.headD []
  let t := if i % 8 = 0 then xorL ((prev.drop 1 ++ prev.take 1).map subByte) [rcon (i / 8 - 1), 0, 0, 0]
    else if i % 8 = 4 then prev.map subByte
    else prev
  xorL (ws.getD 7 []) t

/-- The 15 round keys of a key of 32 bytes. -/
def roundKeys (key : List Byte) : List (List Byte) :=
  let first := (List.range 8).map (fun i => (key.drop (4 * i)).take 4)
  let ws := ((List.range 52).foldl (fun ws i => nextWord (i + 8) ws :: ws) first.reverse).reverse
  (List.range 15).map (fun r => ((ws.drop (4 * r)).take 4).flatten)

/-- Byte r + 4 × c of the block moves to column c − r. -/
def shiftRows (s : List Byte) : List Byte :=
  (List.range 16).map (fun i => s.getD ((i + 4 * (i % 4)) % 16) 0)

def mixColumn (c : List Byte) : List Byte :=
  (List.range 4).map (fun i =>
    let at' := fun (k : Nat) => c.getD ((i + k) % 4) 0
    dbl (at' 0) ^^^ dbl (at' 1) ^^^ at' 1 ^^^ at' 2 ^^^ at' 3)

def mixColumns (s : List Byte) : List Byte :=
  (List.range 4).flatMap (fun c => mixColumn ((s.drop (4 * c)).take 4))

/-- One block of 16 bytes under the round keys. -/
def encryptBlock (rk : List (List Byte)) (block : List Byte) : List Byte :=
  let s := (List.range 13).foldl (fun s r => xorL (mixColumns (shiftRows (s.map subByte))) (rk.getD (r + 1) [])) (xorL block (rk.headD []))
  xorL (shiftRows (s.map subByte)) (rk.getD 14 [])

/-- Product of a tweak with x, modulo x¹²⁸ + x⁷ + x² + x + 1. -/
def nextTweak (t : List Byte) : List Byte :=
  let v := leNat t
  natLe 16 ((2 * v) % 2 ^ 128 ^^^ (if v / 2 ^ 127 % 2 = 1 then 0x87 else 0))

/-- Blocks of a data unit from a tweak on. -/
def xtsBlocks (rk : List (List Byte)) : Nat → List Byte → List Byte → List Byte
  | 0, _, _ => []
  | n + 1, t, bs => xorL (encryptBlock rk (xorL (bs.take 16) t)) t ++ xtsBlocks rk n (nextTweak t) (bs.drop 16)

/-- A data unit of whole blocks under the key pair of XTS, its number the tweak. -/
def xts (key : BitVec 512) (unit : Nat) (bs : List Byte) : List Byte :=
  let half := fun (k : Nat) => roundKeys (natLe 32 (key.toNat / 2 ^ (256 * k)))
  xtsBlocks (half 0) (bs.length / 16) (encryptBlock (half 1) (natLe 16 unit)) bs

end Sys2Proof.Machine.Aes
end

