-- ==== Sys2Proof/Machine/Sha.lean ====
section
/-! DEFINITION. SHA-384, which chapters 10, 12 and 19 name for vocabulary digests and measurements. Its constants are
computed from what they are: the first 64 fractional bits of cube and square roots of primes. -/

namespace Sys2Proof.Machine.Sha

/-- The primes below 410, of which there are 80. -/
def primes : List Nat :=
  (List.range 410).filter (fun n => decide (2 ≤ n) && [2, 3, 5, 7, 11, 13, 17, 19].all (fun q => decide (n = q ∨ n % q ≠ 0)))

/-- The largest number below 2^69 whose power `k` is at most `n`, bit by bit. -/
def root (k n : Nat) : Nat :=
  (List.range 69).foldr (fun bit r => if (r + 2 ^ bit) ^ k ≤ n then r + 2 ^ bit else r) 0

/-- The first 64 bits of the fractional part of the `k`-th root of a prime. -/
def rootBits (k p : Nat) : W64 := BitVec.ofNat 64 (root k (p * 2 ^ (64 * k)))

/-- The constants of the 80 rounds. -/
def roundWords : List W64 := primes.map (rootBits 3)

/-- The initial hash of SHA-384: from the ninth to the sixteenth prime. -/
def start : List W64 := ((primes.drop 8).take 8).map (rootBits 2)

/-- The sum modulo 2 of rotations of a word. -/
def rotSum (x : W64) (ns : List Nat) : W64 := ns.foldl (fun acc n => acc ^^^ x.rotateRight n) 0

/-- The next word of the message schedule, from the sixteen before it. -/
def nextWord (w : List W64) : W64 :=
  match w with
  | p :: q :: rest =>
    let u := rest.getD 12 0
    p + rest.getD 7 0 + (rotSum q [1, 8] ^^^ q >>> 7) + (rotSum u [19, 61] ^^^ u >>> 6)
  | _ => 0

/-- One round on the eight working words, with its constant and its message word added together. -/
def stir (v : List W64) (km : W64) : List W64 :=
  match v with
  | [a, b, c, d, e, f, g, h] =>
    let pick := g ^^^ (e &&& (f ^^^ g))
    let both := (a &&& b) ||| (c &&& (a ||| b))
    let t := km + pick + rotSum e [14, 18, 41] + h
    [t + both + rotSum a [28, 34, 39], a, b, c, t + d, e, f, g]
  | _ => v

/-- Rounds over a list of constants; the window of sixteen message words moves on by one each round. -/
def rounds : List W64 → List W64 → List W64 → List W64
  | [], _, v => v
  | k :: ks, w, v => rounds ks (w.drop 1 ++ [nextWord w]) (stir v (k + w.headD 0))

/-- The number that bytes spell with the most significant byte first. -/
def beNat (bs : List Byte) : Nat := bs.foldl (fun n b => n * 256 + b.toNat) 0

/-- The sixteen words of a 128-byte block. -/
def blockWords (bs : List Byte) : List W64 :=
  (List.range 16).map (fun i => BitVec.ofNat 64 (beNat ((bs.drop (8 * i)).take 8)))

/-- Blocks taken into the hash, one after the other. -/
def absorb : Nat → List W64 → List Byte → List W64
  | 0, v, _ => v
  | n + 1, v, bs => absorb n (List.zipWith (· + ·) v (rounds roundWords (blockWords bs) v)) (bs.drop 128)

/-- The bytes of a number, most significant first. -/
def beBytes (n v : Nat) : List Byte := (natLe n v).reverse

/-- What follows the message: a one bit, zeros up to 16 bytes before the end of a block, and the length in bits. -/
def tail (len : Nat) : List Byte := 0x80 :: List.replicate ((239 - len % 128) % 128) 0 ++ beBytes 16 (len * 8)

/-- The 48 bytes of a SHA-384 digest. -/
def sha384 (bs : List Byte) : List Byte :=
  ((absorb ((bs.length + 144) / 128) start (bs ++ tail bs.length)).take 6).flatMap (fun w => beBytes 8 w.toNat)

/-- A digest as a 384-bit value, byte 0 least significant (R5). -/
def digest (bs : List Byte) : BitVec 384 := BitVec.ofNat 384 (leNat (sha384 bs))

end Sys2Proof.Machine.Sha
end

