-- ==== Sys2Proof/Config.lean ====
section
/-! DEFINITION. What the spec leaves open, as opaque constants with no body (free values), and the fixed figures. -/

namespace Sys2Proof.Config

/-- Which of the FP32 values within 2 ulp the exponent unit returns for an input (R199, R310). -/
opaque expPick : W32 → Nat
/-- Which of the FP32 values within 2 ulp VRCP returns (R310). -/
opaque rcpPick : W32 → Nat
/-- Which of the FP32 values within 2 ulp VRSQ returns (R310). -/
opaque rsqPick : W32 → Nat
/-- Minimum or maximum of a NaN and a number, or of zeros of both signs (operand bits): whether the number, or the first zero,
is taken; the spec states no result. -/
opaque minMaxPick : Bool → Nat → Nat → Bool
/-- Bits [63:32] of the x register that a vector reduction writes, by element type and result: the spec states none. -/
opaque redHigh : Nat → W32 → W32
/-- VMVX of an element number past the register's last element: the spec states no result. -/
opaque elemOpen : Nat → Nat → Nat
/-- A widening VCVT of a part that lies past the source register: the spec states no result. -/
opaque cvtOpen : Nat → BitVec 1024 → BitVec 1024
/-- Which E5M2 NaN pattern a NaN converts to (six patterns): the spec states none. -/
opaque e5m2NanPick : Nat → Nat

/-- Logit of a token after a stream's tokens, under a model version (basin, slot, version number): R257 says it is
fixed by these, and no rule gives the arithmetic of a model. -/
opaque logit : Nat → Nat → Nat → List Nat → Nat → W32
/-- Encoder output element for input tokens (R24). -/
opaque encode : Nat → Nat → Nat → List Nat → Nat → W32
/-- Cross-encoder score of question tokens and passage tokens (R18). -/
opaque crossScore : Nat → Nat → Nat → List Nat → List Nat → W32
/-- Score that a speculative head gives a token after a stream (R290). -/
opaque headScore : Nat → Nat → Nat → List Nat → Nat → Nat → Nat
/-- Proposal of a speculative head after a stream (R265 leaves the choice open). -/
opaque proposal : Nat → Nat → Nat → List Nat → Nat → Nat
/-- Cores of a job that a pipeline unit issues for a request slot (no rule describes the job-image set). -/
opaque pipeCores : Nat → Nat
/-- GATH engine that serves a request, by command (R220: the division affects time only). -/
opaque gathUnit : Nat → Nat
/-- Engine that serves a part of a table request's command (R220, R231): command, list position or place of the row. -/
opaque gathPart : Nat → Nat → Nat
/-- Record slot at which the search for a free handle record begins, by draw (R270 gives no order). -/
opaque handleSlot : Nat → Nat
/-- Grammar-cache lines fetched for a draw (chapter 12 gives the counter, not which lines a step reads). -/
opaque gramMisses : Nat → Nat
/-- Pool pages that a parked store of some HBM pages takes (R275 gives no ratio), by handle. -/
opaque parkedPages : Nat → Nat → Nat
/-- Pages of basin address, from JOB_ADDR on, that describe a model's job-image set (R253: the set's own arrangement defines
them). -/
opaque jobSetPages : Nat → List Nat
/-- Basin addresses of the job images that the bytes of those pages name (R253). -/
opaque jobSetImages : Nat → List Byte → List Nat
/-- Random numbers of the module, by draw: flash keys (R55), nonces. -/
opaque rng : Nat → BitVec 256
/-- Boot ROM digest, fused (Table 19-7). -/
opaque romDigest : BitVec 384
/-- Digest of the fuse configuration: stepping, lock fuses, identity public key digest (Table 19-7). -/
opaque fuseDigest : BitVec 384
/-- Digest of the firmware configuration for a boot bank, with the fuse lock state (Table 19-7). -/
opaque bootConfigDigest : Nat → BitVec 384
/-- The certificates of slot 0 (R442): Viborath's root, the Lorus device CA, and the device certificate, which carries the
identity public key, the serial number and the stepping. -/
opaque certRoot : List Byte
opaque certCa : List Byte
opaque certDevice : List Byte → List Byte → List Byte → List Byte
opaque identityKey : List Byte
opaque serialNumber : List Byte
/-- Version numbers that the MCTP endpoint reports, by message type: no rule gives them. -/
opaque mctpVersions : Nat → List Byte
/-- Level of a contact that the module does not drive and no command sets, by draw: SMBus lines, CLKREQ#, address straps. -/
opaque contact : Nat → Bool
/-- HBM page that the module gives out for its own use, by draw: weights, key-value stores. -/
opaque devicePage : Nat → Nat
/-- Whether a layer's write into a slot waited for FREED, by draw: the job images of a pass decide it. -/
opaque freedWaited : Nat → Bool
/-- Bundles that a core under debug has executed from its resumption to its halt, by draw. -/
opaque debugRan : Nat → Nat
/-- ECDSA P-384 signature by the identity key (R442). -/
opaque sign : List Byte → List Byte
/-- CTExponent of the SPDM CAPABILITIES response, and its transfer and message sizes: no rule gives them. -/
opaque spdmCt : Byte
opaque spdmSize : Nat
/-- Capacity of the type-3 device on pool port q [GiB], 0 where none is attached, and a number that picks its link's width and rate: the
board's own. -/
opaque poolGib : Nat → BitVec 24
opaque poolLink : Nat → Nat
/-- Whether a pool port that lost link needs a device reset at its retraining (R469): the device's own. -/
opaque retrainResets : Nat → Bool
/-- Place that a record of the error log gives for a word whose own place is internal (R398): a word of a shore block, by byte of
the windows; of a request's tag state, of a node-cache record, of a context's save record. -/
opaque wordPlace : Nat → Nat → Nat
/-- Stack that holds a page of the firmware reserve, and the index of a word of it in its stack's capacity: internal (R485). -/
opaque reserveStack : Nat → Nat
opaque reserveWord : Nat → BitVec 31
/-- Page of the firmware reserve that holds a shore block, by basin and block: internal (R485). -/
opaque windowPlace : Nat → Nat → Nat
/-- Content read through BAR2 from a block that the module holds has no defined value (R80). -/
opaque heldByte : Nat → Byte
/-- Whether a BASIN_OP whose completion was not written at a device reset is kept (R429). -/
opaque keepUnwritten : Nat → Bool

/-- Cycles for which a mere-wide operation held the array that stopped at the end of its current group (R361), by operation. -/
opaque stoppedCycles : Nat → Nat

/-- Cycles of the shore clock in a microsecond (R4: 800 MHz). -/
def cyclesPerUs : Nat := 800
/-- Where FWP2 programs a sector anew, by draw: the flash mapping is its own. -/
opaque freshSector : Nat → Nat
/-- Registers that count raw traffic, occupancy or sensor readings whose grain no rule gives: value read, by BAR0 offset
and draw. -/
opaque meter : Nat → Nat → W32

/-- Spare blocks that remain after a program [% of initial], by draw: no rule gives how a program wears the flash. -/
opaque sparePct : Nat → Nat
/-- How many texts of a re-rank had been fetched and cut when its deadline fell or it stopped, by draw: timing decides. -/
opaque textsCut : Nat → Nat
/-- Units of 64 KiB of the die-buffer window of a job that a pipeline unit issues for a request slot (as pipeCores). -/
opaque pipeDbuf : Nat → Nat
/-- Bytes of the job pool that a spilled semaphore or group takes, and that a row of merge scratch takes: R377 names them and
gives no size. -/
opaque spillBytes : Nat → Nat
opaque scratchBytes : Nat → Nat
/-- Which member that has not applied RIPPLE_LAGGARD names, by draw: R111 leaves the choice open. -/
opaque laggardPick : Nat → Nat

/-- Module totals of Table 2-4. -/
def totalHbm : Nat := 2752512
def totalFlash : Nat := 13312
def totalTags : Nat := 1048576
def totalWalk : Nat := 1024

end Sys2Proof.Config
end

