-- ==== Sys2Proof/Machine/RegMap.lean ====
section
/-! DEFINITION. The BAR0 map (R101) and every register of every page: offset, access code and markers (R8), reset value. -/

namespace Sys2Proof.Machine

/-- The block types of Table 4-1. -/
inductive Blk where
  | glb | ripple | txn | spr | pwr | clk | rst | meas | fwp | errlog | therm | hif | ring | bsn
  | walk | sort | tok | gram | gen | pack | flc | flch | fab | ndl
  | mere | hbm | gath | msort | sync | weir | dbuf | core
  deriving DecidableEq, Repr

/-- One row of a register table. Each access code of Table 0-5 is a mask of the register's bits; a bit in no mask
is RO or reserved. `tmr` lists the fields (high bit, low bit) marked TMR. -/
structure RegDef where
  off : Nat
  reset : Nat := 0
  rw : Nat := 0
  rws : Nat := 0
  w1c : Nat := 0
  wo : Nat := 0
  oneway : Nat := 0
  tmr : List (Nat × Nat) := []
  n : Nat := 1
  stride : Nat := 4
  deriving DecidableEq, Repr

/-- All 32 bits. -/
def allBits : Nat := 0xFFFFFFFF

/-- An RO register. -/
def ro (off : Nat) (reset : Nat := 0) (n : Nat := 1) (stride : Nat := 4) : RegDef :=
  ⟨off, reset, 0, 0, 0, 0, 0, [], n, stride⟩

def rwReg (off mask : Nat) (reset : Nat := 0) : RegDef := { off := off, reset := reset, rw := mask }
def rwsReg (off mask : Nat) (reset : Nat := 0) (tmr : List (Nat × Nat) := []) : RegDef :=
  { off := off, reset := reset, rws := mask, tmr := tmr }
def woReg (off mask : Nat) : RegDef := { off := off, wo := mask }

/-- Base of mere m's region (R101). -/
def mereBase (m : Nat) : Nat := 0x100000 + m * 0x400000

/-- The page number (offset ÷ 0x1000) of a block's page (Table 4-1). HBM instance 3m + h; CORE instance 264m + c. -/
def pageNo : Blk → Nat → Nat
  | .glb, _ => 0
  | .ripple, _ => 1
  | .txn, _ => 2
  | .spr, _ => 3
  | .pwr, _ => 4
  | .clk, _ => 5
  | .rst, _ => 6
  | .meas, _ => 7
  | .fwp, n => 8 + n
  | .errlog, _ => 0xE
  | .therm, _ => 0xF
  | .hif, _ => 0x10
  | .ring, b => 0x20 + b
  | .bsn, b => 0x60 + b
  | .walk, _ => 0xA0
  | .sort, _ => 0xA1
  | .tok, _ => 0xA2
  | .gram, _ => 0xA3
  | .gen, _ => 0xA4
  | .pack, _ => 0xA5
  | .flc, _ => 0xB0
  | .flch, c => 0xB1 + c
  | .fab, q => 0xD1 + q
  | .ndl, p => 0xD3 + p
  | .mere, m => 0x100 + m * 0x400
  | .hbm, i => 0x100 + (i / 3) * 0x400 + 1 + i % 3
  | .gath, m => 0x100 + m * 0x400 + 4
  | .msort, m => 0x100 + m * 0x400 + 5
  | .sync, m => 0x100 + m * 0x400 + 6
  | .weir, m => 0x100 + m * 0x400 + 7
  | .dbuf, m => 0x100 + m * 0x400 + 8
  | .core, i => 0x100 + (i / 264) * 0x400 + 0x100 + i % 264

/-- The block and instance of a page number; none where BAR0 is unmapped (R101). -/
def pageOf (p : Nat) : Option (Blk × Nat) :=
  if p < 8 then
    some ([Blk.glb, .ripple, .txn, .spr, .pwr, .clk, .rst, .meas].getD p .glb, 0)
  else if p < 0xE then some (.fwp, p - 8)
  else if p = 0xE then some (.errlog, 0)
  else if p = 0xF then some (.therm, 0)
  else if p = 0x10 then some (.hif, 0)
  else if 0x20 ≤ p ∧ p < 0x60 then some (.ring, p - 0x20)
  else if 0x60 ≤ p ∧ p < 0xA0 then some (.bsn, p - 0x60)
  else if 0xA0 ≤ p ∧ p < 0xA6 then
    some ([Blk.walk, .sort, .tok, .gram, .gen, .pack].getD (p - 0xA0) .walk, 0)
  else if p = 0xB0 then some (.flc, 0)
  else if 0xB1 ≤ p ∧ p < 0xD1 then some (.flch, p - 0xB1)
  else if 0xD1 ≤ p ∧ p < 0xD3 then some (.fab, p - 0xD1)
  else if 0xD3 ≤ p ∧ p < 0xDB then some (.ndl, p - 0xD3)
  else if 0x100 ≤ p ∧ p < 0x1100 then
    let m := (p - 0x100) / 0x400
    let k := (p - 0x100) % 0x400
    if k = 0 then some (.mere, m)
    else if k < 4 then some (.hbm, 3 * m + (k - 1))
    else if k < 9 then some ([Blk.gath, .msort, .sync, .weir, .dbuf].getD (k - 4) .gath, m)
    else if 0x100 ≤ k ∧ k < 0x208 then some (.core, 264 * m + (k - 0x100))
    else none
  else none

/-- Type code of BLK_ID (Table 4-1). -/
def Blk.type : Blk → Nat
  | .glb => 1 | .ripple => 2 | .txn => 3 | .spr => 4 | .pwr => 5 | .clk => 6 | .rst => 7 | .meas => 8
  | .fwp => 9 | .errlog => 0xA | .therm => 0xB | .hif => 0x10 | .ring => 0x11 | .bsn => 0x12
  | .walk => 0x20 | .sort => 0x21 | .tok => 0x22 | .gram => 0x23 | .gen => 0x24 | .pack => 0x25
  | .flc => 0x30 | .flch => 0x31 | .fab => 0x40 | .ndl => 0x41
  | .mere => 0x50 | .hbm => 0x51 | .gath => 0x52 | .msort => 0x53 | .sync => 0x54 | .weir => 0x55
  | .dbuf => 0x56 | .core => 0x57

/-- The mere of a block inside a mere region (R103), else 0. -/
def Blk.mereOf : Blk → Nat → Nat
  | .mere, m => m | .hbm, i => i / 3 | .gath, m => m | .msort, m => m | .sync, m => m
  | .weir, m => m | .dbuf, m => m | .core, i => i / 264 | _, _ => 0

/-- Bits [23:0] of BLK_CAP, from each block's chapter. DESIGN CHOICE (log 12): zero in the GLB, RIPPLE, TXN, RST,
HIF, RING and BSN pages, whose chapters give no BLK_CAP. -/
def Blk.capLow : Blk → Nat → Nat
  | .walk, _ => 0x308400 | .sort, _ => 0x100810 | .msort, _ => 0x100810 | .gath, _ => 0x101000
  | .tok, _ => 0x4012 | .pack, _ => 0x20 | .gen, _ => 0x60F00 | .gram, _ => 0x48014
  | .core, _ => 0x12060 | .mere, _ => 0x21008 | .sync, _ => 0x4080C | .weir, _ => 0x1C
  | .dbuf, _ => 0x120 | .hbm, _ => 0x2410 | .flc, _ => 0x100820 | .flch, _ => 0x1008
  | .errlog, _ => 0x40 | .spr, _ => 0x20 | .pwr, _ => 0x34 | .clk, _ => 0x3E8
  | .fwp, n => if n = 0 then 0x400 else 0x200
  | .meas, _ => 0xC10 | .fab, _ => 0x1010 | .ndl, _ => 0x1C08 | .therm, _ => 0x7348
  | _, _ => 0

/-- BLK_CAP (R103): the mere in [31:30], bit 8 of a core number in bit 29. -/
def Blk.cap (k : Blk) (i : Nat) : Nat :=
  (k.mereOf i) * 2 ^ 30 + (if k = .core ∧ 256 ≤ i % 264 then 2 ^ 29 else 0) + k.capLow i

/-- BLK_ID (R103). -/
def Blk.id (k : Blk) (i : Nat) : Nat :=
  k.type * 65536 + ((if k = .core then i % 264 else i) % 256) * 256 + 0xB0

/-- Fields of BLK_CTL: (mask, reset); every other page's BLK_CTL reads zero. -/
def Blk.ctl : Blk → Nat × Nat
  | .walk => (7, 1) | .sort => (1, 1) | .msort => (1, 1) | .gath => (3, 3) | .tok => (1, 1)
  | .gen => (3, 3) | .gram => (3, 3) | .core => (1, 0) | .mere => (1, 1) | .weir => (1, 1)
  | .flc => (1, 1) | .therm => (0x1FFFF, 0x12D64)
  | _ => (0, 0)

/-- The W1C bits of BLK_STAT that each chapter defines. -/
def Blk.statMask : Blk → Nat
  | .glb => 0 | .ripple => 3 | .txn => 1 | .spr => 0xF | .pwr => 3 | .clk => 3 | .rst => 0 | .meas => 3
  | .fwp => 7 | .errlog => 7 | .therm => 0xF | .hif => 0 | .ring => 0xF | .bsn => 1
  | .walk => 0x1F | .sort => 7 | .msort => 7 | .tok => 0xF | .gram => 7 | .gen => 0x1F | .pack => 7
  | .flc => 0x3F | .flch => 7 | .fab => 0x1F | .ndl => 0x1F
  | .mere => 7 | .hbm => 0xF | .gath => 0xF | .sync => 7 | .weir => 7 | .dbuf => 3 | .core => 7

/-- Pages whose BLK_IRQ_ROUTE.HOST resets to 1 (R122). -/
def Blk.hostRoute : Blk → Bool
  | .errlog | .therm | .fwp | .ripple | .ring | .bsn => true
  | _ => false

/-- Pages that serve one basin or one core, so that BLK_BASIN.SHARED reads 0. -/
def Blk.shared : Blk → Bool
  | .ring | .bsn | .core => false
  | _ => true

/-- The block-specific registers at 0x100–0x7FF. -/
def Blk.own : Blk → List RegDef
  | .glb => [ro 0x100 0 4]
  | .ripple =>
    [woReg 0x100 0xFFFF, ro 0x104 0xFFFF, ro 0x108, ro 0x10C, rwReg 0x110 0xFFFFFF 0x2710, ro 0x114,
     { off := 0x118, w1c := 0xFFFF }, ro 0x140 0 16, ro 0x180 0 16]
  | .txn => [ro 0x100 0 11]
  | .spr =>
    [ro 0x100, ro 0x104, { off := 0x108, w1c := allBits }, ro 0x10C, rwsReg 0x110 0xFFFF 1000 [(15, 0)],
     { off := 0x200, rws := allBits, tmr := [(31, 0)], n := 32, stride := 16 },
     { off := 0x204, rws := 0xFFFF, tmr := [(15, 0)], n := 32, stride := 16 },
     { off := 0x208, rws := allBits, tmr := [(31, 0)], n := 32, stride := 16 },
     { off := 0x20C, rws := 0x7FFFFFFF, tmr := [(23, 0), (24, 24), (28, 25), (29, 29), (30, 30)], n := 32, stride := 16 }]
  | .pwr =>
    [{ off := 0x100, reset := 0x640A0802, rws := 0xFFFFFF03, tmr := [(1, 0), (15, 8), (23, 16), (31, 24)], n := 4 },
     rwsReg 0x110 0x00FFFF03 0x000A0801 [(1, 0), (15, 8), (23, 16)],
     woReg 0x114 1, ro 0x118 0 5]
  | .clk =>
    [{ off := 0x100, reset := 1000, rws := 0x7FF, tmr := [(10, 0)], n := 4 }, ro 0x110, ro 0x114]
  | .rst =>
    [woReg 0x100 0xFF01, ro 0x104 1, ro 0x108, { off := 0x10C, rw := 1, tmr := [(0, 0)] },
     woReg 0x110 0x800007FF, ro 0x114]
  | .meas =>
    [rwReg 0x100 0xF, rwReg 0x104 0xFFF, woReg 0x108 0x8000000F, ro 0x10C 0 3, ro 0x140 0 12,
     { off := 0x180, rw := allBits, n := 12 }, ro 0x200 0 32]
  | .fwp =>
    [ro 0x100, { off := 0x104, tmr := [(15, 0)] }, woReg 0x108 1, rwsReg 0x10C 0xFFFF 250 [(15, 0)],
     ro 0x110, ro 0x114, rwReg 0x200 0x3FF, rwReg 0x204 allBits, rwReg 0x208 0x17, woReg 0x20C 1, ro 0x210]
  | .errlog =>
    [rwsReg 0x100 0x801F03FF, rwReg 0x104 0x3FFF, ro 0x108 0x10000, ro 0x10C, rwReg 0x110 0xFFFF 1000,
     ro 0x114, ro 0x118]
  | .therm => [ro 0x100 0 7, rwReg 0x11C 0xFF, ro 0x120]
  | .hif => []
  | .ring =>
    [woReg 0x100 1, rwReg 0x104 allBits, rwsReg 0x108 0xFFFFF000, rwsReg 0x10C allBits, ro 0x110, ro 0x114,
     { off := 0x200, rws := 0xFFFFF000, n := 16, stride := 0x20 },
     { off := 0x204, rws := allBits, n := 16, stride := 0x20 },
     { off := 0x208, rws := 0xF1F, n := 16, stride := 0x20 },
     { off := 0x20C, rw := 0xFFFF, n := 16, stride := 0x20 },
     ro 0x210 0 16 0x20,
     { off := 0x400, rws := 0xFFFFF000, n := 16, stride := 0x20 },
     { off := 0x404, rws := allBits, n := 16, stride := 0x20 },
     { off := 0x408, rws := 0xFFFF1F1F, n := 16, stride := 0x20 },
     { off := 0x40C, rw := 0xFFFF, n := 16, stride := 0x20 },
     ro 0x410 0x10000 16 0x20]
  | .bsn =>
    [ro 0x100, { off := 0x104, tmr := [(0, 0), (1, 1), (2, 2), (3, 3)] }, { off := 0x108, tmr := [(12, 0)] },
     { off := 0x110, tmr := [(31, 18)] }, { off := 0x114, tmr := [(31, 0)] }, { off := 0x118, tmr := [(5, 0), (31, 31)] },
     { off := 0x120, tmr := [(31, 0)], n := 5 }, ro 0x140 0 5, ro 0x160 0 3]
  | .walk => [ro 0x100 0 13]
  | .sort | .msort => [ro 0x100 0 8]
  | .gath => [ro 0x100 0 10]
  | .tok => [ro 0x100 0 7]
  | .pack => [ro 0x100 0 5]
  | .gen => [ro 0x100 0 10]
  | .gram => [ro 0x100 0 7]
  | .core => [ro 0x100, { off := 0x104, tmr := [(7, 0), (31, 31)] }, { off := 0x108, tmr := [(15, 0)] }, ro 0x10C 0 7]
  | .mere =>
    [ro 0x100 0 4, ro 0x200 0x80000008, woReg 0x204 0x800001FF, rwsReg 0x208 1 1, ro 0x20C, ro 0x210,
     woReg 0x214 0x80FF01FF]
  | .sync => [rwsReg 0x100 0x1FFFF 0x10A0A, rwsReg 0x104 0xF 4, ro 0x108 0 9]
  | .weir => [ro 0x100 0 7]
  | .dbuf => [rwsReg 0x100 0x1F1F 0x810, ro 0x104 0 3]
  | .hbm => [ro 0x100 0 3, rwsReg 0x200 0xFF00FF 0x80018, ro 0x204 0 3, ro 0x210 256, ro 0x214]
  | .flc =>
    [rwReg 0x100 0x3F0F, rwReg 0x104 0x3FF, rwReg 0x108 allBits, rwReg 0x10C allBits, rwReg 0x110 allBits,
     woReg 0x114 1, ro 0x118, ro 0x11C, ro 0x120, ro 0x124, ro 0x128, ro 0x12C 100, rwReg 0x130 allBits 10,
     ro 0x134, ro 0x138, ro 0x13C, rwReg 0x140 0xFF, ro 0x144, woReg 0x148 1]
  | .flch => [ro 0x100 0 8]
  | .fab => [ro 0x100, rwsReg 0x104 0x7FFFFFFF 0 [(14, 0), (15, 15), (30, 16)], rwsReg 0x108 0xFFFF 100, ro 0x10C 0 7]
  | .ndl =>
    [rwsReg 0x100 0xFFFF00FF 0 [(7, 0), (31, 16)], { off := 0x104, tmr := [(31, 16)] }, rwsReg 0x108 0xFFFF00FF 0x000A0008,
     woReg 0x10C 3, ro 0x110, rwReg 0x114 0xFF, ro 0x118 0 5,
     { off := 0x200, rws := 0xFF1FFFFF, tmr := [(11, 0), (20, 12), (31, 24)], n := 64 }]

/-- The common page (Table 4-2). -/
def Blk.common (k : Blk) (i : Nat) : List RegDef :=
  [ro 0 (k.id i), ro 4 0x100, ro 8 (k.cap i),
   { off := 0x10, reset := k.ctl.2, rws := k.ctl.1, tmr := if k = .core then [(0, 0)] else [] },
   { off := 0x14, reset := if k = .ring then 15 else 0, rw := 0xF, tmr := [(3, 0)] },
   { off := 0x20, w1c := k.statMask }, ro 0x24, rwReg 0x28 allBits,
   { off := 0x2C, reset := 0x20 + (if k.hostRoute then 1 else 0), rw := if k.hostRoute then 0x7F else 0x7E },
   ro 0x30 0 4,
   { off := 0x40, w1c := 3 },
   { off := 0x44, rw := 3, oneway := 3, tmr := [(0, 0), (1, 1)] },
   ro 0x48 (if k.shared then 2 ^ 31 else if k = .core then 2 ^ 30 else i)]

/-- Registers that only the first page of a type has: FWP0's update registers (Table 19-11), port 0's NDL_NODE and
NDL_BIND (Table 20-7) and port 0's FAB_MAP (Table 20-6). -/
def Blk.present (k : Blk) (i off : Nat) : Bool :=
  i = 0 || match k with
    | .fwp => off < 0x200
    | .ndl => off ≠ 0x100 && off < 0x200
    | .fab => off ≠ 0x104
    | _ => true

/-- The offset is one of the register's places. -/
def RegDef.covers (r : RegDef) (off : Nat) : Bool :=
  decide (r.off ≤ off) && decide ((off - r.off) % r.stride = 0) && decide ((off - r.off) / r.stride < r.n)

/-- The register of a page at an offset in the page, from the tables. -/
def regAt (k : Blk) (i off : Nat) : Option RegDef :=
  if off < 0x100 then (k.common i).find? (fun r => r.covers off)
  else if k.present i off then (k.own).find? (fun r => r.covers off)
  else none

/-- The register at a BAR0 offset. -/
def regDef (a : Nat) : Option RegDef :=
  match pageOf (a / 0x1000) with
  | none => none
  | some (k, i) => regAt k i (a % 0x1000)

/-- Reset values that depend on the instance: CORE_MAP reads its grid position with MAPPED set for c < 256 (R409),
basin 0's BSN_STATE, BSN_KEYSEL and BSN_XLAT_ROOT (Table 2-8). -/
def regResetOf (a : Nat) : Option W32 :=
  match pageOf (a / 0x1000) with
  | some (.core, i) => if a % 0x1000 = 0x104 then (if i % 264 < 256 then some (BitVec.ofNat 32 (2 ^ 31 + i % 264)) else some 0) else none
  | some (.bsn, 0) =>
    if a % 0x1000 = 0x100 then some 1
    else if a % 0x1000 = 0x110 then some 0x0FFC0000
    else if a % 0x1000 = 0x114 then some 0x40
    else none
  | _ => none

/-- The reset value of the register at a BAR0 offset; zero where the map has none. -/
def regReset (a : Nat) : W32 :=
  match regResetOf a with
  | some v => v
  | none =>
    match regDef a with
    | some r => BitVec.ofNat 32 r.reset
    | none => 0

/-- A page has staged fields: some register of it has RWS bits. -/
def Blk.staged (k : Blk) : Bool := decide (k.ctl.1 ≠ 0) || k.own.any (fun r => decide (r.rws ≠ 0))

/-- The offsets in a page of every staged register. -/
def Blk.stagedOffs (k : Blk) (i : Nat) : List Nat :=
  (if k.ctl.1 ≠ 0 then [0x10] else []) ++
  ((k.own.filter (fun r => decide (r.rws ≠ 0))).flatMap (fun r =>
    (List.range r.n).map (fun j => r.off + j * r.stride))).filter (fun o => k.present i o)

/-- Every page number of BAR0, in rising order. -/
def allPages : List Nat :=
  List.range 0x11 ++ (List.range 0x80).map (· + 0x20) ++ (List.range 6).map (· + 0xA0) ++ (List.range 43).map (· + 0xB0) ++
  (List.range 4).flatMap (fun m =>
    (List.range 9).map (fun k => 0x100 + m * 0x400 + k) ++ (List.range 264).map (fun c => 0x200 + m * 0x400 + c))

/-- The pages that have staged fields, the only members of ripple groups. -/
def stagedPages : List Nat :=
  allPages.filter (fun p => match pageOf p with | some (k, _) => k.staged | none => false)

end Sys2Proof.Machine
end

