-- ==== Sys2Proof/Machine/State.lean ====
section
/-! DEFINITION. The machine's state as plain data, its faults and refusals, and the state right after reset. -/

namespace Sys2Proof.Machine

/-- No meaning of this block stops with a fault: the spec describes every failure as a completion class, a status
bit or a count. Safe. -/
inductive Fault where
  /-- Raised by no meaning. Safe. -/
  | none
  deriving DecidableEq, Repr

/-- Why a command has no next state. -/
inductive Refusal where
  /-- An arm of the dispatch that has no meaning yet. Raised by the dispatch alone. Safe. -/
  | notModelled (mnemonic : String)
  deriving DecidableEq, Repr

/-! ### Register pages and the ripple commit (chapter 04) -/

/-- Copies b and c of a TMR register whose three copies differ (R116, R117); copy a is the stored word. -/
structure TmrCopies where
  off : Nat
  staged : Bool
  b : W32
  c : W32
  deriving DecidableEq, Repr

/-- A page's arming: the staged values it captured and the groups of the fires that it counts for; none for an
arming by RING_CTL.APPLY (R107, R108). -/
structure Arming where
  page : Nat
  groups : List Nat
  values : List (Nat × W32)
  deriving DecidableEq, Repr

/-- A fire in progress (R109–R111): the members that have not applied, its start, whether it set SLOW, and the
member that RIPPLE_LAGGARD names. -/
structure Fire where
  group : Nat
  members : List Nat
  start : Nat
  slow : Bool
  laggard : Nat
  deriving DecidableEq, Repr

/-- The BAR0 register file. Unlisted words read as their reset value. -/
structure Regs where
  live : SMap W32
  staged : SMap W32
  /-- Pages with BLK_RIPPLE.PENDING set. -/
  pendingPages : List Nat
  armed : List Arming
  /-- Armings that wait for an apply of the same page (R109): page and group. -/
  waiting : List (Nat × Option Nat)
  fires : List Fire
  /-- Groups with a queued fire. -/
  queued : List Nat
  tmr : List TmrCopies
  /-- A slow tick, and what hardware set of the SPR page's W1C registers in it: offset and event (R9). -/
  sprTick : Nat
  sprSets : List (Nat × HwSet × Bool)
  deriving DecidableEq, Repr

/-! ### Host interface (chapter 03) -/

/-- A shore block that an admitted descriptor named and whose flag the module has not written (R79). -/
structure HeldBlock where
  basin : Nat
  block : Nat
  slot : Nat
  /-- SEQ of the flag that check 2 read. -/
  seq : Nat
  /-- An OUT_REF block. -/
  out : Bool
  /-- An uncorrectable word was found in the block (R79). -/
  poisoned : Bool
  /-- FWP4 has remapped the page of the poisoned block (R85). -/
  remapped : Bool
  /-- Fully read, with its flag not yet written (R82, R98). -/
  done : Bool
  /-- Ranges of the block that the module has written: first byte and length, apart and rising (R79). -/
  wrote : List (Nat × Nat)
  deriving DecidableEq, Repr

/-- A completion waiting for its outlet ring, in the order in which requests ended (R73). -/
structure Comp where
  basin : Nat
  ring : Nat
  slot : Option Nat
  tag : W32
  cookie : Nat
  cls : Nat
  flags : Nat
  outLen : Nat
  newHandle : Nat
  count : Nat
  admitted : Nat
  deriving DecidableEq, Repr

/-- Unsignalled completions of an outlet ring and when the first was written (OUT_CFG). -/
structure Coal where
  basin : Nat
  ring : Nat
  count : Nat
  since : Nat
  deriving DecidableEq, Repr

structure HostIf where
  /-- Bytes the module has written to host memory, keyed basin × 2^64 + address (R69). -/
  hostMem : Mem
  /-- Data returned by register reads with an effect, oldest first. -/
  readData : List W32
  /-- MSI-X messages sent: function and vector, oldest first (R68). -/
  msix : List (Nat × Nat)
  /-- Masked vectors, and vectors whose pending bit is set: function and vector (R68). -/
  masked : List (Nat × Nat)
  waitVec : List (Nat × Nat)
  /-- The hierarchy is ARI-capable, without which SR-IOV cannot be enabled (Table 3-1). -/
  ari : Bool
  /-- Firmware processor signals: processor and page, oldest first (R122). -/
  fwpSig : List (Nat × Nat)
  numVFs : Nat
  lastBasin : Nat
  lastRing : SMap Nat
  comps : List Comp
  held : List HeldBlock
  coal : List Coal
  /-- Outlet rings that a failed DMA write disabled: basin and ring (R98). -/
  failed : List (Nat × Nat)
  deriving DecidableEq, Repr

/-! ### Object versions (chapters 05, 06, 09–12) -/

/-- One state of a tombstone or absent-row bitmap (R152, R207): the commit that made it, the runs of bits that its
transaction changed (first, count, value) in index order, the 64 KiB bitmap pages that it copied, and the copies: page and
bytes, by byte offset in the bitmap. The state of the version's own commit is the bitmap as installed. -/
structure BitState where
  commit : Nat
  runs : List (Nat × Nat × Bool)
  pages : List Nat
  copies : List (Nat × Mem)
  superseded : Option Nat
  keepUntil : Nat
  retired : Bool
  deriving DecidableEq, Repr

/-- A frame directory entry (Table 16-4). -/
structure WFrame where
  off : Nat
  clen : Nat
  coded : Bool
  fmt : Nat
  tiles : Nat
  deriving DecidableEq, Repr

/-- The weights of a resident version as HBM holds them (R370, R371). -/
structure HeldModel where
  uid : Nat
  /-- IFLAGS.PITCH of the image. -/
  pitch : Bool
  /-- First frame and frames of each layer, and the directory. -/
  layers : List (Nat × Nat)
  dir : List WFrame
  /-- The decoded 4 KiB of each frame. -/
  frames : List (List Byte)
  /-- HBM pages of each mere's frames, on its own three stacks. -/
  pages : List (List Nat)
  deriving DecidableEq, Repr

/-- An object version (R125): current while `superseded` is none, then retained until retired (R138). -/
structure Version where
  uid : Nat
  basin : Nat
  /-- CLASS: 0 index, 1 table, 2 grammar, 3 profile, 4 model, 5 pack template. -/
  cls : Nat
  slot : Nat
  /-- The version number: the commit that switched it in. -/
  num : Nat
  /-- The descriptor or record that the commit copied. -/
  desc : List Byte
  /-- The commit number that superseded it. -/
  superseded : Option Nat
  keepUntil : Nat
  /-- Retired (R138): no longer read. -/
  retired : Bool
  bits : List BitState
  /-- Edition of a WRITABLE table version (R211). -/
  edition : Nat
  /-- Vocabulary digest of a model version (R233). -/
  digest : Nat
  /-- Weights resident in HBM (R254, R371). -/
  resident : Bool
  /-- A load of the weights is in progress (R371); a load waits for its charge. -/
  loading : Bool
  loadWaits : Bool
  /-- Last instant at which a pass or job set used the model, for eviction (R371). -/
  lastUse : Nat
  /-- SLOT_BYTES of a model version on each mere (R373). -/
  slotSizes : List Nat
  deriving DecidableEq, Repr

/-- A TXN request between step 1 and step 5 (R132). -/
structure ActiveTxn where
  slot : Nat
  list : List Byte
  deriving DecidableEq, Repr

/-- A BAR0 write held by a lock of a transaction (R114). -/
structure HeldWrite where
  fn : Nat
  off : Nat
  value : W32
  /-- The owner flags that the write comes with, of a command that names blocks (R78). -/
  flags : List W64 := []
  deriving DecidableEq, Repr

structure TxnEng where
  /-- TXN requests waiting in admission order. -/
  waiting : List Nat
  active : List ActiveTxn
  held : List HeldWrite
  /-- TXN_LAST, 64 bits. -/
  last : Nat
  /-- BASIN_OPs whose TXN completion has not been written (R429): tag slot, basin, and the basin's record before. -/
  unsure : List (Nat × Nat × List Nat)
  versions : List Version
  nextUid : Nat
  deriving DecidableEq, Repr

/-! ### The walker (chapter 07) -/

inductive QState where
  | opened | issued | expanded | settled
  deriving DecidableEq, Repr

/-- Candidate queue entry (R166). -/
structure QEnt where
  dist : Nat
  id : Nat
  st : QState
  deriving DecidableEq, Repr

/-- Result pool entry (R176). -/
structure PoolEnt where
  dist : Nat
  id : Nat
  exact : W32
  attr : Nat
  deriving DecidableEq, Repr

/-- A node read of the expansion in progress: late once its budget has expired (R173). -/
structure NodeRead where
  id : Nat
  issued : Nat
  late : Bool
  /-- Served by the node cache (R172). -/
  hit : Bool
  deriving DecidableEq, Repr

/-- Per-query walker state (Table 7-1). -/
structure Walk where
  /-- Distance table, M × 256 entries of 16 bits, in subspace order. -/
  table : List Nat
  scale : W32
  dmin : List W32
  queue : List QEnt
  /-- Set bits of the visited filter. -/
  visited : List Nat
  pool : List PoolEnt
  window : Nat
  expansions : Nat
  rewalks : Nat
  reads : List NodeRead
  deriving DecidableEq, Repr

/-! ### Requests (chapters 01, 03) -/

/-- The step of its work at which a request is. -/
inductive Stage where
  | input | embed | grant | table | walk | select | fetchRank | rankSort | pack | model | prefill | decode
  | tableCmd | job | txnWait | txnRun | complete | ended
  deriving DecidableEq, Repr

/-- Cut of a request's input in one vocabulary (R239–R241): tokens emitted, and the carry and hold-back bytes. -/
structure VocabCut where
  model : Nat
  tokens : List Nat
  rest : List Byte
  deriving DecidableEq, Repr

/-- An evidence record (Table 1-3). -/
structure Evid where
  id : Nat
  score : W32
  dist : W32
  flags : Nat
  attr : Nat
  /-- Position in the offered list of a RERANK. -/
  pos : Nat
  deriving DecidableEq, Repr

/-- A stream (chapter 11) with its grammar state (R286). -/
structure Stream where
  model : Nat
  /-- Prompt tokens, prefix included. -/
  prompt : List Nat
  /-- Positions fed through the model. -/
  fed : Nat
  /-- Generated tokens committed. -/
  gen : List Nat
  /-- Answer bytes written. -/
  answer : Nat
  /-- Grammar state: state number and stack, top first; none without a grammar or before the first answer position. -/
  gram : Option (Nat × List Nat)
  drafts : List Nat
  draftAccepted : Nat
  /-- KV pages charged to the request, and scratch-tail pages. -/
  pages : Nat
  scratch : Nat
  /-- Pages of a cited handle that are shared. -/
  shared : Nat
  /-- Instant since which the stream has been ready for a pass, and whether GEN drives it (R261). -/
  ready : Nat
  driven : Bool
  /-- HBM pages of the KV store, the shared ones first. -/
  kv : List Nat
  deriving DecidableEq, Repr

structure Pins where
  profile : Option Nat
  index : Option Nat
  tmpl : Option Nat
  grammar : Option Nat
  enc : Option Nat
  rr : Option Nat
  gen : Option Nat
  fb : Option Nat
  tables : List Nat
  deriving DecidableEq, Repr

structure Req where
  slot : Nat
  /-- Reuse count of the tag (R14). -/
  count : Nat
  basin : Nat
  inRing : Nat
  outRing : Nat
  desc : List Byte
  admitted : Nat
  pins : Pins
  /-- Pinned bitmap states: version and commit (R16). -/
  bits : List (Nat × Nat)
  /-- Absolute deadlines (R27); none where the offset is 0. -/
  dlSearch : Option Nat
  dlRerank : Option Nat
  dlModel : Option Nat
  flags : Nat
  stage : Stage
  /-- Work of the stage is in progress, so the request is not at a step boundary (R35). -/
  busy : Bool
  awaiting : Bool
  parked : Bool
  lastInput : Nat
  /-- Descriptors whose input bytes TOK has not read, oldest first: tag slots. -/
  bufs : List Nat
  input : List Byte
  cuts : List VocabCut
  /-- Classes for which the request is due to end (R36). -/
  due : List Nat
  /-- Ends with neither completion nor flag (R43, R100). -/
  silent : Bool
  /-- The basin had PRIV_TRAIN at the admission (R57). -/
  train : Bool
  /-- Its basin had PRIV_LINK at admission (R57). -/
  link : Bool
  walkCharge : Bool
  outLen : Nat
  outCount : Nat
  newHandle : Nat
  ended : Option Nat
  qvec : List W32
  walk : Option Walk
  evid : List Evid
  /-- Texts of the evidence, from the first record, that re-rank has fetched and cut (R234). -/
  texts : Nat
  /-- Offered passage IDs of a RERANK; draft tokens of a draft-verify GENERATE. -/
  offered : List Nat
  /-- GEN_KV_LEN of a draft-verify GENERATE (R267). -/
  kvLen : Option Nat
  prompt : List Nat
  stream : Option Stream
  hold : Option Nat
  deriving DecidableEq, Repr

/-- The coded memories that can hold a poisoned word (R388, R392). -/
inductive Space where
  | hbm | pool | shore
  | dbuf (ctx : Nat)
  | tarn (ctx core : Nat)
  | save (ctx : Nat)
  /-- A tombstone or absent-row page: version and commit of its state. -/
  | bits (uid commit : Nat)
  /-- A namespace's words, in the write cache or on flash: basin in bits 50 up of the byte offset. -/
  | ns
  deriving DecidableEq, Repr

/-! ### Sorters, gather engines, generation (chapters 08, 09, 11) -/

/-- A sort command accepted by a sorter: unit 0 is the hub SORT, 1 + m is MSORT m. A command of a job names its
context, its address and its core; one of the pipeline names the request. -/
structure SortCmd where
  id : Nat
  unit : Nat
  prio : Nat
  slot : Option Nat
  ctx : Option Nat
  core : Nat
  /-- The 64 bytes of a job's command. -/
  bytes : List Byte
  /-- A word of a job's command that came poisoned. -/
  bad : Option (Space × Nat)
  /-- PC of the bundle that submitted it. -/
  pc : Nat
  /-- The basin that it serves, and whether it is in progress (R203). -/
  basin : Nat
  running : Bool
  deriving DecidableEq, Repr

/-- Where a gather or merge stands; `held` and `applyHeld` are waits under R213 and R212 that have been counted. -/
inductive GathPhase where
  | queued | held | summed | applyHeld
  deriving DecidableEq, Repr

/-- A gather or merge: of a request (`slot`) or of a job's command. -/
structure GathCmd where
  id : Nat
  unit : Nat
  slot : Option Nat
  ctx : Option Nat
  core : Nat
  bytes : List Byte
  /-- A word of a job's command that came poisoned. -/
  bad : Option (Space × Nat)
  /-- Validated as a command (R229); a request needs none. -/
  valid : Bool
  merge : Bool
  /-- Table version. -/
  ver : Nat
  phase : GathPhase
  /-- Place in the version's merge queue (R212), 0 before it. -/
  seq : Nat
  /-- Merge scratch: row and its sums (R223). -/
  sums : List (Nat × List W32)
  /-- Gradient rows summed. -/
  summed : Nat
  /-- Scratch pages charged (R226). -/
  pages : Nat
  /-- PC of the bundle that submitted it. -/
  pc : Nat
  deriving DecidableEq, Repr

inductive PassKind where
  | prefill | decode | draft
  deriving DecidableEq, Repr

/-- A pass in progress (R260, R261): its streams and the proposals fed for each. -/
structure Pass where
  id : Nat
  model : Nat
  kind : PassKind
  slots : List Nat
  props : List (List Nat)
  /-- Positions of each stream that a prefill pass feeds. -/
  counts : List Nat
  /-- The mere whose MSORT serves the pass's sampling sorts (R188). -/
  mere : Nat
  /-- Layers that have landed, and layers that the weir has started to write (R374, R375); those above N_LAYER are the
  next pass's. -/
  landed : Nat
  written : Nat
  /-- Layers that the weir of each mere held or had begun before the pass started: written, landed (R375). -/
  ahead : List (Nat × Nat)
  /-- Layers of the next pass that the weir of each mere has begun to write, and those that have landed (R375). -/
  next : List (Nat × Nat)
  /-- Device addresses of poisoned words that the weir has written into the window (R392). -/
  bad : List Nat
  deriving DecidableEq, Repr

inductive HandleState where
  | idle | held | parked
  deriving DecidableEq, Repr

/-- A prefix handle record (R270–R277). -/
structure Handle where
  idx : Nat
  reuse : Nat
  basin : Nat
  st : HandleState
  inPool : Bool
  /-- A move to the pool, or back from it, is in progress. -/
  moving : Bool
  holds : List Nat
  released : Bool
  tokens : List Nat
  fed : Nat
  model : Nat
  digest : Nat
  idleMs : Nat
  ttlS : Nat
  /-- Instant of the last end of a hold. -/
  since : Nat
  /-- Instant at which PARK_TTL_S has passed, while it runs. -/
  expiry : Option Nat
  /-- HBM pages that the store takes beside the pages that it shares. -/
  own : Nat
  hbmPages : Nat
  poolPages : Nat
  /-- The handle whose pages the store shares, and how many. -/
  lender : Option (Nat × Nat)
  /-- HBM pages of the store, the shared ones first; numbers from 2^40 on stand for what the pool holds. -/
  kv : List Nat
  deriving DecidableEq, Repr

structure Engines where
  sorts : List SortCmd
  gaths : List GathCmd
  /-- Next identity of a command, pass, job context or load. -/
  nextId : Nat
  passes : List Pass
  handles : List Handle
  /-- Reuse counts of the handle records. -/
  reuse : SMap Nat
  /-- Node cache (R172): index version, set, and the records it holds, most recently used first. -/
  nodeCache : List (Nat × Nat × List Nat)
  /-- Requests waiting for a walker context or table slots, in order (R162). -/
  walkWait : List Nat
  /-- Layers prefetched for a version's next pass on a mere (R375): mere, version, layers written, since, layers landed. -/
  prefetch : List (Nat × Nat × Nat × Nat × Nat)
  /-- Bytes written into the weir window of each mere (WEIR_KIB). -/
  weirBytes : SMap Nat
  /-- Hot-row cache of TIER 1 tables (R208): version, row, dirty; most recently used first. -/
  rowCache : List (Nat × Nat × Bool)
  /-- Rows of the cache in the order of their latest write, the oldest first (R378): version, row. -/
  rowWrites : List (Nat × Nat)
  /-- Dirty rows whose write-back has failed and is tried again (R450): version, row. -/
  rowsHeld : List (Nat × Nat)
  /-- A read of the command that runs has met a pool port whose link is down: the command waits (Table 20-2). False between
  commands. -/
  linkDown : Bool
  /-- Streams whose pass waits at the weir (R373), by their first tag slot. -/
  weirWait : List Nat
  deriving DecidableEq, Repr

/-! ### Memory (chapters 02, 16, 17) -/

structure Memories where
  /-- HBM by device address (R485). -/
  hbm : Mem
  /-- The pool ports' devices: port × 2^44 + device offset (R447). -/
  pool : Mem
  /-- Shore windows, basin × 2^26 + byte (R40). -/
  shore : Mem
  /-- Translation entries by device address (R50). -/
  xlat : SMap W64
  /-- Namespaces, basin × 2^50 + byte: what is on flash (R379). -/
  flash : Mem
  /-- Dirty sectors in the namespace write cache: basin and sector (R378, R379), and their bytes. -/
  dirty : List (Nat × Nat)
  wcache : Mem
  /-- Sectors that can neither be read nor rebuilt (R381). -/
  unreadable : List (Nat × Nat)
  /-- Sectors written since they were last released (R383): basin and sector. -/
  alloc : List (Nat × Nat)
  /-- Where a sector lies in the flash array (R380): basin, sector, place. -/
  place : List (Nat × Nat × Nat)
  /-- Spare blocks that remain, in percent of their initial number (R386). -/
  spare : Nat
  /-- Poisoned 8-byte words: memory and address ÷ 8. -/
  poison : List (Space × Nat)
  /-- Words found in error in HBM pages by a scrub (R397): page, instant, uncorrectable. -/
  suspect : List (Nat × Nat × Bool)
  /-- The basin into which a page was last mapped, plus one (R45): HBM page number, or 2^32 + pool page number. -/
  owner : SMap Nat
  /-- Pages of a destroyed basin that are being zeroed (R45): basin, HBM pages, pool pages. -/
  zeroing : List (Nat × Nat × Nat)
  /-- The resident model versions. -/
  models : List HeldModel
  deriving DecidableEq, Repr

/-! ### The error log (chapter 17) -/

/-- A reported event that FWP4 has not written yet (Table 17-3). -/
structure LogEvent where
  kind : Nat
  basin : Nat
  time : Nat
  source : Nat
  tag : W32
  location : Nat
  count : Nat
  epoch : Nat
  detail : Nat
  deriving DecidableEq, Repr

/-- Coalescing of one pair of KIND and SOURCE (R401): when its last record was made and the events since. -/
structure LogCoal where
  kind : Nat
  source : Nat
  last : Nat
  since : Nat
  event : LogEvent
  deriving DecidableEq, Repr

structure ErrLog where
  events : List LogEvent
  coal : List LogCoal
  /-- Events were lost since the last record written (R398). -/
  lost : Bool
  deriving DecidableEq, Repr
/-! ### Jobs and cores (chapters 13–15) -/

/-- State bits and source of a tarn frame (R296, R297). PENDING follows from the outstanding draws. -/
structure FrameSt where
  valid : Bool
  dirty : Bool
  code : Bool
  src : Option (Nat × Nat)
  deriving DecidableEq, Repr

/-- An outstanding draw or return (R300–R302). A piece is a space address, a tarn address and a length. -/
structure Xfer where
  id : Nat
  draw : Bool
  space : Nat
  pieces : List (Nat × Nat × Nat)
  /-- KEEP of a draw, CLEAN of a return. -/
  keep : Bool
  code : Bool
  strided : Bool
  /-- Bytes that a return took from the tarn at its issue, and which of its 8-byte words were poisoned. -/
  data : List Byte
  bad : List Nat
  /-- Frames that a return with CLEAN makes clean when it completes, and the space address of each (R297). -/
  frames : List (Nat × Nat)
  /-- Cancelled by a pre-emption: reissued at resumption (R356, R358). -/
  cancelled : Bool
  /-- PC of the bundle that issued it. -/
  pc : Nat
  /-- The physical core that issued it, and the epoch that it carries (R402). -/
  core : Nat
  epoch : Nat
  /-- The last frame sent of a return to another node, by port and SEQ, for each node (R459). -/
  sent : List (Nat × Nat)
  deriving DecidableEq, Repr

/-- A tile or mere-wide operation that has issued (R332): its slot and the sources that it read at issue. -/
structure TileOp where
  /-- Number of the bundle that issued it; transfers have the same numbering. -/
  id : Nat
  word : Nat
  ta : BitVec 128
  tb : BitVec 128
  x : W64
  v : BitVec 1024
  record : List Byte
  started : Bool
  /-- PC of the bundle that issued it. -/
  pc : Nat
  deriving DecidableEq, Repr

/-- A synchronisation operation that a core waits in. -/
inductive SyncWait where
  | none
  | sem (n count : Nat) (granted : Bool)
  | bar (group : Nat) (released : Bool)
  /-- At END, waiting under R304 and R335. -/
  | ending
  deriving DecidableEq, Repr

/-- One core of a context (Table 13-1). -/
structure CoreSt where
  x : SMap W64
  v : SMap (BitVec 1024)
  p : SMap W32
  t : SMap (BitVec 128)
  /-- Accumulator word: a × 1024 + 32 × i + j. -/
  acc : SMap W32
  pc : Nat
  outLen : Nat
  bundles : Nat
  frames : SMap FrameSt
  tarn : Mem
  xfers : List Xfer
  tiles : List TileOp
  wait : SyncWait
  /-- Has executed END. -/
  ended : Bool
  deriving DecidableEq, Repr

inductive CtxPhase where
  | queued | running | saving | saved
  deriving DecidableEq, Repr

/-- A job context (R292): a RUN_JOB's, or one that a pipeline unit issued (`pipe`), whose image no rule describes. -/
structure Ctx where
  id : Nat
  slot : Nat
  basin : Nat
  /-- Job set (R347). -/
  set : Nat
  prio : Nat
  pipe : Bool
  gang : Bool
  image : Nat
  phase : CtxPhase
  mere : Nat
  /-- Physical cores (264 × mere + c) by logical index. -/
  place : List Nat
  /-- Instant of the last start or resumption. -/
  started : Nat
  nCores : Nat
  dbufBytes : Nat
  inLen : Nat
  outCap : Nat
  dbuf : Mem
  sems : SMap Nat
  /-- Waits in the order in which they reached SYNC: semaphore, core, count. -/
  semWait : List (Nat × Nat × Nat)
  /-- Barrier arrivals: group and core. -/
  arrived : List (Nat × Nat)
  /-- Semaphores, and 4096 + group, that SYNC has bound; and those it keeps in DBUF (R345). -/
  bound : List Nat
  spilled : List Nat
  /-- Full mailbox slots: 4 × core + direction, and the word. -/
  mbox : List (Nat × W64)
  cores : List CoreSt
  /-- Class that a fault ends the context with (R312). -/
  fault : Option Nat
  /-- Linked set (R455): DOMAIN, SEED and the home node. -/
  link : Option (Nat × Nat × Nat)
  /-- The home has completed the linked set; true without one. -/
  joined : Bool
  /-- Its save records lie in the firmware reserve (R357). -/
  moved : Bool
  /-- Its window lies there too and its SYNC bindings are lost, since its mere has entered S3 (R414, Table 18-4). -/
  away : Bool
  deriving DecidableEq, Repr

structure Jobs where
  /-- In the order in which they were issued. -/
  ctxs : List Ctx
  /-- Quarantined cores, 264 × mere + c (chapter 17). -/
  quarantined : List Nat
  /-- Cores reset since they were fenced. -/
  coreReset : List Nat
  /-- Mappings that PF0 has asked for: core and grid position (R409). -/
  mapReq : List (Nat × Nat)
  /-- Meres whose heartbeat was lost. -/
  deadMeres : List Nat
  /-- Core time that has ended (R359): basin, cores, from and until. -/
  spans : List (Nat × Nat × Nat × Nat)
  /-- Heartbeat periods that a core, or with 264 a die sequencer, has missed in a row (R350): by 265 × mere + core. -/
  missed : SMap Nat
  /-- OFFLINE cores as a debugger has left them, and whether each runs (R483). -/
  debugged : List (Nat × CoreSt × Bool)
  deriving DecidableEq, Repr


/-! ### Fabric (chapter 20) -/

/-- An Ndelar port, beside its NDL_LINK register (R452, R454, R460). -/
structure Port where
  /-- SYSTEM of the peer. -/
  system : Nat
  /-- Instant at which the link went down. -/
  downAt : Option Nat
  /-- Instant of the last frame from the peer, and of the last frame to it. -/
  lastRx : Nat
  lastTx : Nat
  seqTx : Nat
  seqRx : Nat
  /-- Bytes sent and received since the last whole KiB. -/
  txRest : Nat
  rxRest : Nat
  /-- Frames sent and not acknowledged, oldest first: SEQ and frame. -/
  held : List (Nat × List Byte)
  /-- This module readmitted the peer (R462). -/
  admitted : Bool
  /-- The epoch that the peer's last training frame gave this module: its frames on the link carry it (R402, R462). -/
  epoch : Nat
  deriving DecidableEq, Repr

def Port.reset : Port :=
  { system := 0, downAt := none, lastRx := 0, lastTx := 0, seqTx := 0, seqRx := 0, txRest := 0, rxRest := 0, held := [], admitted := true, epoch := 0 }

/-- A linked set at its home node (R455–R458). -/
structure LinkSet where
  domain : Nat
  key : Nat
  /-- Nodes that have joined, and DBUF_BYTES of each. -/
  members : List (Nat × Nat)
  complete : Bool
  /-- Members whose context has ended. -/
  gone : List Nat
  sems : SMap Nat
  /-- Waits and signals in the order in which they reached the home: semaphore, count, node, core; a signal is true. -/
  queue : List (Nat × Nat × Nat × Nat × Bool)
  /-- Barrier arrivals: group and node. -/
  arrived : List (Nat × Nat)
  /-- Joins that wait for this set to end. -/
  later : List (Nat × Nat)
  deriving DecidableEq, Repr

/-- A message of a linked set to a node: TYPE, DOMAIN, KEY and the body from byte 26. -/
structure Msg where
  dst : Nat
  typ : Nat
  domain : Nat
  key : Nat
  body : List Byte
  deriving DecidableEq, Repr

structure Links where
  ports : List Port
  /-- Frames that ports have sent, oldest first. -/
  tx : List (Nat × List Byte)
  /-- Links that are up, by node, as last flooded (R453). -/
  topo : List (Nat × List Nat)
  sets : List LinkSet
  /-- Messages whose route uses a port under declaration while FWP5 restarts (R461), with their source nodes. -/
  waiting : List (Nat × Msg)
  /-- Ports declared since FWP5 last computed routes: the routes still use them. -/
  down : List Nat
  /-- NDL_CTL writes and route notices that wait for FWP5 to restart (Table 19-6): port and bits; port, node and its links. -/
  asked : List (Nat × Nat)
  notices : List (Nat × Nat × List Byte)
  /-- FAB_MAP has mapped pool memory since reset, so that FAB_RD_KIB and FAB_WR_KIB may have counted. -/
  poolMapped : Bool
  deriving DecidableEq, Repr

/-! ### Flash dies and the load engine (chapters 16, 17) -/

/-- A flash die: 0 in service, 1 quarantined, 2 relocating; its epoch and its program failures (R402, R403, R412). -/
structure Die where
  state : Nat
  epoch : Nat
  fails : Nat
  deriving DecidableEq, Repr

/-- The load command that runs (R384), with the result that its checks gave and the words that its reads meet in error. -/
structure LoadCmd where
  op : Nat
  basin : Nat
  block : Nat
  len : Nat
  dst : Nat
  early : Nat
  errs : List ReadError
  deriving DecidableEq, Repr

/-- A namespace key pair of XTS wrapped under the key derived from fused secrets (R55): only the flash controller takes the
key out again. -/
structure WrappedKey where
  key : BitVec 512
  deriving DecidableEq, Repr

structure Flash where
  /-- Namespace keys by basin, as flash stores them: wrapped (R55). -/
  wrapped : List (Nat × WrappedKey)
  /-- Key slots of the flash controller: the unwrapped keys that are loaded (R55). -/
  slots : List (Nat × BitVec 512)
  dies : SMap Die
  /-- Copies b and c of die epochs whose three copies differ (R115); copy a stands in the die. -/
  dieTmr : List (Nat × Nat × Nat)
  load : Option LoadCmd
  /-- Bytes that namespace writes have brought (FLC_HOST_GIB). -/
  hostBytes : Nat
  /-- Writes to FLC_LD_GO that an armed FLC page holds, with the flags that they read and the words in error
  that their commands meet (R112). -/
  goWaits : List (W32 × LoadReads)
  /-- Dies whose readmission waits for FWP2 (R407). -/
  readmits : List Nat
  /-- Relocations that wait for FWP2 (R381). -/
  moves : List (Nat × Nat)
  /-- Sectors whose page was erased with a readmitted die: they are served by rebuild until they move (R407). -/
  erased : List (Nat × Nat)
  /-- Sectors of the firmware area that cannot be read (R434). -/
  badImage : List Nat
  /-- Firmware area: byte of the image of processor n in bank k at (6 × k + n) × 2^20 (R432). -/
  images : Mem
  /-- The image write under way (R444): processor, bank, length, first block, and the result that its checks gave. -/
  update : Option (Nat × Nat × Nat × Nat × Nat)
  /-- Restarts in the order of their declaration (R436). -/
  restarts : List Nat
  /-- Basin records in the firmware area (R46, R429): of each basin that is ACTIVE or HALTED, attributes, weight, root
  (low, high) and the five quotas in the order of their registers. -/
  records : List (Nat × List Nat)
  deriving DecidableEq, Repr

/-! ### Power, pins and management (chapters 18, 19, 21) -/

inductive Rails where
  /-- S5. -/
  | off
  /-- The rail sequence of power-up runs. -/
  | starting
  | good
  /-- S4: only Spring and flash. -/
  | deep
  deriving DecidableEq, Repr

structure Power where
  /-- The Spring domain is powered. -/
  vin : Bool
  /-- PWR_EN as it acts. -/
  pwrEn : Bool
  /-- A rise of PWR_EN that waits to act (R475). -/
  riseWaits : Bool
  /-- PERST# is asserted. -/
  perst : Bool
  rails : Rails
  /-- PWR_GOOD reads high. -/
  pwrGood : Bool
  /-- THERMTRIP# is low (R476). -/
  tripped : Bool
  /-- A device reset is in force or a boot has not reached READY. -/
  booting : Bool
  /-- A PWR_DEEP write has been accepted (R419). -/
  deepAsked : Bool
  /-- Instant at which PWR_EN last fell. -/
  enFall : Option Nat
  /-- Tick after the one at which each wake entry last fired. -/
  wakeFired : SMap Nat
  /-- Holds of R424: entry, end, and the meres that it holds. -/
  holds : List (Nat × Nat × List Nat)
  /-- Entries that drive WAKE# low (R424), and the drive of a resume from S4 (R421). -/
  wakePins : List Nat
  wakeResume : Bool
  /-- Meres that go through the entry into S3 (R418). -/
  s3 : List Nat
  /-- Domains that are resuming, 0 to 3 or 4 for the shore, and the state that each resumes to. -/
  resuming : List (Nat × Nat)
  /-- Wakes that wait for the PWR or CLK page to apply, and the state that each raises its domain to (R112). -/
  wakeWaits : List (Nat × Nat)
  /-- Every function's link is in L1.1 or L1.2. -/
  linkL1 : Bool
  /-- PLL relocks under way (R426). -/
  relock : List Nat
  /-- Address straps sampled at power-on: SMB_ADDR1 : SMB_ADDR0. -/
  straps : Nat
  /-- MCTP endpoint ID, zero until it is assigned. -/
  eid : Nat
  /-- CXL ports whose CXLq_PERST# is high (R469). -/
  cxlReleased : List Nat
  /-- MCTP messages that wait for READY (R473), oldest first. -/
  mctpWait : List (List Byte)
  /-- MCTP messages sent on SMBus, oldest first; the first byte of a message is its MCTP type. -/
  mctp : List (List Byte)
  /-- MCTP messages sent as PCIe vendor-defined messages, and data objects that PF0's data object exchange gave (R441). -/
  vdm : List (List Byte)
  doe : List (List Byte)
  /-- Address bytes given at the SMBus Alert Response Address (R478). -/
  alerts : List Byte
  /-- SPDM negotiation (R441): requests of GET_VERSION, GET_CAPABILITIES and NEGOTIATE_ALGORITHMS answered so far, and
  the messages exchanged for the two signed transcripts. -/
  spdmStep : Nat
  spdmVca : List Byte
  spdmB : List Byte
  spdmL : List Byte
  deriving DecidableEq, Repr

/-- The measurement block (R438): slots and event log. -/
structure Meas where
  slots : SMap (BitVec 384)
  log : List (List Byte)
  /-- Host extensions that wait while FWP0 restarts (Table 19-6): slot and digest. -/
  waiting : List (Nat × BitVec 384)
  deriving DecidableEq, Repr

/-- The TAP (R482, R483): instruction, boundary-scan register, the core that CORE_DEBUG reaches, what the latest scan of the
instruction register and of the register it selects shifted out, least significant bit first, and what the latest CORE_DEBUG
access read. -/
structure Tap where
  ir : Nat
  boundary : List Bool
  debug : Option Nat
  irOut : List Bool
  drOut : List Bool
  read : List Byte
  deriving DecidableEq, Repr

/-- After a reset IDCODE is selected (R482). -/
def Tap.reset : Tap := ⟨1, [], none, [], [], []⟩

/-! ### The whole machine -/

/-- Everything but the queue, the measurement slots and the TAP. -/
structure Dev where
  /-- Time since power-on, in shore cycles. -/
  now : Nat
  /-- Number of free values drawn so far: the model's own counter. -/
  fresh : Nat
  regs : Regs
  host : HostIf
  txn : TxnEng
  /-- Reuse count per tag slot (R14). -/
  tagCounts : SMap Nat
  reqs : List Req
  eng : Engines
  mem : Memories
  log : ErrLog
  jobs : Jobs
  links : Links
  flash : Flash
  power : Power
  deriving DecidableEq, Repr

/-- The machine's state. -/
structure State where
  /-- Commands waiting, first in, first out: the model's own field. -/
  pending : List Instr
  dev : Dev
  meas : Meas
  tap : Tap
  deriving DecidableEq, Repr

/-- Right after reset: every register at the value of its table, every memory empty, nothing in progress. -/
def Dev.reset : Dev where
  now := 0
  fresh := 0
  regs := ⟨[], [], [], [], [], [], [], [], 0, []⟩
  host := ⟨[], [], [], [], [], true, [], 0, 63, [], [], [], [], []⟩
  txn := ⟨[], [], [], 0, [], [], 1⟩
  tagCounts := []
  reqs := []
  eng := { sorts := [], gaths := [], nextId := 1, passes := [], handles := [], reuse := [], nodeCache := [], walkWait := [], prefetch := [],
           weirBytes := [], rowCache := [], rowWrites := [], rowsHeld := [], linkDown := false, weirWait := [] }
  mem := ⟨[], [], [], [], [], [], [], [], [], [], 100, [], [], [], [], []⟩
  log := ⟨[], [], false⟩
  jobs := ⟨[], [], [], [], [], [], [], []⟩
  links := { ports := List.replicate 8 Port.reset, tx := [], topo := [], sets := [], waiting := [], down := [], asked := [], notices := [], poolMapped := false }
  flash := { wrapped := [], slots := [], dies := [], dieTmr := [], load := none, hostBytes := 0, goWaits := [], readmits := [], moves := [], erased := [], badImage := [], images := [], update := none, restarts := [], records := [] }
  power := { vin := true, pwrEn := false, riseWaits := false, perst := true, rails := .off, pwrGood := false, tripped := false,
             booting := true, deepAsked := false, enFall := none, wakeFired := [], holds := [], wakePins := [], wakeResume := false,
             s3 := [], resuming := [], wakeWaits := [], linkL1 := false, relock := [], straps := 3, eid := 0, cxlReleased := [], mctpWait := [],
             mctp := [], vdm := [], doe := [], alerts := [], spdmStep := 0, spdmVca := [], spdmB := [], spdmL := [] }

def State.reset : State := ⟨[], Dev.reset, ⟨[], [], []⟩, Tap.reset⟩

end Sys2Proof.Machine
end

