-- ==== Sys2Proof/Machine/Ops.lean ====
section
/-! DEFINITION. Shared operations: registers, status bits and interrupts, counters, the error log, memory through
translation, held blocks, the end of a request. -/

namespace Sys2Proof.Machine

/-! ### Outcomes -/

/-- The next state of a command whose effect is on the block proper. -/
def ok (s : State) (d : Dev) : Host.Outcome State Fault Refusal := .next { s with dev := d }

/-! ### Register words -/

/-- BAR0 offset of a register of a block's page. -/
def regA (k : Blk) (i off : Nat) : Nat := pageNo k i * 0x1000 + off

/-- The TMR fields of the register at an offset. -/
def tmrFields (a : Nat) : List (Nat × Nat) :=
  match regDef a with
  | some r => r.tmr
  | none => []

/-- A field's bits in place. -/
def fieldMask (hi lo : Nat) : Nat := (2 ^ (hi + 1 - lo) - 1) <<< lo

/-- Majority of three copies of a field; none where all three differ (R116, R117). -/
def vote (x y z : Nat) : Option Nat := if x = y ∨ x = z then some x else if y = z then some y else none

/-- The voted word: each TMR field takes its majority, and reads zero without one. -/
def votedWord (a : W32) (b c : W32) (fs : List (Nat × Nat)) : W32 :=
  fs.foldl (fun w f =>
    let m := BitVec.ofNat 32 (fieldMask f.1 f.2)
    match vote (bitsOf a.toNat f.1 f.2) (bitsOf b.toNat f.1 f.2) (bitsOf c.toNat f.1 f.2) with
    | some v => (w &&& ~~~ m) ||| BitVec.ofNat 32 (v <<< f.2)
    | none => w &&& ~~~ m) a

/-- The copies of a register that differ, if any. -/
def copiesOf (d : Dev) (staged : Bool) (a : Nat) : Option TmrCopies :=
  d.regs.tmr.find? (fun t => decide (t.off = a) && (t.staged == staged))

/-- The live word that every use and read sees. -/
def live (d : Dev) (a : Nat) : W32 :=
  match copiesOf d false a with
  | none => SMap.get regReset d.regs.live a
  | some t => votedWord (SMap.get regReset d.regs.live a) t.b t.c (tmrFields a)

/-- The staged word. -/
def staged (d : Dev) (a : Nat) : W32 :=
  match copiesOf d true a with
  | none => SMap.get regReset d.regs.staged a
  | some t => votedWord (SMap.get regReset d.regs.staged a) t.b t.c (tmrFields a)

/-- The live word as a number. -/
def liveN (d : Dev) (k : Blk) (i off : Nat) : Nat := (live d (regA k i off)).toNat

/-- A field of a register, live or staged, has no majority. -/
def fieldLost (d : Dev) (staged : Bool) (a : Nat) (f : Nat × Nat) : Bool :=
  match copiesOf d staged a with
  | none => false
  | some t => (vote (bitsOf (SMap.get regReset (if staged then d.regs.staged else d.regs.live) a).toNat f.1 f.2)
      (bitsOf t.b.toNat f.1 f.2) (bitsOf t.c.toNat f.1 f.2)).isNone

/-- Some field of the register has no majority, so its use is refused (R117). -/
def noMajority (d : Dev) (a : Nat) : Bool :=
  (copiesOf d false a).isSome && (tmrFields a).any (fieldLost d false a)

/-- Write the live word; all three copies are rewritten (R117). -/
def setLive (d : Dev) (a : Nat) (v : W32) : Dev :=
  { d with regs.live := SMap.set regReset d.regs.live a v,
           regs.tmr := d.regs.tmr.filter (fun t => !(decide (t.off = a) && !t.staged)) }

/-- Write the staged word; all three copies are rewritten. -/
def setStaged (d : Dev) (a : Nat) (v : W32) : Dev :=
  { d with regs.staged := SMap.set regReset d.regs.staged a v,
           regs.tmr := d.regs.tmr.filter (fun t => !(decide (t.off = a) && t.staged)) }

/-- Write the bits of a mask in every copy of the live word; the copies of its other fields stand. -/
def setPart (d : Dev) (a : Nat) (m v : W32) : Dev :=
  let put := fun (w : W32) => (w &&& ~~~ m) ||| (v &&& m)
  { d with regs.live := SMap.set regReset d.regs.live a (put (SMap.get regReset d.regs.live a)),
           regs.tmr := modWhere (fun t => decide (t.off = a) && !t.staged) (fun t => { t with b := put t.b, c := put t.c }) d.regs.tmr }

def setLiveN (d : Dev) (k : Blk) (i off v : Nat) : Dev := setLive d (regA k i off) (BitVec.ofNat 32 v)

/-- A counter rises by n and wraps at 2³². -/
def count (d : Dev) (k : Blk) (i off n : Nat) : Dev := setLive d (regA k i off) (live d (regA k i off) + BitVec.ofNat 32 n)

/-- Set or clear one bit of a live word. -/
def setLiveBit (d : Dev) (a bit : Nat) (v : Bool) : Dev :=
  let m := BitVec.ofNat 32 (2 ^ bit)
  setLive d a (if v then live d a ||| m else live d a &&& ~~~ m)

/-- Merge bits into a word: (old AND NOT mask) OR (value AND mask) (R124). -/
def merge32 (old mask v : W32) : W32 := (old &&& ~~~ mask) ||| (v &&& mask)

def ctlBit (d : Dev) (k : Blk) (i bit : Nat) : Bool := bitOf (liveN d k i 0x10) bit

/-- READY: boot step 8 has been reached (R431). -/
def isReady (d : Dev) : Bool := bitOf (liveN d .rst 0 0x108) 0

/-- PCIe configuration requests are answered: the link is up, and no Configuration Request Retry is given before READY, as it is
after every reset but a device reset through RST_CTL (R430). -/
def configAnswers (d : Dev) : Bool :=
  decide (d.power.rails = .good) && d.power.pwrGood && !d.power.perst && (isReady d || decide (liveN d .rst 0 0x104 % 16 = 4))

/-! ### Time -/

/-- Move the clock to an instant, if it lies ahead. -/
def advanceTo (d : Dev) (t : Nat) : Dev := { d with now := max d.now t }

def usCycles (us : Nat) : Nat := us * Config.cyclesPerUs
def msCycles (ms : Nat) : Nat := ms * 1000 * Config.cyclesPerUs
def sCycles (s : Nat) : Nat := s * 1000000 * Config.cyclesPerUs

/-- SPR_NOW: slow ticks of 1/32,768 s since the Spring domain powered up, 48 bits (R4, R423). -/
def sprNow (d : Dev) : Nat := (d.now * 16 / 390625) % 2 ^ 48

/-- A new free value's number. -/
def draw (d : Dev) : Nat × Dev := (d.fresh, { d with fresh := d.fresh + 1 })

/-- No request tag (R121). -/
def noTag : W32 := 0xFFFFFFFF

/-! ### Status, capture and interrupts (R120–R122) -/

/-- Signal a vector: its message is sent, or its pending bit is set while it is masked (R68). -/
def addMsix (d : Dev) (fn vec : Nat) : Dev :=
  let waits := d.host.masked.contains (fn, vec)
  { d with host.waitVec := if waits && !d.host.waitVec.contains (fn, vec) then d.host.waitVec ++ [(fn, vec)] else d.host.waitVec,
           host.msix := if waits then d.host.msix else d.host.msix ++ [(fn, vec)] }

/-- The host vectors of a page (Table 3-2): function and vector. -/
def pageVectors : Blk → Nat → List (Nat × Nat)
  | .errlog, _ => [(0, 16)]
  | .therm, _ => [(0, 17)]
  | .fwp, _ => [(0, 18)]
  | .ripple, _ => [(0, 20)]
  | .ring, b => if b = 0 then [(0, 21)] else [(0, 21), (b, 21)]
  | .bsn, b => if b = 0 then [] else [(b, 16)]
  | _, _ => []

/-- Signal every destination of a page's BLK_IRQ_ROUTE. -/
def signalPage (d : Dev) (k : Blk) (i : Nat) : Dev :=
  let r := liveN d k i 0x2C
  let d := if bitOf r 0 then (pageVectors k i).foldl (fun d v => addMsix d v.1 v.2) d else d
  let fw := (List.range 6).filter (fun n => bitOf r (1 + n))
  { d with host.fwpSig := d.host.fwpSig ++ fw.map (fun n => (n, pageNo k i)) }

/-- Capture the first status event of a page (R121). -/
def capture (d : Dev) (k : Blk) (i bit basin : Nat) (tag d2 d3 : W32) : Dev :=
  if bitOf (liveN d k i 0x30) 31 then d
  else
    let d := setLiveN d k i 0x30 (2 ^ 31 + basin % 64 * 256 + bit)
    let d := setLive d (regA k i 0x34) tag
    let d := setLive d (regA k i 0x38) d2
    setLive d (regA k i 0x3C) d3

/-- Hardware sets a W1C bit of the SPR page, whose cycle is the slow tick (R9); `was` is the bit's value till then. -/
def noteSpr (d : Dev) (off : Nat) (h : HwSet) (was : Bool) : Dev :=
  let old := if d.regs.sprTick = sprNow d then d.regs.sprSets else []
  { d with regs.sprTick := sprNow d, regs.sprSets := old ++ [(off, h, was)] }

/-- The same of a bit of any page's register, before the bit is set. -/
def noteSet (d : Dev) (k : Blk) (i off : Nat) (h : HwSet) : Dev :=
  if k = .spr then noteSpr d off h (bitOf (liveN d k i off) h.bit) else d

/-- What hardware has set of a register in the page's present cycle, as far as the model's clock tells cycles apart. -/
def setsNow (d : Dev) (k : Blk) (off : Nat) : List HwSet :=
  if k = .spr ∧ d.regs.sprTick = sprNow d then (d.regs.sprSets.filter (fun x => decide (x.1 = off))).map (·.2.1) else []

/-- The bits of a register that were 0 before the page's present cycle and that hardware has set in it. -/
def freshNow (d : Dev) (k : Blk) (off : Nat) : W32 :=
  if k = .spr ∧ d.regs.sprTick = sprNow d then
    (d.regs.sprSets.filter (fun x => decide (x.1 = off) && !x.2.2)).foldl (fun m x => m ||| BitVec.ofNat 32 (2 ^ x.2.1.bit)) 0
  else 0

/-- The status events of a page, among some: the bits that it has (R7). -/
def Blk.events (k : Blk) (hw : List HwSet) : List HwSet := hw.filter (fun h => bitOf k.statMask h.bit)

/-- Hardware sets a BLK_STAT bit: it is captured, and signals when it changes from 0 to 1 with its BLK_IEN bit set. -/
def setStat (d : Dev) (k : Blk) (i bit : Nat) (basin : Nat := 0) (tag : W32 := noTag) (d2 : W32 := 0) (d3 : W32 := 0) : Dev :=
  let a := regA k i 0x20
  let old := (live d a).toNat
  let d0 := noteSet d k i 0x20 ⟨bit, basin, tag, d2, d3⟩
  let d1 := capture (setLiveBit d0 a bit true) k i bit basin tag d2 d3
  if !bitOf old bit && bitOf (liveN d k i 0x28) bit then signalPage d1 k i else d1

/-- Clear BLK_STAT bits through either view, with the bits that hardware sets in the same cycle (R9, R120, R121). -/
def clearStat (d : Dev) (k : Blk) (i : Nat) (mask : W32) (hw : List HwSet) : Dev :=
  let a := regA k i 0x20
  let hw := setsNow d k 0x20 ++ hw
  let kept := hw.foldl (fun m h => m ||| BitVec.ofNat 32 (2 ^ h.bit)) (0 : W32)
  let d1 := setLive d a (live d a &&& ~~~ mask ||| (live d a &&& kept))
  let cap := liveN d k i 0x30
  let d2 := if bitOf cap 31 && bitOf mask.toNat (cap % 32) then
      let z := setLiveN d1 k i 0x30 0
      let z := setLiveN z k i 0x34 0
      let z := setLiveN z k i 0x38 0
      setLiveN z k i 0x3C 0
    else d1
  hw.foldl (fun d h => setStat d k i h.bit h.basin h.tag h.d2 h.d3) d2

/-! ### The error log (R398–R401) -/

def errlogPage : Nat := 0xE

/-- FWP n runs: FWP_STATE is 0. -/
def fwpRuns (d : Dev) (n : Nat) : Bool := liveN d .fwp n 0x100 % 4 = 0

def logEnabled (d : Dev) : Bool := bitOf (liveN d .errlog 0 0x100) 31

/-- KINDs that R401 coalesces. -/
def coalesced (kind : Nat) : Bool := [1, 4, 8, 9, 0xD].contains kind

/-- Hold an event for FWP4. While FWP4 does not run, or the log is not enabled, at most 1,024 events are held and a
further one is lost (R398, R100). -/
def holdEvent (d : Dev) (e : LogEvent) : Dev :=
  let held := !(fwpRuns d 4) || !(logEnabled d)
  if held && decide (d.log.events.length ≥ 1024) then { count d .errlog 0 0x10C 1 with log.lost := true }
  else
    let d := { d with log.events := d.log.events ++ [e] }
    if fwpRuns d 4 then d else setStat d .errlog 0 2

/-- An event of a pair of kind and source. -/
def sameUnit (kind source : Nat) (e : LogEvent) : Bool := decide (e.kind = kind ∧ e.source = source)

/-- The last held event of a pair counts one more. -/
def bumpEvent (kind source : Nat) : List LogEvent → List LogEvent
  | [] => []
  | e :: es =>
    if es.any (sameUnit kind source) then e :: bumpEvent kind source es
    else if sameUnit kind source e then { e with count := e.count + 1 } :: es
    else e :: bumpEvent kind source es

/-- Report an event (R398), coalescing the kinds of R401. -/
def logEvent (d : Dev) (kind source basin : Nat) (tag : W32) (location detail : Nat) (epoch : Nat := 0) : Dev :=
  let e : LogEvent := ⟨kind, basin, sprNow d, source, tag, location, 1, epoch, detail⟩
  let ms := liveN d .errlog 0 0x110
  if coalesced kind && decide (ms ≠ 0) then
    match d.log.coal.find? (fun c => decide (c.kind = kind ∧ c.source = source)) with
    | none => holdEvent { d with log.coal := d.log.coal ++ [⟨kind, source, d.now, 0, e⟩] } e
    | some c =>
      let others := d.log.coal.filter (fun c => !decide (c.kind = kind ∧ c.source = source))
      if c.last + msCycles ms ≤ d.now then
        holdEvent { d with log.coal := others ++ [⟨kind, source, d.now, 0, e⟩] } { e with count := c.since + 1 }
      else if d.log.events.any (sameUnit kind source) then
        -- the record of the pair is still to be written: it tells of this event too
        { d with log.events := bumpEvent kind source d.log.events }
      else { d with log.coal := others ++ [⟨kind, source, c.last, c.since + 1, e⟩] }
  else holdEvent d e

/-! ### Vote mismatches (R116–R118) -/

/-- A mismatch of a field of a register sets its page's BLK_VOTE. -/
def voteMark (d : Dev) (k : Blk) (i off : Nat) (noMaj : Bool) : Dev :=
  let d := noteSet d k i 0x40 ⟨if noMaj then 1 else 0, 0, noTag, 0, 0⟩
  let v := liveN d k i 0x40
  let first := if v % 4 = 0 then off * 65536 else v / 65536 * 65536
  setLiveN d k i 0x40 (first + (v % 4) ||| (if noMaj then 2 else 1))

/-- A mismatch is marked, counted in GLB and logged. -/
def voteMismatch (d : Dev) (a : Nat) (noMaj : Bool) : Dev :=
  match pageOf (a / 0x1000) with
  | none => d
  | some (k, i) =>
    let d := count (voteMark d k i (a % 0x1000) noMaj) .glb 0 (if noMaj then 0x10C else 0x108) 1
    logEvent d (if noMaj then 7 else 6) (pageNo k i) (if k = .ring ∨ k = .bsn then i else 0xFF) noTag (a % 0x1000) 0

/-- A vote finds no majority: one that had none before is marked again, and was counted and logged then. DESIGN CHOICE
(log 166). -/
def voteLost (d : Dev) (a : Nat) (known : Bool) : Dev :=
  match pageOf (a / 0x1000), known with
  | some (k, i), true => voteMark d k i (a % 0x1000) true
  | _, _ => voteMismatch d a true

/-- A read or a use votes a register's fields: each that has no majority marks its page again (R8, R117). -/
def lostMark (d : Dev) (a : Nat) : Dev :=
  if noMajority d a then ((tmrFields a).filter (fieldLost d false a)).foldl (fun d _ => voteLost d a true) d else d

/-- Vote one register whose copies differ: a field with one copy outvoted is rewritten; one without a majority stays.
`before` is the state at the last vote. -/
def voteCopies (before d : Dev) (t : TmrCopies) : Dev :=
  let fs := tmrFields t.off
  let m := if t.staged then d.regs.staged else d.regs.live
  let a := SMap.get regReset m t.off
  let field := fun (w : W32) (f : Nat × Nat) => bitsOf w.toNat f.1 f.2
  let mism := fs.filter (fun f => !decide (field a f = field t.b f ∧ field a f = field t.c f))
  let lost := mism.filter (fun f => (vote (field a f) (field t.b f) (field t.c f)).isNone)
  let fix := fun (w : W32) => mism.foldl (fun w f =>
    match vote (field a f) (field t.b f) (field t.c f) with
    | some v => merge32 w (BitVec.ofNat 32 (fieldMask f.1 f.2)) (BitVec.ofNat 32 (v <<< f.2))
    | none => w) w
  let rest := d.regs.tmr.filter (fun x => !(decide (x.off = t.off) && x.staged == t.staged))
  let keep := if lost = [] then rest else rest ++ [{ t with b := fix t.b, c := fix t.c }]
  let d := if t.staged then { d with regs.staged := SMap.set regReset d.regs.staged t.off (fix a), regs.tmr := keep }
    else { d with regs.live := SMap.set regReset d.regs.live t.off (fix a), regs.tmr := keep }
  let d := (mism.filter (fun f => !lost.contains f)).foldl (fun d _ => voteMismatch d t.off false) d
  lost.foldl (fun d f => voteLost d t.off (fieldLost before t.staged t.off f)) d

/-! ### Basins (chapter 02) -/

def basinState (d : Dev) (b : Nat) : Nat := liveN d .bsn b 0x100 % 4
def haltCause (d : Dev) (b : Nat) : Nat := bitsOf (liveN d .bsn b 0x100) 10 8
def basinAttr (d : Dev) (b bit : Nat) : Bool := bitOf (liveN d .bsn b 0x104) bit
def quota (d : Dev) (b off : Nat) : Nat := liveN d .bsn b off
def qHbm (d : Dev) (b : Nat) : Nat := quota d b 0x120
def qPool (d : Dev) (b : Nat) : Nat := quota d b 0x124
def qFlash (d : Dev) (b : Nat) : Nat := quota d b 0x128
def qTags (d : Dev) (b : Nat) : Nat := quota d b 0x12C
def qWalk (d : Dev) (b : Nat) : Nat := quota d b 0x130

/-- Change BSN_STATE: STATE_CHG is set and PF0 vector 19 is signalled. -/
def setBasin (d : Dev) (b st cause : Nat) : Dev :=
  let d := setLiveN d .bsn b 0x100 (cause * 256 + st)
  addMsix (setStat d .bsn b 0 b) 0 19

/-- A field of the basin's page has no majority, or FAB_MAP has none and the basin may map pool pages, or NDL_NODE or its
NDL_BIND has none and it has PRIV_LINK: what needs it
waits (R117). DESIGN CHOICE (log 165): all work of the basin does. -/
def basinWaits (d : Dev) (b : Nat) : Bool :=
  [0x104, 0x108, 0x110, 0x114, 0x118, 0x120, 0x124, 0x128, 0x12C, 0x130].any (fun o => noMajority d (regA .bsn b o)) ||
  (decide (qPool d b ≠ 0) && noMajority d (regA .fab 0 0x104)) ||
  (basinAttr d b 3 && (noMajority d (regA .ndl 0 0x100) || noMajority d (regA .ndl 0 (0x200 + 4 * b))))

/-- Work of the basin that so waits has used those fields, which marks their pages again. -/
def basinMarks (d : Dev) (b : Nat) : Dev :=
  let d := [0x104, 0x108, 0x110, 0x114, 0x118, 0x120, 0x124, 0x128, 0x12C, 0x130].foldl (fun d o => lostMark d (regA .bsn b o)) d
  let d := if qPool d b ≠ 0 then lostMark d (regA .fab 0 0x104) else d
  if basinAttr d b 3 then lostMark (lostMark d (regA .ndl 0 0x100)) (regA .ndl 0 (0x200 + 4 * b)) else d

/-! ### Translation (R50–R53, R485) -/

def xget (d : Dev) (a : Nat) : W64 := SMap.get (fun _ => 0) d.mem.xlat a

def poisoned (d : Dev) (sp : Space) (word : Nat) : Bool := d.mem.poison.contains (sp, word)

/-- What the error log gives as a word's place (Table 17-4): a device address, or an offset in the tarn or window; a free
value where the word's own place is internal. -/
def placeOf : Space × Nat → Nat
  | (.shore, w) => Config.wordPlace 0 (8 * w)
  | (.ns, w) => Config.wordPlace 3 (8 * w)
  | (.save c, w) => Config.wordPlace (16 + 2 * c) (8 * w)
  | (.bits u _, w) => Config.wordPlace (17 + 2 * u) (8 * w)
  | (_, w) => 8 * w

/-- The first poisoned word of a range of a memory. -/
def poisonIn (d : Dev) (sp : Space) (a n : Nat) : Option (Space × Nat) :=
  match (d.mem.poison.filter (fun p => decide (p.1 = sp) && overlaps (p.2 * 8) 8 a n)).map (·.2) with
  | [] => none
  | w :: ws => some (sp, ws.foldl min w)

/-- The place of the first poisoned word of a range. -/
def placeIn (d : Dev) (sp : Space) (a n : Nat) : Nat :=
  match poisonIn d sp a n with
  | some w => placeOf w
  | none => 0

/-- The level-1 table of a basin (BSN_XLAT_ROOT). -/
def xlatRoot (d : Dev) (b : Nat) : Nat := (liveN d .bsn b 0x114) * 2 ^ 32 + liveN d .bsn b 0x110

/-- Result of a lookup or of a read. -/
inductive Acc (α : Type) where
  | ok (v : α)
  | xfault
  /-- A word is poisoned: its memory and address ÷ 8. -/
  | poison (w : Space × Nat)
  /-- A pool access failed: its pool address. -/
  | fabric (a : Nat)
  | flash
  deriving DecidableEq, Repr

/-- Go on with the value of a read that did not fail. -/
def Acc.bind {α β : Type} : Acc α → (α → Acc β) → Acc β
  | .ok v, f => f v
  | .xfault, _ => .xfault
  | .poison w, _ => .poison w
  | .fabric a, _ => .fabric a
  | .flash, _ => .flash

def Acc.map {α β : Type} (x : Acc α) (f : α → β) : Acc β := x.bind (fun v => .ok (f v))

/-- A mapped page: tier, page base, WRITE and EXEC. -/
structure PageMap where
  pool : Bool
  base : Nat
  write : Bool
  exec : Bool
  deriving DecidableEq, Repr

/-- Translate a basin address to its page. -/
def translate (d : Dev) (b a : Nat) : Acc PageMap :=
  if a ≥ 2 ^ 46 then .xfault
  else
    let e1 := xlatRoot d b + 8 * bitsOf a 45 31
    let v1 := (xget d e1).toNat
    if poisoned d .hbm (e1 / 8) then .poison (.hbm, e1 / 8)
    else if !bitOf v1 0 then .xfault
    else
      let e2 := v1 / 65536 * 65536 + 8 * bitsOf a 30 16
      let v2 := (xget d e2).toNat
      if poisoned d .hbm (e2 / 8) then .poison (.hbm, e2 / 8)
      else if !bitOf v2 0 then .xfault
      else .ok ⟨bitOf v2 2, v2 / 65536 * 65536, bitOf v2 1, bitOf v2 3⟩

/-- GiB that FAB_MAP gives the two pool ports (R447). -/
def poolSize (d : Dev) (q : Nat) : Nat := let v := liveN d .fab 0 0x104; if q = 0 then bitsOf v 14 0 else bitsOf v 30 16

/-- A pool address is inside the live map (R449). -/
def poolMapped (d : Dev) (a : Nat) : Bool := decide (a < (poolSize d 0 + poolSize d 1) * 2 ^ 30)

/-- FAB_MAP.INTERLEAVE. -/
def interleaved (d : Dev) : Bool := bitOf (liveN d .fab 0 0x104) 15

/-- Port that serves a pool address (R447). -/
def poolPort (d : Dev) (a : Nat) : Nat :=
  if interleaved d then a / 65536 % 2 else if a < poolSize d 0 * 2 ^ 30 then 0 else 1

/-- Where a pool address lies: port × 2^44 + device offset (R447). -/
def poolDev (d : Dev) (a : Nat) : Nat :=
  poolPort d a * 2 ^ 44 +
    (if interleaved d then a / 131072 * 65536 + a % 65536 else if a < poolSize d 0 * 2 ^ 30 then a else a - poolSize d 0 * 2 ^ 30)

/-- The link of the port that serves a pool address is down: an access waits for it (Table 20-2). -/
def poolDown (d : Dev) (a : Nat) : Bool := poolMapped d a && !bitOf (liveN d .fab (poolPort d a) 0x100) 0

/-- A pool address can be accessed now; none else is, and of two causes the map decides. -/
def poolOpen (d : Dev) (a : Nat) : Bool := poolMapped d a && !poolDown d a

def poolRead (d : Dev) (a : Nat) : Byte := Mem.read d.mem.pool (poolDev d a)

/-- A word of a mapped page is poisoned, by its address. -/
def pagePoison (d : Dev) (pool : Bool) (a : Nat) : Bool :=
  if pool then poisoned d .pool (poolDev d a / 8) else poisoned d .hbm (a / 8)

/-- The memory and word of a page's address. -/
def pageWord (d : Dev) (pool : Bool) (a : Nat) : Space × Nat := if pool then (.pool, poolDev d a / 8) else (.hbm, a / 8)

/-- One byte of a basin address. -/
def vByte (d : Dev) (b a : Nat) : Acc Byte :=
  match translate d b a with
  | .ok p =>
    let x := p.base + a % 65536
    if p.pool then
      if !poolOpen d x then .fabric x
      else if pagePoison d true x then .poison (.pool, x / 8)
      else .ok (poolRead d x)
    else if poisoned d .hbm (x / 8) then .poison (.hbm, x / 8)
    else .ok (Mem.read d.mem.hbm x)
  | .xfault => .xfault
  | .poison w => .poison w
  | .fabric x => .fabric x
  | .flash => .flash

/-- `n` bytes from a basin address; the first failure in address order decides. -/
def vRead (d : Dev) (b : Nat) : Nat → Nat → Acc (List Byte)
  | _, 0 => .ok []
  | a, n + 1 =>
    match vByte d b a with
    | .ok x =>
      match vRead d b (a + 1) n with
      | .ok xs => .ok (x :: xs)
      | e => e
    | .xfault => .xfault
    | .poison w => .poison w
    | .fabric x => .fabric x
    | .flash => .flash

/-- The bytes of a read that did not fail, else none. -/
def Acc.get? {α : Type} : Acc α → Option α
  | .ok v => some v
  | _ => none

/-- Write of whole bytes to a device word clears poison only when all 8 bytes of the word are written (R394). -/
def clearPoison (d : Dev) (sp : Space) (lo hi : Nat) : Dev :=
  { d with mem.poison := d.mem.poison.filter (fun p => !(decide (p.1 = sp) && decide (lo ≤ p.2 * 8) && decide (p.2 * 8 + 8 ≤ hi))) }

/-- Write bytes that lie in one page. -/
def pageWrite (d : Dev) (p : PageMap) (off : Nat) (bs : List Byte) : Dev :=
  let x := p.base + off
  if p.pool then clearPoison { d with mem.pool := Mem.writeL d.mem.pool (poolDev d x) bs } .pool (poolDev d x) (poolDev d x + bs.length)
  else clearPoison { d with mem.hbm := Mem.writeL d.mem.hbm x bs } .hbm x (x + bs.length)

/-- Bytes to a basin address, page by page; the first page that fails stops it. `fuel` bounds the pages. -/
def vWriteAux (d : Dev) (b : Nat) : Nat → Nat → List Byte → Acc Dev
  | 0, _, _ => .ok d
  | fuel + 1, a, bs =>
    if bs = [] then .ok d
    else match translate d b a with
      | .ok p =>
        if !p.write then .xfault
        else if p.pool && !poolOpen d (p.base + a % 65536) then .fabric (p.base + a % 65536)
        else
          let n := 65536 - a % 65536
          vWriteAux (pageWrite d p (a % 65536) (bs.take n)) b fuel (a + n) (bs.drop n)
      | .xfault => .xfault
      | .poison w => .poison w
      | .fabric x => .fabric x
      | .flash => .flash

def vWrite (d : Dev) (b a : Nat) (bs : List Byte) : Acc Dev := vWriteAux d b (bs.length / 65536 + 2) a bs

/-- Class of a failed access: JOB_FAULT, MEM_UNCORRECTABLE, FABRIC_ERROR, FLASH_UNREADABLE. -/
def Acc.cls {α : Type} : Acc α → Nat
  | .ok _ => 0
  | .xfault => 0x60
  | .poison _ => 0x40
  | .fabric _ => 0x42
  | .flash => 0x41

/-- A pool access fails with an event of Table 20-2: 1 poison, 2 unmapped, 3 timeout, 4 link down, 5 abort. -/
def fabFail (d : Dev) (a event : Nat) (basin : Nat := 0) (tag : W32 := noTag) : Dev :=
  let q := if event = 2 then 0 else poolPort d a
  let reg := match event with | 1 => 0x114 | 2 => 0x118 | 5 => 0x120 | _ => 0x11C
  setStat (count d .fab q reg 1) .fab q 1 basin tag (BitVec.ofNat 32 (a / 65536)) (BitVec.ofNat 32 event)

/-- The outcome of a pool access (Table 20-2): one beyond the map and one that returns poison count, and one whose link is
down makes its command wait. -/
def noteAcc {α : Type} (d : Dev) (x : Acc α) (basin : Nat := 0) (tag : W32 := noTag) : Dev :=
  match x with
  | .fabric a => if poolMapped d a then { d with eng.linkDown := true } else fabFail d a 2 basin tag
  | .poison (.pool, w) => fabFail d (8 * w) 1 basin tag
  | _ => d

/-- A command that met a link that is down has no effect yet: it waits for retraining or for its timeout. -/
def orWait (s d : Dev) : Dev := if d.eng.linkDown && !s.eng.linkDown then s else d

/-! ### Copies, which keep poison (R392) -/

/-- Poison of the words of a memory range, as word offsets. -/
def rangePoison (d : Dev) (b a n : Nat) : List Nat :=
  (List.range (n / 8)).filter (fun i =>
    match translate d b (a + 8 * i) with
    | .ok p => pagePoison d p.pool (p.base + (a + 8 * i) % 65536)
    | _ => false)

/-- Bytes of a basin address without regard to poison, which a copy keeps (R392). -/
def vRaw (d : Dev) (b : Nat) : Nat → Nat → Acc (List Byte)
  | _, 0 => .ok []
  | a, n + 1 =>
    match translate d b a with
    | .ok p =>
      let x := p.base + a % 65536
      if p.pool && !poolOpen d x then .fabric x
      else (vRaw d b (a + 1) n).map (fun bs => (if p.pool then poolRead d x else Mem.read d.mem.hbm x) :: bs)
    | .xfault => .xfault
    | .poison w => .poison w
    | .fabric x => .fabric x
    | .flash => .flash

/-! ### Namespaces (R379, R381, R383) -/

def nsKey (b off : Nat) : Nat := b * 2 ^ 50 + off

/-- One byte of a namespace: the dirty cached copy, else what is on flash. A poisoned word stays so when it is written back
(R392). -/
def nsByte (d : Dev) (b off : Nat) : Acc Byte :=
  let cached := d.mem.dirty.contains (b, off / 4096)
  if !cached && d.mem.unreadable.contains (b, off / 4096) then .flash
  else if poisoned d .ns (nsKey b off / 8) then .poison (.ns, nsKey b off / 8)
  else .ok (Mem.read (if cached then d.mem.wcache else d.mem.flash) (nsKey b off))

def nsRead (d : Dev) (b : Nat) : Nat → Nat → Acc (List Byte)
  | _, 0 => .ok []
  | off, n + 1 =>
    match nsByte d b off with
    | .ok x =>
      match nsRead d b (off + 1) n with
      | .ok xs => .ok (x :: xs)
      | e => e
    | .xfault => .xfault
    | .poison w => .poison w
    | .fabric x => .fabric x
    | .flash => .flash

/-! ### Shore windows (R40, R80) -/

def shoreAddr (b block off : Nat) : Nat := b * 2 ^ 26 + block * 65536 + off

def shoreRead (d : Dev) (b block off n : Nat) : List Byte := Mem.readN d.mem.shore (shoreAddr b block off) n

def shoreWrite (d : Dev) (b block off : Nat) (bs : List Byte) : Dev :=
  let a := shoreAddr b block off
  clearPoison { d with mem.shore := Mem.writeL d.mem.shore a bs } .shore a (a + bs.length)

/-- A range joined to a list of ranges that lie apart and rise. -/
def addRange (lo n : Nat) : List (Nat × Nat) → List (Nat × Nat)
  | [] => [(lo, n)]
  | (a, k) :: rs =>
    if lo + n < a then (lo, n) :: (a, k) :: rs
    else if a + k < lo then (a, k) :: addRange lo n rs
    else addRange (min lo a) (max (lo + n) (a + k) - min lo a) rs

/-- The module has written a range of a window: the blocks that it holds for output count it (R79). -/
def noteWritten (d : Dev) (a n : Nat) : Dev :=
  { d with host.held := d.host.held.map (fun h =>
      let w := shoreAddr h.basin h.block 0
      if h.out && overlaps a n w 65536 then
        { h with wrote := addRange (max a w - w) (min (a + n) (w + 65536) - max a w) h.wrote }
      else h) }

/-- USED of a block: the bytes that the module wrote (R79). -/
def HeldBlock.used (h : HeldBlock) : Nat := (h.wrote.map (·.2)).sum

/-- A range of a window holds a poisoned word. -/
def shorePoison (d : Dev) (a n : Nat) : Bool :=
  d.mem.poison.any (fun p => decide (p.1 = .shore) && overlaps (p.2 * 8) 8 a n)

/-! ### Descriptors (Table 3-4) -/

namespace Desc
def opcode (x : List Byte) : Nat := byteAt x 0
def prio (x : List Byte) : Nat := byteAt x 1 % 4
def more (x : List Byte) : Bool := bitOf (byteAt x 1) 2
def profile (x : List Byte) : Nat := byteAt x 2
def cookie (x : List Byte) : Nat := fieldN x 4 4
def handle (x : List Byte) : Nat := fieldN x 8 8
def target (x : List Byte) : Nat := fieldN x 8 4
def inBlock (x : List Byte) : Nat := fieldN x 16 4
def inLen (x : List Byte) : Nat := fieldN x 20 4
def outBlock (x : List Byte) : Nat := fieldN x 24 4
def outCap (x : List Byte) : Nat := fieldN x 28 4
def deadline (x : List Byte) : Nat := fieldN x 32 4
def k (x : List Byte) : Nat := fieldN x 36 4
def seed (x : List Byte) : Nat := fieldN x 40 8
def pin (x : List Byte) : Nat := fieldN x 48 8
def opspec (x : List Byte) : Nat := fieldN x 56 8
/-- Blocks named by IN_REF and OUT_REF (R81). -/
def inBlocks (x : List Byte) : List Nat := (List.range (ceilDiv (inLen x) 65536)).map (· + inBlock x)
def outBlocks (x : List Byte) : List Nat := (List.range (ceilDiv (outCap x) 65536)).map (· + outBlock x)
end Desc

/-! ### Requests -/

def findReq (d : Dev) (slot : Nat) : Option Req := d.reqs.find? (fun r => decide (r.slot = slot))

def setReq (d : Dev) (r : Req) : Dev := { d with reqs := modWhere (fun x => decide (x.slot = r.slot)) (fun _ => r) d.reqs }

def modReq (d : Dev) (slot : Nat) (f : Req → Req) : Dev :=
  { d with reqs := modWhere (fun x => decide (x.slot = slot)) f d.reqs }

/-- Work of a request, of its context: it waits where a field of its basin has no majority (R117). -/
def forSlot (s : State) (slot : Nat) (op : Dev → Dev) : Host.Outcome State Fault Refusal :=
  ok s (match findReq s.dev slot with
    | some r => if basinWaits s.dev r.basin then basinMarks s.dev r.basin else orWait s.dev (op s.dev)
    | none => op s.dev)

def forCtx (s : State) (ctx : Nat) (op : Dev → Dev) : Host.Outcome State Fault Refusal :=
  ok s (match s.dev.jobs.ctxs.find? (fun c => decide (c.id = ctx)) with
    | some c => if basinWaits s.dev c.basin then basinMarks s.dev c.basin else orWait s.dev (op s.dev)
    | none => op s.dev)

/-- The tag of a request (R14). -/
def Req.tag (r : Req) : W32 := BitVec.ofNat 32 (r.count * 2 ^ 20 + r.slot)

def Req.op (r : Req) : Nat := Desc.opcode r.desc

/-- The request's priority class (R17). -/
def Req.prio (r : Req) : Nat := let p := Desc.prio r.desc; if p = 0 then 1 else p

/-- The class of the request's generation passes (R17). -/
def Req.passPrio (r : Req) : Nat := if Desc.prio r.desc ≤ 1 then 0 else Desc.prio r.desc

/-- FLAGS bit numbers of Table 3-8. -/
def Req.flag (r : Req) (bit : Nat) : Req := { r with flags := r.flags ||| 2 ^ bit }

def Req.live (r : Req) : Bool := r.ended.isNone

/-- Current or retained (R138). -/
def Version.kept (v : Version) : Bool := !v.retired

/-- Versions (R125, R138). -/
def findVer (d : Dev) (uid : Nat) : Option Version := d.txn.versions.find? (fun v => decide (v.uid = uid))

/-- The current version of a slot. -/
def currentVer (d : Dev) (b cls slot : Nat) : Option Version :=
  d.txn.versions.find? (fun v => decide (v.basin = b ∧ v.cls = cls ∧ v.slot = slot) && v.superseded.isNone)

/-- The version of a slot in force just after commit c, current or retained; with c = 0 the current one (R16). -/
def verAt (d : Dev) (b cls slot c : Nat) : Option Version :=
  if c = 0 then currentVer d b cls slot
  else d.txn.versions.find? (fun v => decide (v.basin = b ∧ v.cls = cls ∧ v.slot = slot ∧ v.num ≤ c) &&
    (match v.superseded with | none => true | some n => decide (c < n)))

def modVer (d : Dev) (uid : Nat) (f : Version → Version) : Dev :=
  { d with txn.versions := modWhere (fun v => decide (v.uid = uid)) f d.txn.versions }

/-- The bitmap state in force: the last one made at or before commit c; c = 0 the current one. -/
def bitStateAt (v : Version) (c : Nat) : Option BitState :=
  (v.bits.filter (fun s => decide (c = 0 ∨ s.commit ≤ c))).getLast?

/-- The copy of a bitmap page that is in force at a commit (R152): the commit of its state, and the bytes. -/
def bitCopy (v : Version) (commit p : Nat) : Option (Nat × Mem) :=
  ((v.bits.filter (fun s => decide (s.commit ≤ commit))).filterMap (fun s =>
    (s.copies.find? (fun c => decide (c.1 = p))).map (fun c => (s.commit, c.2)))).getLast?

/-! ### Held blocks and flags (R78, R79, R82) -/

/-- The flag-array address of a basin (RING_FLAGS). -/
def flagBase (d : Dev) (b : Nat) : Nat := liveN d .ring b 0x10C * 2 ^ 32 + liveN d .ring b 0x108

def hostWrite (d : Dev) (b a : Nat) (bs : List Byte) : Dev :=
  { d with host.hostMem := Mem.writeL d.host.hostMem (b * 2 ^ 64 + a) bs }

/-- The flag that returns or poisons a block (Table 3-3). -/
def flagWord (h : HeldBlock) (used : Nat) : Nat :=
  if h.poisoned then 3 + (h.seq + 1) % 65536 * 65536
  else 2 + (h.seq + 1) % 65536 * 65536 + used * 2 ^ 32

/-- Write the flag of a held block and release it. -/
def returnBlock (d : Dev) (h : HeldBlock) : Dev :=
  let d := hostWrite d h.basin (flagBase d h.basin + 8 * h.block) (natLe 8 (flagWord h h.used))
  { d with host.held := d.host.held.filter (fun x => !decide (x.basin = h.basin ∧ x.block = h.block)) }

/-- The flag of a block can be written: a poisoned one waits until its page has been remapped (R85). -/
def HeldBlock.clear (h : HeldBlock) : Bool := !h.poisoned || h.remapped

/-- Write the flags that are due of some held blocks. -/
def returnDue (d : Dev) (p : HeldBlock → Bool) : Dev :=
  (d.host.held.filter (fun h => p h && h.clear)).foldl returnBlock d

/-- HBM page that holds a shore block: of the firmware reserve (R485). -/
def windowPage (b block : Nat) : Nat := 0x400000 + Config.windowPlace b block % 0xAAA0

/-- Mark a held block as poisoned (R79); its page is to be remapped (R85, R397). -/
def poisonBlock (d : Dev) (b block : Nat) : Dev :=
  { d with host.held := modWhere (fun h => decide (h.basin = b ∧ h.block = block) && !h.poisoned) (fun h => { h with poisoned := true, remapped := false }) d.host.held,
           mem.suspect := if d.host.held.any (fun h => decide (h.basin = b ∧ h.block = block) && !h.poisoned)
             then d.mem.suspect ++ [(windowPage b block, d.now, true)] else d.mem.suspect }

def isHeld (d : Dev) (b block : Nat) : Bool := d.host.held.any (fun h => decide (h.basin = b ∧ h.block = block))

/-- ERRLOG's blocks of basin 0's window count as held (R399). -/
def logHolds (d : Dev) (b block : Nat) : Bool :=
  let c := liveN d .errlog 0 0x100
  decide (b = 0) && bitOf c 31 && decide (c % 1024 ≤ block ∧ block < c % 1024 + bitsOf c 20 16)

/-- Bytes of the request's output written at an offset of its OUT_REF blocks. -/
def outWrite (d : Dev) (r : Req) (off : Nat) (bs : List Byte) : Dev :=
  noteWritten (shoreWrite d r.basin (Desc.outBlock r.desc) off bs) (shoreAddr r.basin (Desc.outBlock r.desc) off) bs.length

/-- IN_REF blocks of a descriptor have been read (R82): their flags are written, but for an outlet ring that a failed DMA
write disabled, which holds them (R98), and for a page that is still to be remapped. -/
def returnInput (d : Dev) (slot : Nat) : Dev :=
  let d := { d with host.held := modWhere (fun h => decide (h.slot = slot) && !h.out) (fun h => { h with done := true }) d.host.held }
  match findReq d slot with
  | some r => if d.host.failed.contains (r.basin, r.outRing) then d else returnDue d (fun h => decide (h.slot = slot) && h.done)
  | none => returnDue d (fun h => decide (h.slot = slot) && h.done)

/-- Bytes of the request's input. -/
def inBytes (d : Dev) (r : Req) : List Byte := shoreRead d r.basin (Desc.inBlock r.desc) 0 (Desc.inLen r.desc)

def inPoison (d : Dev) (r : Req) : Bool := shorePoison d (shoreAddr r.basin (Desc.inBlock r.desc) 0) (Desc.inLen r.desc)

end Sys2Proof.Machine
end

