-- ==== Sys2Proof/Machine/Ends.lean ====
section
/-! DEFINITION. The end of a request (R15, R35, R36, R82, R91), and the usage registers (R47, R64). -/

namespace Sys2Proof.Machine

/-! ### Usage (Table 2-4, R489) -/

/-- Entries of a translation table that are VALID: address and word. -/
def validEntries (d : Dev) (base : Nat) : List (Nat × Nat) :=
  (d.mem.xlat.filter (fun e => decide (base ≤ e.1 ∧ e.1 < base + 0x40000) && e.2.getLsbD 0)).map (fun e => (e.1, e.2.toNat))

/-- Level-2 tables named by valid level-1 entries of a basin. -/
def level2Tables (d : Dev) (b : Nat) : List Nat :=
  (validEntries d (xlatRoot d b)).map (fun e => e.2 / 65536 * 65536)

/-- The pages that the basin's translation maps, of one tier: page addresses, one per mapping. -/
def mappedPages (d : Dev) (b : Nat) (pool : Bool) : List Nat :=
  (level2Tables d b).flatMap (fun t =>
    ((validEntries d t).filter (fun e => bitOf e.2 2 == pool)).map (fun e => e.2 / 65536))

/-- The states of a bitmap that need page p: those from state s on until it is copied again. A copy is held while
one of them is not retired (R152). -/
def copyHeld (bs : List BitState) (s : BitState) (p : Nat) : Bool :=
  let later := bs.filter (fun t => decide (s.commit ≤ t.commit))
  let stop := (later.filter (fun t => decide (s.commit < t.commit) && t.pages.contains p)).head?
  (match stop with
   | none => later
   | some t => later.filter (fun u => decide (u.commit < t.commit))).any (fun t => !t.retired)

/-- Tombstone or absent-row pages charged for a version. -/
def bitmapPages (v : Version) : Nat :=
  (v.bits.map (fun s => (s.pages.filter (fun p => copyHeld v.bits s p)).length)).sum

/-- HBM pages charged for a version besides its mappings (R152, R158, R207, R208, R254, R371). -/
def verPages (v : Version) : Nat :=
  if v.retired then 0 else
  bitmapPages v +
  (if v.cls = 0 ∧ v.superseded.isNone then fieldN v.desc 112 4 else 0) +
  (if v.cls = 1 then fieldN v.desc 48 4 else 0) +
  (if v.cls = 4 ∧ (bitOf (byteAt v.desc 7) 0 ∨ v.resident ∨ v.loading) then fieldN v.desc 64 4 else 0)

/-- HBM pages charged to a basin (BSN_U_HBM). -/
def useHbm (d : Dev) (b : Nat) : Nat :=
  (if b ≠ 0 ∧ basinState d b ≠ 0 then 1024 else 0) +
  (mappedPages d b false).length +
  ((d.txn.versions.filter (fun v => decide (v.basin = b))).map verPages).sum +
  ((d.reqs.filter (fun r => decide (r.basin = b))).map (fun r =>
    match r.stream with | some s => s.pages + s.scratch | none => 0)).sum +
  ((d.eng.handles.filter (fun h => decide (h.basin = b))).map (fun h => h.hbmPages)).sum +
  ((d.eng.gaths.filter (fun g => (match findVer d g.ver with | some v => decide (v.basin = b) | none => false))).map (fun g => g.pages)).sum +
  ((d.mem.zeroing.filter (fun z => decide (z.1 = b))).map (fun z => z.2.1)).sum

/-- Pool pages charged to a basin (BSN_U_POOL). -/
def usePool (d : Dev) (b : Nat) : Nat :=
  (mappedPages d b true).length +
  ((d.eng.handles.filter (fun h => decide (h.basin = b))).map (fun h => h.poolPages)).sum +
  ((d.mem.zeroing.filter (fun z => decide (z.1 = b))).map (fun z => z.2.2)).sum

/-- Tags held by a basin (BSN_U_TAGS). -/
def useTags (d : Dev) (b : Nat) : Nat := (d.reqs.filter (fun r => decide (r.basin = b))).length

/-- Walker queries held by a basin (BSN_U_WALK). -/
def useWalk (d : Dev) (b : Nat) : Nat := (d.reqs.filter (fun r => decide (r.basin = b) && r.walkCharge)).length

/-- A charge of HBM pages is within the basin's quota (R48, R49). -/
def fitsHbm (d : Dev) (b n : Nat) : Bool := decide (n = 0 ∨ useHbm d b + n ≤ qHbm d b)
def fitsPool (d : Dev) (b n : Nat) : Bool := decide (n = 0 ∨ usePool d b + n ≤ qPool d b)

/-! ### Handles: the end of a hold (R272, R273, R275) -/

def modHandle (d : Dev) (idx : Nat) (f : Handle → Handle) : Dev :=
  { d with eng.handles := modWhere (fun h => decide (h.idx = idx)) f d.eng.handles }

/-- Pages of a store that is given up and that another handle's store shares stay, charged to the handle that shares most of
them; the further sharers share with that one. -/
def passOn (g : Handle) (heir : Nat × Nat) (h : Handle) : Handle :=
  match h.lender with
  | some (i, n) =>
    if i ≠ g.idx then h
    else if h.idx = heir.1 then
      let own := n - (match g.lender with | some (_, k) => min k n | none => 0)
      { h with own := h.own + own, lender := g.lender.map (fun l => (l.1, min l.2 n)),
               hbmPages := h.hbmPages + (if g.inPool then 0 else own), poolPages := h.poolPages + (if g.inPool then g.poolPages else 0) }
    else { h with lender := some (heir.1, n) }
  | none => h

/-- The handles without one of them, its shared pages passed on. -/
def withoutHandle (idx : Nat) (hs : List Handle) : List Handle :=
  let rest := hs.filter (fun h => !decide (h.idx = idx))
  let sharers := rest.filterMap (fun h => match h.lender with | some (i, n) => if i = idx then some (h.idx, n) else none | none => none)
  match hs.find? (fun h => decide (h.idx = idx)),
      sharers.foldl (fun (acc : Option (Nat × Nat)) x => match acc with | some y => if y.2 < x.2 then some x else some y | none => some x) none with
  | some g, some heir => rest.map (passOn g heir)
  | _, _ => rest

def freeHandle (d : Dev) (idx : Nat) : Dev := { d with eng.handles := withoutHandle idx d.eng.handles }

/-- A handle whose store is lost is freed; while requests hold it, when the last hold ends. Its store is reused no more, and
its tokens are still the prefix of those requests. DESIGN CHOICE (log 200). -/
def loseStore (d : Dev) (idx : Nat) : Dev :=
  match d.eng.handles.find? (fun h => decide (h.idx = idx)) with
  | none => d
  | some h =>
    if h.holds = [] then freeHandle d idx
    else modHandle d idx (fun h => { h with released := true, expiry := none, fed := 0, moving := h.moving && !h.inPool,
                                            hbmPages := if h.inPool then 0 else h.hbmPages })

def endHold (d : Dev) (idx slot : Nat) : Dev :=
  match d.eng.handles.find? (fun h => decide (h.idx = idx)) with
  | none => d
  | some h =>
    let rest := h.holds.filter (fun s => !decide (s = slot))
    if rest ≠ [] then modHandle d idx (fun h => { h with holds := rest })
    else if h.released then freeHandle (if h.expiry.isSome then count d .gen 0 0x124 1 else d) idx
    else modHandle d idx (fun h =>
      -- a return to HBM that is under way is given up (Table 11-5: with no move)
      { h with holds := [], st := if h.inPool then .parked else .idle, since := d.now,
               moving := h.moving && !h.inPool, hbmPages := if h.inPool then 0 else h.hbmPages,
               expiry := if h.inPool then some (d.now + sCycles h.ttlS) else none })

/-! ### Completions -/

/-- Queue a refused descriptor's completion (R13, R89). -/
def refuse (d : Dev) (basin outRing cookie cls : Nat) : Dev :=
  let d := if cls = 0x50 then count d .bsn basin 0x160 1 else d
  { d with host.comps := d.host.comps ++ [⟨basin, outRing, none, noTag, cookie, cls, 0, 0, 0, 0, d.now⟩] }

/-- Class order of R36; the request's own class comes last. -/
def dueOrder : List Nat := [0x7F, 0x51, 0x61, 0x40, 0x41, 0x42, 0x70]

def firstDue (due : List Nat) : Nat :=
  match dueOrder.find? (fun c => due.contains c) with
  | some c => c
  | none => due.headD 0

/-- Contexts that hold cores. -/
def holding (c : Ctx) : Bool := decide (c.phase = .running ∨ c.phase = .saving)

/-- The window over which shares are judged (R353). -/
def shareWindow : Nat := usCycles 1000

/-- A context gives up its cores: the time that it held them is charged to its basin, what a pre-emption and a resumption
took of it included (R359). Time that lies outside the window is forgotten. -/
def endSpan (d : Dev) (c : Ctx) : Dev :=
  if holding c then
    { d with jobs.spans := d.jobs.spans.filter (fun x => decide (d.now < x.2.2.2 + shareWindow)) ++ [(c.basin, c.place.length, c.started, d.now)] }
  else d

def basinWeight (d : Dev) (b : Nat) : Nat := liveN d .bsn b 0x108 % 8192

/-- A job context leaves (R361): its cores, its window, its unstarted commands and its synchronisation state. A sort in progress
finishes without it. -/
def dropCtx (d : Dev) (id : Nat) : Dev :=
  let d := match d.jobs.ctxs.find? (fun c => decide (c.id = id)) with | some c => endSpan d c | none => d
  { d with
    jobs.ctxs := d.jobs.ctxs.filter (fun c => !decide (c.id = id)),
    eng.sorts := (d.eng.sorts.filter (fun c => !decide (c.ctx = some id) || c.running)).map (fun c => if c.ctx = some id then { c with ctx := none } else c),
    eng.gaths := d.eng.gaths.filter (fun g => !decide (g.ctx = some id)),
    mem.poison := d.mem.poison.filter (fun p => match p.1 with
      | .dbuf c => decide (c ≠ id) | .tarn c _ => decide (c ≠ id) | .save c => decide (c ≠ id) | _ => true) }

/-- What a request holds is given back: walker context and charge, stream, hold, commands, its place in the engines.
The context of a linked set stays until its end has been told to the home. -/
def releaseWork (d : Dev) (r : Req) : Dev :=
  let d := (d.jobs.ctxs.filter (fun c => decide (c.slot = r.slot) && c.link.isNone)).foldl (fun d c => dropCtx d c.id) d
  let d := { d with
    eng.walkWait := d.eng.walkWait.filter (fun s => !decide (s = r.slot)),
    eng.sorts := d.eng.sorts.filter (fun c => !decide (c.slot = some r.slot)),
    eng.gaths := d.eng.gaths.filter (fun g => !decide (g.slot = some r.slot)),
    txn.waiting := d.txn.waiting.filter (fun s => !decide (s = r.slot)),
    txn.active := d.txn.active.filter (fun a => !decide (a.slot = r.slot)) }
  match r.hold with
  | some h => endHold d h r.slot
  | none => d

/-- The request leaves its stages with a class; its completion is queued, or, where R43 or R100 says that none is
written, its tag and blocks are released. BSN_FAULTS counts a faulted context and the request that it served once together.
DESIGN CHOICE (log 204). -/
def finish (d : Dev) (r : Req) (cls : Nat) : Dev :=
  let d := releaseWork d r
  let d := { d with jobs.ctxs := modWhere (fun c => decide (c.slot = r.slot)) (fun c => { c with slot := Config.totalTags, fault := some cls }) d.jobs.ctxs }
  let d := if cls = 0x60 ∨ cls = 0x20 then count d .bsn r.basin 0x164 1 else d
  if r.silent then
    { d with reqs := d.reqs.filter (fun x => !decide (x.slot = r.slot)),
             host.held := d.host.held.filter (fun h => !decide (h.slot = r.slot)) }
  else
    let d := setReq d { r with ended := some cls, stage := .ended, busy := false, walk := none, walkCharge := false,
                               stream := none, hold := none, due := [], awaiting := false }
    { d with host.comps := d.host.comps ++
        [⟨r.basin, r.outRing, some r.slot, r.tag, Desc.cookie r.desc, cls, r.flags, r.outLen, r.newHandle, r.outCount, r.admitted⟩] }

/-- CONTINUE descriptors that TOK has not read to their end when their target ends complete with INPUT_MALFORMED,
COUNT the bytes read (R91). -/
def finishContinues (d : Dev) (r : Req) : Dev :=
  (d.reqs.filter (fun c => decide (c.op = 6) && c.live && decide (Desc.target c.desc = r.tag.toNat) && decide (c.basin = r.basin))).foldl
    (fun d c => finish d c 0x11) d

/-- End a live request with a class. -/
def endReq (d : Dev) (slot cls : Nat) : Dev :=
  match findReq d slot with
  | none => d
  | some r => if r.live then finishContinues (finish d r cls) r else d

/-- The input of a GATHER, a SCATTER_MERGE or a RUN_JOB comes in several descriptors (R95). -/
def Req.streamed (r : Req) : Bool := decide (9 ≤ r.op ∧ r.op ≤ 11) && Desc.more r.desc

/-- Bytes of the request's input. -/
def Req.inLen (r : Req) : Nat := if r.streamed then r.input.length else Desc.inLen r.desc

/-- Add a reason to end a request at its next step boundary (R35, R36). -/
def addDue (d : Dev) (slot cls : Nat) : Dev := modReq d slot (fun r => if r.live then { r with due := r.due ++ [cls] } else r)

/-- Every request that is due and stands at a step boundary ends. A CONTINUE has none before its completion (R488). -/
def settle (d : Dev) : Dev :=
  (d.reqs.filter (fun r => r.live && !r.busy && decide (r.due ≠ [] ∧ r.op ≠ 6))).foldl (fun d r => endReq d r.slot (firstDue r.due)) d

/-- End with a class at the step boundary that the request has now reached, unless another reason comes first (R36). -/
def endAt (d : Dev) (slot cls : Nat) : Dev :=
  match findReq d slot with
  | none => d
  | some r => endReq (modReq d slot (fun r => { r with busy := false })) slot (firstDue (r.due ++ [cls]))

/-- End with the class of a failed access. -/
def endAcc {α : Type} (d : Dev) (slot : Nat) (e : Acc α) : Dev :=
  endAt (match findReq d slot with | some r => noteAcc d e r.basin r.tag | none => d) slot e.cls

/-- The work of a stage has reached a step boundary: the request ends if it is due, else goes on. -/
def boundary (d : Dev) (slot : Nat) : Dev := settle (modReq d slot (fun r => { r with busy := false }))

/-- A poisoned word at a place, consumed for a request by a unit: its BLK_STAT bit, a POISON_USED record (R393). -/
def poisonUsed (d : Dev) (k : Blk) (i bit : Nat) (r : Req) (place : Nat) (d2 d3 : W32 := 0) : Dev :=
  logEvent (setStat d k i bit r.basin r.tag d2 d3) 3 (pageNo k i) r.basin r.tag place 0x40

/-- The same for a read that failed; nothing where it failed for another cause. -/
def poisonMet {α : Type} (d : Dev) (e : Acc α) (k : Blk) (i bit : Nat) (r : Req) (d2 d3 : W32 := 0) : Dev :=
  match e with
  | .poison w => poisonUsed d k i bit r (placeOf w) d2 d3
  | _ => d

/-- The version in force of a class, as a pin. -/
def Req.named (d : Dev) (u : Option Nat) : Option Version :=
  match u with
  | none => none
  | some u => findVer d u

/-- The pinned profile record. -/
def Req.prof (d : Dev) (r : Req) : List Byte :=
  match Req.named d r.pins.profile with
  | some v => v.desc
  | none => []

end Sys2Proof.Machine
end

