-- ==== Sys2Proof/Machine/Ripple.lean ====
section
/-! DEFINITION. Staged registers, arming and firing (chapter 04), the RING page's apply (R76), plain register writes. -/

namespace Sys2Proof.Machine

/-- A page has an arming that it has not applied. -/
def isArmed (d : Dev) (k : Blk) (i : Nat) : Bool := d.regs.armed.any (fun a => decide (a.page = pageNo k i))

/-- Capture the staged values of a page as they stand (R108). -/
def captureStaged (d : Dev) (k : Blk) (i : Nat) : List (Nat × W32) :=
  (k.stagedOffs i).map (fun o => (regA k i o, staged d (regA k i o)))

/-- A staged field of the page has no majority, so its capture waits until the field is written again (R117). -/
def stagedWaits (d : Dev) (k : Blk) (i : Nat) : Bool :=
  d.regs.tmr.any (fun t => t.staged && decide (t.off / 0x1000 = pageNo k i) && (tmrFields t.off).any (fieldLost d true t.off))

/-- Arm a page for some fires; a page already armed waits (R109). -/
def armPage (d : Dev) (page : Nat) (groups : List Nat) : Dev :=
  match pageOf page with
  | none => d
  | some (k, i) =>
    if isArmed d k i || stagedWaits d k i then { d with regs.waiting := d.regs.waiting ++ (if groups = [] then [(page, none)] else groups.map (fun g => (page, some g))) }
    else { d with regs.armed := d.regs.armed ++ [⟨page, groups, captureStaged d k i⟩],
                  regs.pendingPages := d.regs.pendingPages.filter (fun p => !decide (p = page)) }

/-- GROUP of a page (R107). -/
def groupOf (d : Dev) (page : Nat) : Nat := (live d (page * 0x1000 + 0x14)).toNat % 16

/-- The members of a group: pages with staged fields. A GROUP without a majority is not used (R117). -/
def membersOf (d : Dev) (g : Nat) : List Nat :=
  stagedPages.filter (fun p => decide (groupOf d p = g) && !noMajority d (p * 0x1000 + 0x14))

/-- A fire completes (R110). -/
def completeFire (d : Dev) (g : Nat) : Dev :=
  let d := { d with regs.fires := d.regs.fires.filter (fun f => !decide (f.group = g)) }
  let d := count d .ripple 0 (0x140 + 4 * g) 1
  let d := setLiveBit d (regA .ripple 0 0x118) g true
  setStat d .ripple 0 0

/-- Fire a group at the present instant: every member is armed; with no member the fire completes at once. -/
def startFire (d : Dev) (g : Nat) : Dev :=
  let ms := membersOf d g
  let d := { d with regs.fires := d.regs.fires ++ [⟨g, ms, d.now, false, 0⟩] }
  let d := ms.foldl (fun d p => armPage d p [g]) d
  if ms = [] then completeFire d g else d

/-- A fire request (R109): queued while a fire of the group is in progress, merged while one is queued. -/
def fireGroup (d : Dev) (g : Nat) : Dev :=
  if d.regs.fires.any (fun f => decide (f.group = g)) then
    if d.regs.queued.contains g then d else { d with regs.queued := d.regs.queued ++ [g] }
  else startFire d g

/-- Bits [15:0] of a RIPPLE_FIRE write fire their groups. -/
def fireMask (d : Dev) (v : Nat) : Dev :=
  ((List.range 16).filter (fun g => bitOf v g)).foldl fireGroup d

/-- A member of the fire of group g has applied. -/
def memberDone (d : Dev) (page g : Nat) : Dev :=
  let d := { d with regs.fires := modWhere (fun f => decide (f.group = g)) (fun f => { f with members := f.members.filter (fun p => !decide (p = page)) }) d.regs.fires }
  if d.regs.fires.any (fun f => decide (f.group = g) && decide (f.members = [])) then
    let d := completeFire d g
    if d.regs.queued.contains g then startFire { d with regs.queued := d.regs.queued.filter (fun x => !decide (x = g)) } g else d
  else d

/-- The armings that waited for the page's apply take place, with the values as they now stand. -/
def releaseWaiting (d : Dev) (page : Nat) : Dev :=
  let w := d.regs.waiting.filter (fun x => decide (x.1 = page))
  if w = [] then d
  else armPage { d with regs.waiting := d.regs.waiting.filter (fun x => !decide (x.1 = page)) } page (w.filterMap (fun x => x.2))

/-- Set SLOW for a fire (R111). -/
def setSlow (d : Dev) (g laggard : Nat) : Dev :=
  let d := { d with regs.fires := modWhere (fun f => decide (f.group = g)) (fun f => { f with slow := true, laggard := laggard }) d.regs.fires }
  setStat d .ripple 0 1

/-! ### The RING page's safe boundary and apply (R76) -/

/-- The staged values of inlet or outlet ring registers differ from the live ones. -/
def ringChanged (vals : List (Nat × W32)) (d : Dev) (offs : List Nat) : Bool :=
  vals.any (fun v => offs.contains v.1 && decide (v.2 ≠ live d v.1))

def inOffs (b i : Nat) : List Nat := [0x200, 0x204, 0x208].map (fun o => regA .ring b (o + 0x20 * i))
def outOffs (b j : Nat) : List Nat := [0x400, 0x404, 0x408].map (fun o => regA .ring b (o + 0x20 * j))
def flagOffs (b : Nat) : List Nat := [0x108, 0x10C].map (regA .ring b)

def ringEnabled (d : Dev) (b bit : Nat) : Bool := bitOf (liveN d .ring b 0x104) bit

/-- Every ring whose values change is disabled; a changed flag-array base needs every ring disabled. -/
def ringBoundary (d : Dev) (b : Nat) (vals : List (Nat × W32)) : Bool :=
  (List.range 16).all (fun i => !(ringChanged vals d (inOffs b i) && ringEnabled d b i)) &&
  (List.range 16).all (fun j => !(ringChanged vals d (outOffs b j) && ringEnabled d b (16 + j))) &&
  (!(ringChanged vals d (flagOffs b)) || decide (liveN d .ring b 0x104 = 0))

/-- Each changed ring's head and tail are set to 0 and its PHASE to 1. -/
def ringRestart (d d0 : Dev) (b : Nat) (vals : List (Nat × W32)) : Dev :=
  let d := ((List.range 16).filter (fun i => ringChanged vals d0 (inOffs b i))).foldl (fun d i =>
    setLiveN (setLiveN d .ring b (0x20C + 0x20 * i) 0) .ring b (0x210 + 0x20 * i) 0) d
  ((List.range 16).filter (fun j => ringChanged vals d0 (outOffs b j))).foldl (fun d j =>
    setLiveN (setLiveN d .ring b (0x40C + 0x20 * j) 0) .ring b (0x410 + 0x20 * j) 0x10000) d

/-- Write the captured values to the live copies, in one cycle (R105). -/
def landValues (d : Dev) (vals : List (Nat × W32)) : Dev := vals.foldl (fun d v => setLive d v.1 v.2) d

/-! ### Plain register writes (R8, R102, R106, R119) -/

def badAccess (d : Dev) : Dev := count d .glb 0 0x100 1
def lockRefused (d : Dev) : Dev := count d .glb 0 0x104 1

/-- CFG_LOCK (bit 0) or IRQ_LOCK (bit 1) of a page; a lock without a majority counts as set (R117). -/
def locked (d : Dev) (k : Blk) (i bit : Nat) : Bool :=
  bitOf (liveN d k i 0x44) bit ||
  fieldLost d false (regA k i 0x44) (bit, bit)

/-- A write to this register is refused by a lock (R119). -/
def lockRefuses (d : Dev) (k : Blk) (i off : Nat) (r : RegDef) : Bool :=
  ((decide (r.rws ≠ 0) || decide (off = 0x14)) && locked d k i 0) || ((decide (off = 0x28) || decide (off = 0x2C)) && locked d k i 1)

/-- Function `fn` reaches the page: PF0 every page, VF n the RING and BSN pages of basin n (R39). -/
def reaches (fn : Nat) (k : Blk) (i : Nat) : Bool := decide (fn = 0) || (decide (i = fn) && (k = .ring || k = .bsn))

/-- Registers of a VF's common page that it may not write (R106). -/
def vfReadOnly (off : Nat) : Bool := [0x14, 0x2C, 0x44].contains off

/-- Clear the W1C bits written as 1, but for those that hardware sets in the same cycle (R9). -/
def clearW1c (d : Dev) (k : Blk) (i off : Nat) (v : W32) (hw : List HwSet) : Dev :=
  if off = 0x20 then clearStat d k i v hw
  else
    let kept := (setsNow d k off ++ hw).foldl (fun m h => m ||| BitVec.ofNat 32 (2 ^ h.bit)) (0 : W32)
    let a := regA k i off
    let w := (live d a &&& ~~~ v) ||| kept
    let d := setLive (hw.foldl (fun d h => noteSet d k i off h) d) a w
    if off = 0x40 ∧ w.toNat % 4 = 0 then setLive d a 0 else d

/-- BLK_IEN: setting an enable while its status bit is 1 signals once (R122). -/
def writeIen (d : Dev) (k : Blk) (i : Nat) (v : W32) : Dev :=
  let old := live d (regA k i 0x28)
  let d1 := setLive d (regA k i 0x28) v
  if (v &&& ~~~ old) &&& live d (regA k i 0x20) ≠ 0 then signalPage d1 k i else d1

/-- Effect of a write that is neither refused nor held, on a register without behaviour of its own. -/
def landWrite (d : Dev) (k : Blk) (i off : Nat) (r : RegDef) (v : W32) (hw : List HwSet) : Dev :=
  let a := regA k i off
  if r.rws ≠ 0 then
    let d := setStaged d a (merge32 (staged d a) (BitVec.ofNat 32 r.rws) v)
    let p := pageNo k i
    let d := { d with regs.pendingPages := if d.regs.pendingPages.contains p then d.regs.pendingPages else d.regs.pendingPages ++ [p] }
    if isArmed d k i then d else releaseWaiting d p
  else if r.w1c ≠ 0 then clearW1c d k i off (v &&& BitVec.ofNat 32 r.w1c) hw
  else if r.oneway ≠ 0 then setLive d a (live d a ||| (v &&& BitVec.ofNat 32 r.oneway))
  else if off = 0x28 then writeIen d k i v
  else if r.rw ≠ 0 then setLive d a (merge32 (live d a) (BitVec.ofNat 32 r.rw) v)
  else d

/-- Classification of a 4-byte host write: the page and register it lands on. -/
inductive WriteTo where
  | discard
  | bad
  | lockedOut
  | reg (k : Blk) (i off : Nat) (r : RegDef)
  deriving DecidableEq, Repr

/-- R39, R101, R104, R106, R119: where a write of a function goes. -/
def writeTarget (d : Dev) (fn a : Nat) : WriteTo :=
  match pageOf (a / 0x1000) with
  | none => .discard
  | some (k, i) =>
    if !reaches fn k i then .discard
    else
      let off := a % 0x1000
      if fn ≠ 0 ∧ vfReadOnly off then .bad
      else match regAt k i off with
        | none => .discard
        | some r => if lockRefuses d k i off r then .lockedOut else .reg k i off r

/-- Whether a register word is a lock unit of an active transaction (R130, R131): filled in by the TXN engine. -/
def actionRegs (list : List Byte) : List Nat :=
  (List.range (fieldN list 0 2)).filterMap (fun i =>
    let a := (list.drop (32 + 32 * i)).take 32
    let kind := byteAt a 0
    if kind = 1 ∨ kind = 2 ∨ (kind = 6 ∧ byteAt a 1 % 8 < 2) then some (fieldN a 8 8) else none)

def regLocked (d : Dev) (a : Nat) : Bool := d.txn.active.any (fun t => (actionRegs t.list).contains a)

end Sys2Proof.Machine
end

