-- ==== Sys2Proof/Machine/Rings.lean ====
section
/-! DEFINITION. Doorbells, ring enables, the shore window, completions and their signals (chapter 03). -/

namespace Sys2Proof.Machine

def inSize (d : Dev) (b i : Nat) : Nat := liveN d .ring b (0x208 + 0x20 * i) % 32
def outSize (d : Dev) (b j : Nat) : Nat := liveN d .ring b (0x408 + 0x20 * j) % 32
def inHead (d : Dev) (b i : Nat) : Nat := liveN d .ring b (0x210 + 0x20 * i) % 65536
def inTailIdx (d : Dev) (b i : Nat) : Nat := liveN d .ring b (0x20C + 0x20 * i) % 65536
def outHeadIdx (d : Dev) (b j : Nat) : Nat := liveN d .ring b (0x40C + 0x20 * j) % 65536
def outTail (d : Dev) (b j : Nat) : Nat := liveN d .ring b (0x410 + 0x20 * j) % 65536
def outPhase (d : Dev) (b j : Nat) : Bool := bitOf (liveN d .ring b (0x410 + 0x20 * j)) 16
/-- OUT_RING of an inlet ring (R70). -/
def boundRing (d : Dev) (b i : Nat) : Nat := bitsOf (liveN d .ring b (0x208 + 0x20 * i)) 11 8

/-- The outlet ring is full (R73). -/
def outFull (d : Dev) (b j : Nat) : Bool := decide ((outTail d b j + 1) % 2 ^ outSize d b j = outHeadIdx d b j)

/-- A doorbell value that is ignored (R71, R74). -/
def badDoorbell (d : Dev) (b : Nat) : Dev := setStat (count d .ring b 0x114 1) .ring b 0 b

/-- IN_TAIL doorbell (R71). -/
def inTailOp (d : Dev) (b i : Nat) (v : W32) : Dev :=
  let t := v.toNat % 65536
  if t < 2 ^ inSize d b i then setLiveN d .ring b (0x20C + 0x20 * i) t else badDoorbell d b

/-- OUT_HEAD doorbell (R74): accepted from the live head to the tail, counted forward. -/
def outHeadOp (d : Dev) (b j : Nat) (v : W32) : Dev :=
  let n := 2 ^ outSize d b j
  let h := v.toNat % 65536
  let old := outHeadIdx d b j
  if h < n ∧ (h + n - old % n) % n ≤ (outTail d b j + n - old % n) % n then setLiveN d .ring b (0x40C + 0x20 * j) h
  else badDoorbell d b

def sizeOk (s : Nat) : Bool := decide (6 ≤ s ∧ s ≤ 16)

/-- RING_ENABLE, bit by bit: a bit of a ring whose live LOG2SIZE lies outside 6–16 stays clear (R77). -/
def ringEnableOp (d : Dev) (b : Nat) (v : W32) : Dev :=
  let ok := fun n => bitOf v.toNat n && (if n < 16 then sizeOk (inSize d b n) else sizeOk (outSize d b (n - 16)))
  let d := setLiveN d .ring b 0x104 (((List.range 32).filter ok).map (fun n => 2 ^ n)).sum
  let back := d.host.failed.filter (fun x => decide (x.1 = b) && ok (16 + x.2))
  let mine := fun (h : HeldBlock) => h.done && (match findReq d h.slot with
    | some r => back.contains (r.basin, r.outRing)
    | none => false)
  if back = [] then d else returnDue { d with host.failed := d.host.failed.filter (fun x => !back.contains x) } mine

/-- RING_CTL.APPLY arms the page alone (R76, R107). -/
def ringCtlOp (d : Dev) (b : Nat) (v : W32) : Dev := if bitOf v.toNat 0 then armPage d (pageNo .ring b) [] else d

/-- A host write through BAR2 (R80, R399). -/
def bar2Op (d : Dev) (b off : Nat) (bs : List Byte) : Dev :=
  let block := off / 65536
  if b ≠ 0 ∧ (basinState d b = 0 ∨ basinState d b = 3) then d
  else if isHeld d b block || logHolds d b block then setStat (count d .ring b 0x110 1) .ring b 1 b
  else shoreWrite d b block (off % 65536) bs

/-! ### Completions (R83, R88, Table 3-5) -/

/-- An object that the request pinned is no longer current (R34). -/
def newerAvailable (d : Dev) (r : Req) : Bool :=
  let us := [r.pins.profile, r.pins.index, r.pins.tmpl, r.pins.grammar, r.pins.enc, r.pins.rr, r.pins.gen, r.pins.fb].filterMap id ++ r.pins.tables
  us.any (fun u => match findVer d u with
    | some v => v.superseded.isSome
    | none => true) ||
  r.bits.any (fun x => match findVer d x.1 with
    | some v => v.superseded.isSome || (match bitStateAt v 0 with | some s => decide (s.commit ≠ x.2) | none => false)
    | none => true)

/-- The 32 bytes of a completion. -/
def compBytes (c : Comp) (phase : Bool) (flags elapsed : Nat) : List Byte :=
  natLe 4 c.tag.toNat ++ natLe 4 c.cookie ++ natLe 1 c.cls ++ natLe 1 (if phase then 1 else 0) ++ natLe 2 flags ++
  natLe 4 c.outLen ++ natLe 8 c.newHandle ++ natLe 4 c.count ++ natLe 4 elapsed

/-- The flags of every block that the request still holds (R82). -/
def returnAll (d : Dev) (slot : Nat) : Dev := returnDue d (fun h => decide (h.slot = slot))

/-- A block of the request is poisoned and its page not remapped: its flag, and so the completion, waits (R82, R85). -/
def awaitsRemap (d : Dev) (slot : Nat) : Bool := d.host.held.any (fun h => decide (h.slot = slot) && !h.clear)

/-- Signal or count a completion (OUT_CFG.VECTOR, COAL_COUNT, COAL_US). -/
def signalComp (d : Dev) (b j : Nat) : Dev :=
  let cfg := liveN d .ring b (0x408 + 0x20 * j)
  let vec := bitsOf cfg 12 8
  let cc := bitsOf cfg 23 16
  let mine := d.host.coal.find? (fun c => decide (c.basin = b ∧ c.ring = j))
  let others := d.host.coal.filter (fun c => !decide (c.basin = b ∧ c.ring = j))
  let n := (match mine with | some c => c.count | none => 0) + 1
  let since := match mine with | some c => c.since | none => d.now
  if cc ≤ 1 ∨ cc ≤ n then
    let d := { d with host.coal := others }
    if vec < 16 then addMsix d b vec else d
  else { d with host.coal := others ++ [⟨b, j, n, since⟩] }

/-- Advance OUT_TAIL; PHASE inverts when the ring wraps (R73, R75). -/
def advanceTail (d : Dev) (b j : Nat) : Dev :=
  let t := (outTail d b j + 1) % 2 ^ outSize d b j
  let ph := if t = 0 then !outPhase d b j else outPhase d b j
  setLiveN d .ring b (0x410 + 0x20 * j) (t + (if ph then 65536 else 0))

/-- Basin halted by a function-level reset or by NumVFs: nothing is written for it until it is resumed (R43, R99). For a
basin that is FREE or DESTROYING at a function-level reset no rule says so, and refusals are written. DESIGN CHOICE (log 206). -/
def silenced (d : Dev) (b : Nat) : Bool := decide (b ≠ 0 ∧ basinState d b = 2 ∧ (haltCause d b = 2 ∨ haltCause d b = 3))

/-- The outlet ring takes a completion: enabled and not full (R73, R77). -/
def outReady (d : Dev) (b j : Nat) : Bool := ringEnabled d b (16 + j) && !outFull d b j && !silenced d b

/-- Write one completion: flags, completion, signal, release of the tag (R15, R83). -/
def writeComp (d : Dev) (c : Comp) : Dev :=
  let req := match c.slot with | some s => findReq d s | none => none
  let newer := match req with | some r => newerAvailable d r | none => false
  let flags := if newer then c.flags ||| 0x4000 else c.flags
  let elapsed := match c.slot with
    | some _ => min 0xFFFFFFFF ((d.now - c.admitted) / Config.cyclesPerUs)
    | none => 0
  let d := match req with | some r => returnAll d r.slot | none => d
  let base := liveN d .ring c.basin (0x404 + 0x20 * c.ring) * 2 ^ 32 + liveN d .ring c.basin (0x400 + 0x20 * c.ring)
  let d := hostWrite d c.basin (base + 32 * outTail d c.basin c.ring) (compBytes c (outPhase d c.basin c.ring) flags elapsed)
  let d := advanceTail d c.basin c.ring
  let d := signalComp d c.basin c.ring
  match c.slot with
  | some s => { d with reqs := d.reqs.filter (fun r => !decide (r.slot = s)),
                       txn.unsure := d.txn.unsure.filter (fun u => !decide (u.1 = s)) }
  | none => d

/-- The oldest completion of an outlet ring is written, if the ring takes one. -/
def completionOp (d : Dev) (b j : Nat) : Dev :=
  match d.host.comps.find? (fun c => decide (c.basin = b ∧ c.ring = j)) with
  | none => d
  | some c =>
    if outReady d b j && !(match c.slot with | some s => awaitsRemap d s | none => false) then
      writeComp { d with host.comps := d.host.comps.erase c } c
    else d

/-- The coalescing timer of an outlet ring (OUT_CFG.COAL_US). -/
def coalOp (d : Dev) (b j : Nat) : Dev :=
  let cfg := liveN d .ring b (0x408 + 0x20 * j)
  match d.host.coal.find? (fun c => decide (c.basin = b ∧ c.ring = j)) with
  | none => d
  | some c =>
    if bitsOf cfg 31 24 = 0 then d
    else
      let d := advanceTo d (c.since + usCycles (bitsOf cfg 31 24))
      let d := { d with host.coal := d.host.coal.filter (fun c => !decide (c.basin = b ∧ c.ring = j)) }
      if bitsOf cfg 12 8 < 16 then addMsix d b (bitsOf cfg 12 8) else d

/-- A DMA read for an inlet ring fails (R98). -/
def fetchFailOp (d : Dev) (b i : Nat) : Dev :=
  if ringEnabled d b i && decide (inHead d b i ≠ inTailIdx d b i) then
    setStat (setLiveBit d (regA .ring b 0x104) i false) .ring b 2 b
  else d

/-- The module has something to write that goes with an outlet ring: a completion, or the flag of an input block that a
request of the ring still holds. -/
def writesFor (d : Dev) (b j : Nat) : Bool :=
  (outReady d b j && d.host.comps.any (fun c => decide (c.basin = b ∧ c.ring = j))) ||
  (ringEnabled d b (16 + j) && !silenced d b && d.host.held.any (fun h => !h.out && (match findReq d h.slot with
    | some r => decide (r.basin = b ∧ r.outRing = j)
    | none => false)))

/-- A DMA write of a completion or flag fails (R98): the ring is disabled, and what was being written stays held until it
is enabled again. -/
def writeFailOp (d : Dev) (b j : Nat) : Dev :=
  if writesFor d b j then
    let d := { d with host.failed := if d.host.failed.contains (b, j) then d.host.failed else d.host.failed ++ [(b, j)] }
    setStat (setLiveBit d (regA .ring b 0x104) (16 + j) false) .ring b 3 b
  else d

def execCompletionWrite (basin ring : Nat) (s : State) : Host.Outcome State Fault Refusal := ok s (completionOp s.dev basin ring)
def execCoalUs (basin ring : Nat) (s : State) : Host.Outcome State Fault Refusal := ok s (coalOp s.dev basin ring)
def execDescriptorFetchFail (basin ring : Nat) (s : State) : Host.Outcome State Fault Refusal := ok s (fetchFailOp s.dev basin ring)
def execDmaWriteFail (basin ring : Nat) (s : State) : Host.Outcome State Fault Refusal := ok s (writeFailOp s.dev basin ring)

end Sys2Proof.Machine
end

