-- ==== Sys2Proof/Machine/Admission.lean ====
section
/-! DEFINITION. The ring engine: which descriptor it takes, the admission checks, tags, pins and deadlines
(chapters 01 and 03), and the control opcodes that complete at admission. -/

namespace Sys2Proof.Machine

/-! ### The ring engine's turn (R72) -/

/-- A field that admission to a basin needs has no majority, so that its descriptors wait (R117). -/
def admitWaits (d : Dev) (b : Nat) : Bool := [0x104, 0x12C, 0x130].any (fun o => noMajority d (regA .bsn b o))

/-- An inlet ring is ready: enabled, holding a descriptor, its outlet ring not full. -/
def ringReady (d : Dev) (b i : Nat) : Bool :=
  !admitWaits d b && ringEnabled d b i && decide (inHead d b i ≠ inTailIdx d b i) && !outFull d b (boundRing d b i)

/-- The ready ring of a basin after the ring taken last. -/
def nextRing (d : Dev) (b : Nat) : Option Nat :=
  let last := SMap.get (fun _ => 15) d.host.lastRing b
  ((List.range 16).map (fun n => (last + 1 + n) % 16)).find? (fun i => ringReady d b i)

/-- The basin and ring of the next visit. -/
def nextTurn (d : Dev) : Option (Nat × Nat) :=
  ((List.range 64).map (fun n => (d.host.lastBasin + 1 + n) % 64)).findSome? (fun b =>
    (nextRing d b).map (fun i => (b, i)))

/-- The engine has read the entry: it is past it, and the turn moves on (R71, R72). -/
def takeEntry (d : Dev) (b i : Nat) : Dev :=
  let h := (inHead d b i + 1) % 2 ^ inSize d b i
  let d := setLiveN d .ring b (0x210 + 0x20 * i) h
  { d with host.lastBasin := b, host.lastRing := SMap.set (fun _ => 15) d.host.lastRing b i }

/-! ### The checks (Table 1-1) -/

/-- Opcodes that use a profile (R87). -/
def usesProfile (op : Nat) : Bool := [1, 2, 3, 4, 5, 9, 10, 11].contains op
def searches (op : Nat) : Bool := [1, 2].contains op

/-- OPCODE defined for the basin (R56, Table 3-6). -/
def opDefined (d : Dev) (b op : Nat) : Bool :=
  decide (1 ≤ op ∧ op ≤ 13) && (!decide (op = 11) || basinAttr d b 1) && (!decide (op = 10) || basinAttr d b 2)

/-- STAGES bits that Table 1-2 requires; GATHER, SCATTER_MERGE and RUN_JOB need STAGES zero (R18). -/
def stagesOk (op stages : Nat) : Bool :=
  let need := match op with | 1 => 0x1B | 2 => 3 | 3 => 1 | 4 => 4 | 5 => 0x10 | _ => 0
  if op ≥ 9 then decide (stages = 0) else decide (stages &&& need = need)

/-- Bytes that must be zero for an opcode (R86, Tables 3-4, 3-6). -/
def reservedOk (x : List Byte) : Bool :=
  let op := Desc.opcode x
  decide (byteAt x 1 / 8 = 0) && decide (byteAt x 3 = 0) &&
  (if [1, 5, 8].contains op then true else if [6, 7, 13].contains op then zeroAt x 12 4 else zeroAt x 8 8) &&
  (if [1, 2, 4, 5].contains op then true else zeroAt x 36 4) &&
  (if [9, 10, 11].contains op then true else zeroAt x 56 8)

/-- The named blocks with their flags: in the window, owned by the device, not held, no block in both lists (R81). -/
def blocksOk (d : Dev) (b : Nat) (f : Fetch) : Bool :=
  let ib := Desc.inBlocks f.desc
  let ob := Desc.outBlocks f.desc
  decide (ib.length ≤ 1024 ∧ ob.length ≤ 1024) &&
  decide (Desc.inLen f.desc = 0 ∨ Desc.inBlock f.desc + ib.length ≤ 1024) &&
  decide (Desc.outCap f.desc = 0 ∨ Desc.outBlock f.desc + ob.length ≤ 1024) &&
  !(overlaps (Desc.inBlock f.desc) ib.length (Desc.outBlock f.desc) ob.length) &&
  (ib ++ ob).all (fun k => !isHeld d b k && !logHolds d b k) &&
  (List.range (ib.length + ob.length)).all (fun n => decide ((f.flags.getD n 0).toNat % 4 = 1))

/-- Table version that a GATHER names (R209). -/
def gatherVer (d : Dev) (b : Nat) (x : List Byte) : Option Version :=
  let slot := Desc.opspec x % 65536
  let p := Desc.opspec x / 2 ^ 32
  if p = 0 then verAt d b 1 slot (Desc.pin x)
  else d.txn.versions.find? (fun v => decide (v.basin = b ∧ v.cls = 1 ∧ v.slot = slot ∧ v.num % 2 ^ 32 = p) && v.kept)

/-- Update mode valid for a table (Table 9-2). -/
def updateModeOk (desc : List Byte) (m : Nat) : Bool :=
  decide (m % 4 < 2 ∧ m / 8 = 0) && (!decide (m % 4 = 1) || bitOf (byteAt desc 7) 2) && (!bitOf m 2 || decide (byteAt desc 6 = 1))

/-- The table and job conditions of check 2 (R215, R221, R313). -/
def tableOpOk (d : Dev) (b : Nat) (x : List Byte) : Bool :=
  let o := Desc.opspec x
  if Desc.opcode x = 9 then
    decide (bitsOf o 31 16 = 0 ∧ o % 65536 ≤ 255) &&
    (decide (o / 2 ^ 32 ≠ 0) || (verAt d b 1 (o % 65536) (Desc.pin x)).isSome)
  else if Desc.opcode x = 10 then
    decide (o / 2 ^ 24 = 0 ∧ o % 65536 ≤ 255 ∧ Desc.outCap x = 0) &&
    (match verAt d b 1 (o % 65536) (Desc.pin x) with
     | some v => bitOf (byteAt v.desc 7) 0 && updateModeOk v.desc (bitsOf o 23 16)
     | none => false)
  else if Desc.opcode x = 11 then decide (o ≠ 0 ∧ o % 128 = 0 ∧ o < 2 ^ 46)
  else true

def check2 (d : Dev) (b : Nat) (f : Fetch) : Bool :=
  let x := f.desc
  opDefined d b (Desc.opcode x) && reservedOk x && (!usesProfile (Desc.opcode x) || decide (Desc.profile x < 32)) &&
  blocksOk d b f && tableOpOk d b x

/-- The profile that check 3 judges: in force after commit c when still current or retained, else the current one. -/
def judgedProfile (d : Dev) (b : Nat) (x : List Byte) : Option Version :=
  match verAt d b 3 (Desc.profile x) (Desc.pin x) with
  | some v => if v.kept then some v else currentVer d b 3 (Desc.profile x)
  | none => currentVer d b 3 (Desc.profile x)

def check3 (d : Dev) (b : Nat) (x : List Byte) : Bool :=
  !usesProfile (Desc.opcode x) ||
  (match judgedProfile d b x with
   | none => false
   | some v =>
     bitOf (byteAt v.desc 0) 0 && stagesOk (Desc.opcode x) (byteAt v.desc 1) &&
     (!Desc.more x || bitOf (byteAt v.desc 0) 4))

/-! Fields of a profile record (Table 1-4). -/
namespace Prof
def ctl (p : List Byte) (bit : Nat) : Bool := bitOf (byteAt p 0) bit
def stage (p : List Byte) (bit : Nat) : Bool := bitOf (byteAt p 1) bit
def cheap (p : List Byte) (bit : Nat) : Bool := bitOf (byteAt p 2) bit
def sampling (p : List Byte) : Nat := byteAt p 3 % 4
def spec (p : List Byte) : Nat := bitsOf (byteAt p 3) 3 2
def heads (p : List Byte) : Nat := bitsOf (byteAt p 3) 6 4
def encModel (p : List Byte) : Nat := fieldN p 4 2
def index (p : List Byte) : Nat := fieldN p 6 2
def L (p : List Byte) : Nat := fieldN p 8 2
def W (p : List Byte) : Nat := byteAt p 10
def rewalk (p : List Byte) : Nat := byteAt p 11
def hopLimit (p : List Byte) : Nat := fieldN p 12 2
def kSearch (p : List Byte) : Nat := fieldN p 14 2
def rrModel (p : List Byte) : Nat := fieldN p 32 2
def rrDepth (p : List Byte) : Nat := fieldN p 34 2
def rrTokens (p : List Byte) : Nat := fieldN p 36 2
def tmpl (p : List Byte) : Nat := byteAt p 38
def grammar (p : List Byte) : Nat := byteAt p 39
def tokBudget (p : List Byte) : Nat := fieldN p 40 4
def genModel (p : List Byte) : Nat := fieldN p 44 2
def fbModel (p : List Byte) : Nat := fieldN p 46 2
def temp (p : List Byte) : Nat := fieldN p 48 2
def topK (p : List Byte) : Nat := fieldN p 50 2
def topP (p : List Byte) : Nat := fieldN p 52 2
def maxIn (p : List Byte) : Nat := fieldN p 54 2
def maxTok (p : List Byte) : Nat := fieldN p 56 4
def dlBase (p : List Byte) : Nat := fieldN p 60 4
def dlSearch (p : List Byte) : Nat := fieldN p 64 4
def dlRerank (p : List Byte) : Nat := fieldN p 68 4
def dlModel (p : List Byte) : Nat := fieldN p 72 4
def readBudget (p : List Byte) : Nat := fieldN p 76 2
def parkIdle (p : List Byte) : Nat := fieldN p 80 4
def parkTtl (p : List Byte) : Nat := fieldN p 84 4
def inputIdle (p : List Byte) : Nat := let v := fieldN p 88 4; if v = 0 then 5000 else v
def inputTtl (p : List Byte) : Nat := let v := fieldN p 92 4; if v = 0 then 300000 else v
/-- The objects that a profile names (R26): class and slot. -/
def names (p : List Byte) : List (Nat × Nat) :=
  (if stage p 0 || stage p 1 then [(4, encModel p)] else []) ++
  (if stage p 1 || stage p 2 then [(0, index p)] else []) ++
  (if stage p 2 then [(4, rrModel p)] else []) ++
  (if stage p 3 then [(5, tmpl p)] else []) ++
  (if stage p 3 || stage p 4 || decide (grammar p ≠ 0xFF) then [(4, genModel p)] else []) ++
  (if grammar p ≠ 0xFF then [(2, grammar p)] else []) ++
  (if fbModel p ≠ 0xFFFF then [(4, fbModel p)] else [])
end Prof

/-- A version in force after commit c is current or retained, its bitmap state too (R139). -/
def availableAt (c : Nat) (v : Option Version) : Bool :=
  match v with
  | none => false
  | some v => v.kept && (decide (v.cls ≠ 0 ∧ v.cls ≠ 1) || (match bitStateAt v c with | some s => !s.retired | none => true))

/-- Slots of a basin's tables with a version in force just after commit c (R210). -/
def tablesAt (d : Dev) (b c : Nat) : List Version := (List.range 256).filterMap (fun s => verAt d b 1 s c)

/-- Check 4 (R139). -/
def check4 (d : Dev) (b : Nat) (x : List Byte) : Bool :=
  let c := Desc.pin x
  let op := Desc.opcode x
  (decide (c = 0) ||
    (decide (c ≤ d.txn.last) &&
     (!usesProfile op ||
       (match verAt d b 3 (Desc.profile x) c with
        | some p => p.kept && (Prof.names p.desc).all (fun n => availableAt c (verAt d b n.1 n.2 c))
        | none => false)) &&
     (!decide (op = 9 ∨ op = 10) || availableAt c (gatherVer d b (if op = 9 then x else setAt x 60 0))) &&
     (!decide (op = 11) || (tablesAt d b c).all (fun v => availableAt c (some v))))) &&
  (!decide (op = 9) || (gatherVer d b x).isSome)

/-- Check 5: the tag quota and, for an opcode that searches, the walker-query quota. -/
def check5 (d : Dev) (b op : Nat) : Bool :=
  decide (useTags d b < qTags d b) && (!searches op || decide (useWalk d b < qWalk d b))

/-- The class of the first check that fails; none when all pass (R12). -/
def admitCheck (d : Dev) (b : Nat) (f : Fetch) : Option Nat :=
  if basinState d b ≠ 1 then some 0x51
  else if !check2 d b f then some 0x11
  else if !check3 d b f.desc then some 0x23
  else if !check4 d b f.desc then some 0x21
  else if !check5 d b (Desc.opcode f.desc) then some 0x50
  else none

/-! ### Admission (R14, R16, R27) -/

/-- The next reuse count of a tag slot (R14). -/
def nextCount (slot old : Nat) : Nat :=
  let n := (old + 1) % 4096
  if slot = 0xFFFFF ∧ n = 0xFFF then 0 else n

/-- The slot is free: no request holds its tag. -/
def slotFree (d : Dev) (slot : Nat) : Bool := decide (slot < 2 ^ 20) && (findReq d slot).isNone

/-- Absolute instant of a deadline (R27). -/
def deadlineAt (now profUs dl base : Nat) : Option Nat :=
  if profUs = 0 then none
  else if dl = 0 ∨ base = 0 then some (now + usCycles profUs)
  else some (now + usCycles (max 1 (profUs * dl / base)))

/-- Versions that a request pins (R16, R209, R210). -/
def pinsOf (d : Dev) (b : Nat) (x : List Byte) : Pins × List (Nat × Nat) :=
  let c := Desc.pin x
  let op := Desc.opcode x
  let prof := if usesProfile op then judgedProfile d b x else none
  let p := match prof with | some v => v.desc | none => []
  let nm := if prof.isSome then Prof.names p else []
  let get := fun (cls slot : Nat) => if nm.contains (cls, slot) then (verAt d b cls slot c) else none
  let idx := if Prof.stage p 1 || Prof.stage p 2 then get 0 (Prof.index p) else none
  let tabs := if op = 9 then (gatherVer d b x).toList
    else if op = 10 then (verAt d b 1 (Desc.opspec x % 65536) c).toList
    else if op = 11 then tablesAt d b c else []
  let bitsOfVer := fun (v : Version) => (bitStateAt v c).map (fun s => (v.uid, s.commit))
  (⟨prof.map (·.uid), idx.map (·.uid),
    if Prof.stage p 3 then (get 5 (Prof.tmpl p)).map (·.uid) else none,
    if Prof.grammar p ≠ 0xFF then (get 2 (Prof.grammar p)).map (·.uid) else none,
    if Prof.stage p 0 || Prof.stage p 1 then (get 4 (Prof.encModel p)).map (·.uid) else none,
    if Prof.stage p 2 then (get 4 (Prof.rrModel p)).map (·.uid) else none,
    if Prof.stage p 3 || Prof.stage p 4 || decide (Prof.grammar p ≠ 0xFF) then (get 4 (Prof.genModel p)).map (·.uid) else none,
    if Prof.fbModel p ≠ 0xFFFF then (get 4 (Prof.fbModel p)).map (·.uid) else none,
    tabs.map (·.uid)⟩,
   (idx.toList ++ tabs).filterMap bitsOfVer)

/-- First stage of an opcode's work. -/
def firstStage (op : Nat) : Stage :=
  if op ≤ 6 then .input else if op = 9 ∨ op = 10 then .tableCmd else if op = 11 then .job else if op = 12 then .txnWait else .complete

/-- The blocks of an admitted descriptor are held from now on (R79). -/
def holdBlocks (b slot : Nat) (f : Fetch) : List HeldBlock :=
  let ib := Desc.inBlocks f.desc
  let ob := Desc.outBlocks f.desc
  let mk := fun (out : Bool) (n : Nat × Nat) => (⟨b, n.2, slot, bitsOf (f.flags.getD n.1 0).toNat 31 16, out, false, false, false, []⟩ : HeldBlock)
  (List.zip (List.range ib.length) ib).map (mk false) ++
  (List.zip ((List.range ob.length).map (· + ib.length)) ob).map (mk true)

/-- The request record of an admitted descriptor. MORE_INPUT of a TXN, PARK, RELEASE_HANDLE or CANCEL, which no rule refuses or
gives a meaning, is ignored. DESIGN CHOICE (log 205). -/
def newReq (d : Dev) (b i slot cnt : Nat) (f : Fetch) : Req :=
  let x := f.desc
  let op := Desc.opcode x
  let pb := pinsOf d b x
  let p := match pb.1.profile with
    | some u => (match findVer d u with | some v => v.desc | none => [])
    | none => []
  let comes := decide (9 ≤ op ∧ op ≤ 11) && Desc.more x
  let dl := fun (us : Nat) => if op ≤ 5 then deadlineAt d.now us (Desc.deadline x) (Prof.dlBase p) else none
  { slot := slot, count := cnt, basin := b, inRing := i, outRing := boundRing d b i, desc := x, admitted := d.now,
    pins := pb.1, bits := pb.2,
    dlSearch := dl (Prof.dlSearch p), dlRerank := dl (Prof.dlRerank p), dlModel := dl (Prof.dlModel p),
    flags := 0, stage := if comes then .input else firstStage op, busy := false, awaiting := (decide (op ≤ 5) || comes) && Desc.more x,
    parked := false, lastInput := d.now, bufs := if op ≤ 5 ∨ comes then [slot] else [], input := [], cuts := [], due := [], silent := false, train := basinAttr d b 2, link := basinAttr d b 3,
    walkCharge := searches op, outLen := 0, outCount := 0, newHandle := 0, ended := none, qvec := [], walk := none,
    evid := [], texts := 0, offered := [], kvLen := none, prompt := [], stream := none, hold := none }

/-- The engine takes a descriptor: a refused one completes without a tag; an admitted one becomes a request. `start`
is the opcode's own work at its admission instant. -/
def admitOp (opOk : Nat → Bool) (start : Dev → Req → Dev) (d : Dev) (f : Fetch) (slot : Nat) : Dev :=
  match nextTurn d with
  | none => d
  | some (b, i) =>
    if !isReady d || !slotFree d slot || decide (f.desc.length ≠ 64) || !opOk (if opDefined d b (Desc.opcode f.desc) then Desc.opcode f.desc else 0) then d
    else
      let j := boundRing d b i
      let d1 := takeEntry d b i
      match admitCheck d b f with
      | some cls => refuse d1 b j (Desc.cookie f.desc) cls
      | none =>
        let cnt := nextCount slot (SMap.get (fun _ => 0) d.tagCounts slot)
        let r := newReq d b i slot cnt f
        start { d1 with tagCounts := SMap.set (fun _ => 0) d.tagCounts slot cnt, reqs := d1.reqs ++ [r],
                        host.held := d1.host.held ++ holdBlocks b slot f } r

/-! ### Holds on handles (R273) -/

/-- The handle of a 64-bit value (R270). -/
def findHandle (d : Dev) (v b : Nat) : Option Handle :=
  d.eng.handles.find? (fun h => decide (h.idx = v % 2 ^ 20 ∧ h.reuse = bitsOf v 39 20 ∧ h.basin = bitsOf v 45 40 ∧ v / 2 ^ 46 = 0 ∧ h.basin = b) && !h.released)

/-- A held store in the pool begins its return to HBM when the charge fits (R275). -/
def beginReturn (d : Dev) (idx : Nat) : Dev :=
  match d.eng.handles.find? (fun h => decide (h.idx = idx)) with
  | none => d
  | some h =>
    if h.inPool && !h.moving && fitsHbm d h.basin h.own then modHandle d idx (fun h => { h with moving := true, hbmPages := h.own }) else d

/-- A request that cites a handle takes a hold on it, or ends with PREFIX_EXPIRED. -/
def takeHold (d : Dev) (r : Req) : Dev :=
  if Desc.handle r.desc = 0 then d
  else match findHandle d (Desc.handle r.desc) r.basin with
    | none => endReq d r.slot 0x22
    | some h =>
      let d := modHandle d h.idx (fun h => { h with st := .held, holds := h.holds ++ [r.slot] })
      let d := if ctlBit d .gen 0 1 then beginReturn d h.idx else d
      modReq d r.slot (fun r => { r with hold := some h.idx })

/-! ### Control opcodes -/

/-- The live request that a target tag names (R91). -/
def targetReq (d : Dev) (r : Req) : Option Req :=
  let t := Desc.target r.desc
  match findReq d (t % 2 ^ 20) with
  | some x => if x.tag.toNat = t ∧ x.basin = r.basin ∧ x.slot ≠ r.slot ∧ x.live then some x else none
  | none => none

/-- Complete a control descriptor with a class and COUNT. -/
def completeControl (d : Dev) (slot cls cnt : Nat) : Dev :=
  endReq (modReq d slot (fun r => { r with outCount := cnt })) slot cls

/-- CONTINUE (R91, R95, R96): the input of an awaiting target goes on, and the target resumes. -/
def startContinue (d : Dev) (r : Req) : Dev :=
  match targetReq d r with
  | none => completeControl d r.slot 0x11 0
  | some t =>
    if !t.awaiting then completeControl d r.slot 0x11 0
    else if t.lastInput + msCycles (Prof.inputTtl (Req.prof d t)) ≤ d.now then
      completeControl (endAt (modReq d t.slot (fun t => { t with outLen := 0 })) t.slot 0x10) r.slot 0x11 0
    else modReq d t.slot (fun t => { t with bufs := t.bufs ++ [r.slot], lastInput := d.now, parked := false,
                                            awaiting := Desc.more r.desc })

/-- Park an awaiting request (R96, R97). -/
def parkReq (d : Dev) (slot : Nat) : Dev := modReq d slot (fun r => { (r.flag 10) with parked := true })

/-- Every hold on the handle comes from a parked request. -/
def allParked (d : Dev) (h : Handle) : Bool :=
  h.holds.all (fun s => match findReq d s with | some r => r.parked && r.awaiting | none => true)

/-- PARK (R97, R276, R48): parks the target; the store of its cited handle begins to move to the pool when every hold is from a parked
request. A pool charge that is refused completes QUOTA_EXCEEDED and the store stays in HBM. -/
def startPark (d : Dev) (r : Req) : Dev :=
  match targetReq d r with
  | none => completeControl d r.slot 0 0
  | some t =>
    if !t.awaiting then completeControl d r.slot 0 0
    else
      let d := parkReq d t.slot
      match t.hold.bind (fun i => d.eng.handles.find? (fun h => decide (h.idx = i))) with
      | none => completeControl d r.slot 0 1
      | some h =>
        if !allParked d h || decide (h.hbmPages = 0) then completeControl d r.slot 0 1
        else if h.inPool then -- a return that is under way is given up: the store stays in the pool
          completeControl (modHandle d h.idx (fun h => { h with moving := false, hbmPages := 0 })) r.slot 0 1
        else if h.moving then completeControl d r.slot 0 1
        else
          let n := Config.parkedPages h.idx h.hbmPages
          if !fitsPool d r.basin n then completeControl d r.slot 0x50 1
          else completeControl (modHandle d h.idx (fun h => { h with moving := true, poolPages := n })) r.slot 0 1

/-- RELEASE_HANDLE (R91, R272, R273). -/
def startRelease (d : Dev) (r : Req) : Dev :=
  match findHandle d (Desc.handle r.desc) r.basin with
  | none => completeControl d r.slot 0x22 0
  | some h =>
    let d := if h.holds = [] then freeHandle d h.idx else modHandle d h.idx (fun h => { h with released := true, expiry := none })
    completeControl d r.slot 0 0

/-- CANCEL (R35, R91); a CONTINUE completes with its own class all the same (R488). -/
def startCancel (d : Dev) (r : Req) : Dev :=
  match targetReq d r with
  | none => completeControl d r.slot 0 0
  | some t => if t.op = 6 then completeControl d r.slot 0 1 else settle (addDue (completeControl d r.slot 0 1) t.slot 0x70)

/-- TXN: queued for the TXN engine in admission order (R128, R132). -/
def startTxn (d : Dev) (r : Req) : Dev := { d with txn.waiting := d.txn.waiting ++ [r.slot] }

def isOp (n : Nat) : Nat → Bool := fun op => decide (op = n)

def execUndefinedOpcode (f : Fetch) (slot : Nat) (s : State) : Host.Outcome State Fault Refusal := ok s (admitOp (isOp 0) (fun d _ => d) s.dev f slot)
def execQuery (f : Fetch) (slot : Nat) (s : State) : Host.Outcome State Fault Refusal := ok s (admitOp (isOp 1) takeHold s.dev f slot)
def execSearch (f : Fetch) (slot : Nat) (s : State) : Host.Outcome State Fault Refusal := ok s (admitOp (isOp 2) (fun d _ => d) s.dev f slot)
def execEmbed (f : Fetch) (slot : Nat) (s : State) : Host.Outcome State Fault Refusal := ok s (admitOp (isOp 3) (fun d _ => d) s.dev f slot)
def execRerank (f : Fetch) (slot : Nat) (s : State) : Host.Outcome State Fault Refusal := ok s (admitOp (isOp 4) (fun d _ => d) s.dev f slot)
def execGenerate (f : Fetch) (slot : Nat) (s : State) : Host.Outcome State Fault Refusal := ok s (admitOp (isOp 5) takeHold s.dev f slot)
def execContinue (f : Fetch) (slot : Nat) (s : State) : Host.Outcome State Fault Refusal := ok s (admitOp (isOp 6) startContinue s.dev f slot)
def execPark (f : Fetch) (slot : Nat) (s : State) : Host.Outcome State Fault Refusal := ok s (admitOp (isOp 7) startPark s.dev f slot)
def execReleaseHandle (f : Fetch) (slot : Nat) (s : State) : Host.Outcome State Fault Refusal := ok s (admitOp (isOp 8) startRelease s.dev f slot)
def execTxn (f : Fetch) (slot : Nat) (s : State) : Host.Outcome State Fault Refusal := ok s (admitOp (isOp 12) startTxn s.dev f slot)
def execCancel (f : Fetch) (slot : Nat) (s : State) : Host.Outcome State Fault Refusal := ok s (admitOp (isOp 13) startCancel s.dev f slot)

/-! ### Idle and lifetime of streamed input (R96) -/

def reqProf (d : Dev) (r : Req) : List Byte := Req.prof d r

/-- INPUT_IDLE_MS after the last input instant the request is parked. -/
def inputIdleOp (d : Dev) (slot : Nat) : Dev :=
  match findReq d slot with
  | none => d
  | some r =>
    if r.live && r.awaiting && !r.parked then
      parkReq (advanceTo d (r.lastInput + msCycles (Prof.inputIdle (reqProf d r)))) slot
    else d

/-- INPUT_TTL_MS after the last input instant the request ends with INPUT_TIMEOUT, OUT_LEN 0. -/
def inputTimeoutOp (d : Dev) (slot : Nat) : Dev :=
  match findReq d slot with
  | none => d
  | some r =>
    if r.live && r.awaiting then
      endAt (modReq (advanceTo d (r.lastInput + msCycles (Prof.inputTtl (reqProf d r)))) slot (fun r => { r with outLen := 0 })) slot 0x10
    else d

def execInputIdle (slot : Nat) (s : State) : Host.Outcome State Fault Refusal := ok s (inputIdleOp s.dev slot)
def execInputTimeout (slot : Nat) (s : State) : Host.Outcome State Fault Refusal := ok s (inputTimeoutOp s.dev slot)

end Sys2Proof.Machine
end

