-- ==== Sys2Proof/Machine/Links.lean ====
section
/-! DEFINITION. Job contexts' records, Ndelar frames and routes, and linked sets at their home node (R451–R461). -/

namespace Sys2Proof.Machine

def findCtx (d : Dev) (id : Nat) : Option Ctx := d.jobs.ctxs.find? (fun c => decide (c.id = id))

def modCtx (d : Dev) (id : Nat) (f : Ctx → Ctx) : Dev :=
  { d with jobs.ctxs := modWhere (fun c => decide (c.id = id)) f d.jobs.ctxs }

def coreAt (c : Ctx) (i : Nat) : Option CoreSt := c.cores[i]?

def setCore (c : Ctx) (i : Nat) (k : CoreSt) : Ctx := { c with cores := setAt c.cores i k }

/-! ### Ports and routes -/

def ownNode (d : Dev) : Nat := liveN d .ndl 0 0x100 % 256
def ownSystem (d : Dev) : Nat := liveN d .ndl 0 0x100 / 65536
def portState (d : Dev) (p : Nat) : Nat := liveN d .ndl p 0x104 % 4
def portPeer (d : Dev) (p : Nat) : Nat := bitsOf (liveN d .ndl p 0x104) 15 8
def portEpoch (d : Dev) (p : Nat) : Nat := bitsOf (liveN d .ndl p 0x104) 31 16

def portAt (d : Dev) (p : Nat) : Port := d.links.ports.getD p Port.reset
def modPort (d : Dev) (p : Nat) (f : Port → Port) : Dev :=
  { d with links.ports := setAt d.links.ports p (f (portAt d p)) }

/-- NDL_PEER_EPOCH of a port has no majority: no frame is held to it and no declaration advances it (R117). -/
def epochLost (d : Dev) (p : Nat) : Bool := noMajority d (regA .ndl p 0x104)

/-- NDL_NODE has no majority. -/
def nodeLost (d : Dev) : Bool := noMajority d (regA .ndl 0 0x100)

/-- Write STATE, WIDTH and PEER of a port, and leave its peer's epoch. -/
def setLink (d : Dev) (p state width peer : Nat) : Dev :=
  setPart d (regA .ndl p 0x104) 0xFFFF (BitVec.ofNat 32 (state + width * 4 + peer % 256 * 256))

/-- Write NDL_PEER_EPOCH. -/
def setEpoch (d : Dev) (p epoch : Nat) : Dev :=
  setLiveN d .ndl p 0x104 (liveN d .ndl p 0x104 % 65536 + epoch % 65536 * 65536)

/-- A route may use the port: its peer is not fenced, and its link is up or has been down for less than DOWN_MS; or the
routes have not been computed since its declaration (R460, R461). -/
def carries (d : Dev) (p : Nat) : Bool :=
  ((decide (portState d p = 1) || (decide (portState d p = 0) && (portAt d p).downAt.isSome)) && (portAt d p).admitted) || d.links.down.contains p

/-- The links of a node as far as they are known: this module's own, or its last notice. -/
def nodeLinks (d : Dev) (n : Nat) : Option (List Nat) :=
  if n = ownNode d then some (((List.range 8).filter (fun p => carries d p)).map (portPeer d))
  else (d.links.topo.find? (fun t => decide (t.1 = n))).map (·.2)

/-- Every node that this module has heard of. -/
def knownNodes (d : Dev) : List Nat :=
  dedup ((ownNode d :: ((nodeLinks d (ownNode d)).getD [])) ++ d.links.topo.flatMap (fun t => t.1 :: t.2))

/-- Two nodes are linked: each whose links are known names the other, and those of one at least are known (R453). -/
def linked (d : Dev) (m n : Nat) : Bool :=
  match nodeLinks d m, nodeLinks d n with
  | some x, some y => x.contains n && y.contains m
  | some x, none => x.contains n
  | none, some y => y.contains m
  | none, none => false

/-- Nodes linked to a node. -/
def neighbours (d : Dev) (n : Nat) : List Nat := (knownNodes d).filter (linked d n)

/-- Nodes by their distance, level by level; `fuel` bounds the levels. -/
def levels (nb : Nat → List Nat) : Nat → Nat → List Nat → List (Nat × Nat) → List (Nat × Nat)
  | 0, _, _, seen => seen
  | fuel + 1, k, front, seen =>
    let new := dedup ((front.flatMap nb).filter (fun n => !seen.any (fun s => decide (s.1 = n))))
    if new = [] then seen else levels nb fuel (k + 1) new (seen ++ new.map (fun n => (n, k + 1)))

/-- The first hop of the shortest route to a node, ties to the lowest port (R453); none where it is unreachable. -/
def routePort (d : Dev) (dst : Nat) : Option Nat :=
  let dist := levels (neighbours d) 256 0 [dst] [(dst, 0)]
  let hops := (List.range 8).filterMap (fun p =>
    if carries d p then (dist.find? (fun x => decide (x.1 = portPeer d p))).map (fun x => (x.2, p)) else none)
  match hops with
  | [] => none
  | h :: hs => some (hs.foldl (fun b x => if x.1 < b.1 then x else b) h).2

/-! ### Frames (R454) -/

def crcBit (c : Nat) : Nat := if c % 2 = 1 then (c / 2) ^^^ 0xEDB88320 else c / 2
def crcByte (c : Nat) (b : Byte) : Nat := (List.range 8).foldl (fun c _ => crcBit c) (c ^^^ b.toNat)
/-- CRC-32. PRESUMED: the polynomial and bit order of IEEE 802.3 (log 60). -/
def crc32 (bs : List Byte) : Nat := (bs.foldl crcByte 0xFFFFFFFF) ^^^ 0xFFFFFFFF

def padTo (n : Nat) (bs : List Byte) : List Byte := bs.take n ++ List.replicate (n - bs.length) 0

def frameHead (typ src dst epoch seq ack domain key : Nat) (body : List Byte) : List Byte :=
  natLe 1 typ ++ natLe 1 src ++ natLe 1 dst ++ [0] ++ natLe 2 epoch ++ natLe 2 seq ++ natLe 2 ack ++ List.replicate 6 0 ++
  natLe 2 domain ++ natLe 8 key ++ padTo 226 body

/-- A port sends a heartbeat every 1 µs while it is idle (R454): those since its last frame. -/
def idleBeats (d : Dev) (p : Nat) : Nat := if portState d p = 1 then (d.now - (portAt d p).lastTx) / usCycles 1 else 0

/-- Bytes that the port has sent since the last whole KiB, its heartbeats with them. -/
def txBytes (d : Dev) (p : Nat) : Nat := (portAt d p).txRest + 256 * idleBeats d p

/-- Count n more frames, after the heartbeats before them (NDL_TX_KIB). -/
def countTx (d : Dev) (p n : Nat) : Dev :=
  let b := txBytes d p + 256 * n
  modPort (count d .ndl p 0x118 (b / 1024)) p (fun x => { x with txRest := b % 1024, lastTx := d.now })

/-- Count a frame received (NDL_RX_KIB). -/
def countRx (d : Dev) (p : Nat) : Dev :=
  let b := (portAt d p).rxRest + 256
  modPort (count d .ndl p 0x11C (b / 1024)) p (fun x => { x with rxRest := b % 1024 })

/-- Send a frame on a port. While the link is down the frame stays in the port's buffer. -/
def sendFrame (d : Dev) (p typ src dst domain key : Nat) (body : List Byte) : Dev :=
  let x := portAt d p
  let seq := (x.seqTx + 1) % 65536
  let h := frameHead typ src dst x.epoch seq x.seqRx domain key body
  let fr := h ++ natLe 4 (crc32 h)
  if portState d p ≠ 1 then modPort d p (fun x => { x with seqTx := seq, held := x.held ++ [(seq, fr)] })
  else
    let d := modPort (countTx d p 1) p (fun x => { x with seqTx := seq, held := x.held ++ [(seq, fr)] })
    { d with links.tx := d.links.tx ++ [(p, fr)] }

/-- Send a message of a node towards its destination. It is held while its route uses a port declared since FWP5 last
computed routes, or NDL_NODE has no majority (R117); with no route it is lost, and its set ends under R461. -/
def sendFrom (d : Dev) (src : Nat) (m : Msg) : Dev :=
  if nodeLost d then { d with links.waiting := d.links.waiting ++ [(src, m)] }
  else match routePort d m.dst with
  | some p =>
    if d.links.down.contains p then { d with links.waiting := d.links.waiting ++ [(src, m)] }
    else sendFrame d p m.typ src m.dst m.domain m.key m.body
  | none => d

def sendMsg (d : Dev) (m : Msg) : Dev := sendFrom d (ownNode d) m

/-- Bodies (Table 20-5). DESIGN CHOICE (log 61): a SET body is the operation, the class and DBUF_BYTES of a join. -/
def semBody (n c op core : Nat) : List Byte := natLe 2 n ++ natLe 2 c ++ natLe 1 op ++ natLe 2 core
def barBody (g op : Nat) : List Byte := natLe 1 g ++ natLe 1 op
def setBody (op cls dbuf : Nat) : List Byte := natLe 1 op ++ natLe 1 cls ++ natLe 4 dbuf

/-! ### Linked sets -/

/-- NDL_BIND of a basin: DOMAIN, MEMBERS and HOME. -/
def bindOf (d : Dev) (b : Nat) : Nat × Nat × Nat :=
  let v := liveN d .ndl 0 (0x200 + 4 * b)
  (v % 4096, bitsOf v 20 12, bitsOf v 31 24)

/-- MEMBERS that the home uses for a domain: those of the lowest basin bound to it here. -/
def linkMembers (d : Dev) (dom : Nat) : Nat :=
  match (List.range 64).find? (fun b => decide ((bindOf d b).1 = dom)) with
  | some b => (bindOf d b).2.1
  | none => 0

def isSet (dom key : Nat) (s : LinkSet) : Bool := decide (s.domain = dom ∧ s.key = key)
def findSet (d : Dev) (dom key : Nat) : Option LinkSet := d.links.sets.find? (isSet dom key)
def modSet (d : Dev) (dom key : Nat) (f : LinkSet → LinkSet) : Dev := { d with links.sets := modWhere (isSet dom key) f d.links.sets }
def dropSet (d : Dev) (dom key : Nat) : Dev := { d with links.sets := d.links.sets.filter (fun s => !isSet dom key s) }

/-- This node's context of a linked set: the oldest. -/
def linkCtx (d : Dev) (dom key : Nat) : Option Ctx :=
  d.jobs.ctxs.find? (fun c => match c.link with | some (a, b, _) => decide (a = dom ∧ b = key) | none => false)

/-- Let a core that waits in a semaphore operation go on. -/
def grantCore (c : Ctx) (core : Nat) : Ctx :=
  match coreAt c core with
  | some k => match k.wait with
    | .sem n v _ => setCore c core { k with wait := .sem n v true }
    | _ => c
  | none => c

def grantAt (d : Dev) (dom key node core n c : Nat) : Dev :=
  if node = ownNode d then
    match linkCtx d dom key with
    | some c => modCtx d c.id (fun c => grantCore c core)
    | none => d
  else sendMsg d ⟨node, 3, dom, key, semBody n c 3 core⟩

/-- A queue entry that a semaphore's value satisfies (R343). -/
def semReady (s : LinkSet) (q : Nat × Nat × Nat × Nat × Bool) : Bool :=
  let v := SMap.get (fun _ => 0) s.sems q.1
  if q.2.2.2.2 then decide (v + q.2.1 ≤ 65535) else decide (q.2.1 ≤ v)

/-- Serve the satisfiable entries in order (R344); `fuel` bounds them. -/
def semPump (dom key : Nat) : Nat → Dev → Dev
  | 0, d => d
  | fuel + 1, d =>
    match findSet d dom key with
    | none => d
    | some s =>
      match s.queue.find? (semReady s) with
      | none => d
      | some q =>
        let v := SMap.get (fun _ => 0) s.sems q.1
        let d := modSet d dom key (fun s => { s with queue := s.queue.erase q,
                                                     sems := SMap.set (fun _ => 0) s.sems q.1 (if q.2.2.2.2 then v + q.2.1 else v - q.2.1) })
        semPump dom key fuel (grantAt d dom key q.2.2.1 q.2.2.2.1 q.1 q.2.1)

/-- A wait or a signal reaches the home. -/
def semHome (d : Dev) (dom key node n c core : Nat) (sig : Bool) : Dev :=
  let d := modSet d dom key (fun s => { s with queue := s.queue ++ [(n, c, node, core, sig)] })
  semPump dom key (match findSet d dom key with | some s => s.queue.length | none => 0) d

/-- All cores of a context that wait at a group go on (R346). -/
def releaseCtx (d : Dev) (id g : Nat) : Dev :=
  match findCtx d id with
  | none => d
  | some c =>
    let d := count d .sync c.mere 0x120 1
    modCtx d id (fun c => { c with
      arrived := c.arrived.filter (fun a => !decide (a.1 = g)),
      cores := c.cores.map (fun k => match k.wait with
        | .bar h _ => if h = g then { k with wait := .bar g true } else k
        | _ => k) })

/-- Every core of a context has arrived at a group or has ended. -/
def allArrived (c : Ctx) (g : Nat) : Bool :=
  ((List.range c.cores.length).zip c.cores).all (fun x => x.2.ended || c.arrived.contains (g, x.1))

def releaseAt (d : Dev) (dom key node g : Nat) : Dev :=
  if node = ownNode d then (match linkCtx d dom key with | some c => releaseCtx d c.id g | none => d)
  else sendMsg d ⟨node, 4, dom, key, barBody g 1⟩

/-- Release a group at which every member has arrived or is gone (R458). -/
def barCheck (d : Dev) (dom key g : Nat) : Dev :=
  match findSet d dom key with
  | none => d
  | some s =>
    let here := s.members.filter (fun m => !s.gone.contains m.1)
    if s.arrived.any (fun a => decide (a.1 = g)) && here.all (fun m => s.arrived.contains (g, m.1)) then
      let d := modSet d dom key (fun s => { s with arrived := s.arrived.filter (fun a => !decide (a.1 = g)) })
      here.foldl (fun d m => releaseAt d dom key m.1 g) d
    else d

def barHome (d : Dev) (dom key g node : Nat) : Dev :=
  barCheck (modSet d dom key (fun s => { s with arrived := if s.arrived.contains (g, node) then s.arrived else s.arrived ++ [(g, node)] })) dom key g

/-- Classes that a fault gives (Table 13-10). -/
def faultClass (cls : Nat) : Bool := [0x20, 0x40, 0x42, 0x50, 0x60].contains cls

/-- End this node's member with a class (R362, R455). -/
def endMember (d : Dev) (dom key cls : Nat) : Dev :=
  match linkCtx d dom key with
  | none => d
  | some c =>
    let d := modCtx d c.id (fun c => { c with link := none })
    if faultClass cls then modCtx d c.id (fun c => { c with fault := some (c.fault.getD cls) })
    else settle (addDue d c.slot cls)

/-- The set that the joins that waited form: the first of each node, up to n of them; the others wait on. -/
def formSet (dom key n : Nat) (later : List (Nat × Nat)) : LinkSet :=
  later.foldl (fun s j =>
    if n ≤ s.members.length ∨ s.members.any (fun m => decide (m.1 = j.1)) = true then { s with later := s.later ++ [j] }
    else { s with members := s.members ++ [j] }) ⟨dom, key, [], false, [], [], [], [], []⟩

/-- The set has ended: the joins that waited for that form the next. -/
def renewSet (d : Dev) (dom key : Nat) : Dev :=
  match findSet d dom key with
  | none => d
  | some s => if s.later = [] then dropSet d dom key else modSet d dom key (fun _ => formSet dom key (linkMembers d dom) s.later)

/-- End every member but one, from the home. -/
def endSet (d : Dev) (dom key cls skip : Nat) : Dev :=
  match findSet d dom key with
  | none => d
  | some s =>
    (s.members.filter (fun m => !decide (m.1 = skip) && !s.gone.contains m.1)).foldl (fun d m =>
      if m.1 = ownNode d then endMember d dom key cls else sendMsg d ⟨m.1, 5, dom, key, setBody 4 cls 0⟩) (renewSet d dom key)

/-- The set may be complete (R455): it starts, or ends where DBUF_BYTES differ (R456), and then the next may be. `fuel` bounds
the sets in a row. -/
def startSet (dom key : Nat) : Nat → Dev → Dev
  | 0, d => d
  | fuel + 1, d =>
    match findSet d dom key with
    | none => d
    | some s =>
      if s.complete || decide (s.members.length ≠ linkMembers d dom) then d
      else if s.members.any (fun m => decide (m.2 ≠ (s.members.headD (0, 0)).2)) then startSet dom key fuel (endSet d dom key 0x60 256)
      else
        s.members.foldl (fun d m =>
          if m.1 = ownNode d then (match linkCtx d dom key with | some c => modCtx d c.id (fun c => { c with joined := true }) | none => d)
          else sendMsg d ⟨m.1, 5, dom, key, setBody 1 0 0⟩) (modSet d dom key (fun s => { s with complete := true }))

/-- Joins of the set, which bound the sets that they can form. -/
def joinsOf (d : Dev) (dom key : Nat) : Nat := match findSet d dom key with | some s => s.members.length + s.later.length + 1 | none => 0

/-- Start what is complete among a set and those that follow it. -/
def startNext (d : Dev) (dom key : Nat) : Dev := startSet dom key (joinsOf d dom key) d

/-- A join reaches the home: a set under way keeps it for the next. -/
def joinHome (d : Dev) (dom key node dbuf : Nat) : Dev :=
  match findSet d dom key with
  | none => startNext { d with links.sets := d.links.sets ++ [⟨dom, key, [(node, dbuf)], false, [], [], [], [], []⟩] } dom key
  | some s =>
    if s.complete || s.members.any (fun m => decide (m.1 = node)) then modSet d dom key (fun s => { s with later := s.later ++ [(node, dbuf)] })
    else startNext (modSet d dom key (fun s => { s with members := s.members ++ [(node, dbuf)] })) dom key

/-- Ask the home to join. -/
def askJoin (d : Dev) (c : Ctx) (dbuf : Nat) : Dev :=
  match c.link with
  | none => d
  | some (dom, key, home) =>
    if home = ownNode d then joinHome d dom key home dbuf
    else sendMsg d ⟨home, 5, dom, key, setBody 0 0 dbuf⟩

/-- Take the k-th entry of a node out of a list of joins. -/
def dropJoin (node : Nat) : Nat → List (Nat × Nat) → List (Nat × Nat)
  | _, [] => []
  | k, j :: js => if j.1 ≠ node then j :: dropJoin node k js else match k with | 0 => js | k + 1 => j :: dropJoin node k js

/-- A context of a node, the idx-th of its contexts with the set's key, has ended with a class. Of the set's own member any
class but DONE ends the others, whether or not the set is complete; the last member ends the set. A context whose join
still waits for that ends alone. -/
def goneHome (d : Dev) (dom key node cls idx : Nat) : Dev :=
  match findSet d dom key with
  | none => d
  | some s =>
    let member := s.members.any (fun m => decide (m.1 = node)) && !s.gone.contains node
    if !member || decide (idx ≠ 0) then
      modSet d dom key (fun s => { s with later := dropJoin node (if member then idx - 1 else idx) s.later })
    else if cls ≠ 0 ∨ !s.complete then startNext (endSet d dom key cls node) dom key
    else
      let d := modSet d dom key (fun s => { s with gone := s.gone ++ [node] })
      if (s.members.filter (fun m => decide (m.1 ≠ node) && !s.gone.contains m.1)) = [] then startNext (renewSet d dom key) dom key
      else (dedup (s.arrived.map (·.1))).foldl (fun d g => barCheck d dom key g) d

/-- Contexts of this node with a key that were issued before one; its own may have left already. -/
def leaveIndex (d : Dev) (c : Ctx) (dom key : Nat) : Nat :=
  (d.jobs.ctxs.filter (fun x => decide (x.id < c.id) && (match x.link with | some (a, b, _) => decide (a = dom ∧ b = key) | none => false))).length

/-- Tell the home that this node's context of a set has ended. -/
def leaveSet (d : Dev) (c : Ctx) (cls : Nat) : Dev :=
  match c.link with
  | none => d
  | some (dom, key, home) =>
    if home = ownNode d then goneHome d dom key home cls (leaveIndex d c dom key)
    else sendMsg d ⟨home, 5, dom, key, setBody 4 cls (leaveIndex d c dom key)⟩

/-- The node has become unreachable. -/
def nodeGone (d : Dev) (n : Nat) : Bool := decide (n ≠ ownNode d) && (routePort d n).isNone

/-- Sets of this home with an unreachable member end with FENCED, and so do those that their waiting joins then form. -/
def fenceHomes (p : Nat) : Nat → Dev → Dev
  | 0, d => d
  | fuel + 1, d =>
    match d.links.sets.find? (fun s => s.members.any (fun m => !s.gone.contains m.1 && nodeGone d m.1)) with
    | none => d
    | some s => fenceHomes p fuel (startNext (endSet (count d .ndl p 0x128 1) s.domain s.key 0x61 256) s.domain s.key)

/-- After routes change (R461): sets with an unreachable member, and members of an unreachable home, end with FENCED;
the port of the declaration counts each set once. -/
def fenceSets (d : Dev) (p : Nat) : Dev :=
  let far := d.jobs.ctxs.filterMap (fun c => match c.link with | some (a, b, h) => if nodeGone d h then some (a, b) else none | none => none)
  let d := fenceHomes p ((d.links.sets.map (fun s => s.members.length + s.later.length)).sum) d
  far.foldl (fun d x => endMember d x.1 x.2 0x61) (count d .ndl p 0x128 (dedup far).length)

end Sys2Proof.Machine
end

