-- ==== Sys2Proof/Machine/Float.lean ====
section
/-! DEFINITION. Floating point as exact values: OCP FP8, E2M1, BF16 and FP32, rounded once to nearest, ties to even
(R177, R198, R310, R322). -/

namespace Sys2Proof.Machine

/-- A decoded value: ± m × 2^e. -/
inductive FVal where
  | nan
  | inf (neg : Bool)
  | fin (neg : Bool) (m : Nat) (e : Int)
deriving DecidableEq, Repr

/-- A binary format. `special` says that the top exponent holds infinities and NaNs (not so in E4M3). -/
structure FFmt where
  ebits : Nat
  mbits : Nat
  bias : Nat
  special : Bool
deriving DecidableEq, Repr

def fp32 : FFmt := ⟨8, 23, 127, true⟩
def bf16 : FFmt := ⟨8, 7, 127, true⟩
def e5m2 : FFmt := ⟨5, 2, 15, true⟩
def e4m3 : FFmt := ⟨4, 3, 7, false⟩

def FVal.isNan : FVal → Bool
  | .nan => true
  | _ => false

/-- The value of a bit pattern (Table 14-1). -/
def FFmt.decode (f : FFmt) (v : Nat) : FVal :=
  let neg := bitOf v (f.ebits + f.mbits)
  let ex := bitsOf v (f.ebits + f.mbits - 1) f.mbits
  let fr := v % 2 ^ f.mbits
  let top := 2 ^ f.ebits - 1
  if f.special && ex == top then (if fr = 0 then .inf neg else .nan)
  else if !f.special && ex == top && fr == 2 ^ f.mbits - 1 then .nan
  else if ex = 0 then .fin neg fr (1 - (f.bias : Int) - f.mbits)
  else .fin neg (2 ^ f.mbits + fr) ((ex : Int) - f.bias - f.mbits)

/-- The E2M1 codes stand for 0, 0.5, 1, 1.5, 2, 3, 4 and 6, bit 3 the sign (Table 14-1). -/
def decodeE2M1 (v : Nat) : FVal :=
  .fin (bitOf v 3) ([0, 1, 2, 3, 4, 6, 8, 12].getD (v % 8) 0) (-1)

/-- Magnitude bits of m × 2^e (m > 0), rounded to nearest even; may reach or pass the format's top code. -/
def FFmt.encodeMag (f : FFmt) (m : Nat) (e : Int) (sticky : Bool) : Nat :=
  let E : Int := e + Nat.log2 m
  let lo : Int := 1 - (f.bias : Int)
  let ex := max E lo
  let sh : Int := ex - f.mbits - e
  let frac :=
    if sh ≤ 0 then m <<< (-sh).toNat
    else
      let k := sh.toNat
      let base := m >>> k
      let rem := m % 2 ^ k
      let half := 2 ^ (k - 1)
      if rem > half || (rem == half && (sticky || base % 2 == 1)) then base + 1 else base
  ((ex + f.bias - 1).toNat <<< f.mbits) + frac

/-- The code of infinity, or the first code past the greatest finite value. -/
def FFmt.top (f : FFmt) : Nat :=
  if f.special then (2 ^ f.ebits - 1) <<< f.mbits else 2 ^ (f.ebits + f.mbits) - 1

def FFmt.signBit (f : FFmt) (neg : Bool) : Nat := if neg then 2 ^ (f.ebits + f.mbits) else 0

/-- Canonical quiet NaN (R310) of a format with specials. -/
def FFmt.qnan (f : FFmt) : Nat := f.top + 2 ^ (f.mbits - 1)

/-- Round once; overflow gives an infinity, NaN the canonical quiet NaN (R310, R322). -/
def FFmt.round (f : FFmt) : FVal → Nat
  | .nan => f.qnan
  | .inf n => f.signBit n + f.top
  | .fin n m e =>
    if m = 0 then f.signBit n
    else
      let b := f.encodeMag m e false
      f.signBit n + (if b ≥ f.top then f.top else b)

def rnd32 (v : FVal) : W32 := BitVec.ofNat 32 (fp32.round v)
def val32 (b : W32) : FVal := fp32.decode b.toNat

/-- Conversion to FP8 E4M3: overflow saturates to ±448, NaN becomes 0x7F with the sign kept (R310). -/
def toE4M3 (neg : Bool) : FVal → Nat
  | .nan => e4m3.signBit neg + 0x7F
  | .inf n => e4m3.signBit n + 0x7E
  | .fin n m e =>
    if m = 0 then e4m3.signBit n
    else e4m3.signBit n + min (e4m3.encodeMag m e false) 0x7E

/-- Conversion to FP8 E5M2: overflow gives ±∞ (R310); which NaN pattern a NaN gives is a free value. -/
def toE5M2 (src : Nat) : FVal → Nat
  | .nan => let k := Config.e5m2NanPick src % 6
            e5m2.signBit (decide (k ≥ 3)) + 0x7D + k % 3
  | v => e5m2.round v

/-- Round to an integer, ties to even (R310). -/
def roundInt (neg : Bool) (m : Nat) (e : Int) : Int :=
  let mag : Nat :=
    if e ≥ 0 then m <<< e.toNat
    else
      let k := (-e).toNat
      let base := m >>> k
      let rem := m % 2 ^ k
      let half := 2 ^ (k - 1)
      if rem > half || (rem == half && base % 2 == 1) then base + 1 else base
  if neg then -(mag : Int) else mag

/-- Conversion to an `n`-bit integer: nearest even, saturated, NaN gives 0 (R310). -/
def toIntSat (n : Nat) : FVal → Int
  | .nan => 0
  | .inf neg => if neg then -(2 ^ (n - 1) : Nat) else (2 ^ (n - 1) : Nat) - 1
  | .fin neg m e =>
    if m ≠ 0 && e + Nat.log2 m > 80 then (if neg then -(2 ^ (n - 1) : Nat) else (2 ^ (n - 1) : Nat) - 1)
    else max (-(2 ^ (n - 1) : Nat) : Int) (min ((2 ^ (n - 1) : Nat) - 1) (roundInt neg m e))

def ofIntF (v : Int) : FVal := .fin (decide (v < 0)) v.natAbs 0

def FVal.neg : FVal → FVal
  | .nan => .nan
  | .inf n => .inf (!n)
  | .fin n m e => .fin (!n) m e

def FVal.abs : FVal → FVal
  | .nan => .nan
  | .inf _ => .inf false
  | .fin _ m e => .fin false m e

def FVal.isZero : FVal → Bool
  | .fin _ 0 _ => true
  | _ => false

def FVal.sign : FVal → Bool
  | .nan => false
  | .inf n => n
  | .fin n _ _ => n

/-- Exact product. -/
def FVal.mul : FVal → FVal → FVal
  | .nan, _ => .nan
  | _, .nan => .nan
  | .inf a, .inf b => .inf (a != b)
  | .inf a, .fin b m _ => if m = 0 then .nan else .inf (a != b)
  | .fin a m _, .inf b => if m = 0 then .nan else .inf (a != b)
  | .fin a m e, .fin b n g => .fin (a != b) (m * n) (e + g)

/-- Signed integer of a finite value at exponent `lo` (at most its own). -/
def FVal.atExp (lo : Int) : FVal → Int
  | .fin n m e => let v : Int := ((m <<< (e - lo).toNat : Nat) : Int); if n then -v else v
  | _ => 0

def FVal.expOr (d : Int) : FVal → Int
  | .fin _ m e => if m = 0 then d else min d e
  | _ => d

/-- Exact sum (R198, R322): NaN dominates; infinities of both signs give NaN; an exact zero is +0 unless every
term is −0. -/
def FVal.sum (xs : List FVal) : FVal :=
  if xs.any FVal.isNan then .nan
  else
    let pi := xs.any (fun x => decide (x = .inf false))
    let ni := xs.any (fun x => decide (x = .inf true))
    if pi && ni then .nan
    else if pi then .inf false
    else if ni then .inf true
    else
      let lo := xs.foldl (fun d x => x.expOr d) 0
      let t := xs.foldl (fun (a : Int) x => a + (if x.isZero then 0 else x.atExp lo)) 0
      if t = 0 then .fin (!xs.isEmpty && xs.all FVal.sign) 0 0
      else .fin (decide (t < 0)) t.natAbs lo

def FVal.add (x y : FVal) : FVal := FVal.sum [x, y]
def FVal.sub (x y : FVal) : FVal := FVal.sum [x, y.neg]

/-- Round the positive rational n / d × 2^k to a format. -/
def FFmt.roundRat (f : FFmt) (n d : Nat) (k : Int) : Nat :=
  if n = 0 || d = 0 then 0
  else
    let up := f.mbits + 4 + Nat.log2 d
    let q := (n <<< up) / d
    let r := (n <<< up) % d
    let b := f.encodeMag (2 * q + (if r = 0 then 0 else 1)) (k - up - 1) false
    if b ≥ f.top then f.top else b

/-- FP32 division (IEEE 754 under R310). -/
def fdiv32 (a b : W32) : W32 :=
  match val32 a, val32 b with
  | .nan, _ => 0x7FC00000
  | _, .nan => 0x7FC00000
  | .inf _, .inf _ => 0x7FC00000
  | .inf x, .fin y _ _ => rnd32 (.inf (x != y))
  | .fin x _ _, .inf y => rnd32 (.fin (x != y) 0 0)
  | .fin x m e, .fin y n g =>
    if n = 0 then (if m = 0 then 0x7FC00000 else rnd32 (.inf (x != y)))
    else BitVec.ofNat 32 (fp32.signBit (x != y) + fp32.roundRat m n (e - g))

def fadd32 (a b : W32) : W32 := rnd32 ((val32 a).add (val32 b))
def fsub32 (a b : W32) : W32 := rnd32 ((val32 a).sub (val32 b))
def fmul32 (a b : W32) : W32 := rnd32 ((val32 a).mul (val32 b))
def fma32 (a b c : W32) : W32 := rnd32 (((val32 a).mul (val32 b)).add (val32 c))

/-- Order of two values that are not NaN: -1, 0 or 1 as an integer; zeros are equal. -/
def FVal.cmp (x y : FVal) : Int :=
  match x, y with
  | .inf a, .inf b => if a == b then 0 else if a then -1 else 1
  | .inf a, _ => if a then -1 else 1
  | _, .inf b => if b then 1 else -1
  | .fin a m e, .fin b n g =>
    let lo := min e g
    let u := (FVal.fin a m e).atExp lo
    let v := (FVal.fin b n g).atExp lo
    if u < v then -1 else if u = v then 0 else 1
  | _, _ => 0

def FVal.lt (x y : FVal) : Bool := !x.isNan && !y.isNan && decide (x.cmp y < 0)
def FVal.le (x y : FVal) : Bool := !x.isNan && !y.isNan && decide (x.cmp y ≤ 0)
def FVal.eq (x y : FVal) : Bool := !x.isNan && !y.isNan && decide (x.cmp y = 0)

/-- Minimum or maximum of two patterns of a format. Of a NaN and a number the result is free between the number and the
canonical NaN (R310), of zeros of both signs between the two. -/
def FFmt.minMax (f : FFmt) (isMax : Bool) (a b : Nat) : Nat :=
  let x := f.decode a
  let y := f.decode b
  if x.isNan && y.isNan then f.qnan
  else if x.isNan then (if Config.minMaxPick isMax a b then b else f.qnan)
  else if y.isNan then (if Config.minMaxPick isMax a b then a else f.qnan)
  else if x.isZero && y.isZero && (x.sign != y.sign) then (if Config.minMaxPick isMax a b then a else b)
  else if isMax then (if x.lt y then b else a) else (if y.lt x then b else a)

/-- The FP32 codes within 2 ulp of the positive value n / d × 2^k, around its rounding (R199, R310). -/
def candidates (n d : Nat) (k : Int) : List Nat :=
  let r := fp32.roundRat n d k
  let E := max (if n = 0 then (-149 : Int) else (Nat.log2 n : Int) - Nat.log2 d + k) (-126)
  let E := if n * 2 ^ (if (Nat.log2 n : Int) - Nat.log2 d < 0 then (Nat.log2 d - Nat.log2 n) else 0)
              < d * 2 ^ (Nat.log2 n - Nat.log2 d) && E > -126 then E - 1 else E
  let ulp := E - 23
  let near (c : Nat) : Bool :=
    match fp32.decode c with
    | .fin _ m e =>
      -- |m 2^e - n/d 2^k| ≤ 2 ulp, scaled by d 2^-lo
      let lo := min (min e k) ulp
      let u : Int := ((m * d) <<< (e - lo).toNat : Nat)
      let v : Int := (n <<< (k - lo).toNat : Nat)
      decide ((u - v).natAbs ≤ (2 * d) <<< (ulp - lo).toNat)
    | _ => false
  let cs := [r - 2, r - 1, r, r + 1, r + 2].filter (fun c => c < 0x7F800000 && near c)
  if cs.isEmpty then [r] else cs

def pick (cs : List Nat) (i : Nat) : Nat := cs.getD (i % cs.length) 0

/-- ln 2 × 2^128. -/
def ln2P : Nat := 235865763225513294137944142764154484399

/-- Taylor sum of e^r, r = R / 2^128, `n` terms left, from term `t` of index `i`. -/
def expSeries (R : Nat) : Nat → Nat → Nat → Nat
  | 0, _, _ => 0
  | n + 1, i, t => t + expSeries R n (i + 1) (t * R / (2 ^ 128 * i))

/-- e^x in FP32 within 2 ulp, the same for the same input (R199, R310). -/
def exp32 (x : W32) : W32 :=
  match val32 x with
  | .nan => 0x7FC00000
  | .inf neg => if neg then 0 else 0x7F800000
  | .fin neg m e =>
    if m = 0 then BitVec.ofNat 32 (pick (candidates 1 1 0) (Config.expPick x))
    else if e + Nat.log2 m ≥ 7 then
      if neg then BitVec.ofNat 32 (pick (candidates 1 1 (-200)) (Config.expPick x)) else 0x7F800000
    else
      let y := if e + 128 ≥ 0 then m <<< (e + 128).toNat else m >>> (-(e + 128)).toNat
      let n := y / ln2P
      let s := expSeries (y % ln2P) 48 1 (2 ^ 128)
      if neg then BitVec.ofNat 32 (pick (candidates (2 ^ 128) s (-(n : Int))) (Config.expPick x))
      else if n ≥ 128 then 0x7F800000
      else
        let r := fp32.roundRat s (2 ^ 128) n
        if r ≥ 0x7F800000 then 0x7F800000
        else BitVec.ofNat 32 (pick (candidates s (2 ^ 128) n) (Config.expPick x))

/-- 1 / x in FP32 within 2 ulp (R310). -/
def rcp32 (x : W32) : W32 :=
  match val32 x with
  | .nan => 0x7FC00000
  | .inf neg => BitVec.ofNat 32 (fp32.signBit neg)
  | .fin neg m e =>
    if m = 0 then BitVec.ofNat 32 (fp32.round (.inf neg))
    else
      let r := fp32.roundRat 1 m (-e)
      BitVec.ofNat 32 (fp32.signBit neg +
        (if r ≥ 0x7F800000 then 0x7F800000 else pick (candidates 1 m (-e)) (Config.rcpPick x)))

/-- Integer square root by bits, most significant first. -/
def isqrtAux (v : Nat) : Nat → Nat → Nat
  | 0, r => r
  | b + 1, r => let c := r + 2 ^ b; isqrtAux v b (if c * c ≤ v then c else r)

/-- 1 / √x in FP32 within 2 ulp (R310). -/
def rsq32 (x : W32) : W32 :=
  match val32 x with
  | .nan => 0x7FC00000
  | .inf neg => if neg then 0x7FC00000 else 0
  | .fin neg m e =>
    if m = 0 then BitVec.ofNat 32 (fp32.round (.inf neg))
    else if neg then 0x7FC00000
    else
      let odd := e % 2 ≠ 0
      let m2 := if odd then 2 * m else m
      let e2 := if odd then e - 1 else e
      let s := isqrtAux (m2 <<< 160) 100 0
      BitVec.ofNat 32 (pick (candidates (2 ^ 80) s (-(e2 / 2))) (Config.rsqPick x))

/-! ### Keys of scores (R190) -/

/-- KEY of an FP32 score (R190). -/
def keyOfScore (b : W32) : Nat := if b.getLsbD 31 then (~~~ b).toNat else (b ^^^ 0x80000000).toNat

/-- The FP32 score that a key encodes. -/
def scoreOfKey (k : Nat) : W32 :=
  let w := BitVec.ofNat 32 k
  if w.getLsbD 31 then w ^^^ 0x80000000 else ~~~ w

/-- Canonical key: −0 becomes +0, a NaN the worst infinity of the direction (R190). -/
def canonKey (desc : Bool) (k : Nat) : Nat :=
  if (val32 (scoreOfKey k)).isNan then (if desc then 0x007FFFFF else 0xFF800000)
  else if k = 0x7FFFFFFF then 0x80000000 else k

end Sys2Proof.Machine
end

