-- ==== Sys2Proof/Machine/Operands.lean ====
section
/-! DEFINITION. The bundle and its slots (Tables 13-5, 13-6, 14-2): fields, element types, immediates. -/

namespace Sys2Proof.Machine

/-- Sign-extend the low n bits of a number to 64 bits. -/
def sext64 (n v : Nat) : W64 := BitVec.ofInt 64 (toInt n v)

namespace Bundle
def header (w : Nat) : Nat := w % 65536
def enS (w : Nat) : Bool := bitOf w 0
def enV (w : Nat) : Bool := bitOf w 1
def enT (w : Nat) : Bool := bitOf w 2
def enM (w : Nat) : Bool := bitOf w 3
def slotS (w : Nat) : Nat := bitsOf w 63 16
def slotV (w : Nat) : Nat := bitsOf w 127 64
def slotT (w : Nat) : Nat := bitsOf w 191 128
def slotM (w : Nat) : Nat := bitsOf w 255 192
end Bundle

namespace SS
def op (s : Nat) : Nat := s % 256
def rd (s : Nat) : Nat := bitsOf s 12 8
def rs1 (s : Nat) : Nat := bitsOf s 17 13
def rs2 (s : Nat) : Nat := bitsOf s 22 18
def immN (s : Nat) : Nat := bitsOf s 47 23
def imm (s : Nat) : W64 := sext64 25 (immN s)
end SS

namespace VS
def op (s : Nat) : Nat := s % 256
def vd (s : Nat) : Nat := bitsOf s 12 8
def va (s : Nat) : Nat := bitsOf s 17 13
def vb (s : Nat) : Nat := bitsOf s 22 18
def vc (s : Nat) : Nat := bitsOf s 27 23
def p (s : Nat) : Nat := bitsOf s 30 28
def pen (s : Nat) : Bool := bitOf s 31
def et (s : Nat) : Nat := bitsOf s 34 32
def xs (s : Nat) : Nat := bitsOf s 40 36
def immN (s : Nat) : Nat := bitsOf s 63 41
def imm (s : Nat) : W64 := sext64 23 (immN s)
end VS

namespace TS
def op (s : Nat) : Nat := s % 256
def ad (s : Nat) : Nat := bitsOf s 8 8
def ta (s : Nat) : Nat := bitsOf s 11 9
def tb (s : Nat) : Nat := bitsOf s 14 12
def as (s : Nat) : Nat := bitsOf s 15 15
def sub (s : Nat) : Nat := bitsOf s 19 16
def xs (s : Nat) : Nat := bitsOf s 24 20
def vr (s : Nat) : Nat := bitsOf s 29 25
def imm (s : Nat) : Nat := bitsOf s 63 32
end TS

namespace MS
def op (s : Nat) : Nat := s % 256
def xa (s : Nat) : Nat := bitsOf s 12 8
def xb (s : Nat) : Nat := bitsOf s 17 13
def xc (s : Nat) : Nat := bitsOf s 22 18
def d (s : Nat) : Nat := bitsOf s 25 23
def pa (s : Nat) : Nat := bitsOf s 28 26
def pb (s : Nat) : Nat := bitsOf s 31 29
def imm (s : Nat) : Nat := bitsOf s 63 32
end MS

/-- The slot fields that must be zero when an operation does not use them, by register or immediate. -/
structure Uses where
  /-- Bits of the slot that the operation uses. -/
  mask : Nat
  /-- Registers that it writes: x n, v n (32 + n), p n (64 + n), t n (72 + n). -/
  writes : List Nat
  deriving DecidableEq, Repr

def bitsMask (hi lo : Nat) : Nat := (2 ^ (hi + 1 - lo) - 1) <<< lo

/-! ### Element types (ET of the vector slot, FMT of the tile slot) -/

/-- Element width in bits of a vector type. -/
def etWidth : Nat → Nat
  | 0 => 8 | 1 => 16 | 2 => 32 | 3 => 32 | 4 => 16 | 5 => 8 | 6 => 8 | _ => 32

def etInt (et : Nat) : Bool := decide (et < 3)

/-- The floating format of a vector type. -/
def etFmt : Nat → FFmt
  | 3 => fp32 | 4 => bf16 | 5 => e4m3 | 6 => e5m2 | _ => fp32

/-- Element k of a vector. -/
def velem (w : Nat) (v : BitVec 1024) (k : Nat) : Nat := (v.toNat >>> (k * w)) % 2 ^ w

/-- A vector from its elements, lowest first. -/
def vecOf (w : Nat) : List Nat → Nat
  | [] => 0
  | e :: es => e % 2 ^ w + 2 ^ w * vecOf w es

def vmk (w : Nat) (es : List Nat) : BitVec 1024 := BitVec.ofNat 1024 (vecOf w es)

/-- Bits of the lanes whose predicate bit is set. -/
def laneMask (p : W32) : Nat :=
  vecOf 32 ((List.range 32).map (fun i => if p.getLsbD i then 0xFFFFFFFF else 0))

/-- Result under a predicate: disabled lanes keep the old value (R309). -/
def underMask (m : Nat) (old new : BitVec 1024) : BitVec 1024 :=
  (old &&& ~~~ (BitVec.ofNat 1024 m)) ||| (new &&& BitVec.ofNat 1024 m)

/-! ### Tile address register (Table 13-2) -/
namespace TR
def base (t : BitVec 128) : Nat := bitsOf t.toNat 18 0
def stride (t : BitVec 128) : Nat := bitsOf t.toNat 47 32
def rows (t : BitVec 128) : Nat := bitsOf t.toNat 52 48 + 1
def cols (t : BitVec 128) : Nat := bitsOf t.toNat 60 56 + 1
def fmt (t : BitVec 128) : Nat := bitsOf t.toNat 67 64
def scale (t : BitVec 128) : Nat := bitsOf t.toNat 86 68
/-- Reserved bits are zero and the fields lie in range (R294). -/
def ok (t : BitVec 128) : Bool :=
  decide (bitsOf t.toNat 31 19 = 0 ∧ bitsOf t.toNat 55 53 = 0 ∧ bitsOf t.toNat 63 61 = 0 ∧ t.toNat / 2 ^ 87 = 0 ∧
    base t % 32 = 0 ∧ stride t % 32 = 0 ∧ fmt t ≤ 8) &&
  (if fmt t = 4 ∨ fmt t = 5 then decide (scale t % 32 = 0) else decide (scale t = 0))
end TR

/-- Twice the element size in bytes of a tile format (Table 14-1). -/
def fmtSize2 : Nat → Nat
  | 0 => 2 | 1 => 1 | 2 => 2 | 3 => 2 | 4 => 1 | 5 => 2 | 6 => 4 | 7 => 8 | _ => 8

/-- Row length in bytes (R318). -/
def rowBytes (fmt cols : Nat) : Nat := cols * fmtSize2 fmt / 2

/-- The tile keeps R318: stride and packed columns. -/
def tileShapeOk (t : BitVec 128) : Bool :=
  (decide (TR.rows t = 1) || decide (ceilDiv (rowBytes (TR.fmt t) (TR.cols t)) 32 * 32 ≤ TR.stride t)) &&
  (!(decide (TR.fmt t = 1) || decide (TR.fmt t = 4)) || decide (TR.cols t % 2 = 0))

/-- Byte ranges of a tile: address and length of each row, and its scale bytes. -/
def tileRanges (t : BitVec 128) : List (Nat × Nat) :=
  (List.range (TR.rows t)).map (fun r => (TR.base t + r * TR.stride t, rowBytes (TR.fmt t) (TR.cols t))) ++
  (if TR.fmt t = 4 ∨ TR.fmt t = 5 then [(TR.scale t, TR.rows t)] else [])

end Sys2Proof.Machine
end

