-- ==== Sys2Proof/Machine/Frames.lean ====
section
/-! DEFINITION. Device-managed pages of HBM: decoded weight frames (R370, R371) and key-value stores (R256, R275), and the words
of a request's work that they hold. -/

namespace Sys2Proof.Machine

/-! Fields of a model descriptor (Table 11-1). -/
namespace Mdl
def role (x : List Byte) : Nat := byteAt x 6
def marked (x : List Byte) : Bool := bitOf (byteAt x 7) 0
def nLayer (x : List Byte) : Nat := fieldN x 10 2
def nKv (x : List Byte) : Nat := byteAt x 15
def headDim (x : List Byte) : Nat := fieldN x 16 2
def nSpec (x : List Byte) : Nat := byteAt x 18
def maxCtx (x : List Byte) : Nat := fieldN x 20 4
def outDim (x : List Byte) : Nat := fieldN x 24 2
def window (x : List Byte) : Nat := fieldN x 26 2
def prefetch (x : List Byte) : Nat := fieldN x 28 2
def vocabAddr (x : List Byte) : Nat := fieldN x 32 8
def jobAddr (x : List Byte) : Nat := fieldN x 40 8
def imgSector (x : List Byte) : Nat := fieldN x 48 8
def imgBytes (x : List Byte) : Nat := fieldN x 56 8
def hbmPages (x : List Byte) : Nat := fieldN x 64 4
/-- Bytes of a KV position (R256). -/
def bpp (x : List Byte) : Nat := nLayer x * 2 * nKv x * (headDim x + headDim x / 32)
/-- KV pages of P positions (R256). -/
def kvPages (x : List Byte) (p : Nat) : Nat := ceilDiv (p * bpp x) 65536
/-- Whole KV pages that P positions fill. -/
def fullPages (x : List Byte) (p : Nat) : Nat := p * bpp x / 65536
/-- Pages of the scratch tail (R258). -/
def scratch (x : List Byte) : Nat := ceilDiv (8 * bpp x) 65536
end Mdl

def handleOf (d : Dev) (r : Req) : Option Handle :=
  r.hold.bind (fun i => d.eng.handles.find? (fun h => decide (h.idx = i)))

/-- The store is lost, and the handle waits for its last hold to end. -/
def Handle.lost (h : Handle) : Bool := h.released && decide (h.fed = 0)

/-! ### Pages -/

/-- 64 KiB pages of a stack's data capacity (R485). -/
def stackPages : Nat := 229376

/-- Words of the pages carry no poison any more: they are given out anew. -/
def cleanPages (d : Dev) (ps : List Nat) : Dev :=
  { d with mem.poison := d.mem.poison.filter (fun w => !(decide (w.1 = .hbm) && ps.contains (w.2 / 8192))) }

/-- n pages are given out among some stacks, of the firmware's choice. -/
def givePages (d : Dev) (stack many n : Nat) : Dev × List Nat :=
  let ps := (List.range n).map (fun i => stack * stackPages + Config.devicePage (d.fresh + i) % (many * stackPages))
  (cleanPages { d with fresh := d.fresh + n } ps, ps)

/-- The page that a reference names once some pages have taken the places of others. -/
def movedTo (m : List (Nat × Nat)) (p : Nat) : Nat := ((m.find? (fun x => decide (x.1 = p))).map (·.2)).getD p

/-- Pages move, with the poison of their words, and every device-managed reference follows (R275, R392, R397). -/
def movePages (d : Dev) (m : List (Nat × Nat)) : Dev :=
  { d with mem.poison := d.mem.poison.map (fun w => if w.1 = .hbm then (.hbm, movedTo m (w.2 / 8192) * 8192 + w.2 % 8192) else w),
           mem.models := d.mem.models.map (fun h => { h with pages := h.pages.map (·.map (movedTo m)) }),
           eng.handles := d.eng.handles.map (fun h => { h with kv := h.kv.map (movedTo m) }),
           reqs := d.reqs.map (fun r => { r with stream := r.stream.map (fun s => { s with kv := s.kv.map (movedTo m) }) }) }

/-- A device-managed page: of a resident model, of a stream's or a handle's store. -/
def deviceManaged (d : Dev) (page : Nat) : Bool :=
  d.mem.models.any (fun h => h.pages.any (·.contains page)) || d.eng.handles.any (fun h => h.kv.contains page) ||
  d.reqs.any (fun r => match r.stream with | some s => s.kv.contains page | none => false)

/-- A poisoned word of some pages: its device address. -/
def pagesPoison (d : Dev) (ps : List Nat) : Option Nat :=
  (d.mem.poison.find? (fun w => decide (w.1 = .hbm) && ps.contains (w.2 / 8192))).map (fun w => 8 * w.2)

/-! ### Weight frames -/

/-- The mere that holds a frame (R370). -/
def frameMere (layers : List (Nat × Nat)) (frame : Nat) : Nat :=
  match layers.find? (fun l => decide (l.1 ≤ frame ∧ frame < l.1 + l.2)) with
  | some l => (frame - l.1) % 4
  | none => 0

/-- Frames of a layer that a mere holds, by number (R370). -/
def mereIndices (layer : Nat × Nat) (m : Nat) : List Nat := ((List.range layer.2).filter (fun i => decide (i % 4 = m))).map (layer.1 + ·)

/-- The frames that a mere holds, in frame order. -/
def mereOrder (layers : List (Nat × Nat)) (m : Nat) : List Nat := layers.flatMap (mereIndices · m)

def modelAt (d : Dev) (uid : Nat) : Option HeldModel := d.mem.models.find? (fun h => decide (h.uid = uid))

/-- Device address of byte 0 of a frame: 16 frames to a page, in frame order (R370). -/
def frameAddr (h : HeldModel) (frame : Nat) : Option Nat :=
  let m := frameMere h.layers frame
  let j := (mereOrder h.layers m).idxOf frame
  ((h.pages.getD m [])[j / 16]?).map (fun p => p * 65536 + j % 16 * 4096)

/-- Poisoned words of some frames: their device addresses. -/
def framesPoison (d : Dev) (h : HeldModel) (fs : List Nat) : List Nat :=
  if d.mem.poison = [] then []
  else
    let as := fs.filterMap (frameAddr h)
    (d.mem.poison.filter (fun w => decide (w.1 = .hbm) && as.any (fun a => decide (a / 8 ≤ w.2 ∧ w.2 < a / 8 + 512)))).map (fun w => 8 * w.2)

/-- Frames of a layer on a mere with a poisoned word. -/
def layerPoison (d : Dev) (uid layer m : Nat) : List Nat :=
  match modelAt d uid with
  | some h => framesPoison d h (mereIndices (h.layers.getD layer (0, 0)) m)
  | none => []

/-- The version is held no more. -/
def dropModel (d : Dev) (uid : Nat) : Dev := { d with mem.models := d.mem.models.filter (fun h => !decide (h.uid = uid)) }

/-! ### Words of a request's work -/

/-- The model that the jobs of a request's stage run. -/
def Req.stageModel (r : Req) : Option Nat :=
  match r.stage with
  | .embed => r.pins.enc
  | .fetchRank | .rankSort => r.pins.rr
  | _ => r.stream.map (fun s => s.model)

/-- The first prefill of a stream: its first own page begins as a copy of the cited store's last page, which it fills in part
(R274). The page that it copies. -/
def copiedPage (d : Dev) (r : Req) (s : Stream) : Option Nat :=
  match handleOf d r, findVer d s.model with
  | some h, some v =>
    if h.model = s.model ∧ r.stage = .prefill ∧ s.fed ≤ h.fed ∧ Mdl.fullPages v.desc s.fed = s.shared ∧ s.fed * Mdl.bpp v.desc % 65536 ≠ 0
    then h.kv[s.shared]? else none
  | _, _ => none

/-- The page that a stream's work reads as one of its KV pages. -/
def kvPage (d : Dev) (r : Req) (s : Stream) (i : Nat) : Option Nat := (if i = s.shared then copiedPage d r s else none).or s.kv[i]?

/-- The cited handle's store holds one of a stream's KV pages. -/
def ofStore (d : Dev) (r : Req) (s : Stream) (i : Nat) : Bool := decide (i < s.shared) || (decide (i = s.shared) && (copiedPage d r s).isSome)

/-- Pages of the cited handle's store that a stream's work reads. -/
def storePages (d : Dev) (r : Req) (s : Stream) : List Nat := s.kv.take s.shared ++ (copiedPage d r s).toList

/-- Device address of a word of the weights or of the KV store that a request's work reads; none for a word elsewhere. -/
def workAddr (d : Dev) (r : Req) (part : WorkWord) (off : Nat) : Option Nat :=
  match part with
  | .weights => (r.stageModel.bind (modelAt d)).bind (fun h => (frameAddr h (off / 4096)).map (· + off % 4096))
  | .kv => r.stream.bind (fun s => (kvPage d r s (off / 65536)).map (· * 65536 + off % 65536))
  | _ => none

/-- A poisoned word that the work's part of HBM holds already. -/
def workPoison (d : Dev) (r : Req) (part : WorkWord) : Option Nat :=
  if d.mem.poison = [] then none
  else match part with
    | .weights => (r.stageModel.bind (modelAt d)).bind (fun h => (framesPoison d h (List.range h.dir.length)).head?)
    | .kv => r.stream.bind (fun s => pagesPoison d (storePages d r s ++ s.kv))
    | _ => none

end Sys2Proof.Machine
end

