-- ==== Sys2Proof/Machine/Words.lean ====
section
/-! DEFINITION. Errors that reads of coded words meet (R388–R391, R395), for the steps that read them. -/

namespace Sys2Proof.Machine

/-- Stack of a device address of HBM (R485); none for an address that names nothing. -/
def stackOf (a : Nat) : Option Nat :=
  if a < 0x2A00000000 then some (a / 0x380000000)
  else if 0x4000000000 ≤ a ∧ a < 0x40AAA00000 then some (Config.reserveStack (a / 65536) % 12)
  else none

/-- The basin that maps an HBM page; none for a page of no basin. -/
def pageBasin (d : Dev) (page : Nat) : Option Nat := (List.range 64).find? (fun b => (mappedPages d b false).contains page)

/-- The basin whose data a page holds: it maps the page, or a model, stream or handle of its own has it. -/
def pageOwner (d : Dev) (page : Nat) : Option Nat :=
  (pageBasin d page).or <|
  ((d.mem.models.find? (fun h => h.pages.any (·.contains page))).bind (fun h => (findVer d h.uid).map (·.basin))).or <|
  ((d.reqs.find? (fun r => match r.stream with | some s => (s.kv.drop s.shared).contains page | none => false)).map (·.basin)).or
  ((d.eng.handles.find? (fun h => h.kv.contains page)).map (·.basin))

/-- One word of a stack that its controller reads in error (Table 17-1, R391). More than three bits in error are outside
the code's guarantee; the model lets such a word pass unchanged. -/
def hbmWord (d : Dev) (stack addr bits : Nat) (tag : W32 := noTag) : Dev :=
  let m := stack / 3
  let i := stack
  let page := addr / 65536
  let bad := poisoned d .hbm (addr / 8)
  let owner := pageOwner d page
  let bs := match owner with | some b => b | none => 0xFF
  let d2 : W32 := if addr < 0x2A00000000 then BitVec.ofNat 32 ((addr - stack * 0x380000000) / 8) else (Config.reserveWord (addr / 8)).setWidth 32
  let d3 := BitVec.ofNat 32 (bits % 4 + (if bad then 4 else 0))
  if m < 4 ∧ (bits = 1 ∨ bits = 2) then
    let d := count (setStat d .hbm i 0 (bs % 64) tag d2 d3) .hbm i 0x204 1
    let d := match owner with | some b => count d .bsn b 0x168 1 | none => d
    logEvent { d with mem.suspect := d.mem.suspect ++ [(page, d.now, false)] } 1 (pageNo .hbm i) bs tag addr bits
  else if m < 4 ∧ bits = 3 then
    let d := count (setStat d .hbm i 1 (bs % 64) tag d2 d3) .hbm i 0x208 1
    let d := { d with mem.suspect := d.mem.suspect ++ [(page, d.now, true)],
                      mem.poison := if bad then d.mem.poison else d.mem.poison ++ [(.hbm, addr / 8)] }
    logEvent d 2 (pageNo .hbm i) bs tag addr 0
  else d

/-- Who reads: the page of its unit, the basin and the request. -/
structure Reader where
  unit : Blk
  index : Nat
  basin : Nat
  slot : Nat

def Reader.tag (x : Reader) (d : Dev) : W32 := match findReq d x.slot with | some r => r.tag | none => noTag

/-- CORRECTED_ERRORS of the request whose work used a corrected word (R391). -/
def usedCorrected (d : Dev) (slot bits : Nat) : Dev :=
  if bits = 1 ∨ bits = 2 then modReq d slot (fun r => r.flag 12) else d

/-- One word of a memory other than HBM read in error (Table 17-1, R391); an input block in which an uncorrectable word is
found will be flagged as poisoned (R79). A unit of this kind has no counter of corrected words. -/
def otherWord (d : Dev) (x : Reader) (w : Space × Nat) (place bits : Nat) : Dev :=
  if bits = 1 ∨ bits = 2 then logEvent (count d .bsn x.basin 0x168 1) 1 (pageNo x.unit x.index) x.basin (x.tag d) place bits
  else if bits = 3 then
    let d := logEvent { d with mem.poison := if d.mem.poison.contains w then d.mem.poison else d.mem.poison ++ [w] }
      2 (pageNo x.unit x.index) x.basin (x.tag d) place 0
    if w.1 = .shore then poisonBlock d x.basin (8 * w.2 % 2 ^ 26 / 65536) else d
  else d

/-- A read of one word in error. -/
def readWord (d : Dev) (x : Reader) (w : Space × Nat) (bits : Nat) : Dev :=
  let d := match w.1, stackOf (8 * w.2) with
    | .hbm, some k => hbmWord d k (8 * w.2) bits (x.tag d)
    | .hbm, none => d
    | _, _ => otherWord d x w (placeOf w) bits
  usedCorrected d x.slot bits

/-- A word's first copy came uncorrectable over a die-to-die path and its second did not (R390). -/
def replayed (d : Dev) (x : Reader) (e : ReadError) : Dev :=
  match e.path with
  | some (p, false) => logEvent d 4 (pageNo x.unit x.index) x.basin (x.tag d) p 0
  | _ => d

/-- The errors that a step's reads meet; `names` says which words the step reads. -/
def readErrors (d : Dev) (x : Reader) (names : Dev → ErrorPlace → Option (Space × Nat)) (errs : List ReadError) : Dev :=
  errs.foldl (fun d e => match names d e.place with | some w => readWord (replayed d x e) x w e.bits | none => d) d

/-- Words whose second copy is uncorrectable as well: they are delivered poisoned, though their memory holds them whole. -/
def lostOnWay (d : Dev) (names : Dev → ErrorPlace → Option (Space × Nat)) (errs : List ReadError) : List (Space × Nat) :=
  (errs.filterMap (fun e => match e.path with | some (_, true) => names d e.place | _ => none)).filter (fun w => !d.mem.poison.contains w)

/-- Words as the step sees them that reads them poisoned, and as their memory holds them after it. -/
def addLost (d : Dev) (lost : List (Space × Nat)) : Dev := if lost = [] then d else { d with mem.poison := d.mem.poison ++ lost }
def dropLost (d : Dev) (lost : List (Space × Nat)) : Dev :=
  if lost = [] then d else { d with mem.poison := d.mem.poison.filter (fun w => !lost.contains w) }

/-- A step with the errors that its reads meet. -/
def withErrors (d : Dev) (x : Reader) (names : Dev → ErrorPlace → Option (Space × Nat)) (errs : List ReadError) (step : Dev → Dev) : Dev :=
  let lost := lostOnWay d names errs
  dropLost (step (addLost (readErrors d x names errs) lost)) lost

/-- Number of a part of a request's work, for the place that the error log gives its words. -/
def workCode : WorkWord → Nat
  | .text => 8 | .tokens => 9 | .kv => 10 | .weights => 11 | .logits => 12 | .grammar => 13 | .scratch => 14 | .list => 15 | .tagState => 1

/-- The errors that a step meets in some parts of a request's work (R389, R391): the records and counts, and the place of the
first word that is poisoned, with its part and offset. Weights and KV stores lie in HBM; the other parts are the units' own. -/
def workErrors (d : Dev) (x : Reader) (parts : List WorkWord) (errs : List ReadError) : Dev × Option (Nat × WorkWord × Nat) :=
  errs.foldl (fun acc e => match e.place with
    | .work slot part off =>
      if slot ≠ x.slot ∨ !parts.contains part then acc
      else
        let held := (findReq acc.1 slot).bind (fun r => workAddr acc.1 r part off)
        let place := held.getD (Config.wordPlace (workCode part) (2 ^ 20 * off + slot))
        let d := replayed acc.1 x e
        let met := acc.2.or (some (place, part, off))
        if e.bits = 1 ∨ e.bits = 2 then
          let d := match held with
            | some a => readWord d x (.hbm, a / 8) e.bits
            | none => usedCorrected (logEvent (count d .bsn x.basin 0x168 1) 1 (pageNo x.unit x.index) x.basin (x.tag d) place e.bits) slot e.bits
          (d, match e.path with | some (_, true) => met | _ => acc.2)
        else if e.bits = 3 then
          (match held with
            | some a => readWord d x (.hbm, a / 8) 3
            | none => logEvent d 2 (pageNo x.unit x.index) x.basin (x.tag d) place 0, met)
        else (d, match e.path with | some (_, true) => met | _ => acc.2)
    | _ => acc) (d, none)

/-- A step over a request's work: a poisoned word is consumed instead, and ends the request (R393); `cap` gives what the unit
captures of it, by its part and offset; `had` is the place of a word of the parts that was poisoned before. -/
def workStep (d : Dev) (x : Reader) (bit : Nat) (parts : List WorkWord) (errs : List ReadError) (step : Dev → Dev)
    (cap : WorkWord → Nat → Nat × Nat := fun _ _ => (0, 0)) (had : Option Nat := none) : Dev :=
  match (workErrors d x parts errs).map id (fun met => met.or (had.map (fun a => (a, parts.headD .weights, 0)))) with
  | (d, none) => step d
  | (d, some p) =>
    match findReq d x.slot with
    | some r =>
      let c := cap p.2.1 p.2.2
      endAt (poisonUsed d x.unit x.index bit r p.1 (BitVec.ofNat 32 c.1) (BitVec.ofNat 32 c.2)) x.slot 0x40
    | none => d

/-- A word of a request's input. -/
def inputWord (r : Req) : ErrorPlace → Option (Space × Nat)
  | .shore off => if off < Desc.inLen r.desc then some (.shore, shoreAddr r.basin (Desc.inBlock r.desc) off / 8) else none
  | _ => none

/-- A word of an HBM page of a basin, or of its namespace in the write cache. -/
def basinWord (d : Dev) (b : Nat) : ErrorPlace → Option (Space × Nat)
  | .hbm a => if pageBasin d (a / 65536) = some b then some (.hbm, a / 8) else none
  | .cache off => if d.mem.dirty.contains (b, off / 4096) then some (.ns, nsKey b off / 8) else none
  | _ => none

/-- A word of a request's input, or of its basin's pages. -/
def tableWord (r : Req) (d : Dev) (p : ErrorPlace) : Option (Space × Nat) := (if r.streamed then none else inputWord r p).or (basinWord d r.basin p)

end Sys2Proof.Machine
end

