-- ==== Sys2Proof/Machine/Contexts.lean ====
section
/-! DEFINITION. Job contexts (chapters 13 and 15): issue, image checks, start, faults and end. -/

namespace Sys2Proof.Machine

def noFrame : FrameSt := ⟨false, false, false, none⟩
def frameOf (k : CoreSt) (f : Nat) : FrameSt := SMap.get (fun _ => noFrame) k.frames f
def setFrame (k : CoreSt) (f : Nat) (s : FrameSt) : CoreSt := { k with frames := SMap.set (fun _ => noFrame) k.frames f s }

/-- A core as a job starts on it: every register zero, every frame invalid (R296, R316). -/
def freshCore (entry : Nat) : CoreSt := ⟨[], [], [], [], [], entry, 0, 0, [], [], [], [], .none, false⟩

/-! ### Job images (R315, R316) -/
namespace Img
def kind (h : List Byte) : Nat := byteAt h 6
def gang (h : List Byte) : Bool := bitOf (byteAt h 7) 0
def nCores (h : List Byte) : Nat := fieldN h 8 2
def entry (h : List Byte) : Nat := fieldN h 12 4
def codeFrame (h : List Byte) : Nat := byteAt h 16
def codeFrames (h : List Byte) : Nat := byteAt h 17
def dbuf (h : List Byte) : Nat := fieldN h 20 4
def cycles (h : List Byte) : Nat := fieldN h 24 8
def codeOff (h : List Byte) : Nat := fieldN h 32 8
def nSeg (h : List Byte) : Nat := fieldN h 40 4
def segOff (h : List Byte) : Nat := fieldN h 48 8
end Img

/-- The header is in range (Table 13-11). -/
def headerOk (h : List Byte) : Bool :=
  decide (fieldN h 0 4 = 0x424F4A4C ∧ fieldN h 4 2 = 1 ∧ Img.kind h ≤ 1 ∧ byteAt h 7 ≤ 1 ∧ 1 ≤ Img.nCores h ∧ Img.nCores h ≤ 256) &&
  (!Img.gang h || decide (Img.nCores h = 256)) && zeroAt h 10 2 && zeroAt h 18 2 && zeroAt h 44 4 && zeroAt h 64 64 &&
  decide (Img.codeFrame h ≤ 95 ∧ 1 ≤ Img.codeFrames h ∧ Img.codeFrames h ≤ 96 ∧ Img.codeFrame h + Img.codeFrames h ≤ 96) &&
  decide (Img.entry h % 32 = 0 ∧ Img.codeFrame h * 4096 ≤ Img.entry h ∧ Img.entry h < (Img.codeFrame h + Img.codeFrames h) * 4096) &&
  decide (Img.dbuf h % 65536 = 0 ∧ Img.dbuf h ≤ 16777216 ∧ Img.codeOff h % 4096 = 0 ∧ Img.nSeg h ≤ 96 ∧ Img.segOff h % 16 = 0)

/-- Segments of the table: image offset, tarn address, bytes. -/
def segsOf (n : Nat) (tbl : List Byte) : List (Nat × Nat × Nat) :=
  (List.range n).map (fun i => let e := (tbl.drop (16 * i)).take 16; (fieldN e 0 8, fieldN e 8 4, fieldN e 12 4))

def noOverlap : List (Nat × Nat) → Bool
  | [] => true
  | x :: xs => xs.all (fun y => !overlaps x.1 x.2 y.1 y.2) && noOverlap xs

def segsOk (h : List Byte) (ss : List (Nat × Nat × Nat)) : Bool :=
  ss.all (fun s => decide (s.1 % 64 = 0 ∧ s.2.1 % 64 = 0 ∧ s.2.2 % 64 = 0 ∧ 0 < s.2.2 ∧ s.2.1 + s.2.2 ≤ 0x60000)) &&
  noOverlap ((Img.codeFrame h * 4096, Img.codeFrames h * 4096) :: ss.map (fun s => (s.2.1, s.2.2)))

/-- Every page of a range is mapped with EXEC. -/
def execRange (d : Dev) (b a n : Nat) : Bool :=
  (List.range (n / 65536 + 2)).all (fun i =>
    let x := (a / 65536 + i) * 65536
    decide (a + n ≤ x) || (match translate d b x with | .ok p => p.exec | _ => false))

/-- Bytes of an image, as its header and segment table give them (Table 13-11). -/
def imgLen (h tbl : List Byte) : Nat :=
  (segsOf (Img.nSeg h) tbl).foldl (fun n s => max n (s.1 + s.2.2))
    (max 128 (max (Img.codeOff h + Img.codeFrames h * 4096) (Img.segOff h + 16 * Img.nSeg h)))

/-- Bytes of an image: an EXEC page is needed (R53, R315). -/
def imgRead (d : Dev) (b a n : Nat) : Acc (List Byte) :=
  (vRead d b a n).bind (fun bs => if execRange d b a n then .ok bs else .xfault)

/-- The image header of a job, if it can be read. -/
def imgHeader (d : Dev) (b image : Nat) : Acc (List Byte) := imgRead d b image 128

/-! ### Issue (R313, R347, R351) -/

def newCtx (d : Dev) (r : Req) (set : Nat) (pipe : Bool) : Ctx :=
  { id := d.eng.nextId, slot := r.slot, basin := r.basin, set := set, prio := if pipe && decide (r.stage = .prefill ∨ r.stage = .decode) then r.passPrio else r.prio, pipe := pipe, gang := false,
    image := if pipe then 0 else Desc.opspec r.desc, phase := .queued, mere := 0, place := [], started := 0,
    nCores := if pipe then 1 + Config.pipeCores r.slot % 256 else 0, dbufBytes := if pipe then Config.pipeDbuf r.slot % 257 * 65536 else 0, inLen := r.inLen,
    outCap := Desc.outCap r.desc, dbuf := [], sems := [], semWait := [], arrived := [], bound := [], spilled := [], mbox := [],
    cores := [], fault := none, link := none, joined := true, moved := false, away := false }

/-- A job enters the queue of its basin and class. -/
def issueJob (d : Dev) (r : Req) (set : Nat) (pipe : Bool) : Dev :=
  { d with jobs.ctxs := d.jobs.ctxs ++ [newCtx d r set pipe], eng.nextId := d.eng.nextId + 1 }

/-- Die-buffer partition (R377): bytes of the job pool of a mere. -/
def jobPool (d : Dev) (m : Nat) : Nat :=
  let v := liveN d .dbuf m 0x100
  (31 - v % 32 - bitsOf v 12 8) * 2 ^ 20

/-- Contexts whose windows and SYNC bindings a mere holds. -/
def ctxsHeld (d : Dev) (m : Nat) : List Ctx := d.jobs.ctxs.filter (fun c => decide (c.mere = m ∧ c.phase ≠ .queued) && !c.away)

/-- Job windows held on a mere. -/
def windowsHeld (d : Dev) (m : Nat) : Nat := ((ctxsHeld d m).map (fun c => c.dbufBytes)).sum

/-- Spilled semaphores and merge scratch in a mere's job pool (R377), of sizes that no rule gives. -/
def scratchHeld (d : Dev) (m : Nat) : Nat :=
  ((ctxsHeld d m).map (fun c => (c.spilled.map Config.spillBytes).sum)).sum +
  ((d.eng.gaths.filter (fun g => decide (g.unit = m) && g.merge)).map (fun g => (g.sums.map (fun r => Config.scratchBytes r.1)).sum)).sum

/-- Semaphores (numbers) and groups (4096 + number) that the contexts of a mere have bound. -/
def boundOn (d : Dev) (m : Nat) (group : Bool) : Nat :=
  ((ctxsHeld d m).map (fun c => (c.bound.filter (fun b => decide (4096 ≤ b) == group)).length)).sum

/-- Bytes of a context's save records (Table 15-3). -/
def saveBytes (c : Ctx) : Nat :=
  14336 * c.nCores + 4096 * (c.cores.map (fun k => (k.frames.filter (fun f => f.2.dirty)).length)).sum

/-- Saved contexts of a mere whose records are in its DBUF. -/
def savedHere (d : Dev) (m : Nat) : List Ctx := d.jobs.ctxs.filter (fun c => decide (c.phase = .saved ∧ c.mere = m) && !c.moved)

def recordsHeld (d : Dev) (m : Nat) : Nat := ((savedHere d m).map saveBytes).sum

/-- FWP1 moves the records of a waiting context into the firmware reserve (R357). -/
def moveRecords (d : Dev) (c : Ctx) : Dev :=
  count { d with jobs.ctxs := modWhere (fun x => decide (x.id = c.id)) (fun x => { x with moved := true }) d.jobs.ctxs } .dbuf c.mere 0x10C c.nCores

/-- A mere's entry into S3 moves the records and the window of a waiting context, and loses its bindings (Table 18-4). -/
def moveAway (d : Dev) (c : Ctx) : Dev :=
  let d := if c.moved then d else moveRecords d c
  { d with jobs.ctxs := modWhere (fun x => decide (x.id = c.id)) (fun x => { x with away := true }) d.jobs.ctxs }

/-- While DBUF is short, records of waiting contexts are moved, in the order in which the contexts were issued. -/
def relieve (d : Dev) (m : Nat) : Dev :=
  if !fwpRuns d 1 then d
  else (savedHere d m).foldl (fun d c => if jobPool d m < windowsHeld d m + scratchHeld d m + recordsHeld d m then moveRecords d c else d) d

/-! ### Faults (R312) -/

/-- Class of a fault cause (Table 13-10). -/
def causeClass (cause : Nat) : Nat :=
  match cause with | 0x10 => 0x20 | 0x11 => 0x40 | 0x12 => 0x42 | 0x13 => 0x50 | _ => 0x60

/-- Cause of a failed space 0 access. -/
def accCause {α : Type} : Acc α → Nat
  | .poison _ => 0x11 | .fabric _ => 0x12 | _ => 6

/-- The first fault of a context: its class is kept, outstanding draws are discarded, and the faulting core's page
records it, with the place of a poisoned word; one that another unit consumed for it (`unit`) leaves the core's POISON bit. `pc` is
that of the bundle that issued the faulting work, where another has issued since. -/
def ctxFault (d : Dev) (id core cause slot : Nat) (trapCode : Nat := 0) (unit : Bool := false)
    (place : Nat := 0) (pc : Option Nat := none) : Dev :=
  match findCtx d id with
  | none => d
  | some c =>
    if c.fault.isSome then d
    else
      let d := modCtx d id (fun c => { c with fault := some (causeClass cause),
                                              cores := c.cores.map (fun k => { k with xfers := k.xfers.filter (fun x => !x.draw) }) })
      match c.place[core]? with
      | none => d
      | some i =>
        let tag := match findReq d c.slot with | some r => r.tag | none => noTag
        let now := match coreAt c core with | some k => k.pc | none => 0
        let d2 := BitVec.ofNat 32 (pc.getD now % 524288)
        let d3 := BitVec.ofNat 32 (cause + slot * 64 + trapCode * 256)
        let d := setStat (count d .core i 0x11C 1) .core i 0 c.basin tag d2 d3
        let d := if cause = 0x11 ∧ !unit then logEvent (setStat d .core i 1 c.basin tag d2 d3) 3 (pageNo .core i) c.basin tag place 0x40 else d
        if cause = 0x0A then setStat d .core i 2 c.basin tag d2 d3 else d

/-- A fault from a failed access of space 0. -/
def ctxAcc {α : Type} (d : Dev) (id core slot : Nat) (e : Acc α) (pc : Option Nat := none) : Dev :=
  let d := match findCtx d id with
    | some c => noteAcc d e c.basin (match findReq d c.slot with | some r => r.tag | none => noTag)
    | none => d
  ctxFault d id core (accCause e) slot 0 false (match e with | .poison w => placeOf w | _ => 0) pc

/-- The context is to stop: a fault, or its request is due to end (R314). -/
def stopping (d : Dev) (c : Ctx) : Bool :=
  c.fault.isSome || (match findReq d c.slot with | some r => decide (r.due ≠ []) && !c.pipe | none => true)

/-- Every core has executed END. -/
def allEnded (c : Ctx) : Bool := decide (c.cores ≠ []) && c.cores.all (·.ended)

def returnsDone (c : Ctx) : Bool := c.cores.all (fun k => k.xfers.all (·.draw))

/-- No tile operation runs: each has ended, or has stopped at the end of its group (R361). -/
def tilesStopped (c : Ctx) : Bool := c.cores.all (fun k => k.tiles.all (fun o => !o.started))

/-- A context may be released: every core has ended, or it is stopping, its issued returns have completed and the tile
operations that ran have stopped. -/
def ctxCanEnd (d : Dev) (c : Ctx) : Bool :=
  if c.pipe then true else allEnded c || (stopping d c && returnsDone c && tilesStopped c)

/-- A context ends and releases what it holds (R314, R361, R362). -/
def ctxEndOp (d : Dev) (id : Nat) : Dev :=
  match findCtx d id with
  | none => d
  | some c =>
    if !ctxCanEnd d c then d
    else if c.pipe then dropCtx d id
    else
      let out := match coreAt c 0 with | some k => k.outLen | none => 0
      let why := match c.fault with
        | some cls => cls
        | none => if allEnded c then 0 else match findReq d c.slot with | some r => firstDue r.due | none => 0
      let d := leaveSet (dropCtx d id) c why
      let d := modReq d c.slot (fun r => { r with outLen := if c.fault.isSome then 0 else out, outCount := 0, busy := false })
      match c.fault with
      | some cls => endAt d c.slot cls
      | none => match findReq d c.slot with
        | some r => if r.due ≠ [] ∧ !allEnded c then settle d else endAt d c.slot 0
        | none => d

/-! ### Start (R316) -/

/-- A whole frame drawn from contiguous memory is clean with its source (R297). -/
def cleanFrames (k : CoreSt) (space a t n : Nat) (code : Bool) : CoreSt :=
  (List.range 96).foldl (fun k f =>
    let f0 := f * 4096
    if !overlaps t n f0 4096 then k
    else if t ≤ f0 ∧ f0 + 4096 ≤ t + n then setFrame k f ⟨true, false, code, some (space, a + (f0 - t))⟩
    else setFrame k f ⟨true, true, false, none⟩) k

/-- Set or clear poison for the words of a written range: `bad` are its poisoned word offsets. -/
def copyPoison (d : Dev) (sp : Space) (a n : Nat) (bad : List Nat) : Dev :=
  let d := clearPoison d sp a (a + n)
  { d with mem.poison := d.mem.poison ++ (bad.map (fun i => (sp, a / 8 + i))).filter (fun p => !d.mem.poison.contains p) }

/-- Draw a range of the image into every core's tarn at start. -/
def loadRange (d : Dev) (id b a t n : Nat) (code : Bool) : Acc Dev :=
  (if code && !execRange d b a n then Acc.xfault else vRaw d b a n).map (fun bs =>
    let bad := rangePoison d b a n
    let d := modCtx d id (fun c => { c with cores := c.cores.map (fun k => cleanFrames { k with tarn := Mem.writeL k.tarn t bs } 0 a t n code) })
    match findCtx d id with
    | some c => if bad = [] then d else (List.range c.nCores).foldl (fun d i => copyPoison d (.tarn id i) t n bad) d
    | none => d)

def loadSegs (b image id : Nat) : Dev → List (Nat × Nat × Nat) → Acc Dev
  | d, [] => .ok d
  | d, s :: ss => (if execRange d b (image + s.1) s.2.2 then loadRange d id b (image + s.1) s.2.1 s.2.2 false else .xfault).bind (fun d => loadSegs b image id d ss)

/-- Counters of a start or resumption. -/
def countStart (d : Dev) (c : Ctx) : Dev :=
  let d := c.place.foldl (fun d i => count d .core i 0x118 1) d
  if c.gang then count d .mere c.mere 0x10C 1 else d

def fromHeader (c : Ctx) (h : List Byte) : Ctx :=
  { c with gang := Img.gang h, nCores := Img.nCores h, dbufBytes := Img.dbuf h,
           cores := List.replicate (Img.nCores h) (freshCore (Img.entry h)) }

/-- Layers already in their slots are signalled on LANDED, semaphore 4,094, when a pass's job starts (R374). -/
def landedAtStart (d : Dev) (id : Nat) : Dev :=
  modCtx d id (fun c => match d.eng.passes.find? (fun p => p.slots.contains c.slot) with
    | some p => { c with sems := SMap.set (fun _ => 0) c.sems 4094 (c.nCores * p.landed) }
    | none => c)

/-- A job starts on its cores: the image is checked and loaded, and each core stands at ENTRY. -/
def startCtx (d : Dev) (id : Nat) (place : List Nat) : Dev :=
  match findCtx d id with
  | none => d
  | some c =>
    let m := match place.head? with | some i => i / 264 | none => 0
    let d := modCtx d id (fun c => { c with phase := .running, mere := m, place := place, started := d.now })
    let d := if c.pipe then d else modReq d c.slot (fun r => { r with busy := true })
    if c.pipe then relieve (countStart (landedAtStart d id) { c with place := place, mere := m }) m
    else match imgHeader d c.basin c.image with
      | .ok h =>
        if !headerOk h then ctxFault d id 0 8 0
        else match imgRead d c.basin (c.image + Img.segOff h) (16 * Img.nSeg h) with
          | .ok tbl =>
            let ss := segsOf (Img.nSeg h) tbl
            if !segsOk h ss then ctxFault d id 0 8 0
            else
              let d := modCtx d id (fun c => fromHeader c h)
              let d := relieve (countStart d { c with place := place, mere := m, gang := Img.gang h }) m
              let cf := Img.codeFrame h * 4096
              match loadRange d id c.basin (c.image + Img.codeOff h) cf (Img.codeFrames h * 4096) true with
              | .ok d => match loadSegs c.basin c.image id d ss with
                | .ok d => d
                | e => ctxAcc d id 0 3 e
              | .xfault => ctxFault d id 0 (if (vRaw d c.basin (c.image + Img.codeOff h) (Img.codeFrames h * 4096)).get?.isSome then 5 else 6) 3
              | e => ctxAcc d id 0 3 e
          | e => ctxAcc d id 0 0 e
      | e => ctxAcc d id 0 0 e

def execContextEnd (ctx : Nat) (s : State) : Host.Outcome State Fault Refusal := ok s (ctxEndOp s.dev ctx)

end Sys2Proof.Machine
end

