-- ==== Sys2Proof/Machine/Sorter.lean ====
section
/-! DEFINITION. Sorting and selection (chapter 08): keys, order, deduplication, selection, the two sums. -/

namespace Sys2Proof.Machine

/-- A sort record with the list and position that it came from. -/
structure SRec where
  key : Nat
  id : Nat
  aux : Nat
  list : Nat
  pos : Nat
  deriving DecidableEq, Repr

/-- Order of R191: key in the direction, then ID, then AUX. -/
def recLe (desc : Bool) (x y : SRec) : Bool :=
  if x.key ≠ y.key then (if desc then decide (y.key < x.key) else decide (x.key < y.key))
  else if x.id ≠ y.id then decide (x.id < y.id)
  else decide (x.aux ≤ y.aux)

/-- The record of an ID that DEDUP keeps: best key, then lowest list, then lowest position (R197). -/
def dedupLe (desc : Bool) (x y : SRec) : Bool :=
  if x.key ≠ y.key then (if desc then decide (y.key < x.key) else decide (x.key < y.key))
  else if x.list ≠ y.list then decide (x.list < y.list)
  else decide (x.pos ≤ y.pos)

def keepBest (desc : Bool) (xs : List SRec) : List SRec :=
  xs.foldl (fun acc x =>
    match acc.find? (fun y => decide (y.id = x.id)) with
    | none => acc ++ [x]
    | some y => if dedupLe desc y x then acc else acc.erase y ++ [x]) []

/-- The term of a record in the sums (R198, R199): no term of EXP is above 1. -/
def sortTerm (useExp : Bool) (temp : W32) (ref key : Nat) : W32 :=
  let s := scoreOfKey key
  if !useExp then s
  else if key = ref then 0x3F800000
  else
    let diff := fsub32 s (scoreOfKey ref)
    match val32 diff with
    | .inf _ => 0
    | _ =>
      let e := exp32 (fdiv32 (diff ||| 0x80000000) temp)
      if 0x3F800000 < e.toNat then 0x3F800000 else e

/-- Exact sum of FP32 terms, rounded once (R198). -/
def exactSum (ts : List W32) : W32 := if ts = [] then 0 else rnd32 (FVal.sum (ts.map val32))

structure SortOut where
  recs : List SRec
  nReal : Nat
  nIn : Nat
  nDup : Nat
  nNull : Nat
  /-- Position and list of the first null record. -/
  nullAt : Nat × Nat
  nTied : Nat
  short : Bool
  tie : Bool
  merged : Bool
  sumSel : W32
  sumOut : W32
  refKey : Nat
  deriving DecidableEq, Repr

/-- The result of a sort, fixed by its records, K, MODE and TEMP (R194–R200). -/
def sortRun (ins : List SRec) (k : Nat) (desc dedup useExp pad : Bool) (temp : W32) : SortOut :=
  let nIn := ins.length
  let canon := ins.map (fun r => { r with key := canonKey desc r.key })
  let real := canon.filter (fun r => decide (r.id ≠ 0xFFFFFFFF))
  let u0 := if dedup then keepBest desc real else real
  let u := sortBy (recLe desc) u0
  let sel := u.take k
  let out := u.drop k
  let tied := match sel.getLast? with
    | some l => (out.filter (fun r => decide (r.key = l.key))).length
    | none => 0
  let ref := match u with | r :: _ => r.key | [] => 0
  let nulls := if pad ∧ u.length < k then List.replicate (k - u.length) ⟨0x007FFFFF, 0xFFFFFFFF, 0, 0, 0⟩ else []
  { recs := sel ++ nulls, nReal := sel.length, nIn := nIn, nDup := real.length - u0.length,
    nNull := nIn - real.length,
    nullAt := (match ins.find? (fun r => decide (r.id = 0xFFFFFFFF)) with | some r => (r.pos, r.list) | none => (0, 0)), nTied := tied, short := decide (u.length < k), tie := decide (0 < tied),
    merged := decide (u0.length < real.length),
    sumSel := exactSum (sel.map (fun r => sortTerm useExp temp ref r.key)),
    sumOut := exactSum (out.map (fun r => sortTerm useExp temp ref r.key)), refKey := ref }

/-- The 16 bytes of a record (R189). -/
def recBytes (r : SRec) : List Byte := natLe 4 r.key ++ natLe 4 r.id ++ natLe 8 r.aux

/-- RFLAGS (Table 8-4). -/
def SortOut.rflags (o : SortOut) : Nat := (if o.short then 1 else 0) + (if o.tie then 2 else 0) + (if o.merged then 4 else 0)

/-- The result header (Table 8-4). -/
def SortOut.header (o : SortOut) : List Byte :=
  natLe 4 o.recs.length ++ natLe 4 o.nReal ++ natLe 4 o.nIn ++ natLe 4 o.nDup ++ natLe 4 o.nNull ++ natLe 4 o.nTied ++
  natLe 4 o.rflags ++ natLe 4 o.sumSel.toNat ++ natLe 4 o.sumOut.toNat ++ natLe 4 o.refKey ++ List.replicate 8 0

/-- Pages of the sorters: unit 0 the hub, 1 + m MSORT m. -/
def sortPage (unit : Nat) : Blk × Nat := if unit = 0 then (.sort, 0) else (.msort, unit - 1)

/-- Counters and status of a completed sort (Table 8-8). -/
def countSort (d : Dev) (unit k : Nat) (o : SortOut) (basin : Nat) (tag : W32) : Dev :=
  let p := sortPage unit
  let d := count d p.1 p.2 0x104 1
  let d := count d p.1 p.2 0x108 o.nIn
  let d := count d p.1 p.2 0x10C o.nDup
  let d := count d p.1 p.2 0x110 o.nNull
  let d := if o.tie then count d p.1 p.2 0x114 1 else d
  let d := if o.short then count d p.1 p.2 0x118 1 else d
  let d := if 65536 < k then count d p.1 p.2 0x11C 1 else d
  if 0 < o.nNull then setStat d p.1 p.2 0 basin tag (BitVec.ofNat 32 o.nullAt.1) (BitVec.ofNat 32 o.nullAt.2) else d

/-- A request's flags from a sort that reports (R201). -/
def reportSort (d : Dev) (slot : Nat) (o : SortOut) : Dev :=
  modReq d slot (fun r =>
    let r := if o.short then r.flag 0 else r
    let r := if o.tie then r.flag 4 else r
    if o.merged then r.flag 6 else r)

/-! ### Commands in progress (R203) -/

/-- A command starts before another of its sorter: in submission order, and while CLASS_FIRST is set by class first. -/
def sortsBefore (d : Dev) (x y : SortCmd) : Bool :=
  let p := sortPage x.unit
  if ctlBit d p.1 p.2 0 ∧ x.prio ≠ y.prio then decide (x.prio < y.prio) else decide (x.id < y.id)

/-- The sorter of a command holds fewer than eight in progress, may start one (R112), and starts no other before this one. -/
def sortStarts (d : Dev) (s : SortCmd) : Bool :=
  let p := sortPage s.unit
  let mine := d.eng.sorts.filter (fun x => decide (x.unit = s.unit))
  !s.running && !isArmed d p.1 p.2 && decide ((mine.filter (·.running)).length < 8) && mine.all (fun x => x.running || x.id == s.id || !sortsBefore d x s)

/-- Waiting commands start while their sorters have room; at most `n` of them. -/
def startSorts : Nat → Dev → Dev
  | 0, d => d
  | n + 1, d =>
    match d.eng.sorts.find? (sortStarts d) with
    | some s => startSorts n { d with eng.sorts := modWhere (fun x => decide (x.id = s.id)) (fun x => { x with running := true }) d.eng.sorts }
    | none => d

/-- A sorter accepts a command. -/
def acceptSort (d : Dev) (s : SortCmd) : Dev := startSorts 40 { d with eng.sorts := d.eng.sorts ++ [s] }

end Sys2Proof.Machine
end

