-- ==== Sys2Proof/Machine/Text.lean ====
section
/-! DEFINITION. Vocabularies and cutting (chapter 10): UTF-8 validity, greedy longest match, streamed input. -/

namespace Sys2Proof.Machine

/-- A token entry: its spelling and CTRL (Table 10-2). -/
structure Token where
  spell : List Byte
  ctrl : Bool
  deriving DecidableEq, Repr

/-- A vocabulary image (R232): token i is element i. -/
structure Vocab where
  byteBase : Nat
  eos : Nat
  tokens : List Token
  deriving DecidableEq, Repr

/-! ### UTF-8 (R236) -/

def isCont (b : Nat) : Bool := decide (0x80 ≤ b ∧ b ≤ 0xBF)

/-- Range of the second byte that a lead byte allows, and the sequence length. -/
def leadOf (b : Nat) : Option (Nat × Nat × Nat) :=
  if b < 0x80 then some (1, 0, 0)
  else if 0xC2 ≤ b ∧ b ≤ 0xDF then some (2, 0x80, 0xBF)
  else if b = 0xE0 then some (3, 0xA0, 0xBF)
  else if b = 0xED then some (3, 0x80, 0x9F)
  else if 0xE1 ≤ b ∧ b ≤ 0xEF then some (3, 0x80, 0xBF)
  else if b = 0xF0 then some (4, 0x90, 0xBF)
  else if 0xF1 ≤ b ∧ b ≤ 0xF3 then some (4, 0x80, 0xBF)
  else if b = 0xF4 then some (4, 0x80, 0x8F)
  else none

/-- What the bytes begin with: a well-formed sequence of `valid n` bytes, a byte that is invalid, or the beginning of
a sequence that is valid so far but incomplete. -/
inductive Lead where
  | valid (n : Nat)
  | invalid
  | partialSeq
  deriving DecidableEq, Repr

/-- The continuation bytes after the first, up to `n`. -/
def leadRest (lo hi : Nat) : Nat → List Byte → Lead
  | 0, _ => .valid 0
  | _ + 1, [] => .partialSeq
  | n + 1, b :: bs =>
    if lo ≤ b.toNat ∧ b.toNat ≤ hi then
      match leadRest 0x80 0xBF n bs with
      | .valid k => .valid (k + 1)
      | x => x
    else .invalid

def leadClass : List Byte → Lead
  | [] => .partialSeq
  | b :: bs =>
    match leadOf b.toNat with
    | none => .invalid
    | some (n, lo, hi) =>
      match leadRest lo hi (n - 1) bs with
      | .valid k => .valid (k + 1)
      | x => x

/-- State of each byte: valid, invalid, or not yet known. -/
inductive ByteState where
  | valid | invalid | unknown
  deriving DecidableEq, Repr

/-- Scan a piece. `left` counts bytes of a valid sequence still to be passed; `final`: the piece ends here. -/
def byteStates (final : Bool) : Nat → List Byte → List ByteState
  | _, [] => []
  | n + 1, _ :: bs => .valid :: byteStates final n bs
  | 0, b :: bs =>
    match leadClass (b :: bs) with
    | .valid n => .valid :: byteStates final (n - 1) bs
    | .invalid => .invalid :: byteStates final 0 bs
    | .partialSeq => (if final then .invalid else .unknown) :: byteStates final 0 bs

/-- Continuation bytes behind an incomplete lead are unknown with it. -/
def carryStates (st : List ByteState) : List ByteState :=
  match findIdx (fun s => decide (s = .unknown)) st 0 with
  | none => st
  | some (i, _) => (List.range st.length).map (fun k => if k < i then st.getD k .valid else .unknown)

/-- A text is valid UTF-8 (R245). -/
def validUtf8 (bs : List Byte) : Bool := (byteStates true 0 bs).all (fun s => decide (s = .valid))

/-! ### Cutting (R235, R239) -/

/-- Tokens of the allowed set: every token in SYSTEM mode, else those without CTRL. -/
def allowedTok (system : Bool) (t : Token) : Bool := system || !t.ctrl

/-- Longest allowed spelling that matches the bytes and holds valid bytes only: identity and length. -/
def bestMatch (v : Vocab) (system : Bool) (bs : List Byte) (st : List ByteState) : Option (Nat × Nat) :=
  (v.tokens.zip (List.range v.tokens.length)).foldl (fun acc x =>
    let t := x.1
    let n := t.spell.length
    if allowedTok system t && t.spell.isPrefixOf bs && (st.take n).all (fun s => decide (s = .valid)) then
      match acc with
      | some (_, m) => if m < n then some (x.2, n) else acc
      | none => some (x.2, n)
    else acc) none

/-- A longer spelling could still match once more bytes arrive. Its bytes alone are compared: one that would not be well-formed
there holds the match back too. DESIGN CHOICE (log 208). -/
def couldExtend (v : Vocab) (system : Bool) (bs : List Byte) (st : List ByteState) (n : Nat) : Bool :=
  v.tokens.any (fun t =>
    allowedTok system t && decide (n < t.spell.length) &&
    (t.spell.isPrefixOf bs || bs.isPrefixOf t.spell) &&
    (st.take t.spell.length).all (fun s => decide (s ≠ .invalid)) &&
    (decide (bs.length < t.spell.length) || (st.take t.spell.length).any (fun s => decide (s = .unknown))))

/-- Result of cutting: tokens emitted, bytes kept back, whether an invalid byte was cut. -/
structure CutOut where
  tokens : List Nat
  rest : List Byte
  invalid : Nat
  deriving DecidableEq, Repr

/-- Cut a piece, or the bytes of it that have arrived; `fuel` bounds the tokens. -/
def cutAux (v : Vocab) (system final : Bool) : Nat → List Byte → List ByteState → CutOut
  | 0, bs, _ => ⟨[], bs, 0⟩
  | _ + 1, [], _ => ⟨[], [], 0⟩
  | fuel + 1, b :: bs, st =>
    match st.head? with
    | some .invalid =>
      let r := cutAux v system final fuel bs (st.drop 1)
      ⟨(v.byteBase + b.toNat) :: r.tokens, r.rest, r.invalid + 1⟩
    | some .valid =>
      match bestMatch v system (b :: bs) st with
      | none => ⟨[], b :: bs, 0⟩
      | some (id, n) =>
        if !final && couldExtend v system (b :: bs) st n then ⟨[], b :: bs, 0⟩
        else
          let r := cutAux v system final fuel ((b :: bs).drop n) (st.drop n)
          ⟨id :: r.tokens, r.rest, r.invalid⟩
    | _ => ⟨[], b :: bs, 0⟩

/-- Bytes at the start of held bytes that end a character whose first bytes are already cut (R236: a match may divide a
valid character). -/
def heldTail (held : List Byte) : Nat := (held.takeWhile (fun b => isCont b.toNat)).length

/-- States of held bytes and of the bytes that follow them. -/
def pieceStates (final : Bool) (held bs : List Byte) : List ByteState :=
  carryStates (byteStates final (heldTail held) (held ++ bs))

def cutPiece (v : Vocab) (system final : Bool) (held bs : List Byte) : CutOut :=
  cutAux v system final ((held ++ bs).length + 1) (held ++ bs) (pieceStates final held bs)

/-- Whole pieces. -/
def cutAll (v : Vocab) (system : Bool) (bs : List Byte) : List Nat := (cutPiece v system true [] bs).tokens

/-- A control spelling occurs in the bytes (R237). -/
def hasControl (v : Vocab) (bs : List Byte) : Bool :=
  v.tokens.any (fun t => t.ctrl && ((List.range bs.length).any (fun i => t.spell.isPrefixOf (bs.drop i))))

/-- Spelling written for a generated token (R243): EOS writes nothing. -/
def spellOf (v : Vocab) (t : Nat) : List Byte :=
  if t = v.eos then [] else (v.tokens.getD t ⟨[], false⟩).spell

/-! ### Vocabulary images (R232, R233) -/

/-- Bytes of the image whose header is given. -/
def vocabLen (h : List Byte) : Nat := 64 + 8 * fieldN h 8 4 + fieldN h 20 4

/-- The vocabulary spelled by an image's bytes. -/
def parseVocab (img : List Byte) : Vocab :=
  let n := fieldN img 8 4
  let pool := img.drop (64 + 8 * n)
  ⟨fieldN img 12 4, fieldN img 16 4,
   (List.range n).map (fun i =>
     let e := (img.drop (64 + 8 * i)).take 8
     ⟨(pool.drop (fieldN e 0 4)).take (byteAt e 4), bitOf (byteAt e 5) 0⟩)⟩

/-- The image keeps R233. -/
def vocabOk (img : List Byte) : Bool :=
  let n := fieldN img 8 4
  let pb := fieldN img 20 4
  let v := parseVocab img
  decide (fieldN img 0 4 = 0x42434F56 ∧ fieldN img 4 2 = 1 ∧ fieldN img 6 2 = 0 ∧ 256 ≤ n ∧ n ≤ 262144) &&
  zeroAt img 24 40 &&
  (List.range n).all (fun i =>
    let e := (img.drop (64 + 8 * i)).take 8
    decide (1 ≤ byteAt e 4 ∧ byteAt e 4 ≤ 64 ∧ byteAt e 5 < 2 ∧ fieldN e 6 2 = 0 ∧ fieldN e 0 4 + byteAt e 4 ≤ pb)) &&
  decide ((v.tokens.map (·.spell)).Nodup) &&
  decide (v.byteBase + 255 < n) &&
  (List.range 256).all (fun b => decide (v.tokens[v.byteBase + b]? = some ⟨[BitVec.ofNat 8 b], false⟩)) &&
  decide (v.eos < n) && (v.tokens.getD v.eos ⟨[], false⟩).ctrl

/-- The image at VOCAB_ADDR of a model descriptor. -/
def readVocabImage (d : Dev) (m : Version) : Acc (List Byte) :=
  match vRead d m.basin (fieldN m.desc 32 8) 64 with
  | .ok h => vRead d m.basin (fieldN m.desc 32 8) (vocabLen h)
  | e => e

/-- The vocabulary of a model version. -/
def vocabOf (d : Dev) (m : Version) : Acc Vocab :=
  match readVocabImage d m with
  | .ok img => .ok (parseVocab img)
  | .xfault => .xfault
  | .poison w => .poison w
  | .fabric x => .fabric x
  | .flash => .flash

end Sys2Proof.Machine
end

