-- ==== Sys2Proof/Machine/Walker.lean ====
section
/-! DEFINITION. The walker (chapters 06 and 07): distance table, walk, refinement, rewalks, deadlines. -/

namespace Sys2Proof.Machine

/-! Fields of an index descriptor (Table 6-1). -/
namespace Idx
def M (x : List Byte) : Nat := byteAt x 6
def vecFmt (x : List Byte) : Nat := byteAt x 7
def D (x : List Byte) : Nat := fieldN x 8 2
def metric (x : List Byte) : Nat := byteAt x 10
def maxDeg (x : List Byte) : Nat := byteAt x 11
def nPass (x : List Byte) : Nat := fieldN x 12 4
def nEntry (x : List Byte) : Nat := byteAt x 16
def entry (x : List Byte) (i : Nat) : Nat := fieldN x (24 + 4 * i) 4
def codebook (x : List Byte) : Nat := fieldN x 56 8
def pq (x : List Byte) : Nat := fieldN x 64 8
def tomb (x : List Byte) : Nat := fieldN x 72 8
def dir (x : List Byte) : Nat := fieldN x 80 8
def graph (x : List Byte) : Nat := fieldN x 88 8
def textStart (x : List Byte) : Nat := fieldN x 96 8
def textBytes (x : List Byte) : Nat := fieldN x 104 8
def cachePages (x : List Byte) : Nat := fieldN x 112 4
def entries (x : List Byte) : List Nat := (List.range (nEntry x)).map (entry x)
end Idx

/-- Split a list into `n` pieces of `k`. -/
def chunks {α : Type} (k : Nat) : Nat → List α → List (List α)
  | 0, _ => []
  | n + 1, xs => xs.take k :: chunks k n (xs.drop k)

/-- BF16 elements of a byte list, as FP32. -/
def bf16List (bs : List Byte) : List W32 :=
  (chunks 2 (bs.length / 2) bs).map (fun x => BitVec.ofNat 32 (leNat x * 65536))

/-- A sum in FP32, in order. -/
def fsum (xs : List W32) : W32 := xs.foldl fadd32 0

/-- Distance term under METRIC: (q − c)² or −(q × c) (R164, R177). -/
def distTerm (metric : Nat) (q c : W32) : W32 :=
  if metric = 0 then let e := fsub32 q c; fmul32 e e else fmul32 q c ^^^ 0x80000000

def distOf (metric : Nat) (q c : List W32) : W32 := fsum ((q.zip c).map (fun x => distTerm metric x.1 x.2))

/-- NaN counts as +∞. -/
def nanInf (x : W32) : W32 := if (val32 x).isNan then 0x7F800000 else x

def fmin (xs : List W32) : W32 := xs.foldl (fun a x => if (val32 x).lt (val32 a) then x else a) (xs.headD 0)
def fmax (xs : List W32) : W32 := xs.foldl (fun a x => if (val32 a).lt (val32 x) then x else a) (xs.headD 0)

/-- A table entry from its quotient r (R164). -/
def tableEntry (r : W32) : Nat :=
  match val32 r with
  | .nan => 65535
  | .inf neg => if neg then 0 else 65535
  | .fin neg m e => if neg && decide (m ≠ 0) then 0 else min 65535 (roundInt false m e).toNat

/-- The distance table: entries, S and dmin (R164). -/
def buildTable (metric M D : Nat) (q : List W32) (codebook : List Byte) : List Nat × W32 × List W32 :=
  let sub := D / M
  let cents := chunks sub (M * 256) (bf16List codebook)
  let qs := chunks sub M q
  let rows := (List.range M).map (fun j => (List.range 256).map (fun c =>
    nanInf (distOf metric (qs.getD j []) (cents.getD (j * 256 + c) []))))
  let dmin := rows.map fmin
  let dmax := rows.map fmax
  let s := fmax ((dmax.zip dmin).map (fun x => fdiv32 (nanInf (fsub32 x.1 x.2)) 0x477FFF00))
  let ent := fun (lo v : W32) => if (val32 s).isZero then 0 else tableEntry (fdiv32 (fsub32 v lo) s)
  (((rows.zip dmin).map (fun x => x.1.map (ent x.2))).flatten, s, dmin)

/-- Sum of the table entries that a PQ code selects (R165). -/
def pqSum (table : List Nat) (code : List Byte) : Nat :=
  ((List.range code.length).map (fun j => table.getD (j * 256 + byteAt code j) 0)).sum

def keyLt (d1 i1 d2 i2 : Nat) : Bool := decide (d1 < d2 ∨ (d1 = d2 ∧ i1 < i2))

/-- Insert into a queue kept in key order (R166). -/
def qInsert (e : QEnt) : List QEnt → List QEnt
  | [] => [e]
  | x :: xs => if keyLt e.dist e.id x.dist x.id then e :: x :: xs else x :: qInsert e xs

/-- The visited filter's two bits of an ID (R167). -/
def visitBits (n : Nat) : Nat × Nat := let h := (n * 0x9E3779B1) % 2 ^ 32; (h / 65536, h % 65536)
def isVisited (v : List Nat) (n : Nat) : Bool := v.contains (visitBits n).1 && v.contains (visitBits n).2
def addBit (v : List Nat) (b : Nat) : List Nat := if v.contains b then v else v ++ [b]
def visit (v : List Nat) (n : Nat) : List Nat := addBit (addBit v (visitBits n).1) (visitBits n).2

def pInsert (e : PoolEnt) : List PoolEnt → List PoolEnt
  | [] => [e]
  | x :: xs => if keyLt e.dist e.id x.dist x.id then e :: x :: xs else x :: pInsert e xs

/-- Offer to the result pool, which keeps the best 16,384 (R176). -/
def poolOffer (p : List PoolEnt) (e : PoolEnt) : List PoolEnt := (pInsert e p).take 16384

/-- Put a candidate in the queue, which keeps the best 512 (R166). -/
def queueOffer (w : Walk) (dist id : Nat) : Walk := { w with queue := (qInsert ⟨dist, id, .opened⟩ w.queue).take 512 }

def setQ (w : Walk) (id : Nat) (st : QState) : Walk :=
  { w with queue := modWhere (fun e => decide (e.id = id)) (fun e => { e with st := st }) w.queue }

/-- Tombstone or absent bit of position n in the pinned bitmap state (R151, R168, R207): of the page's copy, or of the image
where no flip has changed the page. -/
def bitmapBit (d : Dev) (v : Version) (addr commit n : Nat) : Acc Bool :=
  match bitCopy v commit (n / 524288) with
  | some (c, m) =>
    if poisoned d (.bits v.uid c) (n / 64) then .poison (.bits v.uid c, n / 64) else .ok ((Mem.read m (n / 8)).getLsbD (n % 8))
  | none =>
    match vByte d v.basin (addr + n / 8) with
    | .ok x => .ok (x.getLsbD (n % 8))
    | .xfault => .xfault
    | .poison w => .poison w
    | .fabric x => .fabric x
    | .flash => .flash

/-- PQ distance of a passage (R165). -/
def pqDist (d : Dev) (v : Version) (table : List Nat) (n : Nat) : Acc Nat :=
  match vRead d v.basin (Idx.pq v.desc + n * Idx.M v.desc) (Idx.M v.desc) with
  | .ok code => .ok (pqSum table code)
  | .xfault => .xfault
  | .poison w => .poison w
  | .fabric x => .fabric x
  | .flash => .flash

/-- The post-filter (Table 7-2). -/
def filterPass (p : List Byte) (attr : Nat) : Bool :=
  let vis := attr % 65536
  let date := bitsOf attr 31 16
  let region := bitsOf attr 47 32
  let kind := bitsOf attr 63 48
  let f := fun o => fieldN p o 2
  (decide (f 16 = 0) || decide (vis &&& f 16 ≠ 0)) && decide (vis &&& f 18 = 0) && decide (f 20 ≤ date) &&
  (decide (f 22 = 0) || decide (date ≤ f 22)) && decide (region &&& f 26 = f 24) && decide (kind &&& f 30 = f 28)

/-- k of a search (chapter 07, Rewalk and shortfall). -/
def searchK (r : Req) (p : List Byte) : Nat :=
  if r.op = 2 ∧ Desc.k r.desc ≠ 0 then Desc.k r.desc else Prof.kSearch p

/-- The pinned bitmap state of a version. -/
def pinnedState (r : Req) (uid : Nat) : Nat :=
  match r.bits.find? (fun x => decide (x.1 = uid)) with
  | some x => x.2
  | none => 0

/-- Element of a node record's vector (R145). -/
def vecElem (fmt : Nat) (scale : W32) (b : Byte) : W32 :=
  let v : FVal := if fmt = 1 then ofIntF (toInt 8 b.toNat) else if fmt = 2 then e4m3.decode b.toNat else e5m2.decode b.toNat
  rnd32 ((val32 scale).mul v)

/-- SEARCH_DIST of a PQ distance, in three steps (R178). -/
def searchDist (w : Walk) (p : Nat) : W32 := fadd32 (fmul32 w.scale (rnd32 (.fin false p 0))) (match w.dmin with | [] => 0 | x :: xs => xs.foldl fadd32 x)

/-! ### Node cache (R172) -/

def cacheSets (v : Version) : Nat := 4 * Idx.cachePages v.desc

def cacheOn (d : Dev) (v : Version) : Bool := ctlBit d .walk 0 0 && v.superseded.isNone && decide (0 < cacheSets v)

def cacheLine (d : Dev) (uid set : Nat) : List Nat :=
  match d.eng.nodeCache.find? (fun c => decide (c.1 = uid ∧ c.2.1 = set)) with
  | some c => c.2.2
  | none => []

def setCacheLine (d : Dev) (uid set : Nat) (ids : List Nat) : Dev :=
  { d with eng.nodeCache := d.eng.nodeCache.filter (fun c => !decide (c.1 = uid ∧ c.2.1 = set)) ++ [(uid, set, ids)] }

def cacheHit (d : Dev) (v : Version) (n : Nat) : Bool := cacheOn d v && (cacheLine d v.uid (n % cacheSets v)).contains n

/-- Use or install a record: it becomes the most recently used; the least recently used one that is not a pinned
entry point is replaced. -/
def cacheTouch (d : Dev) (v : Version) (n : Nat) : Dev :=
  if !cacheOn d v then d
  else
    let set := n % cacheSets v
    let line := (cacheLine d v.uid set).filter (fun x => !decide (x = n))
    let pinned := fun x => ctlBit d .walk 0 1 && (Idx.entries v.desc).contains x
    let line := if line.length < 16 then n :: line
      else match line.reverse.find? (fun x => !pinned x) with
        | some victim => n :: line.filter (fun x => !decide (x = victim))
        | none => line
    setCacheLine d v.uid set line

/-! ### Stages of the walk -/

/-- Contexts and table slots held. -/
def walkContexts (d : Dev) : Nat := (d.reqs.filter (fun r => r.walk.isSome)).length

def slotsFor (d : Dev) (r : Req) : Nat :=
  match Req.named d r.pins.index with
  | some v => if Idx.M v.desc = 32 then 2 else 1
  | none => 1

def walkSlots (d : Dev) : Nat := ((d.reqs.filter (fun r => r.walk.isSome)).map (slotsFor d)).sum

def walkStat (d : Dev) (bit : Nat) (r : Req) (v : Version) (id : Nat) : Dev :=
  setStat d .walk 0 bit r.basin r.tag (BitVec.ofNat 32 id) (BitVec.ofNat 32 (v.slot % 64 + (v.num % 2 ^ 26) * 64))

/-- Ranking order: by distance, a NaN last, then by ID. -/
def rankLe (x y : Evid) : Bool :=
  let a := canonKey false (keyOfScore x.dist)
  let b := canonKey false (keyOfScore y.dist)
  decide (a < b ∨ (a = b ∧ x.id ≤ y.id))

/-- Deliver the passing entries to SORT (R181): the search stage ends, its context and charge are released. -/
def deliver (d : Dev) (r : Req) (shallow : Bool) : Dev :=
  let p := Req.prof d r
  let ver := Req.named d r.pins.index
  let pq := shallow || (match ver with | some v => decide (Idx.vecFmt v.desc = 0) | none => true)
  let ents := match r.walk with
    | none => []
    | some w => sortBy rankLe ((w.pool.filter (fun e => filterPass p e.attr)).map (fun e =>
        (⟨e.id, 0x7FC00000, if pq then searchDist w e.dist else e.exact, 0, e.attr, 0⟩ : Evid)))
  let d := if shallow then count d .walk 0 0x128 1 else d
  let id := d.eng.nextId
  let d := acceptSort { d with eng.walkWait := d.eng.walkWait.filter (fun s => !decide (s = r.slot)), eng.nextId := id + 1 }
    ⟨id, 0, r.prio, some r.slot, none, 0, [], none, 0, r.basin, false⟩
  modReq d r.slot (fun r =>
    let r := if shallow then r.flag 1 else r
    { r with evid := ents, walk := none, walkCharge := false, stage := .select, busy := true })

/-- After a walk or rewalk: refinement counts the passing entries; a rewalk starts or the entries are delivered
(R177, R180, R181). `fuel` bounds the rewalks. -/
def walkEnd (d : Dev) (slot : Nat) : Nat → Dev
  | 0 => d
  | fuel + 1 =>
    match findReq d slot with
    | none => d
    | some r =>
      match r.walk with
      | none => d
      | some w =>
        let p := Req.prof d r
        let win := w.queue.take w.window
        let opened := win.any (fun e => decide (e.st = .opened))
        let hop := decide (Prof.hopLimit p ≤ w.expansions)
        if opened && !hop then d
        else
          let d := if hop then count d .walk 0 0x12C 1 else d
          let pass := (w.pool.filter (fun e => filterPass p e.attr)).length
          if pass < searchK r p ∧ w.rewalks < Prof.rewalk p then
            let d := count d .walk 0 0x124 1
            walkEnd (modReq d slot (fun r => { (r.flag 5) with walk := some { w with window := min (2 * w.window) 512, expansions := 0, rewalks := w.rewalks + 1 } })) slot fuel
          else deliver d r false

/-- A waiting query takes a context and table slots (R162), the first in order; while the page is armed none starts. -/
def grantOp (d : Dev) (slot : Nat) : Dev :=
  match findReq d slot with
  | none => d
  | some r =>
    if r.stage = .grant ∧ d.eng.walkWait.head? = some slot ∧ !isArmed d .walk 0 ∧ walkContexts d < 1024 ∧ walkSlots d + slotsFor d r ≤ 1536 then
      modReq { d with eng.walkWait := d.eng.walkWait.drop 1 } slot (fun r =>
        { r with stage := .table, busy := true, walk := some ⟨[], 0, [], [], [], [], Prof.L (Req.prof d r), 0, 0, []⟩ })
    else d

/-- Entry points, skipping repeated IDs. -/
def startQueue (d : Dev) (v : Version) (w : Walk) : List Nat → Acc Walk
  | [] => .ok w
  | n :: ns =>
    if w.queue.any (fun e => decide (e.id = n)) then startQueue d v w ns
    else match pqDist d v w.table n with
      | .ok p => startQueue d v (queueOffer w p n) ns
      | .xfault => .xfault
      | .poison w => .poison w
      | .fabric x => .fabric x
      | .flash => .flash

/-- A poisoned word of an index's codebook, codes or bitmap consumed by a walk (R393): WALK has no status bit for it. -/
def walkPoison {α : Type} (d : Dev) (r : Req) : Acc α → Dev
  | .poison w => logEvent d 3 (pageNo .walk 0) r.basin r.tag (placeOf w) 0x40
  | _ => d

/-- The distance table is built and sent to the walker; the walk starts from the entry points (R150, R164, R168). -/
def tableOp (d : Dev) (slot : Nat) : Dev :=
  match findReq d slot with
  | none => d
  | some r =>
    match r.stage, r.walk, Req.named d r.pins.index with
    | .table, some w, some v =>
      if r.due ≠ [] then boundary d slot
      else
        match vRead d r.basin (Idx.codebook v.desc) (512 * Idx.D v.desc) with
        | .ok cb =>
          let t := buildTable (Idx.metric v.desc) (Idx.M v.desc) (Idx.D v.desc) r.qvec cb
          match startQueue d v { w with table := t.1, scale := t.2.1, dmin := t.2.2 } (Idx.entries v.desc) with
          | .ok w => walkEnd (modReq d slot (fun r => { r with walk := some w, stage := .walk, busy := false })) slot 4
          | e => endAcc (walkPoison d r e) slot e
        | e => endAcc (walkPoison d r e) slot e
    | _, _, _ => d

/-- A walk's step, unless a word of the request's tag state comes poisoned (R395). -/
def walkWork (d : Dev) (r : Req) (errs : List ReadError) (step : Dev → Dev) : Dev :=
  let x : Reader := ⟨.walk, 0, r.basin, r.slot⟩
  match workErrors d x [.tagState] errs with
  | (d, none) => step d
  | (d, some p) => endAt (logEvent d 3 (pageNo .walk 0) r.basin r.tag p.1 0x40) r.slot 0x40

/-- DISTANCE_TABLE_BUILD with the errors that the core meets in the codebook and the walker in the entry points' codes. -/
def tableReads (d : Dev) (slot : Nat) (errs : List ReadError) : Dev :=
  match findReq d slot with
  | none => d
  | some r =>
    if r.stage = .table ∧ r.due = [] then withErrors d ⟨.walk, 0, r.basin, slot⟩ (fun d p => basinWord d r.basin p) errs (fun d => walkWork d r errs (tableOp · slot))
    else tableOp d slot

/-- Select up to W open window entries, mark them and issue their reads (R168). -/
def expansionOp (d : Dev) (slot : Nat) : Dev :=
  match findReq d slot with
  | none => d
  | some r =>
    match r.stage, r.walk, Req.named d r.pins.index with
    | .walk, some w, some v =>
      if w.reads ≠ [] then d
      else
        let sel := ((w.queue.take w.window).filter (fun e => decide (e.st = .opened))).take (Prof.W (Req.prof d r))
        let reads := sel.map (fun e => (⟨e.id, d.now, false, cacheHit d v e.id⟩ : NodeRead))
        let w := sel.foldl (fun w e => { setQ w e.id .issued with visited := visit w.visited e.id }) w
        let d := count d .walk 0 0x10C reads.length
        let d := count d .walk 0 0x110 (reads.filter (·.hit)).length
        modReq d slot (fun r => { r with walk := some { w with reads := reads }, busy := true })
    | _, _, _ => d

/-- One neighbour of an expanded record. -/
def neighbour (r : Req) (v : Version) (holder : Nat) (acc : Dev × Walk × Option Nat) (m : Nat) : Dev × Walk × Option Nat :=
  match acc with
  | (d, w, some c) => (d, w, some c)
  | (d, w, none) =>
    if Idx.nPass v.desc ≤ m then (walkStat (count d .walk 0 0x118 1) 0 r v holder, w, none)
    else if w.queue.any (fun e => decide (e.id = m)) || isVisited w.visited m then (d, w, none)
    else match pqDist d v w.table m with
      | .ok p => (d, queueOffer w p m, none)
      | e => (walkPoison (noteAcc d e r.basin r.tag) r e, w, some e.cls)

/-- Apply one node record (R168, R170, R176, R177): the block, the walk and the class of a failure. A record that the node
cache serves needs no sector to be readable (R174, R365). -/
def applyRecord (r : Req) (v : Version) (acc : Dev × Walk × Option Nat) (rd : NodeRead) : Dev × Walk × Option Nat :=
  match acc with
  | (d, w, some c) => (d, w, some c)
  | (d, w, none) =>
    if rd.late then (d, w, none)
    else match nsRead (if rd.hit then { d with mem.unreadable := [] } else d) r.basin (Idx.graph v.desc * 4096 + rd.id * 1024) 1024 with
      | .ok rec =>
        let d := if rd.hit then cacheTouch d v rd.id
          else (List.range 4).foldl (fun d i => let n := rd.id / 4 * 4 + i; if n < Idx.nPass v.desc then cacheTouch d v n else d) d
        let scale := BitVec.ofNat 32 (fieldN rec 976 4)
        let badScale := decide (Idx.vecFmt v.desc ≠ 0) && (match val32 scale with | .fin _ _ _ => false | _ => true)
        if fieldN rec 972 4 ≠ rd.id ∨ Idx.maxDeg v.desc < byteAt rec 968 ∨ badScale then
          (walkStat (count d .walk 0 0x11C 1) 1 r v rd.id, setQ w rd.id .settled, none)
        else
          let w := setQ w rd.id .expanded
          match bitmapBit d v (Idx.tomb v.desc) (pinnedState r v.uid) rd.id with
          | .ok tomb =>
            let dist := match w.queue.find? (fun e => decide (e.id = rd.id)) with | some e => Acc.ok e.dist | none => pqDist d v w.table rd.id
            match dist with
            | .ok dist =>
              let ex := if Idx.vecFmt v.desc = 0 then (0 : W32)
                else distOf (Idx.metric v.desc) r.qvec ((rec.take (Idx.D v.desc)).map (vecElem (Idx.vecFmt v.desc) scale))
              let w := if tomb then w else { w with pool := poolOffer w.pool ⟨dist, rd.id, ex, fieldN rec 960 8⟩ }
              ((List.range (byteAt rec 968)).map (fun i => fieldN rec (768 + 4 * i) 4)).foldl (neighbour r v rd.id) (d, w, none)
            | e => (walkPoison (noteAcc d e r.basin r.tag) r e, w, some e.cls)
          | e => (walkPoison (noteAcc d e r.basin r.tag) r e, w, some e.cls)
      | e => (if e.cls = 0x41 then walkStat d 3 r v rd.id else noteAcc d e r.basin r.tag, w, some e.cls)

/-- One read of an expansion: a record that comes poisoned fails it (R174, R390). -/
def applyRead (r : Req) (v : Version) (bad : NodeRead → Bool) (acc : Dev × Walk × Option Nat) (rd : NodeRead) : Dev × Walk × Option Nat :=
  match acc.2.2, !rd.late && bad rd with
  | none, true =>
    (logEvent acc.1 3 (pageNo .walk 0) r.basin r.tag (Config.wordPlace 2 rd.id) 0x40, acc.2.1, some 0x40)
  | _, _ => applyRecord r v acc rd

/-- Errors in the words that a walk reads: of the basin's pages, and of the records that the node cache serves; a record
with an uncorrectable word is dropped (R174). -/
def walkReads (d : Dev) (slot : Nat) (errs : List ReadError) (step : Dev → Dev) : Dev :=
  match findReq d slot with
  | none => step d
  | some r =>
    match r.stage, r.walk, Req.named d r.pins.index with
    | .walk, some w, some v =>
      if w.reads = [] ∨ r.due ≠ [] then step d
      else
        let x : Reader := ⟨.walk, 0, r.basin, slot⟩
        withErrors d x (fun d p => basinWord d r.basin p) errs (fun d => walkWork d r errs (fun d => step (errs.foldl (fun d e => match e.place with
          | .node n _ =>
            let d := if w.reads.any (fun rd => decide (rd.id = n) && !rd.late) then replayed d x e else d
            if !w.reads.any (fun rd => decide (rd.id = n) && rd.hit && !rd.late) then d
            else if e.bits = 3 then
              let d := logEvent d 2 (pageNo .walk 0) r.basin r.tag (Config.wordPlace 2 n) 0
              let set := n % cacheSets v
              walkStat (setCacheLine d v.uid set ((cacheLine d v.uid set).filter (fun m => !decide (m = n)))) 4 r v n
            else if e.bits = 1 ∨ e.bits = 2 then
              usedCorrected (logEvent (count d .bsn r.basin 0x168 1) 1 (pageNo .walk 0) r.basin r.tag (Config.wordPlace 2 n) e.bits) slot e.bits
            else d
          | _ => d) d)))
    | _, _, _ => step d

/-- A record that comes poisoned: the node cache has an uncorrectable word of it (R174), or it was lost on its way (R390). -/
def badRecord (errs : List ReadError) (rd : NodeRead) : Bool :=
  errs.any (fun e => match e.place with
    | .node n _ => decide (n = rd.id) && ((rd.hit && decide (e.bits = 3)) || (match e.path with | some (_, b) => b | none => false))
    | _ => false)

/-- The expansion's reads are applied in selection order (R168); an expansion in progress when the request is due
is not applied (R184). -/
def applyExpansion (d : Dev) (slot : Nat) (bad : NodeRead → Bool) : Dev :=
  match findReq d slot with
  | none => d
  | some r =>
    match r.walk, Req.named d r.pins.index with
    | some w, some v =>
      if r.due ≠ [] then boundary d slot
      else
        match w.reads.foldl (applyRead r v bad) (d, w, none) with
        | (d, _, some c) => endAt d slot c
        | (d, w, none) =>
          let d := count d .walk 0 0x108 1
          walkEnd (modReq d slot (fun r => { r with walk := some { w with reads := [], expansions := w.expansions + 1 }, busy := false })) slot 4
    | _, _ => d

def arrivalOp (d : Dev) (slot : Nat) (bad : NodeRead → Bool) : Dev :=
  match findReq d slot with
  | none => d
  | some r =>
    match r.stage, r.walk with
    | .walk, some w => if w.reads = [] then d else applyExpansion d slot bad
    | _, _ => d

/-- A node read's budget expires (R173, R183). -/
def budgetOp (d : Dev) (slot node : Nat) : Dev :=
  match findReq d slot with
  | none => d
  | some r =>
    match r.stage, r.walk with
    | .walk, some w =>
      let p := Req.prof d r
      match w.reads.find? (fun x => decide (x.id = node) && !x.late) with
      | none => d
      | some x =>
        let t := x.issued + usCycles (Prof.readBudget p)
        let abandoned := Prof.cheap p 0 && (match r.dlSearch with | some s => decide (s ≤ t) | none => false)
        if Prof.readBudget p = 0 ∨ abandoned then d
        else
          let d := count (advanceTo d t) .walk 0 0x114 1
          let w := setQ { w with reads := modWhere (fun y => decide (y.id = node)) (fun y => { y with late := true }) w.reads } node .settled
          let d := modReq d slot (fun r => { (r.flag 13) with walk := some w })
          if w.reads.all (·.late) then applyExpansion d slot (fun _ => false) else d
    | _, _ => d

/-- The search deadline (R28, R29, R182). -/
def searchDeadlineOp (d : Dev) (slot : Nat) : Dev :=
  match findReq d slot with
  | none => d
  | some r =>
    match r.dlSearch with
    | none => d
    | some t =>
      if !r.live then d
      else
        let d := advanceTo d t
        if Prof.cheap (Req.prof d r) 0 ∧ (r.stage = .grant ∨ r.stage = .table ∨ r.stage = .walk) then
          if r.due ≠ [] then boundary d slot else deliver d r true
        else d

/-- The query enters the search stage with its embedding (R161); a deadline already past is taken at once. -/
def enterSearch (d : Dev) (slot : Nat) : Dev :=
  match findReq d slot with
  | none => d
  | some r =>
    let d := modReq { d with eng.walkWait := d.eng.walkWait ++ [slot] } slot (fun r => { r with stage := .grant, busy := false })
    if Prof.cheap (Req.prof d r) 0 && (match r.dlSearch with | some t => decide (t ≤ d.now) | none => false) then deliver d r true
    else d

def execWalkerContextGrant (slot : Nat) (s : State) : Host.Outcome State Fault Refusal := forSlot s slot (grantOp · slot)
def execDistanceTableBuild (r : Reads) (s : State) : Host.Outcome State Fault Refusal := forSlot s r.id (tableReads · r.id r.errs)
def execExpansion (slot : Nat) (s : State) : Host.Outcome State Fault Refusal := forSlot s slot (expansionOp · slot)
def execNodeReadArrival (slot : Nat) (errs : List ReadError) (s : State) : Host.Outcome State Fault Refusal :=
  forSlot s slot (fun d => walkReads d slot errs (arrivalOp · slot (badRecord errs)))
def execReadBudgetExpiry (slot node : Nat) (s : State) : Host.Outcome State Fault Refusal := ok s (budgetOp s.dev slot node)
def execSearchDeadline (slot : Nat) (s : State) : Host.Outcome State Fault Refusal := ok s (searchDeadlineOp s.dev slot)

/-! ### Passage text (R153, R154) -/

/-- Text of a passage; an ill-formed span is empty and counted. -/
def passageText (d : Dev) (r : Req) (v : Version) (n : Nat) : Dev × Acc (List Byte) :=
  let e := Idx.dir v.desc + 136 * (n / 64)
  match vRead d r.basin e 8, vRead d r.basin (e + 8 + 2 * (n % 64)) 2,
        (if n % 64 = 0 then Acc.ok [] else vRead d r.basin (e + 6 + 2 * (n % 64)) 2) with
  | .ok base, .ok hi, .ok lo =>
    let b := leNat base + leNat lo
    let e := leNat base + leNat hi
    if e < b ∨ b < Idx.textStart v.desc ∨ Idx.textStart v.desc + Idx.textBytes v.desc < e then
      (walkStat (count d .walk 0 0x120 1) 2 r v n, .ok [])
    else (d, nsRead d r.basin b (e - b))
  | .ok _, .ok _, x => (d, x)
  | .ok _, x, _ => (d, x)
  | x, _, _ => (d, x)

end Sys2Proof.Machine
end

