-- ==== Sys2Proof/Machine/Pipeline.lean ====
section
/-! DEFINITION. The pipeline stages around the walk: tokenizing (chapter 10), embedding, select, re-rank, packing
(chapters 01, 08, 10). -/

namespace Sys2Proof.Machine

/-! ### Cutting for a request -/

/-- TOK BLK_STAT event with the byte offset in its piece and the piece kind. -/
def tokStat (d : Dev) (bit : Nat) (r : Req) (off kind : Nat) : Dev :=
  setStat d .tok 0 bit r.basin r.tag (BitVec.ofNat 32 off) (BitVec.ofNat 32 kind)

/-- Byte offsets at which control spellings occur that end past the first `seen` bytes (R237), one per occurrence. -/
def controlHits (v : Vocab) (seen : Nat) (bs : List Byte) : List Nat :=
  (List.range bs.length).flatMap (fun i =>
    (v.tokens.filter (fun t => t.ctrl && t.spell.isPrefixOf (bs.drop i) && decide (seen < i + t.spell.length))).map (fun _ => i))

/-- Bytes of the first n tokens of a cut. -/
def spelledBytes (v : Vocab) (ts : List Nat) : Nat :=
  (ts.map (fun t => (v.tokens.getD t ⟨[], false⟩).spell.length)).sum

/-- Count a cut: bytes, tokens, invalid bytes and escaped spellings, with the flags of R237 and R238. -/
def countCut (d : Dev) (r : Req) (kind bytes tokens : Nat) (invalid escaped : List Nat) : Dev :=
  let d := count (count d .tok 0 0x100 bytes) .tok 0 0x104 tokens
  let d := match invalid with
    | [] => d
    | o :: _ => modReq (tokStat (count d .tok 0 0x10C invalid.length) 0 r o kind) r.slot (fun r => r.flag 7)
  match escaped with
  | [] => d
  | o :: _ => modReq (tokStat (count d .tok 0 0x110 escaped.length) 1 r o kind) r.slot (fun r => r.flag 8)

/-- Offsets of the invalid bytes of a whole piece. -/
def invalidAt (bs : List Byte) : List Nat :=
  let st := carryStates (byteStates true 0 bs)
  (List.range bs.length).filter (fun i => decide (st.getD i .valid = .invalid))

/-- Cut a whole piece in USER or PASSAGE mode. -/
def cutWhole (d : Dev) (r : Req) (kind : Nat) (v : Vocab) (bs : List Byte) : Dev × List Nat :=
  let ts := cutAll v false bs
  (countCut d r kind bs.length ts.length (invalidAt bs) (controlHits v 0 bs), ts)

/-- The models in whose vocabularies the input is cut (R234). -/
def inputModels (r : Req) (p : List Byte) : List Nat :=
  dedup ((match r.op with
    | 1 => [r.pins.enc, if Prof.stage p 2 then r.pins.rr else none, r.pins.gen]
    | 2 => [r.pins.enc]
    | 3 => [r.pins.enc]
    | 4 => [r.pins.rr]
    | _ => [r.pins.gen]).filterMap id)

/-- Vocabulary digest of a model version (R233). -/
def digestOf (d : Dev) (uid : Option Nat) : Option Nat := (uid.bind (findVer d)).map (·.digest)

/-- Two models share one vocabulary, so a piece is cut once for both (R234). DEDUCED (log 146). -/
def sameVocab (d : Dev) (u w : Option Nat) : Bool := decide (digestOf d u = digestOf d w)

/-- The first of the models that has a model's vocabulary. -/
def vocabLead (d : Dev) (us : List Nat) (u : Nat) : Option Nat := us.find? (fun w => sameVocab d (some u) (some w))

/-- One model for each vocabulary. -/
def vocabLeads (d : Dev) (us : List Nat) : List Nat := us.filter (fun u => decide (vocabLead d us u = some u))

/-- Tokens of the input in a model's vocabulary. -/
def tokensIn (r : Req) (uid : Option Nat) : List Nat :=
  match uid with
  | none => []
  | some u => match r.cuts.find? (fun c => decide (c.model = u)) with
    | some c => c.tokens
    | none => []

def cutOf (r : Req) (u : Nat) : VocabCut :=
  match r.cuts.find? (fun c => decide (c.model = u)) with
  | some c => c
  | none => ⟨u, [], []⟩

/-- Where the cut emits more than `max` tokens in all (R242): the new bytes that must have arrived, and the offset in the
piece at which token max + 1 begins. -/
def overAt (v : Vocab) (c : VocabCut) (max : Nat) (final : Bool) (bs : List Byte) : Option (Nat × Nat) :=
  let ts := c.tokens ++ (cutPiece v false final c.rest bs).tokens
  if ts.length ≤ max then none
  else some (((List.range bs.length).find? (fun n =>
    decide (max < c.tokens.length + (cutPiece v false false c.rest (bs.take n)).tokens.length))).getD bs.length, spelledBytes v (ts.take max))

/-- The first of the instants at which a vocabulary's cut is over the limit. -/
def firstOver (xs : List (Nat × Nat)) : Option (Nat × Nat) :=
  xs.foldl (fun acc x => match acc with | some y => if x.1 < y.1 then some x else acc | none => some x) none

/-- Vocabulary of a version by identity. -/
def vocabFor (d : Dev) (u : Nat) : Acc Vocab :=
  match findVer d u with
  | some v => vocabOf d v
  | none => .xfault

/-- Cut newly read input bytes in one vocabulary and keep the carry and hold-back (R239, R240). -/
def cutInput (d : Dev) (slot u : Nat) (v : Vocab) (final : Bool) (before bs : List Byte) (max : Nat) : Dev :=
  match findReq d slot with
  | none => d
  | some r =>
    let c := cutOf r u
    let out := cutPiece v false final c.rest bs
    let kept := out.tokens.take (max + 1 - c.tokens.length)
    let done := before.length - c.rest.length
    let bytes := if kept.length = out.tokens.length then (c.rest ++ bs).length - out.rest.length else spelledBytes v kept
    let st := pieceStates final c.rest bs
    let inv := (List.range bytes).filter (fun i => decide (st.getD i .valid = .invalid))
    let read := if kept.length = out.tokens.length then bs else bs.take (done + bytes - before.length)
    let d := countCut d r 0 bytes kept.length (inv.map (· + done)) (controlHits v before.length (before ++ read))
    modReq d slot (fun r => { r with cuts := r.cuts.filter (fun x => !decide (x.model = u)) ++ [⟨u, c.tokens ++ kept, out.rest⟩] })

/-- Every model has the cut of its vocabulary. -/
def shareCuts (d : Dev) (slot : Nat) (us : List Nat) : Dev :=
  modReq d slot (fun r => { r with cuts := us.filterMap (fun u =>
    ((vocabLead d us u).bind (fun w => r.cuts.find? (fun c => decide (c.model = w)))).map (fun c => { c with model := u })) })

/-! ### Model residency (R371) -/

def isResident (d : Dev) (u : Option Nat) : Bool :=
  match u with
  | none => false
  | some u => match findVer d u with | some v => v.resident | none => false

def useModel (d : Dev) (u : Option Nat) : Dev :=
  match u with
  | none => d
  | some u => modVer d u (fun v => { v with lastUse := d.now })

/-- A stage that needs a model starts when it is resident, else waits. -/
def enterModelStage (d : Dev) (slot : Nat) (st : Stage) (u : Option Nat) : Dev :=
  modReq (useModel d u) slot (fun r => { r with stage := st, busy := isResident d u })

/-! ### Re-rank and final order (R18, R19, R23, R25) -/

def nanScore : W32 := 0x7FC00000

/-- An evidence record's 16 bytes (Table 1-3). -/
def evidBytes (e : Evid) (flags : Nat) : List Byte :=
  natLe 4 e.id ++ natLe 4 e.score.toNat ++ natLe 4 e.dist.toNat ++ natLe 4 flags

/-- A RERANK record (R25). -/
def rerankBytes (e : Evid) : List Byte := natLe 4 e.id ++ natLe 4 e.score.toNat ++ natLe 4 e.pos ++ natLe 4 0

/-- Whole records of 16 bytes that fit after a 16-byte header. -/
def recsThatFit (cap n : Nat) : Nat := min n ((cap - 16) / 16)

/-- The order of a RERANK is final: output and end. -/
def finishRerank (d : Dev) (r : Req) (shallow : Bool) : Dev :=
  let n := r.evid.length
  let cap := Desc.outCap r.desc
  let k := recsThatFit cap n
  let d := if cap < 16 then d
    else outWrite d r 0 (natLe 4 k ++ List.replicate 12 0 ++ (r.evid.take k).flatMap rerankBytes)
  let d := modReq d r.slot (fun r => { r with outLen := if cap < 16 then 0 else 16 + 16 * k, outCount := if shallow then 0 else n })
  endAt d r.slot (if cap < 16 + 16 * n then 0x31 else 0)

/-- The evidence order is final (R19, R23, R25). -/
def finalOrder (d : Dev) (slot : Nat) (shallow : Bool) : Dev :=
  match findReq d slot with
  | none => d
  | some r =>
    if r.op = 4 then finishRerank d r shallow
    else
      let n := r.evid.length
      let cap := Desc.outCap r.desc
      if cap < 16 + 16 * n then
        let k := recsThatFit cap n
        let d := if cap < 16 then d
          else outWrite d r 0 (natLe 4 k ++ natLe 4 (16 + 16 * k) ++ List.replicate 8 0 ++ (r.evid.take k).flatMap (fun e => evidBytes e 0))
        endAt (modReq d slot (fun r => { r with outLen := if cap < 16 then 0 else 16 + 16 * k, outCount := 0 })) slot 0x31
      else modReq d slot (fun r => { r with stage := .pack, busy := true })

/-- The shallow re-rank is taken (R29, R30). -/
def shallowRerank (d : Dev) (slot : Nat) : Dev :=
  finalOrder (modReq d slot (fun r => { (r.flag 2) with evid := r.evid.map (fun e => { e with score := nanScore }), busy := false })) slot true

/-- The re-rank stage begins; a deadline already past is taken at once. -/
def enterRerank (d : Dev) (slot : Nat) : Dev :=
  match findReq d slot with
  | none => d
  | some r =>
    let d := enterModelStage d slot .fetchRank r.pins.rr
    if Prof.cheap (Req.prof d r) 1 && (match r.dlRerank with | some t => decide (t ≤ d.now) | none => false) then shallowRerank d slot else d

/-! ### Select (R181, R185, R186) -/

/-- A record of SEARCH output (Table 7-3). -/
def searchBytes (x : SRec) (dist : W32) : List Byte := natLe 4 x.id ++ natLe 4 dist.toNat ++ natLe 8 x.aux

/-- Records of a pipeline sort: the score of each evidence entry. -/
def selectRecs (r : Req) : List SRec :=
  (r.evid.zip (List.range r.evid.length)).map (fun x => ⟨keyOfScore x.1.dist, x.1.id, x.1.attr, 0, x.2⟩)

def rankRecs (r : Req) : List SRec :=
  (r.evid.zip (List.range r.evid.length)).map (fun x => ⟨keyOfScore x.1.score, x.1.id, 0, 0, x.2⟩)

/-- The select stage: SORT keeps the first k passages. DEDUCED (log 64): SEARCH_DIST is the inverse of the key that SORT
wrote, so a NaN distance is reported as +∞ and −0 as +0 (R190). -/
def runSelect (d : Dev) (r : Req) : Dev :=
  let p := Req.prof d r
  let k := searchK r p
  let o := sortRun (selectRecs r) k false false false (Prof.ctl p 1 && decide (r.op = 2)) 0
  let d := reportSort (countSort d 0 k o r.basin r.tag) r.slot o
  if r.op = 2 then
    let n := o.recs.length
    let cap := Desc.outCap r.desc
    let w := recsThatFit cap n
    let d := if cap < 16 then d
      else outWrite d r 0 (natLe 4 w ++ List.replicate 12 0 ++ (o.recs.take w).flatMap (fun x => searchBytes x (scoreOfKey x.key)))
    let d := modReq d r.slot (fun r => { r with outLen := if cap < 16 then 0 else 16 + 16 * w, outCount := if cap < 16 then 0 else w })
    endAt d r.slot (if cap < 16 + 16 * n then 0x31 else 0)
  else
    let real := (o.recs.filter (fun x => decide (x.id ≠ 0xFFFFFFFF))).take (Prof.rrDepth p)
    let ev := (real.zip (List.range real.length)).map (fun x => { (r.evid.getD x.1.pos ⟨0, 0, 0, 0, 0, 0⟩) with pos := x.2, dist := scoreOfKey x.1.key })
    let d := boundary (modReq d r.slot (fun r => { r with evid := ev })) r.slot
    match findReq d r.slot with
    | none => d
    | some r =>
      if !r.live then d
      else if Prof.stage p 2 && decide (ev ≠ []) then enterRerank d r.slot
      else finalOrder d r.slot false

/-- The ordering of re-ranked passages. -/
def runRank (d : Dev) (r : Req) : Dev :=
  let o := sortRun (rankRecs r) r.evid.length true false false false 0
  let d := reportSort (countSort d 0 r.evid.length o r.basin r.tag) r.slot o
  let ev := o.recs.map (fun x => r.evid.getD x.pos ⟨0, 0, 0, 0, 0, 0⟩)
  let d := boundary (modReq d r.slot (fun r => { r with evid := ev })) r.slot
  match findReq d r.slot with
  | none => d
  | some r => if r.live then finalOrder d r.slot false else d

/-- A sort command of the pipeline runs. -/
def pipeSort (d : Dev) (c : SortCmd) (slot : Nat) : Dev :=
  let d := { d with eng.sorts := d.eng.sorts.filter (fun x => !decide (x.id = c.id)) }
  match findReq d slot with
  | none => d
  | some r =>
    match r.stage with
    | .select => runSelect d r
    | .rankSort => runRank d r
    | _ => d

/-! ### The end of the input -/

/-- The question text of a RERANK and its offered list, when the input keeps R25. The bytes between the list and Q_OFF are
not looked at (log 167). -/
def parseRerank (nPass : Nat) (bs : List Byte) : Option (List Nat × List Byte) :=
  let n := fieldN bs 0 4
  let q := fieldN bs 4 4
  let off := 16 * ceilDiv (16 + 4 * n) 16
  let ids := (List.range n).map (fun i => fieldN bs (16 + 4 * i) 4)
  if 16 ≤ bs.length ∧ 1 ≤ n ∧ n ≤ 1024 ∧ zeroAt bs 8 8 ∧ bs.length = off + q ∧
     ids.all (fun i => decide (i ≠ 0xFFFFFFFF ∧ i < nPass)) ∧ ids.Nodup then some (ids, bs.drop off)
  else none

/-- Tokens of the prefix that a request cites (R260). -/
def prefixOf (d : Dev) (r : Req) : List Nat :=
  match r.hold.bind (fun i => d.eng.handles.find? (fun h => decide (h.idx = i))) with
  | some h => h.tokens
  | none => []

/-- GEN_KV_LEN, text and drafts of a draft-verify input (R267). The padding bytes between TEXT and DRAFT0 are not looked at.
DESIGN CHOICE (log 209). -/
def parseDraft (nTok plen : Nat) (cited : Bool) (bs : List Byte) : Option (Nat × List Byte × List Nat) :=
  let kv := fieldN bs 0 4
  let n := fieldN bs 4 4
  let t := fieldN bs 8 4
  let off := 16 + 4 * ceilDiv t 4
  let ds := (List.range n).map (fun i => fieldN bs (off + 4 * i) 4)
  if 16 ≤ bs.length ∧ n ≤ 64 ∧ zeroAt bs 12 4 ∧ bs.length = off + 4 * n ∧
     (kv = 0xFFFFFFFF ∨ (cited ∧ kv ≤ plen) ∨ kv = 0) ∧ ds.all (fun x => decide (x < nTok)) then
    some (if kv = 0xFFFFFFFF then plen else kv, (bs.drop 16).take t, ds)
  else none

def isDraft (r : Req) (p : List Byte) : Bool := decide (r.op = 5 ∧ Prof.spec p = 2)

/-- Cut a question or draft text that the input holds, under MAX_IN_TOK; true when it is within the limit. -/
def cutOne (d : Dev) (r : Req) (u : Nat) (v : Vocab) (bs : List Byte) (max : Nat) : Dev × Bool :=
  let d := cutInput d r.slot u v true [] bs max
  match overAt v ⟨u, [], []⟩ max true bs with
  | none => (d, true)
  | some x => (endAt (modReq (tokStat d 2 r x.2 0) r.slot (fun r => { r with outLen := 0 })) r.slot 0x12, false)

/-- The request's input has ended and its tokens are complete (R18, R25, R267). -/
def inputDone (d : Dev) (slot : Nat) : Dev :=
  match findReq d slot with
  | none => d
  | some r =>
    let p := Req.prof d r
    if !r.live then d
    else if r.op ≤ 3 then enterModelStage d slot .embed r.pins.enc
    else if r.op = 4 then
      match Req.named d r.pins.index, r.pins.rr with
      | some ix, some u =>
        match vocabFor d u with
        | .ok v =>
          match parseRerank (Idx.nPass ix.desc) r.input with
          | none => endAt d slot 0x11
          | some (ids, q) =>
            match cutOne d r u v q (Prof.maxIn p) with
            | (d, false) => d
            | (d, true) =>
              let dep := min (if Desc.k r.desc = 0 then Prof.rrDepth p else Desc.k r.desc) ids.length
              let ev := (ids.take dep).zip (List.range dep) |>.map (fun x => (⟨x.1, nanScore, 0, 0, 0, x.2⟩ : Evid))
              enterRerank (modReq d slot (fun r => { r with evid := ev, offered := ids })) slot
        | e => endAcc d slot e
      | _, _ => d
    else if isDraft r p then
      match r.pins.gen with
      | none => d
      | some u =>
        match vocabFor d u with
        | .ok v =>
          match parseDraft v.tokens.length (prefixOf d r).length r.hold.isSome r.input with
          | none => endAt d slot 0x11
          | some (kv, txt, ds) =>
            match cutOne d r u v txt (Prof.maxIn p) with
            | (d, false) => d
            | (d, true) => modReq d slot (fun r => { r with stage := .model, busy := false, kvLen := some kv, offered := ds })
        | e => endAcc d slot e
    else modReq d slot (fun r => { r with stage := .model, busy := false })

/-! ### CUT_PIECE -/

/-- First poisoned byte offset in a buffer's input; its length where no word is poisoned. -/
def poisonOffset (d : Dev) (c : Req) : Nat :=
  let a := shoreAddr c.basin (Desc.inBlock c.desc) 0
  ((d.mem.poison.filter (fun p => decide (p.1 = .shore) && overlaps (p.2 * 8) 8 a (Desc.inLen c.desc))).map (fun p => p.2 * 8 - a)).foldl min (Desc.inLen c.desc)

/-- Blocks of an input that hold a poisoned word are poisoned (R79). -/
def poisonInBlocks (d : Dev) (c : Req) : Dev :=
  (Desc.inBlocks c.desc).foldl (fun d k => if shorePoison d (shoreAddr c.basin k 0) 65536 then poisonBlock d c.basin k else d) d

/-- TOK meets the first poisoned word of a buffer: the bytes before it have been read, and the request ends (R393). -/
def inputPoison (d : Dev) (r c : Req) : Dev :=
  let po := poisonOffset d c
  let d := poisonInBlocks (poisonUsed d .tok 0 3 r (placeOf (.shore, (shoreAddr c.basin (Desc.inBlock c.desc) 0 + po) / 8)) (BitVec.ofNat 32 (r.input.length + po)) 0) c
  let d := if c.slot = r.slot then d else modReq d c.slot (fun x => { x with outCount := po })
  endAt d r.slot 0x40

/-- TOK reads the oldest buffer of a request's input and cuts it, up to the instant at which a vocabulary emits a token too
many (R242) or a poisoned word is met: then the request ends; else it goes to the model stage when the input is complete. `vs`
lists one model for each vocabulary, `us` every model that reads the input. -/
def cutBuffer (d : Dev) (r c : Req) (us : List Nat) (vs : List (Nat × Vocab)) : Dev :=
  let p := Req.prof d r
  let whole := inBytes d c
  let bs := if inPoison d c then whole.take (poisonOffset d c) else whole
  let final := !r.awaiting && decide (r.bufs.length ≤ 1) && !inPoison d c
  let layout := decide (r.op = 4) || isDraft r p
  let full := if layout then none else firstOver (vs.filterMap (fun x => overAt x.2 (cutOf r x.1) (Prof.maxIn p) final bs))
  let read := match full with | some x => bs.take x.1 | none => bs
  let ends := final && decide (read.length = bs.length)
  let d := if layout then d
    else shareCuts (vs.foldl (fun d x => cutInput d r.slot x.1 x.2 ends r.input read (Prof.maxIn p)) d) r.slot us
  if full.isNone && inPoison d c then inputPoison d r c
  else
  let d := modReq d r.slot (fun r => { r with input := r.input ++ bs, bufs := r.bufs.drop 1 })
  let d := if read.length < whole.length ∧ c.slot ≠ r.slot then modReq d c.slot (fun c => { c with outCount := read.length })
    else if c.slot ≠ r.slot then completeControl (returnInput d c.slot) c.slot 0 bs.length else returnInput d c.slot
  match full with
  | some x => endAt (modReq (tokStat d 2 r x.2 0) r.slot (fun r => { r with outLen := 0 })) r.slot 0x12
  | none =>
    if layout && Desc.more r.desc then endAt d r.slot 0x11
    else if final then inputDone (boundary d r.slot) r.slot
    else boundary d r.slot

/-- TOK reads a buffer of an input that is no text: its bytes are appended (R95). -/
def rawBuffer (d : Dev) (r c : Req) : Dev :=
  let bs := inBytes d c
  let final := !r.awaiting && decide (r.bufs.length ≤ 1)
  let d := modReq d r.slot (fun r => { r with input := r.input ++ bs, bufs := r.bufs.drop 1, stage := if final then firstStage r.op else r.stage })
  let d := if c.slot ≠ r.slot then completeControl (returnInput d c.slot) c.slot 0 bs.length else returnInput d c.slot
  boundary d r.slot

def cutPieceOp (d : Dev) (slot : Nat) : Dev :=
  match findReq d slot with
  | none => d
  | some r =>
    match r.stage, r.bufs with
    | .input, b :: _ =>
      match findReq d b with
      | none => d
      | some c =>
        if r.streamed then (if inPoison d c then inputPoison d r c else rawBuffer d r c)
        else
          let us := inputModels r (Req.prof d r)
          let vs := (vocabLeads d us).map (fun u => (u, vocabFor d u))
          match vs.find? (fun x => decide (x.2.get?.isNone)) with
          | some x =>
            endAcc (poisonMet d x.2 .tok 0 3 r 0 0) slot x.2
          | none => cutBuffer d r c us (vs.filterMap (fun x => x.2.get?.map (fun v => (x.1, v))))
    | _, _ => d

/-- Errors in the words that TOK reads: of the buffer, and of the request's tag state, which ends it (R241, R395). -/
def cutReads (d : Dev) (slot : Nat) (errs : List ReadError) (step : Dev → Dev) : Dev :=
  match findReq d slot with
  | none => step d
  | some r =>
    match r.stage, (r.bufs.head?).bind (findReq d) with
    | .input, some c =>
      let x : Reader := ⟨.tok, 0, r.basin, slot⟩
      withErrors d x (fun _ p => inputWord c p) errs (fun d => workStep d x 3 [.tagState] errs step)
    | _, _ => step d

/-! ### Job sets of the pipeline: encoder and cross-encoder -/

/-- The encoder's output vector (R24). -/
def encodeVec (d : Dev) (r : Req) : List W32 :=
  match Req.named d r.pins.enc with
  | some v => (List.range (fieldN v.desc 24 2)).map (Config.encode v.basin v.slot v.num (tokensIn r r.pins.enc))
  | none => []

/-- EMBED's output and end (R24). -/
def finishEmbed (d : Dev) (r : Req) (q : List W32) : Dev :=
  let n := 16 + 4 * q.length
  if Desc.outCap r.desc < n then endAt (modReq d r.slot (fun r => { r with outLen := 0, outCount := 0 })) r.slot 0x31
  else
    let d := outWrite d r 0 (natLe 4 q.length ++ natLe 4 (tokensIn r r.pins.enc).length ++ List.replicate 8 0 ++ q.flatMap (fun x => natLe 4 x.toNat))
    endAt (modReq d r.slot (fun r => { r with outLen := n, outCount := 1 })) r.slot 0

/-- The text of a request's evidence that holds a byte, by its place in the order, and the byte's offset in it. -/
def textPlace (d : Dev) (r : Req) (off : Nat) : Nat × Nat :=
  match Req.named d r.pins.index with
  | none => (0, off)
  | some ix =>
    let x := r.evid.foldl (fun (acc : Nat × Nat × Bool) e =>
      let n := (((passageText d r ix e.id).2.get?).getD []).length
      if acc.2.2 then acc else if acc.2.1 < n then (acc.1, acc.2.1, true) else (acc.1 + 1, acc.2.1 - n, false)) (0, off, false)
    (x.1, x.2.1)

/-- Fetch and cut the evidence texts in a vocabulary, in order; the first failure decides. The first `known` of them have
been fetched, and, when `same`, cut in this vocabulary: neither is done again (R234). -/
def fetchTexts (r : Req) (ix : Version) (v : Vocab) (same : Bool) : Nat → Dev → List Evid → Dev × Acc (List (List Byte × List Nat))
  | _, d, [] => (d, .ok [])
  | known, d, e :: es =>
    match passageText d r ix e.id with
    | (d1, .ok t) =>
      let d0 := if known = 0 then d1 else d
      let c := if known ≠ 0 ∧ same = true then (d0, cutAll v false t) else cutWhole d0 r 1 v t
      match fetchTexts r ix v same (known - 1) c.1 es with
      | (d, .ok xs) => (d, .ok ((t, c.2) :: xs))
      | (d, e) => (d, e)
    | (d, .xfault) => (d, .xfault)
    | (d, .poison w) => (d, .poison w)
    | (d, .fabric x) => (d, .fabric x)
    | (d, .flash) => (d, .flash)

/-- Fetch and cut at most n texts, up to the first that cannot be had: how many, and what they count. -/
def fetchSome (r : Req) (ix : Version) (v : Vocab) : Nat → Dev → List Evid → Nat × Dev
  | 0, d, _ => (0, d)
  | _, d, [] => (0, d)
  | n + 1, d, e :: es =>
    match passageText d r ix e.id with
    | (d1, .ok t) => let x := fetchSome r ix v n (cutWhole d1 r 1 v t).1 es; (x.1 + 1, x.2)
    | _ => (0, d)

/-- The texts that re-rank had fetched when its deadline fell or when it stopped: a free number of them (log 147). -/
def fetchedSoFar (d : Dev) (r : Req) : Dev :=
  match Req.named d r.pins.index, Req.named d r.pins.rr with
  | some ix, some m =>
    match vocabOf d m with
    | .ok v =>
      let (f, d) := draw d
      let x := fetchSome r ix v (Config.textsCut f % (r.evid.length + 1)) d r.evid
      modReq x.2 r.slot (fun r => { r with texts := x.1 })
    | _ => d
  | _, _ => d

/-- The cross-encoder has scored every passage. -/
def scoreAll (d : Dev) (r : Req) : Dev :=
  let p := Req.prof d r
  match Req.named d r.pins.index, Req.named d r.pins.rr with
  | some ix, some m =>
    match vocabOf d m with
    | .ok v =>
      match fetchTexts r ix v false 0 d r.evid with
      | (d, .ok ts) =>
        let ev := (r.evid.zip ts).map (fun x =>
          { x.1 with score := Config.crossScore m.basin m.slot m.num (tokensIn r r.pins.rr) (x.2.2.take (Prof.rrTokens p)) })
        let id := d.eng.nextId
        modReq (acceptSort { d with eng.nextId := id + 1 } ⟨id, 0, r.prio, some r.slot, none, 0, [], none, 0, r.basin, false⟩) r.slot
          (fun r => { r with evid := ev, texts := ev.length, stage := .rankSort, busy := true })
      | (d, e) => endAcc (poisonMet d e .tok 0 3 r 0 1) r.slot e
    | e => endAcc (poisonMet d e .tok 0 3 r 0 1) r.slot e
  | _, _ => d

/-- A stage's job set ends and delivers its result, unless the request is due to end at this step boundary. -/
def stageDoneOp (d : Dev) (slot : Nat) : Dev :=
  match findReq d slot with
  | none => d
  | some r =>
    if !r.busy then d
    else match r.stage with
      | .embed =>
        if r.due ≠ [] then boundary d slot
        else
          let d := useModel d r.pins.enc
          if r.op = 3 then finishEmbed d r (encodeVec d r)
          else enterSearch (modReq d slot (fun r => { r with qvec := encodeVec d r, busy := false })) slot
      | .fetchRank => if r.due ≠ [] then boundary (fetchedSoFar d r) slot else scoreAll (useModel d r.pins.rr) r
      | _ => d

/-- The core that a job of a request's stage runs on. -/
def stageCore (d : Dev) (slot : Nat) : Nat := ((d.jobs.ctxs.find? (fun c => decide (c.slot = slot))).bind (fun c => c.place.head?)).getD 0

/-- The texts that TOK has cut before it meets an uncorrectable word at an offset of them: they count, and set their flags
(R238, R251). The first `known` texts were cut before in this vocabulary when `same`. -/
def cutBefore (d : Dev) (r : Req) (model : Option Nat) (same : Bool) (known : Nat) (errs : List ReadError) : Dev :=
  match Req.named d r.pins.index, (Req.named d model).map (vocabOf d), (workErrors d ⟨.tok, 0, r.basin, r.slot⟩ [.text] errs).2 with
  | some ix, some (.ok v), some (_, _, off) =>
    let p := textPlace d r off
    let d := (fetchTexts r ix v same known d (r.evid.take p.1)).1
    if same ∧ p.1 < known then d
    else match r.evid[p.1]?.map (fun e => (passageText d r ix e.id).2) with
      | some (.ok t) =>
        let bs := t.take p.2
        let out := cutPiece v false false [] bs
        countCut d r 1 (bs.length - out.rest.length) out.tokens.length ((invalidAt bs).filter (fun i => decide (i < bs.length - out.rest.length))) (controlHits v 0 bs)
      | _ => d
  | _, _, _ => d

/-- STAGE_JOB_DONE with the errors that the stage's reads meet: of its jobs in weights and tokens, of TOK in passages and
vocabularies. -/
def stageErrors (d : Dev) (slot : Nat) (errs : List ReadError) : Dev :=
  match findReq d slot with
  | none => d
  | some r =>
    if !r.busy ∨ (r.stage ≠ .embed ∧ r.stage ≠ .fetchRank) ∨ r.due ≠ [] then stageDoneOp d slot
    else
      withErrors d ⟨.tok, 0, r.basin, slot⟩ (fun d p => basinWord d r.basin p) errs (fun d =>
      workStep d ⟨.tok, 0, r.basin, slot⟩ 3 [.tagState] errs (fun d =>
      workStep d ⟨.core, stageCore d slot, r.basin, slot⟩ 1 [.weights, .tokens] errs (fun d =>
      workStep (cutBefore d r r.pins.rr false 0 errs) ⟨.tok, 0, r.basin, slot⟩ 3 [.text] errs (stageDoneOp · slot) (fun _ off => ((textPlace d r off).2, 1)))
      (had := workPoison d r .weights)))

def execStageJobDone (r : Reads) (s : State) : Host.Outcome State Fault Refusal :=
  forSlot s r.id (stageErrors · r.id r.errs)

/-- The re-rank deadline falls with passages unscored (R29). -/
def rerankDeadlineOp (d : Dev) (slot : Nat) : Dev :=
  match findReq d slot with
  | none => d
  | some r =>
    match r.dlRerank with
    | none => d
    | some t =>
      if r.live && decide (r.stage = .fetchRank) && Prof.cheap (Req.prof d r) 1 then
        let d := advanceTo d t
        let d := if r.busy then fetchedSoFar d r else d
        if r.due ≠ [] then boundary d slot else shallowRerank d slot
      else if r.live then advanceTo d t else d

def execRerankDeadline (slot : Nat) (s : State) : Host.Outcome State Fault Refusal := ok s (rerankDeadlineOp s.dev slot)

/-! ### Packing (R244–R250) -/

/-- A template's segments: kind, prefix (or text) and suffix. -/
structure Segment where
  kind : Nat
  a : List Byte
  b : List Byte
  deriving DecidableEq, Repr

/-- Segments of a template image (R244). -/
def segmentsOf (x : List Byte) : List Segment :=
  let n := byteAt x 6
  let pool := x.drop (16 + 16 * n)
  (List.range n).map (fun i =>
    let s := (x.drop (16 + 16 * i)).take 16
    ⟨byteAt s 0, (pool.drop (fieldN s 4 2)).take (fieldN s 6 2), (pool.drop (fieldN s 8 2)).take (fieldN s 10 2)⟩)

/-- FIXED_TOK of a template in a vocabulary (R245). -/
def fixedTok (v : Vocab) (segs : List Segment) : Nat :=
  (segs.map (fun s => if s.kind = 3 then 0 else (cutAll v true s.a).length + (if s.kind = 2 then (cutAll v true s.b).length else 0))).sum

structure PackOut where
  /-- Tokens packed for each record, in order; none when it was not packed. -/
  packed : List (Option (List Nat))
  flags : List Nat
  truncAt : Option Nat
  deriving DecidableEq, Repr

/-- The procedure of R247 over the records that remain. `seen` holds the packed records' IDs and texts. -/
def packRun (pre post : Nat) (tail : Bool) : Nat → List (Nat × List Byte) → Nat → List (Nat × List Byte × List Nat) → PackOut
  | _, _, _, [] => ⟨[], [], none⟩
  | avail, seen, rank, (id, txt, ts) :: rest =>
    if txt = [] then
      let o := packRun pre post tail avail seen (rank + 1) rest
      ⟨none :: o.packed, 0 :: o.flags, o.truncAt⟩
    else if seen.any (fun s => decide (s.1 = id ∨ s.2 = txt)) then
      let o := packRun pre post tail avail seen (rank + 1) rest
      ⟨none :: o.packed, 2 :: o.flags, o.truncAt⟩
    else if pre + ts.length + post ≤ avail then
      let o := packRun pre post tail (avail - (pre + ts.length + post)) (seen ++ [(id, txt)]) (rank + 1) rest
      ⟨some ts :: o.packed, 1 :: o.flags, o.truncAt⟩
    else if tail ∧ pre + post + 1 ≤ avail then
      ⟨some (ts.take (avail - pre - post)) :: rest.map (fun _ => none), 1 :: rest.map (fun _ => 0), some rank⟩
    else ⟨none :: rest.map (fun _ => none), 0 :: rest.map (fun _ => 0), some rank⟩

/-- The prompt: the segments' tokens in segment order (R245, R249). -/
def promptOf (v : Vocab) (segs : List Segment) (input : List Nat) (packed : List (List Nat)) : List Nat :=
  segs.flatMap (fun s =>
    let a := cutAll v true s.a
    let b := cutAll v true s.b
    if s.kind = 1 then a
    else if s.kind = 2 then a ++ input ++ b
    else packed.flatMap (fun t => a ++ t ++ b))

/-- Bytes and tokens of the template texts cut for a prompt. -/
def countTemplate (d : Dev) (v : Vocab) (segs : List Segment) : Dev :=
  segs.foldl (fun d s =>
    let d := count d .tok 0 0x100 (s.a.length + s.b.length)
    count d .tok 0 0x104 ((cutAll v true s.a).length + (cutAll v true s.b).length)) d

def packStat (d : Dev) (bit : Nat) (r : Req) (rank : Nat) : Dev := setStat d .pack 0 bit r.basin r.tag (BitVec.ofNat 32 rank) 0

/-- Packing ends: counters, header and evidence records; the prompt is complete. -/
def packEnd (d : Dev) (r : Req) (v : Vocab) (segs : List Segment) (ts : List (List Byte × List Nat)) : Dev :=
  let p := Req.prof d r
  let input := tokensIn r r.pins.gen
  let seg3 := segs.find? (fun s => decide (s.kind = 3))
  let pre := match seg3 with | some s => (cutAll v true s.a).length | none => 0
  let post := match seg3 with | some s => (cutAll v true s.b).length | none => 0
  let avail := Prof.tokBudget p - fixedTok v segs - input.length
  let items := (r.evid.zip ts).map (fun x => (x.1.id, x.2.1, x.2.2))
  let o := if seg3.isSome then packRun pre post (Prof.ctl p 2) avail [] 1 items
    else ⟨items.map (fun _ => none), items.map (fun _ => 0), none⟩
  let packed := o.packed.filterMap id
  let prompt := promptOf v segs input packed
  let dups := (List.range o.flags.length).filter (fun i => decide (o.flags.getD i 0 = 2))
  let d := countTemplate d v segs
  let d := count d .pack 0 0x100 1
  let d := count d .pack 0 0x104 packed.length
  let d := count d .pack 0 0x108 dups.length
  let d := dups.foldl (fun d i => packStat d 0 r (i + 1)) d
  let d := match o.truncAt with
    | some k => modReq (packStat (count d .pack 0 0x10C 1) 1 r k) r.slot (fun r => r.flag 9)
    | none => d
  let d := count d .pack 0 0x110 prompt.length
  let n := r.evid.length
  let d := outWrite d r 0 (natLe 4 n ++ natLe 4 (16 + 16 * n) ++ List.replicate 8 0 ++ ((r.evid.zip o.flags).flatMap (fun x => evidBytes x.1 x.2)))
  modReq d r.slot (fun r => { r with prompt := prompt, outLen := 16 + 16 * n, stage := .model,
                                     evid := (r.evid.zip o.flags).map (fun x => { x.1 with flags := x.2 }) })

def packWork (d : Dev) (r : Req) : Dev :=
  match Req.named d r.pins.index, Req.named d r.pins.gen, Req.named d r.pins.tmpl with
  | some ix, some g, some t =>
    match vocabOf d g with
    | .ok v =>
      match fetchTexts r ix v (sameVocab d r.pins.rr r.pins.gen) r.texts d r.evid with
      | (d, .ok ts) => packEnd d r v (segmentsOf t.desc) ts
      | (d, e) => endAcc (poisonMet d e .pack 0 2 r) r.slot e
    | e => endAcc (poisonMet d e .pack 0 2 r) r.slot e
  | _, _, _ => d

end Sys2Proof.Machine
end

