-- ==== Sys2Proof/Machine/JobSort.lean ====
section
/-! DEFINITION. Sort commands: of the pipeline, and of jobs (Table 8-3, R192–R202). -/

namespace Sys2Proof.Machine

namespace SortC
def nList (b : List Byte) : Nat := fieldN b 0 2
def mode (b : List Byte) : Nat := byteAt b 2
def k (b : List Byte) : Nat := fieldN b 4 4
def temp (b : List Byte) : W32 := BitVec.ofNat 32 (fieldN b 8 4)
def outCap (b : List Byte) : Nat := fieldN b 12 4
def listAddr (b : List Byte) : Nat := fieldN b 16 8
def outAddr (b : List Byte) : Nat := fieldN b 24 8
def hdrAddr (b : List Byte) : Nat := fieldN b 32 8
end SortC

/-- TEMP is a finite FP32 value above zero. -/
def tempOk (t : W32) : Bool :=
  match val32 t with
  | .fin neg m _ => !neg && decide (m ≠ 0)
  | _ => false

/-- Byte offset of the first command field that is out of range or wrongly non-zero (R192). -/
def sortFieldBad (b : List Byte) : Option Nat :=
  let checks : List (Nat × Bool) :=
    [(0, decide (1 ≤ SortC.nList b ∧ SortC.nList b ≤ 16)), (2, decide (SortC.mode b < 32)), (3, zeroAt b 3 1),
     (4, decide (SortC.k b ≤ SortC.outCap b)), (8, !bitOf (SortC.mode b) 2 || tempOk (SortC.temp b)),
     (24, decide (SortC.outAddr b % 16 = 0)), (32, decide (SortC.hdrAddr b % 16 = 0)), (40, zeroAt b 40 24)]
  (checks.find? (fun c => !c.2)).map (·.1)

/-- What reading the inputs of a command gives. -/
inductive SortIn where
  | recs (xs : List SRec)
  /-- A list entry is invalid. -/
  | bad
  /-- A word is poisoned: its list and position, the records read before it, and the word. -/
  | poison (list pos n : Nat) (w : Space × Nat)
  /-- Another failure, after so many records. -/
  | fail (n : Nat) (e : Acc Unit)
  deriving DecidableEq, Repr

/-- Records of one list from a position on; `n` are left. -/
def listRecs (d : Dev) (b a list : Nat) : Nat → Nat → List SRec → SortIn
  | 0, _, acc => .recs acc
  | n + 1, pos, acc =>
    match vRead d b (a + 16 * pos) 16 with
    | .ok r => listRecs d b a list n (pos + 1) (acc ++ [⟨fieldN r 0 4, fieldN r 4 4, fieldN r 8 8, list, pos⟩])
    | .poison w => .poison list pos acc.length w
    | .fabric x => .fail acc.length (.fabric x)
    | _ => .fail acc.length .xfault

def listsFrom (d : Dev) (b la : Nat) : Nat → Nat → List SRec → SortIn
  | 0, _, acc => .recs acc
  | n + 1, i, acc =>
    match vRead d b (la + 16 * i) 16 with
    | .ok e =>
      if fieldN e 0 8 % 16 ≠ 0 ∨ fieldN e 12 4 ≠ 0 then .bad
      else match listRecs d b (fieldN e 0 8) i (fieldN e 8 4) 0 acc with
        | .recs xs => listsFrom d b la n (i + 1) xs
        | f => f
    | .poison w => .poison i 0 acc.length w
    | .fabric x => .fail acc.length (.fabric x)
    | _ => .fail acc.length .xfault

/-- A sort command of a job runs (R192–R202); once its job has ended, it faults and reports no more (R361). NULL_IN is set
when a sort completes: whether one that R202 ends sets it too is open. DESIGN CHOICE (log 202). -/
def jobSort (d : Dev) (s : SortCmd) : Dev :=
  let c? := s.ctx.bind (findCtx d)
  let onJob := fun (d : Dev) (f : Dev → Ctx → Dev) => match c? with | some c => f d c | none => d
  let d := { d with eng.sorts := d.eng.sorts.filter (fun x => !decide (x.id = s.id)) }
  let p := sortPage s.unit
  let tag := match c?.bind (fun c => findReq d c.slot) with | some r => r.tag | none => noTag
  let poison := fun (list pos n : Nat) (w : Space × Nat) =>
    let d := setStat (count d p.1 p.2 0x108 n) p.1 p.2 1 s.basin tag (BitVec.ofNat 32 pos) (BitVec.ofNat 32 list)
    onJob (logEvent d 3 (pageNo p.1 p.2) s.basin tag (placeOf w) 0x40) (fun d c => ctxFault d c.id s.core 0x11 3 0 true 0 (some s.pc))
  let bad := fun (off : Nat) =>
    onJob (setStat d p.1 p.2 2 s.basin tag (BitVec.ofNat 32 off) 0) (fun d c => ctxFault d c.id s.core 9 3 0 false 0 (some s.pc))
  let fails := fun (n : Nat) (e : Acc Unit) => onJob (count d p.1 p.2 0x108 n) (fun d c => ctxAcc d c.id s.core 3 e (some s.pc))
  match s.bad with
  | some w => poison 0 0 0 w
  | none =>
    let b := s.bytes
    match sortFieldBad b with
    | some off => bad off
    | none =>
      match listsFrom d s.basin (SortC.listAddr b) (SortC.nList b) 0 [] with
      | .bad => bad 16
      | .poison list pos n w => poison list pos n w
      | .fail n e => fails n e
      | .recs xs =>
        let m := SortC.mode b
        let o := sortRun xs (SortC.k b) (bitOf m 0) (bitOf m 1) (bitOf m 2) (bitOf m 3) (SortC.temp b)
        match (vWrite d s.basin (SortC.outAddr b) (o.recs.flatMap recBytes)).bind (fun d => vWrite d s.basin (SortC.hdrAddr b) o.header) with
        | .ok d =>
          let d := countSort d s.unit (SortC.k b) o s.basin tag
          onJob d (fun d c => if bitOf m 4 then reportSort d c.slot o else d)
        | e => fails o.nIn (e.map (fun _ => ()))

/-- The list of a pipeline's sort, which a poisoned word ends: the records read before that word count (R204). -/
def listRead (d : Dev) (unit : Nat) (x : Reader) (errs : List ReadError) : Dev :=
  match (workErrors d x [.list] errs).2 with
  | some (_, _, off) => let p := sortPage unit; count d p.1 p.2 0x108 (off / 16)
  | none => d

/-- SORT_COMMAND (R194): a command in progress completes, and the next in order starts. -/
def sortCommandOp (d : Dev) (cmd : Nat) (errs : List ReadError) : Dev :=
  let d := startSorts 40 d
  match d.eng.sorts.find? (fun x => decide (x.id = cmd)) with
  | none => d
  | some s =>
    let p := sortPage s.unit
    if !s.running then d
    else startSorts 40 (match s.slot with
    | some slot =>
      let x : Reader := ⟨p.1, p.2, s.basin, slot⟩
      workStep (listRead d s.unit x errs) x 1 [.list, .tagState] errs (pipeSort · s slot) (fun _ off => (off / 16, 0))
    | none =>
      withErrors d ⟨p.1, p.2, s.basin, ((s.ctx.bind (findCtx d)).map (·.slot)).getD (2 ^ 20)⟩ (fun d p => basinWord d s.basin p) errs (jobSort · s))

def execSortCommand (r : Reads) (s : State) : Host.Outcome State Fault Refusal := ok s (orWait s.dev (sortCommandOp s.dev r.id r.errs))

end Sys2Proof.Machine
end

