-- ==== Sys2Proof/Machine/Tables.lean ====
section
/-! DEFINITION. Embedding tables: gathers, merges, and their commands from jobs (chapter 09). -/

namespace Sys2Proof.Machine

/-! Fields of a table descriptor (Table 9-1). -/
namespace Tbl
def fmt (x : List Byte) : Nat := byteAt x 6
def writable (x : List Byte) : Bool := bitOf (byteAt x 7) 0
def pool (x : List Byte) : Bool := bitOf (byteAt x 7) 1
def hasRate (x : List Byte) : Bool := bitOf (byteAt x 7) 2
def rowBytes (x : List Byte) : Nat := fieldN x 8 4
def rowCount (x : List Byte) : Nat := fieldN x 16 8
def base (x : List Byte) : Nat := fieldN x 24 8
def absent (x : List Byte) : Nat := fieldN x 32 8
def rate (x : List Byte) : Nat := fieldN x 40 8
def cachePages (x : List Byte) : Nat := fieldN x 48 4
def elemBytes (x : List Byte) : Nat := [4, 2, 1, 1, 1].getD (fmt x) 1
def elems (x : List Byte) : Nat := rowBytes x / elemBytes x
def rowAddr (x : List Byte) (r : Nat) : Nat := base x + r * rowBytes x
end Tbl

/-- A gather's or merge's inputs as its engine reads them: the table version and the pinned bitmap state, the number of
list positions, and the index and the gradient bytes of a position. -/
structure GathIn where
  basin : Nat
  tag : W32
  tslot : Nat
  /-- The engine that serves a list position, or in an apply a row by its place among the rows (R231). -/
  engine : Nat → Nat
  v : Version
  commit : Nat
  n : Nat
  idx : Nat → Acc Int
  grad : Nat → Acc (List Byte)
  gradFmt : Nat
  mode : Nat
  seed : Nat
  /-- A failed access that a command of its own has counted (R449) comes with it. -/
  event : Bool := false

/-- Why a gather's or a merge's list ends before its last position. -/
inductive GStop where
  | index (reason : Nat)
  | full
  | quota
  | acc (e : Acc Unit)
  /-- The read of a row that was issued. -/
  | row (e : Acc Unit)
  /-- A poisoned word of the merge scratch, at a place. -/
  | scratch (place : Nat)
  deriving DecidableEq, Repr

def Acc.unit {α : Type} : Acc α → Acc Unit
  | .ok _ => .ok ()
  | .xfault => .xfault
  | .poison w => .poison w
  | .fabric a => .fabric a
  | .flash => .flash

/-- A pool access that fails by an event at an address (Table 20-2): the address, and whether its words come poisoned. -/
abbrev PoolFail := Option (Nat × Bool)

/-- The 64-byte line of pool address `x` lies in a basin range. -/
def hitsPool (d : Dev) (b a n x : Nat) : Bool :=
  (List.range (ceilDiv (a % 65536 + n) 65536)).any (fun k =>
    let line := (a / 65536 + k) * 65536 + x % 65536 / 64 * 64
    match translate d b ((a / 65536 + k) * 65536) with
    | .ok p => p.pool && decide (p.base / 65536 = x / 65536 ∧ line < a + n ∧ a < line + 64)
    | _ => false)

def hotRow (d : Dev) (v : Version) (r : Nat) : Bool := d.eng.rowCache.any (fun e => decide (e.1 = v.uid ∧ e.2.1 = r))

/-- The cache serves TIER 1 rows of an engine (BLK_CTL.CACHE_EN). -/
def hotOn (d : Dev) (unit : Nat) (v : Version) : Bool := ctlBit d .gath unit 1 && Tbl.pool v.desc

/-- A read of a basin's bytes that may meet the failed pool access. -/
def failRead (d : Dev) (fail : PoolFail) (b a n : Nat) : Acc (List Byte) :=
  match fail with
  | some (x, pois) => if hitsPool d b a n x then (if pois then .poison (.pool, x / 8) else .fabric x) else vRead d b a n
  | none => vRead d b a n

/-- A write of a basin's bytes that may meet the failed pool access. -/
def failWrite (d : Dev) (fail : PoolFail) (b a : Nat) (bs : List Byte) : Acc Dev :=
  match fail with
  | some (x, false) => if hitsPool d b a bs.length x then .fabric x else vWrite d b a bs
  | _ => vWrite d b a bs

/-- One row: the failed pool access meets only what no hot-row cache holds. -/
def readRow (d : Dev) (fail : PoolFail) (unit : Nat) (v : Version) (r : Nat) : Acc (List Byte) :=
  failRead d (fail.filter (fun _ => !(hotOn d unit v && hotRow d v r))) v.basin (Tbl.rowAddr v.desc r) (Tbl.rowBytes v.desc)

/-- Why an index is invalid: 1 negative, 2 at or above ROW_COUNT, 3 absent; 0 for a valid one (R218). -/
def indexFault (d : Dev) (x : GathIn) (i : Int) (fail : PoolFail := none) : Acc Nat :=
  if i < 0 then .ok 1
  else if i ≥ Tbl.rowCount x.v.desc then .ok 2
  else (failRead d fail x.v.basin (Tbl.absent x.v.desc + i.toNat / 8) (if fail.isSome && Tbl.absent x.v.desc ≠ 0 then 1 else 0)).bind fun _ =>
    (bitmapBit d x.v (Tbl.absent x.v.desc) x.commit i.toNat).map (fun b => if b then 3 else 0)

/-! ### Coalescing and the hot-row cache: which reads are counted (R208, R220) -/

/-- Rows that a list's coalescing holds. -/
def coalCap (x : List Byte) : Nat := min 65536 (2 ^ 24 / Tbl.rowBytes x)

/-- Rows that still need a read, in order, when the last `cap` distinct rows are held. -/
def coalesce (cap : Nat) : List Nat → List Nat → List Nat
  | _, [] => []
  | recent, r :: rs =>
    let recent' := (r :: recent.filter (fun q => !decide (q = r))).take cap
    if recent.contains r then coalesce cap recent' rs else r :: coalesce cap recent' rs

/-- A row read or written through the hot-row cache of its version, where the engine uses it; least recently used rows leave. -/
def hotTouch (d : Dev) (unit : Nat) (v : Version) (r : Nat) (write : Bool) : Dev :=
  let old := d.eng.rowCache.any (fun e => decide (e.1 = v.uid ∧ e.2.1 = r) && e.2.2)
  let mine := d.eng.rowCache.filter (fun e => decide (e.1 = v.uid) && !decide (e.2.1 = r))
  let rest := d.eng.rowCache.filter (fun e => !decide (e.1 = v.uid))
  let cap := Tbl.cachePages v.desc * 65536 / Tbl.rowBytes v.desc
  { d with eng := if hotOn d unit v then { d.eng with
      rowCache := ((v.uid, r, write || old) :: mine).take cap ++ rest,
      rowWrites := if write then d.eng.rowWrites.filter (fun e => !decide (e = (v.uid, r))) ++ [(v.uid, r)] else d.eng.rowWrites } else d.eng }

/-- Row reads that an engine issues. -/
def countReads (d : Dev) (unit : Nat) (v : Version) (rows : List Nat) : Dev :=
  rows.foldl (fun d r =>
    let d := count d .gath unit 0x108 1
    hotTouch (count d .gath unit 0x110 (if hotOn d unit v && hotRow d v r then 1 else 0)) unit v r false) d

/-- Each engine counts the positions below `n` that it serves (R231). -/
def countParts (d : Dev) (x : GathIn) (off n : Nat) : Dev :=
  (List.range 4).foldl (fun d u => count d .gath u off ((List.range n).filter (fun i => decide (x.engine i = u))).length) d

/-- Reads of a gather's positions: each engine coalesces its part of the list. -/
def countGather (d : Dev) (x : GathIn) (rows : List Nat) (stop : Option GStop) : Dev :=
  let d := (List.range 4).foldl (fun d u =>
    let mine := ((rows.zip (List.range rows.length)).filter (fun p => decide (x.engine p.2 = u))).map (·.1)
    let need := if ctlBit d .gath u 0 then coalesce (coalCap x.v.desc) [] mine else mine
    countReads (count d .gath u 0x10C (mine.length - need.length)) u x.v need) d
  match stop with | some (.row _) => count d .gath (x.engine rows.length) 0x108 1 | _ => d

/-! ### Events -/

def gathStat (d : Dev) (x : GathIn) (bit pos reason : Nat) : Dev :=
  setStat d .gath (x.engine pos) bit x.basin x.tag (BitVec.ofNat 32 pos) (BitVec.ofNat 32 (x.tslot % 256 + reason * 256))

/-- What the pool port counts of a failed access. -/
def gathNote (d : Dev) (x : GathIn) (e : Acc Unit) : Dev := if x.event then d else noteAcc d e x.basin x.tag

/-- BLK_STAT, counters and log of an end at a position. -/
def gathStopped (d : Dev) (x : GathIn) (pos : Nat) : GStop → Dev
  | .index reason => gathStat (count d .gath (x.engine pos) 0x120 1) x 0 pos reason
  | .acc (.poison w) | .row (.poison w) => logEvent (gathStat (gathNote d x (.poison w : Acc Unit)) x 1 pos 0) 3 (pageNo .gath (x.engine pos)) x.basin x.tag (placeOf w) 0x40
  | .scratch place => logEvent (gathStat d x 1 pos 0) 3 (pageNo .gath (x.engine pos)) x.basin x.tag place 0x40
  | .acc (.fabric a) | .row (.fabric a) => gathStat (gathNote d x (.fabric a : Acc Unit)) x 2 pos 0
  | _ => d

def GStop.cls : GStop → Nat
  | .index _ => 0x20
  | .full => 0x31
  | .quota => 0x50
  | .acc e | .row e => e.cls
  | .scratch _ => 0x40

/-- Cause of a job's end (Table 13-10). -/
def GStop.cause : GStop → Nat
  | .index _ => 0x10
  | .quota => 0x13
  | .full => 9
  | .acc e | .row e => accCause e
  | .scratch _ => 0x11

/-! ### Gathers (R213, R216–R220) -/

/-- Rows of the list positions from `pos` on, at most `cap` in all, and why the output ends before N. -/
def gatherLoop (d : Dev) (x : GathIn) (fail : PoolFail) (cap : Option Nat) : Nat → Nat → List (Nat × List Byte) → List (Nat × List Byte) × Option GStop
  | 0, _, acc => (acc, none)
  | n + 1, pos, acc =>
    match x.idx pos with
    | .ok i =>
      match indexFault d x i fail with
      | .ok 0 =>
        if cap = some pos then (acc, some .full)
        else match readRow d fail (x.engine pos) x.v i.toNat with
          | .ok bs => gatherLoop d x fail cap n (pos + 1) (acc ++ [(i.toNat, bs)])
          | e => (acc, some (.row e.unit))
      | .ok reason => (acc, some (.index reason))
      | e => (acc, some (.acc e.unit))
    | e => (acc, some (.acc e.unit))

/-- A merge of the version waits to apply, so gathers do not start reading (R213). -/
def applyWaits (d : Dev) (uid : Nat) : Bool :=
  d.eng.gaths.any (fun g => g.merge && decide (g.ver = uid) && decide (g.phase = .summed ∨ g.phase = .applyHeld))

def modGath (d : Dev) (id : Nat) (f : GathCmd → GathCmd) : Dev :=
  { d with eng.gaths := modWhere (fun g => decide (g.id = id)) f d.eng.gaths }

def dropGath (d : Dev) (id : Nat) : Dev := { d with eng.gaths := d.eng.gaths.filter (fun g => !decide (g.id = id)) }

/-- A gather or apply is held; the wait is counted once. -/
def holdGath (d : Dev) (g : GathCmd) (p : GathPhase) : Dev :=
  if g.phase = p then d else count (modGath d g.id (fun g => { g with phase := p })) .gath g.unit 0x124 1

def idxVal (w : Nat) (bs : List Byte) : Int := toInt (8 * w) (leNat bs)

/-- Bytes of a request's input, poison checked. -/
def inPart (d : Dev) (r : Req) (off n : Nat) : Acc (List Byte) :=
  if r.streamed then .ok ((r.input.drop off).take n ++ List.replicate (n - (r.input.length - off)) 0)
  else
  let a := shoreAddr r.basin (Desc.inBlock r.desc) off
  match poisonIn d .shore a n with
  | some w => .poison w
  | none => .ok (Mem.readN d.mem.shore a n)

/-- Inputs of a request's gather or merge whose header is in range. -/
def reqGath (d : Dev) (g : GathCmd) (r : Req) (v : Version) (h : List Byte) : GathIn :=
  let n := fieldN h 0 4
  let w := byteAt h 4
  let gf := byteAt h 5
  let gb := Tbl.elems v.desc * (if gf = 0 then 4 else 2)
  let gOff := 16 + ceilDiv (n * w) 64 * 64
  { basin := r.basin, tag := r.tag, tslot := v.slot, engine := fun i => Config.gathPart g.id i % 4, v := v,
    commit := match r.bits.find? (fun b => decide (b.1 = v.uid)) with | some b => b.2 | none => v.num,
    n := n, idx := fun i => (inPart d r (16 + i * w) w).map (idxVal w),
    grad := fun i => inPart d r (gOff + i * gb) gb, gradFmt := gf,
    mode := bitsOf (Desc.opspec r.desc) 23 16, seed := Desc.seed r.desc }

/-- The header of a GATHER's or SCATTER_MERGE's input is in range for its length (R216, R222). -/
def gathHeaderOk (merge : Bool) (len elems : Nat) (h : List Byte) : Bool :=
  let n := fieldN h 0 4
  let w := byteAt h 4
  decide (16 ≤ len ∧ 1 ≤ n ∧ (w = 4 ∨ w = 8)) &&
  (if merge then decide (byteAt h 5 ≤ 1) && zeroAt h 6 10 &&
      decide (len = 16 + ceilDiv (n * w) 64 * 64 + n * elems * (if byteAt h 5 = 0 then 4 else 2))
   else zeroAt h 5 11 && decide (len = 16 + n * w))

/-- A poisoned input word is consumed by a gather engine: the block's flag will say so (R79). -/
def gathInPoison (d : Dev) (r : Req) : GStop → Dev
  | .acc (.poison _) => poisonInBlocks d r
  | _ => d

/-- A GATHER reads its rows and ends (R213, R216–R219). -/
def reqGather (d : Dev) (g : GathCmd) (r : Req) (v : Version) (fail : PoolFail) : Dev :=
  let none' := fun (d : Dev) => modReq d r.slot (fun r => { r with outLen := 0, outCount := 0 })
  match inPart d r 0 (min 16 (r.inLen)) with
  | .ok h =>
    if !gathHeaderOk false (r.inLen) 0 h then endAt (none' d) r.slot 0x11
    else if applyWaits d v.uid then holdGath d g .held
    else
      let x := { reqGath d g r v h with event := fail.isSome }
      let rb := Tbl.rowBytes v.desc
      let (rows, stop) := gatherLoop d x fail (some ((Desc.outCap r.desc - 16) / rb)) x.n 0 []
      let d := countGather (countParts d x 0x104 (min x.n (rows.length + 1))) x (rows.map (·.1)) stop
      let d := match stop with | some s => gathInPoison (gathStopped d x rows.length s) r s | none => d
      let d := returnInput (countParts d x 0x114 rows.length) r.slot
      let d := if Desc.outCap r.desc < 16 then none' d
        else modReq (outWrite d r 0 (natLe 4 rows.length ++ natLe 4 0 ++ natLe 8 v.edition ++ rows.flatMap (·.2))) r.slot
          (fun r => { r with outLen := 16 + rows.length * rb, outCount := rows.length })
      endAt d r.slot (match stop with | some s => s.cls | none => 0)
  | e => endAcc (poisonInBlocks (poisonMet (none' d) e .gath g.unit 1 r 0 (BitVec.ofNat 32 v.slot)) r) r.slot e

/-! ### Job commands (R229, R230) -/

namespace GathC
def op (b : List Byte) : Nat := byteAt b 0
def idxW (b : List Byte) : Nat := byteAt b 1
def umode (b : List Byte) : Nat := byteAt b 2
def gradFmt (b : List Byte) : Nat := byteAt b 3
def slot (b : List Byte) : Nat := fieldN b 4 2
def n (b : List Byte) : Nat := fieldN b 8 4
def idxAddr (b : List Byte) : Nat := fieldN b 16 8
def dataAddr (b : List Byte) : Nat := fieldN b 24 8
def resAddr (b : List Byte) : Nat := fieldN b 32 8
def seed (b : List Byte) : Nat := fieldN b 40 8
end GathC

/-- The table version of a slot that a job's request pinned (R210). -/
def jobTable (d : Dev) (r : Req) (slot : Nat) : Option Version :=
  (r.pins.tables.filterMap (findVer d)).find? (fun v => decide (v.slot = slot))

/-- Byte offset of the first field that makes a GATH command invalid (R229). -/
def gathFieldBad (b : List Byte) (train : Bool) (v : Option Version) : Option Nat :=
  let m := decide (GathC.op b = 2)
  let desc := match v with | some v => v.desc | none => []
  let checks : List (Nat × Bool) :=
    [(0, decide (GathC.op b = 1 ∨ GathC.op b = 2) && (!m || train)),
     (1, decide (GathC.idxW b = 4 ∨ GathC.idxW b = 8)),
     (2, if m then decide (GathC.umode b % 4 < 2 ∧ GathC.umode b / 8 = 0) && (v.isNone || updateModeOk desc (GathC.umode b)) else decide (GathC.umode b = 0)),
     (3, if m then decide (GathC.gradFmt b ≤ 1) else decide (GathC.gradFmt b = 0)),
     (4, decide (GathC.slot b ≤ 255) && v.isSome && (!m || Tbl.writable desc)), (6, zeroAt b 6 2), (8, decide (1 ≤ GathC.n b)),
     (12, zeroAt b 12 4), (16, decide (GathC.idxAddr b % 64 = 0)), (24, !m || decide (GathC.dataAddr b % 64 = 0)),
     (32, decide (GathC.resAddr b % 16 = 0)), (40, (m && bitOf (GathC.umode b) 2) || decide (GathC.seed b = 0)), (48, zeroAt b 48 16)]
  (checks.find? (fun c => !c.2)).map (·.1)

/-- Commands of jobs on a unit, in submission order: the first eight are in progress (Table 9-4). -/
def gathRunning (d : Dev) (g : GathCmd) : Bool :=
  ((d.eng.gaths.filter (fun x => decide (x.unit = g.unit) && x.ctx.isSome)).take 8).any (fun x => decide (x.id = g.id))

/-- The engine takes and validates a job's command (R229). -/
def gathCommandOp (d : Dev) (cmd : Nat) : Dev :=
  match d.eng.gaths.find? (fun g => decide (g.id = cmd)) with
  | none => d
  | some g =>
    match g.ctx.bind (findCtx d) with
    | none => d
    | some c =>
      if g.valid || !gathRunning d g then d
      else
        let req := findReq d c.slot
        let tag := match req with | some r => r.tag | none => noTag
        match g.bad with
        | some w =>
          let d := setStat (dropGath d cmd) .gath g.unit 1 c.basin tag 0 0
          ctxFault (logEvent d 3 (pageNo .gath g.unit) c.basin tag (placeOf w) 0x40) c.id g.core 0x11 3 0 true 0 (some g.pc)
        | none =>
          let v := req.bind (fun r => jobTable d r (GathC.slot g.bytes))
          match gathFieldBad g.bytes (match req with | some r => r.train | none => false) v, v with
          | some off, _ =>
            ctxFault (setStat (dropGath d cmd) .gath g.unit 3 c.basin tag (BitVec.ofNat 32 off) (BitVec.ofNat 32 (GathC.slot g.bytes % 256))) c.id g.core 9 3 0 false 0 (some g.pc)
          | none, some v =>
            modGath d cmd (fun g => { g with valid := true, merge := decide (GathC.op g.bytes = 2), ver := v.uid, seq := g.id })
          | none, none => d

/-- Inputs of a validated job command. -/
def jobGath (d : Dev) (g : GathCmd) (c : Ctx) (v : Version) (fail : PoolFail := none) : GathIn :=
  let b := g.bytes
  let w := GathC.idxW b
  let gb := Tbl.elems v.desc * (if GathC.gradFmt b = 0 then 4 else 2)
  let req := findReq d c.slot
  { basin := c.basin, tag := match req with | some r => r.tag | none => noTag, tslot := v.slot, engine := fun _ => g.unit, v := v,
    commit := match req.bind (fun r => r.bits.find? (fun b => decide (b.1 = v.uid))) with | some b => b.2 | none => v.num,
    n := GathC.n b, idx := fun i => (failRead d fail c.basin (GathC.idxAddr b + i * w) w).map (idxVal w),
    grad := fun i => failRead d fail c.basin (GathC.dataAddr b + i * gb) gb, gradFmt := GathC.gradFmt b,
    mode := GathC.umode b, seed := GathC.seed b, event := fail.isSome }

/-- The command leaves and its context ends (R230). -/
def gathFault (d : Dev) (g : GathCmd) (id : Nat) (s : GStop) : Dev := ctxFault (dropGath d g.id) id g.core s.cause 3 0 true 0 (some g.pc)

/-- The result of a command that completes, written after its output. -/
def gathResult (d : Dev) (g : GathCmd) (c : Ctx) (x : GathIn) (fail : PoolFail) (rows summed edition : Nat) : Dev :=
  match failWrite d fail c.basin (GathC.resAddr g.bytes) (natLe 4 rows ++ natLe 4 summed ++ natLe 8 edition) with
  | .ok d => dropGath d g.id
  | e => gathFault (gathStopped d x rows (.acc e.unit)) g c.id (.acc e.unit)

/-- Output rows from position `pos` on; the first write that fails stops them. -/
def writeRows (d : Dev) (fail : PoolFail) (b a rb : Nat) : List (List Byte) → Nat → Dev × Nat × Option GStop
  | [], pos => (d, pos, none)
  | bs :: rest, pos =>
    match failWrite d fail b (a + pos * rb) bs with
    | .ok d => writeRows d fail b a rb rest (pos + 1)
    | e => (d, pos, some (.acc e.unit))

/-- A job's gather reads its rows (R213, R218, R219). -/
def jobGather (d : Dev) (g : GathCmd) (c : Ctx) (v : Version) (fail : PoolFail) : Dev :=
  if applyWaits d v.uid then holdGath d g .held
  else
    let x := jobGath d g c v fail
    let (rows, stop) := gatherLoop d x fail none x.n 0 []
    let d := countGather (countParts d x 0x104 (min x.n (rows.length + 1))) x (rows.map (·.1)) stop
    let (d, n, bad) := writeRows d fail c.basin (GathC.dataAddr g.bytes) (Tbl.rowBytes v.desc) (rows.map (·.2)) 0
    let d := countParts d x 0x114 n
    match bad.or stop with
    | some s => gathFault (gathStopped d x n s) g c.id s
    | none => gathResult d g c x fail n 0 v.edition

/-- A gather runs, with a failed pool access if an event names one. -/
def runGather (d : Dev) (g : GathCmd) (fail : PoolFail) : Dev :=
  match findVer d g.ver with
  | none => d
  | some v =>
    match g.slot.bind (findReq d), g.ctx.bind (findCtx d) with
    | some r, _ => reqGather d g r v fail
    | none, some c => jobGather d g c v fail
    | none, none => d

/-- A port of the pool map is down: its accesses wait (Table 20-2). -/
def portsUp (d : Dev) (v : Version) : Bool :=
  !Tbl.pool v.desc || (List.range 2).all (fun q => decide (poolSize d q = 0) || bitOf (liveN d .fab q 0x100) 0)

def gathPortsUp (d : Dev) (g : GathCmd) : Bool := match findVer d g.ver with | some v => portsUp d v | none => true

/-- An armed unit starts no command (R112). A merge that has summed is in progress, and so an earlier merge of its version,
which it waits for, still starts. -/
def gathBarred (d : Dev) (g : GathCmd) : Bool :=
  isArmed d .gath g.unit && decide (g.phase ≠ .summed ∧ g.phase ≠ .applyHeld) &&
    !(g.merge && d.eng.gaths.any (fun q => q.merge && decide (q.ver = g.ver ∧ g.seq < q.seq) && decide (q.phase = .summed ∨ q.phase = .applyHeld)))

/-- The command may work: taken, in progress, not of a stopped context, its unit not armed. -/
def gathReady (d : Dev) (g : GathCmd) : Bool :=
  g.valid && !gathBarred d g && (match g.ctx with
    | none => true
    | some id => gathRunning d g && (match findCtx d id with | some c => !stopping d c | none => false))

/-- GATHER_READ (R213). -/
def gatherReadOp (d : Dev) (cmd : Nat) : Dev :=
  match d.eng.gaths.find? (fun g => decide (g.id = cmd)) with
  | none => d
  | some g => if g.merge || !gathReady d g || !gathPortsUp d g then d else runGather d g none

/-! ### Merges (R221–R227) -/

/-- Rows of valid indices from `pos` on; the lowest invalid position otherwise. -/
def mergeIndices (d : Dev) (x : GathIn) (fail : PoolFail) : Nat → Nat → List Nat → List Nat × Option GStop
  | 0, _, acc => (acc, none)
  | n + 1, pos, acc =>
    match x.idx pos with
    | .ok i =>
      match indexFault d x i fail with
      | .ok 0 => mergeIndices d x fail n (pos + 1) (acc ++ [i.toNat])
      | .ok reason => (acc, some (.index reason))
      | e => (acc, some (.acc e.unit))
    | e => (acc, some (.acc e.unit))

/-- Gradient elements as values. -/
def gradVals (fmt : Nat) (bs : List Byte) : List FVal :=
  if fmt = 0 then (List.range (bs.length / 4)).map (fun e => fp32.decode (fieldN bs (4 * e) 4))
  else (List.range (bs.length / 2)).map (fun e => bf16.decode (fieldN bs (2 * e) 2))

/-- Merge scratch pages of some distinct rows (R226). -/
def scratchPages (desc : List Byte) (rows : Nat) : Nat := ceilDiv (rows * Tbl.elems desc * 4) 65536

/-- Gradient rows by distinct row, with the scratch charged as rows appear. -/
def mergeGrads (d : Dev) (x : GathIn) : List Nat → Nat → List (Nat × List (List FVal)) → List (Nat × List (List FVal)) × Option GStop
  | [], _, acc => (acc, none)
  | r :: rs, pos, acc =>
    let new := !acc.any (fun a => decide (a.1 = r))
    if new && !fitsHbm d x.basin (scratchPages x.v.desc (acc.length + 1)) then (acc, some .quota)
    else match x.grad pos with
      | .ok bs =>
        let g := gradVals x.gradFmt bs
        mergeGrads d x rs (pos + 1) (if new then acc ++ [(r, [g])] else acc.map (fun a => if a.1 = r then (a.1, a.2 ++ [g]) else a))
      | e => (acc, some (.acc e.unit))

/-- Exact sums of a row's gradients, each rounded once to FP32 (R223). -/
def rowSums (elems : Nat) (gs : List (List FVal)) : List W32 :=
  (List.range elems).map (fun e => rnd32 (FVal.sum (gs.map (fun g => g.getD e .nan))))

/-- A merge validates, sums and charges its scratch (R223, R226). -/
def mergeSum (d : Dev) (x : GathIn) (fail : PoolFail := none) : Dev × Option (Nat × GStop) × List (Nat × List W32) :=
  let (rows, bad) := mergeIndices d x fail x.n 0 []
  let counted := countParts d x 0x104 (min x.n (rows.length + 1))
  match bad with
  | some s => (gathStopped counted x rows.length s, some (rows.length, s), [])
  | none =>
    let (gs, stop) := mergeGrads d x rows 0 []
    let n := (gs.map (fun g => g.2.length)).sum
    let d := countParts counted x 0x118 n
    match stop with
    | some s => (gathStopped d x n s, some (n, s), [])
    | none => (d, none, sortBy (fun a b => decide (a.1 ≤ b.1)) (gs.map (fun g => (g.1, rowSums (Tbl.elems x.v.desc) g.2))))

def summedGath (v : Version) (n : Nat) (sums : List (Nat × List W32)) (g : GathCmd) : GathCmd :=
  { g with phase := .summed, sums := sums, summed := n, pages := scratchPages v.desc sums.length }

/-- A merge validates and sums, with a failed pool access if an event names one. -/
def runSum (d : Dev) (g : GathCmd) (fail : PoolFail) : Dev :=
  match findVer d g.ver with
  | none => d
  | some v =>
    match g.slot.bind (findReq d), g.ctx.bind (findCtx d) with
    | some r, _ =>
      match inPart d r 0 (min 16 (r.inLen)) with
      | .ok h =>
        if !gathHeaderOk true (r.inLen) (Tbl.elems v.desc) h then endAt d r.slot 0x11
        else
          let x := { reqGath d g r v h with event := fail.isSome }
          match mergeSum d x fail with
          | (d, some (_, s), _) => endAt (gathInPoison d r s) r.slot s.cls
          | (d, none, sums) => returnInput (modGath d g.id (summedGath v x.n sums)) r.slot
      | e => endAcc (poisonInBlocks (poisonMet d e .gath g.unit 1 r 0 (BitVec.ofNat 32 v.slot)) r) r.slot e
    | none, some c =>
      let x := jobGath d g c v fail
      match mergeSum d x fail with
      | (d, some (_, s), _) => gathFault d g c.id s
      | (d, none, sums) => modGath d g.id (summedGath v x.n sums)
    | none, none => d

/-- MERGE_SUM_DONE (R222, R223). -/
def mergeSumOp (d : Dev) (cmd : Nat) : Dev :=
  match d.eng.gaths.find? (fun g => decide (g.id = cmd)) with
  | none => d
  | some g => if !g.merge || !gathReady d g || decide (g.phase ≠ .queued) then d else runSum d g none

/-- Random bits of stochastic rounding for element e of row r (R225). -/
def srBits (seed r e : Nat) : Nat :=
  let z := BitVec.ofNat 64 (seed + (r * 65536 + e + 1) * 0x9E3779B97F4A7C15)
  let z := (z ^^^ (z >>> 30)) * 0xBF58476D1CE4E5B9#64
  let z := (z ^^^ (z >>> 27)) * 0x94D049BB133111EB#64
  (z ^^^ (z >>> 31)).toNat % 65536

/-- t of R224. -/
def mergeT (mode : Nat) (x rate g : W32) : W32 := if mode % 4 = 0 then fadd32 x g else fma32 rate g x

/-- The BF16 that is written for t (R224, R225). -/
def mergeBf16 (mode seed r e : Nat) (t : W32) : Nat :=
  if bitOf mode 2 then
    match val32 t with
    | .nan => bf16.signBit (t.getLsbD 31) + bf16.qnan
    | .inf n => bf16.signBit n + bf16.top
    | .fin _ _ _ => (t + BitVec.ofNat 32 (srBits seed r e)).toNat / 65536
  else bf16.round (val32 t)

/-- The new bytes of a row. -/
def mergeRow (x : GathIn) (r : Nat) (old : List Byte) (rate : W32) (gs : List W32) : List Byte :=
  (List.range (Tbl.elems x.v.desc)).flatMap (fun e =>
    let g := gs.getD e 0
    if Tbl.fmt x.v.desc = 0 then natLe 4 (mergeT x.mode (BitVec.ofNat 32 (fieldN old (4 * e) 4)) rate g).toNat
    else natLe 2 (mergeBf16 x.mode x.seed r e (mergeT x.mode (BitVec.ofNat 32 (fieldN old (2 * e) 2 * 65536)) rate g)))

/-- The rate of a row (Table 9-2). -/
def readRate (d : Dev) (x : GathIn) (fail : PoolFail) (r : Nat) : Acc W32 :=
  if x.mode % 4 = 1 then (failRead d fail x.v.basin (Tbl.rate x.v.desc + 4 * r) 4).map (fun b => BitVec.ofNat 32 (leNat b)) else .ok 0

/-- Apply the sums in ascending row order; stops at the first row that fails (R227). The sums of one row, counted from the
first, may come poisoned from the scratch. -/
def applyLoop (x : GathIn) (fail : PoolFail) (scratch : Option (Nat × Nat) := none) :
    Dev → List (Nat × List W32) → Nat → Dev × Nat × Option GStop
  | d, [], n => (d, n, none)
  | d, (r, gs) :: rest, n =>
    match scratch.filter (fun p => decide (p.1 = n)), readRate d x fail r with
    | some p, _ => (d, n, some (.scratch p.2))
    | none, .ok q =>
      match readRow d fail (x.engine n) x.v r with
      | .ok old =>
        match vWrite d x.v.basin (Tbl.rowAddr x.v.desc r) (mergeRow x r old q gs) with
        | .ok d => applyLoop x fail scratch (hotTouch (countReads d (x.engine n) x.v [r]) (x.engine n) x.v r true) rest (n + 1)
        | e => (countReads d (x.engine n) x.v [r], n, some (.acc e.unit))
      | e => (count d .gath (x.engine n) 0x108 1, n, some (.row e.unit))
    | none, e => (d, n, some (.acc e.unit))

/-- A merge command of a job that no engine has taken yet, of a version: it entered the version's queue when it was
submitted. -/
def mergeToCome (d : Dev) (ver : Nat) (q : GathCmd) : Bool :=
  !q.valid && decide (GathC.op q.bytes = 2) && (match (q.ctx.bind (findCtx d)).bind (fun c => findReq d c.slot) with
    | some r => (match jobTable d r (GathC.slot q.bytes) with | some v => decide (v.uid = ver) | none => false)
    | none => false)

/-- An earlier merge of the version is in its queue (R212). -/
def applyBehind (d : Dev) (g : GathCmd) : Bool :=
  d.eng.gaths.any (fun q => (q.merge && decide (q.ver = g.ver ∧ q.seq < g.seq)) || (mergeToCome d g.ver q && decide (q.id < g.seq)))

/-- The apply of a merge whose earlier merges have left the queue (R212, R227). -/
def runApply (d : Dev) (g : GathCmd) (fail : PoolFail) (scratch : Option (Nat × Nat) := none) : Dev :=
  match findVer d g.ver with
  | none => d
  | some v =>
    if applyBehind d g then holdGath d g .applyHeld
    else
      let apply := fun (x : GathIn) =>
        let (d, n, stop) := applyLoop x fail scratch d g.sums 0
        let d := countParts (modVer d v.uid (fun v => { v with edition := (v.edition + 1) % 2 ^ 64 })) x 0x11C n
        (match stop with | some s => gathStopped d x n s | none => d, n, stop)
      match g.slot.bind (findReq d), g.ctx.bind (findCtx d) with
      | some r, _ =>
        let (d, n, stop) := apply { reqGath d g r v ((inPart d r 0 16).get?.getD []) with event := fail.isSome }
        endAt (modReq d r.slot (fun r => { r with outCount := n })) r.slot (match stop with | some s => s.cls | none => 0)
      | none, some c =>
        let (d, n, stop) := apply { jobGath d g c v with event := fail.isSome }
        match stop with
        | some s => gathFault d g c.id s
        | none => gathResult d g c (jobGath d g c v) fail n g.summed ((v.edition + 1) % 2 ^ 64)
      | none, none => d

/-- MERGE_APPLY (R212, R213, R224), with the errors that it meets in rows, rates and the scratch. -/
def mergeApplyOp (d : Dev) (cmd : Nat) (errs : List ReadError) : Dev :=
  match d.eng.gaths.find? (fun g => decide (g.id = cmd)) with
  | none => d
  | some g =>
    if !g.merge || !gathReady d g || !gathPortsUp d g || !decide (g.phase = .summed ∨ g.phase = .applyHeld) then d
    else if applyBehind d g then holdGath d g .applyHeld
    else
      match g.slot.bind (fun s => (findReq d s).map (fun r => (r.basin, s))) |>.or ((g.ctx.bind (findCtx d)).map (fun c => (c.basin, c.slot))) with
      | none => d
      | some (b, slot) =>
        withErrors d ⟨.gath, g.unit, b, slot⟩ (fun d p => basinWord d b p) errs (fun d =>
          workStep d ⟨.gath, g.unit, b, slot⟩ 1 (if g.slot.isSome then [.tagState] else []) errs (fun d =>
          let (d, met) := workErrors d ⟨.gath, g.unit, b, slot⟩ [.scratch] errs
          let elems := match findVer d g.ver with | some v => Tbl.elems v.desc | none => 1
          runApply d g none (met.map (fun p => (p.2.2 / (4 * elems), p.1)))))

/-- The command reads or writes a pool address. -/
def gathMeets (d : Dev) (g : GathCmd) (a : Nat) : Bool :=
  match findVer d g.ver, g.ctx.bind (findCtx d) with
  | some v, some c =>
    let x := jobGath d g c v
    let w := GathC.idxW g.bytes
    let rb := if g.merge then Tbl.elems v.desc * (if x.gradFmt = 0 then 4 else 2) else Tbl.rowBytes v.desc
    let rows := Tbl.rowCount v.desc
    [(GathC.idxAddr g.bytes, x.n * w), (GathC.dataAddr g.bytes, x.n * rb), (GathC.resAddr g.bytes, 16),
      (Tbl.base v.desc, rows * Tbl.rowBytes v.desc), (Tbl.absent v.desc, if Tbl.absent v.desc = 0 then 0 else ceilDiv rows 8),
      (Tbl.rate v.desc, if Tbl.hasRate v.desc then 4 * rows else 0)].any (fun q => hitsPool d c.basin q.1 q.2 a)
  | _, _ => g.slot.isSome

/-- The gather or merge of a request or job meets a failed pool access. -/
def gathPoolFail (d : Dev) (g : GathCmd) (a : Nat) (pois : Bool) : Dev :=
  if !gathReady d g then d
  else if !g.merge then runGather d g (some (a, pois))
  else if g.phase = .summed ∨ g.phase = .applyHeld then runApply d g (some (a, pois))
  else runSum d g (some (a, pois))

/-- Errors in the words that a gather, or a merge's sum, reads: of the request's input, of the basin's pages. -/
def gathReads (d : Dev) (cmd : Nat) (merge : Bool) (errs : List ReadError) (step : Dev → Dev) : Dev :=
  match d.eng.gaths.find? (fun g => decide (g.id = cmd)) with
  | none => step d
  | some g =>
    let starts := gathReady d g && (g.merge == merge) && (if merge then decide (g.phase = .queued)
      else gathPortsUp d g && !applyWaits d g.ver)
    match starts, g.slot.bind (findReq d), g.ctx.bind (findCtx d) with
    | true, some r, _ => withErrors d ⟨.gath, g.unit, r.basin, r.slot⟩ (tableWord r) errs (fun d => workStep d ⟨.gath, g.unit, r.basin, r.slot⟩ 1 [.tagState] errs step)
    | true, none, some c => withErrors d ⟨.gath, g.unit, c.basin, c.slot⟩ (fun d p => basinWord d c.basin p) errs step
    | _, _, _ => step d

/-! ### The requests (R209, R217, R221) -/

/-- A GATHER or SCATTER_MERGE goes to an engine; a merge enters the version's queue, where it waits for its input (R95, R212). -/
def startTable (merge : Bool) (d : Dev) (r : Req) : Dev :=
  let (n, d) := draw d
  let id := d.eng.nextId
  { d with eng.nextId := id + 1,
           eng.gaths := d.eng.gaths ++ [⟨id, Config.gathUnit n % 4, some r.slot, none, 0, [], none, !(merge && r.streamed), merge, r.pins.tables.headD 0, .queued, id, [], 0, 0, 0⟩] }

/-- Work that starts at once where the input has come whole. -/
def whenWhole (start : Dev → Req → Dev) (d : Dev) (r : Req) : Dev := if r.streamed then d else start d r

def execGather (f : Fetch) (slot : Nat) (s : State) : Host.Outcome State Fault Refusal := ok s (admitOp (isOp 9) (whenWhole (startTable false)) s.dev f slot)
def execScatterMerge (f : Fetch) (slot : Nat) (s : State) : Host.Outcome State Fault Refusal := ok s (admitOp (isOp 10) (startTable true) s.dev f slot)
def execGathCommand (cmd : Nat) (s : State) : Host.Outcome State Fault Refusal := ok s (gathCommandOp s.dev cmd)
def execGatherRead (cmd : Nat) (errs : List ReadError) (s : State) : Host.Outcome State Fault Refusal :=
  ok s (orWait s.dev (gathReads s.dev cmd false errs (gatherReadOp · cmd)))
def execMergeSumDone (cmd : Nat) (errs : List ReadError) (s : State) : Host.Outcome State Fault Refusal :=
  ok s (orWait s.dev (gathReads s.dev cmd true errs (mergeSumOp · cmd)))
def execMergeApply (r : Reads) (s : State) : Host.Outcome State Fault Refusal := ok s (orWait s.dev (mergeApplyOp s.dev r.id r.errs))

end Sys2Proof.Machine
end

