-- ==== Sys2Proof/Machine/Grammar.lean ====
section
/-! DEFINITION. Grammar-constrained output (chapter 12): the image, allowed sets, advancing, the rules of an image. -/

namespace Sys2Proof.Machine

/-! Fields of a grammar descriptor (Table 12-1). -/
namespace Gr
def kind (x : List Byte) : Nat := byteAt x 6
def nState (x : List Byte) : Nat := fieldN x 8 4
def nTok (x : List Byte) : Nat := fieldN x 12 4
def nClass (x : List Byte) : Nat := fieldN x 16 4
def maxDepth (x : List Byte) : Nat := byteAt x 20
def nSym (x : List Byte) : Nat := byteAt x 21
def start (x : List Byte) : Nat := fieldN x 24 4
def clsAddr (x : List Byte) : Nat := fieldN x 32 8
def stAddr (x : List Byte) : Nat := fieldN x 40 8
def trAddr (x : List Byte) : Nat := fieldN x 48 8
def mkAddr (x : List Byte) : Nat := fieldN x 56 8
def trBytes (x : List Byte) : Nat := fieldN x 64 4
def mkBytes (x : List Byte) : Nat := fieldN x 68 4
def digest (x : List Byte) : Nat := fieldN x 72 48
end Gr

/-- A transition (Table 12-3). -/
structure Trans where
  cls : Nat
  pop : Nat
  push : Nat
  next : Nat
  push2 : Nat
  deriving DecidableEq, Repr

def parseTrans (e : List Byte) : Trans :=
  ⟨fieldN e 0 2, byteAt e 2, byteAt e 3, fieldN e 4 4 % 2 ^ 20, bitsOf (fieldN e 4 4) 27 20⟩

/-- What a state's tables say: ACCEPT, the tokens that its mask record admits, its transitions. -/
structure GState where
  accept : Bool
  admits : List Nat
  trans : List Trans
  deriving DecidableEq, Repr

/-- Tokens of the runs of a mask record from an address on; the first number is N_RUN. -/
def readRuns (d : Dev) (b : Nat) : Nat → Nat → Acc (List Nat)
  | 0, _ => .ok []
  | n + 1, a =>
    (vRead d b a 8).bind fun h =>
    let start := fieldN h 0 4
    let len := fieldN h 4 2
    if byteAt h 6 = 0 then (readRuns d b n (a + 8)).map (fun ts => (List.range len).map (· + start) ++ ts)
    else
      (vRead d b (a + 8) (8 * ((len + 1) / 2))).bind fun words =>
      (readRuns d b n (a + 8 + 8 * ((len + 1) / 2))).map (fun ts =>
        ((List.range (32 * len)).filter (fun i => bitOf (byteAt words (i / 8)) (i % 8))).map (· + start) ++ ts)

/-- The applicable transition of a class before the depth check (R280). -/
def chooseTrans (g : GState) (stack : List Nat) (c : Nat) : Option Trans :=
  let top := stack.headD 0
  let first := if stack = [] then none else g.trans.find? (fun e => decide (e.cls = c ∧ e.pop = top ∧ e.pop ≠ 0))
  match first with
  | some e => some e
  | none => g.trans.find? (fun e => decide (e.cls = c ∧ e.pop = 0))

/-- Stack depth after a transition. -/
def depthAfter (stack : List Nat) (e : Trans) : Nat :=
  stack.length - (if e.pop ≠ 0 then 1 else 0) + (if e.push ≠ 0 then 1 else 0) + (if e.push2 ≠ 0 then 1 else 0)

/-- The stack after a transition (R281). -/
def stackAfter (stack : List Nat) (e : Trans) : List Nat :=
  let s := if e.pop ≠ 0 then stack.drop 1 else stack
  let s := if e.push ≠ 0 then e.push :: s else s
  if e.push2 ≠ 0 then e.push2 :: s else s

/-- A class is refused at MAX_DEPTH: its chosen transition exists and would exceed it. -/
def depthRefused (g : GState) (maxDepth : Nat) (stack : List Nat) (c : Nat) : Bool :=
  match chooseTrans g stack c with
  | some e => decide (maxDepth < depthAfter stack e)
  | none => false

/-- The allowed set of a grammar state and its depth refusals (R280); `cls` is the class of a token. -/
def allowedSet (g : GState) (cls : Nat → Nat) (maxDepth eos : Nat) (stack : List Nat) : List Nat × Nat :=
  let cand := g.admits.filter (fun t => decide (t ≠ eos))
  let okT := fun t => match chooseTrans g stack (cls t) with
    | some e => decide (depthAfter stack e ≤ maxDepth)
    | none => false
  let set := cand.filter okT
  let refused := (dedup (cand.map cls)).filter (depthRefused g maxDepth stack)
  (if g.accept && decide (stack = []) then sortBy (fun a b => decide (a ≤ b)) (eos :: set) else set, refused.length)

/-- Advance by a token (R281). -/
def advanceGram (g : GState) (cls : Nat → Nat) (stack : List Nat) (t : Nat) : Option (Nat × List Nat) :=
  (chooseTrans g stack (cls t)).map (fun e => (e.next, stackAfter stack e))

/-- What a state's part of the image says: the state, the classes of the tokens that it admits, MAX_DEPTH. -/
structure GramView where
  st : GState
  classes : List (Nat × Nat)
  maxDepth : Nat

/-- Class of a token. -/
def GramView.cls (g : GramView) (t : Nat) : Nat := ((g.classes.find? (fun c => decide (c.1 = t))).map (·.2)).getD 0

/-- Classes of some tokens in the class map. -/
def readClasses (d : Dev) (b a : Nat) : List Nat → Acc (List (Nat × Nat))
  | [] => .ok []
  | t :: ts => (vRead d b (a + 2 * t) 2).bind fun c => (readClasses d b a ts).map ((t, leNat c) :: ·)

/-- The state's entry, its mask record, the classes of the tokens that the record admits and its transitions are read, and
nothing else of the image (Table 12-4). -/
def readState (d : Dev) (v : Version) (q : Nat) : Acc GramView :=
  let x := v.desc
  (vRead d v.basin (Gr.stAddr x + 16 * q) 16).bind fun e =>
  (vRead d v.basin (Gr.mkAddr x + fieldN e 4 4) 8).bind fun m =>
  (readRuns d v.basin (fieldN m 0 4) (Gr.mkAddr x + fieldN e 4 4 + 8)).bind fun ts =>
  (readClasses d v.basin (Gr.clsAddr x) ts).bind fun cs =>
  (vRead d v.basin (Gr.trAddr x + fieldN e 8 4) (8 * fieldN e 12 2)).map fun t =>
    ⟨⟨bitOf (byteAt e 0) 0, ts, (List.range (fieldN e 12 2)).map (fun i => parseTrans ((t.drop (8 * i)).take 8))⟩, cs, Gr.maxDepth x⟩

/-! ### Rules of a grammar image (R282) -/

/-- A mask record keeps the run rules: `prev` is the first token a run may start at. DEDUCED (log 65): a bitmap run spans
32 × LEN tokens, whatever bits are set ("wholly below N_TOK"). -/
def runsOk (nTok : Nat) : Nat → Nat → List Byte → Bool
  | 0, _, _ => true
  | n + 1, prev, bs =>
    let start := fieldN bs 0 4
    let len := fieldN bs 4 2
    let kind := byteAt bs 6
    let span := if kind = 0 then len else 32 * len
    let size := if kind = 0 then 8 else 8 + 8 * ((len + 1) / 2)
    decide (8 ≤ bs.length ∧ prev ≤ start ∧ byteAt bs 7 = 0 ∧ kind < 2 ∧ 1 ≤ len ∧ size ≤ bs.length) &&
    (decide (kind = 0) || decide (len ≤ 8192)) &&
    (decide (kind = 0) || decide (len % 2 = 0) || zeroAt bs (8 + 4 * len) 4) &&
    decide (start + span ≤ nTok) && runsOk nTok n (start + span) (bs.drop size)

/-- A transition keeps the rules of its entry. -/
def transOk (x : List Byte) (e : List Byte) : Bool :=
  let t := parseTrans e
  decide (t.cls < Gr.nClass x ∧ t.pop ≤ Gr.nSym x ∧ t.push ≤ Gr.nSym x ∧ t.push2 ≤ Gr.nSym x ∧ t.next < Gr.nState x ∧
    bitsOf (fieldN e 4 4) 31 28 = 0) &&
  (decide (t.push2 = 0) || decide (t.push ≠ 0))

def transSorted : List Trans → Bool
  | a :: b :: r => decide (a.cls < b.cls ∨ (a.cls = b.cls ∧ a.pop < b.pop)) && transSorted (b :: r)
  | _ => true

def stateOk (x trans masks e : List Byte) : Bool :=
  let mo := fieldN e 4 4
  let tr := fieldN e 8 4
  let n := fieldN e 12 2
  let m := masks.drop mo
  let ts := (List.range n).map (fun i => (trans.drop (tr + 8 * i)).take 8)
  decide (byteAt e 0 < 2) && zeroAt e 1 3 && zeroAt e 14 2 && decide (mo % 8 = 0 ∧ tr % 8 = 0 ∧ mo + 8 ≤ Gr.mkBytes x ∧ tr + 8 * n ≤ Gr.trBytes x) &&
  zeroAt m 4 4 && runsOk (Gr.nTok x) (fieldN m 0 4) 0 (m.drop 8) &&
  ts.all (transOk x) && transSorted (ts.map parseTrans)

def imageOk (x cls states trans masks : List Byte) : Bool :=
  (List.range (Gr.nTok x)).all (fun t => decide (fieldN cls (2 * t) 2 < Gr.nClass x)) &&
  (List.range (Gr.nState x)).all (fun q => stateOk x trans masks ((states.drop (16 * q)).take 16))

/-- Ranges and reserved bytes of a grammar descriptor (Table 12-1). -/
def gramDescOk (x : List Byte) : Bool :=
  decide (fieldN x 0 4 = 0x4D415247 ∧ fieldN x 4 2 = 1 ∧ Gr.kind x ≤ 1 ∧ byteAt x 7 = 0 ∧
    1 ≤ Gr.nState x ∧ Gr.nState x ≤ 1048576 ∧ 256 ≤ Gr.nTok x ∧ Gr.nTok x ≤ 262144 ∧ 1 ≤ Gr.nClass x ∧ Gr.nClass x ≤ 65536 ∧
    Gr.start x < Gr.nState x ∧ Gr.trBytes x % 8 = 0 ∧ Gr.mkBytes x % 8 = 0) &&
  (if Gr.kind x = 0 then decide (Gr.maxDepth x = 0 ∧ Gr.nSym x = 0)
   else decide (1 ≤ Gr.maxDepth x ∧ Gr.maxDepth x ≤ 128 ∧ 1 ≤ Gr.nSym x)) &&
  zeroAt x 22 2 && zeroAt x 28 4 && zeroAt x 120 8 &&
  decide (Gr.clsAddr x % 64 = 0 ∧ Gr.stAddr x % 64 = 0 ∧ Gr.trAddr x % 64 = 0 ∧ Gr.mkAddr x % 64 = 0)

end Sys2Proof.Machine
end

