-- ==== Sys2Proof/Machine/Gen.lean ====
section
/-! DEFINITION. Generation (chapter 11): the choice of generator, prefill, passes, sampling, prefix handles. -/

namespace Sys2Proof.Machine

def genStat (d : Dev) (bit : Nat) (basin : Nat) (tag : W32) (handle slot : Nat) : Dev :=
  setStat d .gen 0 bit basin tag (BitVec.ofNat 32 handle) (BitVec.ofNat 32 slot)

def findHandleIdx (d : Dev) (i : Nat) : Option Handle := d.eng.handles.find? (fun h => decide (h.idx = i))

/-- The 64-bit handle (R270). -/
def Handle.value (h : Handle) : Nat := h.idx + h.reuse * 2 ^ 20 + h.basin * 2 ^ 40

/-! ### Output of a generating request (R19, R243, R269) -/

/-- Bytes before the answer. -/
def answerBase (d : Dev) (r : Req) : Nat :=
  if r.op = 1 then 16 + 16 * r.evid.length else if isDraft r (Req.prof d r) then 16 else 0

/-- The header fields that follow the stream: ANSWER_LEN of a QUERY, the header of a draft-verify GENERATE. -/
def writeHeader (d : Dev) (slot : Nat) : Dev :=
  match findReq d slot with
  | none => d
  | some r =>
    match r.stream with
    | none => d
    | some s =>
      if r.op = 1 then outWrite d r 8 (natLe 4 s.answer)
      else if isDraft r (Req.prof d r) then
        outWrite d r 0 (natLe 4 (s.prompt.length + s.gen.length) ++ natLe 4 s.draftAccepted ++ natLe 4 s.answer ++ natLe 4 0)
      else d

/-! ### Handles saved at the end of a stream (R271) -/

/-- First handle record free from a starting place. -/
def freeRecord (d : Dev) (start : Nat) : Nat :=
  let used := d.eng.handles.map (·.idx)
  ((List.range (used.length + 1)).map (fun n => (start + n) % 2 ^ 20)).find? (fun i => !used.contains i) |>.getD 0

/-- Next reuse count of a record; no handle is 0. -/
def nextReuse (slot basin old : Nat) : Nat :=
  let n := (old + 1) % 2 ^ 20
  if n = 0 ∧ slot = 0 ∧ basin = 0 then 1 else n

/-- Save the stream of a request that is about to end. DEDUCED (log 67): a stream that ends before its prefill (R259) is
saved too, with no position fed. -/
def saveHandle (d : Dev) (r : Req) (s : Stream) : Dev :=
  let p := Req.prof d r
  match findVer d s.model with
  | none => d
  | some v =>
    if qTags d r.basin ≤ (d.eng.handles.filter (fun h => decide (h.basin = r.basin))).length then
      genStat d 3 r.basin r.tag 0 v.slot
    else
      let (n, d) := draw d
      let i := freeRecord d (Config.handleSlot n % 2 ^ 20)
      let u := nextReuse i r.basin (SMap.get (fun _ => 0) d.eng.reuse i)
      let fed := if s.fed < s.prompt.length then 0 else s.prompt.length + (s.gen.length - 1)
      let own := Mdl.kvPages v.desc fed - s.shared
      let h : Handle := ⟨i, u, r.basin, .idle, false, false, [], false, s.prompt ++ s.gen, fed, s.model, v.digest,
        Prof.parkIdle p, Prof.parkTtl p, d.now, none, own, own, 0, (if s.shared = 0 then none else r.hold.map (fun i => (i, s.shared))),
        s.kv.take (s.shared + own)⟩
      modReq { d with eng.reuse := SMap.set (fun _ => 0) d.eng.reuse i u, eng.handles := d.eng.handles ++ [h] } r.slot
        (fun r => { r with newHandle := h.value, stream := r.stream.map (fun s => { s with pages := 0, scratch := 0, kv := [] }) })

def gramStat (d : Dev) (bit : Nat) (r : Req) (q slot j : Nat) : Dev :=
  setStat d .gram 0 bit r.basin r.tag (BitVec.ofNat 32 q) (BitVec.ofNat 32 (slot + j % 2 ^ 28 * 16))

/-- Grammar state of a stream: START and the empty stack before its first answer position (R285). -/
def gramOf (gv : Option Version) (s : Stream) : Nat × List Nat :=
  s.gram.getD ((match gv with | some g => Gr.start g.desc | none => 0), [])

/-- A request ends with GRAMMAR_DEAD (R287, R291). -/
def gramDead (d : Dev) (r : Req) : Dev :=
  match r.stream with
  | none => d
  | some s =>
    let gv := Req.named d r.pins.grammar
    gramStat (count d .gram 0 0x10C 1) 0 r (gramOf gv s).1 ((gv.map (·.slot)).getD 0) s.gen.length

/-- A generating request ends with its own class, unless another reason comes first. -/
def endGen (d : Dev) (slot cls : Nat) : Dev :=
  match findReq d slot with
  | none => d
  | some r =>
    if !r.live then d
    else
      let own := decide (firstDue (r.due ++ [cls]) = cls)
      let d := if own && decide (cls = 0x30) then gramDead d r else d
      let d := match r.stream with
        | some s => if own && [0, 0x31, 0x30].contains cls && Prof.ctl (Req.prof d r) 3 then saveHandle d r s else d
        | none => d
      endAt d slot cls

/-! ### Prefill (R258–R260, R268, R274, R275) -/

/-- Kept prefix tokens. -/
def keptPrefix (d : Dev) (r : Req) : List Nat :=
  let p := prefixOf d r
  match r.kvLen with
  | some n => p.take n
  | none => p

/-- The generator is chosen; the request is made ready for prefill or ends. -/
def enterPrefill (d : Dev) (slot uid : Nat) (fallback : Bool) : Dev :=
  match findReq d slot, findVer d uid with
  | some r, some v =>
    let p := Req.prof d r
    let d := if fallback then
        modReq (count (genStat d 4 r.basin r.tag (match handleOf d r with | some h => h.value | none => 0) v.slot) .gen 0 0x114 1) slot (fun r => r.flag 3)
      else d
    let d := modVer d uid (fun v => { v with lastUse := d.now })
    let pre := keptPrefix d r
    let prompt := pre ++ (if r.op = 1 then r.prompt else tokensIn r r.pins.gen)
    let clash := match handleOf d r with | some h => decide (h.digest ≠ v.digest) | none => false
    if clash then endAt d slot 0x22
    else
      let reuse := match handleOf d r with
        | some h => if h.model = uid then min (min h.fed pre.length) (prompt.length - 1) else 0
        | none => 0
      let shared := Mdl.fullPages v.desc reuse
      let need := Mdl.kvPages v.desc prompt.length - shared
      let s : Stream := ⟨uid, prompt, reuse, [], 0, none, if isDraft r p then r.offered else [], 0, 0, 0, shared, d.now, false,
        match handleOf d r with | some h => h.kv.take shared | none => []⟩
      if isDraft r p && decide (Desc.outCap r.desc < 16) then endGen (modReq d slot (fun r => { r with stream := some s, outLen := 0, outCount := 0 })) slot 0x31
      else
      let d := writeHeader (modReq d slot (fun r => { r with stream := some s, outLen := if isDraft r p then 16 else r.outLen })) slot
      if Mdl.maxCtx v.desc < prompt.length then endGen (modReq d slot (fun r => { r with outCount := 0 })) slot 0x31
      else
        let back := match handleOf d r with | some h => h.inPool && !h.moving && !h.lost | none => false
        let own := match handleOf d r with | some h => h.own | none => 0
        if back && !fitsHbm d r.basin own then endAt d slot 0x50
        else
          let d := if back then (match r.hold with | some i => beginReturn d i | none => d) else d
          if !fitsHbm d r.basin need then endAt d slot 0x50
          else
            let (d, ps) := givePages d 0 12 need
            modReq d slot (fun r => { r with stage := .prefill, busy := false, stream := some { s with pages := need, kv := s.kv ++ ps } })
  | _, _ => d

/-- The request is ready for prefill: the generator is chosen at once, by the fallback, or waits (R31). -/
def chooseModel (d : Dev) (slot : Nat) : Dev :=
  match findReq d slot with
  | none => d
  | some r =>
    if !r.live || r.stage ≠ .model then d
    else match r.pins.gen with
      | none => d
      | some g =>
        if isResident d (some g) then enterPrefill d slot g false
        else if Prof.cheap (Req.prof d r) 2 && (match r.dlModel with | some t => decide (t ≤ d.now) | none => false) then
          match r.pins.fb with
          | some f => enterPrefill d slot f true
          | none => d
        else d

/-- PACK is one step (R250); then the generator is chosen. Where a poisoned word ends it, no record has been packed or removed:
R250 leaves open whether those before the word count. DESIGN CHOICE (log 203). -/
def packOp (d : Dev) (slot : Nat) (errs : List ReadError) : Dev :=
  match findReq d slot with
  | none => d
  | some r =>
    if r.stage = .pack ∧ r.busy then
      let x : Reader := ⟨.pack, 0, r.basin, slot⟩
      withErrors d x (fun d p => basinWord d r.basin p) errs (fun d =>
        let d := cutBefore d r r.pins.gen (sameVocab d r.pins.rr r.pins.gen) r.texts errs
        workStep d x 2 [.text, .tokens, .tagState] errs (fun d => chooseModel (boundary (packWork d r) slot) slot)
          (fun part off => (if part = .text then (textPlace d r off).1 + 1 else 0, 0)))
    else d

def execPack (r : Reads) (s : State) : Host.Outcome State Fault Refusal := forSlot s r.id (packOp · r.id r.errs)

/-- MODEL_DL_US falls (R29, R31). -/
def modelDeadlineOp (d : Dev) (slot : Nat) : Dev :=
  match findReq d slot with
  | none => d
  | some r => match r.dlModel with
    | some t => if r.live then chooseModel (advanceTo d t) slot else d
    | none => d

def execModelDeadline (slot : Nat) (s : State) : Host.Outcome State Fault Refusal := ok s (modelDeadlineOp s.dev slot)

/-! ### Passes (R260, R261) -/

/-- The token of a list that a head scores highest, the first of equals; another token where the list is empty. -/
def bestScored (score : Nat → Nat) (t : Nat) (set : List Nat) : Nat :=
  (set.foldl (fun b x => match b with | some y => if score y < score x then some x else some y | none => some x) (none : Option Nat)).getD t

/-- Proposals of the heads after a stream (R265 leaves the choice open). Under a grammar, whose state the last argument is,
a proposal outside the allowed set is replaced by the head's best-scored token in it (R290). -/
def headProposals (d : Dev) (v : Version) (gv : Option Version) (eos : Nat) : Nat → List Nat → Option (Nat × List Nat) → List Nat
  | 0, _, _ => []
  | n + 1, ts, st =>
    let raw := Config.proposal v.basin v.slot v.num ts n
    match st, gv with
    | some st, some g =>
      match readState d g st.1 with
      | .ok view =>
        let set := (allowedSet view.st view.cls view.maxDepth eos st.2).1
        let p := if set.contains raw then raw else bestScored (Config.headScore v.basin v.slot v.num ts n) raw set
        p :: headProposals d v gv eos n (ts ++ [p]) (if p = eos then none else advanceGram view.st view.cls st.2 p)
      | _ => raw :: headProposals d v gv eos n (ts ++ [raw]) none
    | _, _ => raw :: headProposals d v gv eos n (ts ++ [raw]) none

/-- Heads of a request on a generator (R255, R265). -/
def headCount (p : List Byte) (v : Version) : Nat := if Prof.spec p = 1 then min (Prof.heads p) (Mdl.nSpec v.desc) else 0

/-- Kind of pass that a stream is ready for. -/
def readyKind (r : Req) : Option PassKind :=
  match r.stage, r.stream with
  | .prefill, some _ => some .prefill
  | .decode, some s => if s.drafts ≠ [] then some .draft else some .decode
  | _, _ => none

/-- The cited handle's store is in HBM. -/
def storeHere (d : Dev) (r : Req) : Bool := match handleOf d r with | some h => (!h.inPool && !h.moving) || h.lost | none => true

/-- A stream may take part in a pass of a kind and model. -/
def joins (d : Dev) (k : PassKind) (uid basin slot : Nat) : Bool :=
  match findReq d slot with
  | none => false
  | some r => r.live && !r.busy && decide (readyKind r = some k) && decide (r.basin = basin) && storeHere d r &&
    (match r.stream with | some s => decide (s.model = uid) | none => false)

/-- Positions that a prefill pass of up to `left` feeds for each stream. -/
def prefillShare : Nat → List Nat → List Nat
  | _, [] => []
  | left, n :: ns => min left n :: prefillShare (left - min left n) ns

def leftToFeed (d : Dev) (slot : Nat) : Nat :=
  match (findReq d slot).bind (·.stream) with
  | some s => s.prompt.length - s.fed
  | none => 0

/-- Positions that a decode or draft pass writes at once to the stream's store: the last token, or every draft. -/
def newPositions (k : PassKind) (s : Stream) : Nat := match k with | .prefill => 0 | .decode => 1 | .draft => s.drafts.length

/-- Charge the pages that a stream needs for `n` more fed positions; false when the quota refuses it (R48, R258). -/
def chargeFed (d : Dev) (slot n : Nat) : Dev × Bool :=
  match findReq d slot with
  | none => (d, true)
  | some r => match r.stream with
    | none => (d, true)
    | some s => match findVer d s.model with
      | none => (d, true)
      | some v =>
        let need := Mdl.kvPages v.desc (s.fed + n) - s.shared
        if need ≤ s.pages then (d, true)
        else if fitsHbm d r.basin (need - s.pages) then
          let (d, ps) := givePages d 0 12 (need - s.pages)
          (modReq d slot (fun r => { r with stream := some { s with pages := need, kv := s.kv ++ ps } }), true)
        else (d, false)

/-- Charge every stream of a starting pass; those refused end, the others take part. -/
def chargePass (k : PassKind) : Dev → List Nat → Dev × List Nat
  | d, [] => (d, [])
  | d, s :: ss =>
    match (findReq d s).bind (·.stream) with
    | none => chargePass k d ss
    | some st =>
      match chargeFed d s (newPositions k st) with
      | (d, true) => let (d, xs) := chargePass k d ss; (d, s :: xs)
      | (d, false) => chargePass k (endGen d s 0x50) ss

/-- Streams that may take part in a pass of a kind, model and basin. -/
def readyStreams (d : Dev) (k : PassKind) (uid basin : Nat) : List (Nat × Nat) :=
  d.reqs.filterMap (fun r => if joins d k uid basin r.slot then r.stream.map (fun s => (r.slot, s.ready)) else none)

def decodeStreams (d : Dev) (b : Nat) (driven : Bool) : Nat :=
  (d.reqs.filter (fun r => decide (r.basin = b ∧ r.stage = .decode) && (match r.stream with | some s => s.driven == driven | none => false))).length

/-- GEN takes up n more decoding streams of a basin: it drives at most 8,192, and beyond that the basins are served by
weight, the one that has least for its weight first (R60, R261). -/
def takesUp (d : Dev) (b n : Nat) : Bool :=
  let now := ((List.range 64).map (fun c => decodeStreams d c true)).sum
  let waiting := (List.range 64).filter (fun c => decide (0 < decodeStreams d c false))
  let before := fun (x y : Nat) => -- x is served before y
    let l := decodeStreams d x true * basinWeight d y
    let r := decodeStreams d y true * basinWeight d x
    decide (l < r ∨ (l = r ∧ x ≤ y))
  decide (n = 0) || (decide (now + n ≤ 8192) &&
    (decide (now + (waiting.map (fun c => decodeStreams d c false)).sum ≤ 8192) || waiting.all (fun c => before b c)))

def undriven (d : Dev) (slots : List Nat) : Nat :=
  (slots.filter (fun s => match (findReq d s).bind (·.stream) with | some s => !s.driven | none => false)).length

/-- The streams of a pass are those that have been ready longest (R261); one that GEN cannot take up waits, and only those of
its kind for it. -/
def firstReady (d : Dev) (k : PassKind) (uid basin : Nat) (slots : List Nat) : Bool :=
  let all := readyStreams d k uid basin
  let room := decide (k = .prefill) || takesUp d basin (undriven d slots + 1)
  let isNew := fun (s : Nat) => decide (undriven d [s] = 1)
  (all.filter (fun x => !slots.contains x.1)).all (fun x => (all.filter (fun y => slots.contains y.1)).all (fun y =>
    decide (y.2 ≤ x.2) || (isNew x.1 && !room && !isNew y.1)))

/-- GEN starts a pass over streams of one version and basin. -/
def passStartOp (d : Dev) (mere : Nat) (slots : List Nat) : Dev :=
  match slots with
  | [] => d
  | s0 :: _ =>
    match findReq d s0 with
    | none => d
    | some r0 =>
      match r0.stream, readyKind r0 with
      | some st0, some k =>
        match findVer d st0.model with
        | none => d
        | some v =>
          let shares := prefillShare 1024 (slots.map (leftToFeed d))
          let full := decide (k = .prefill) && (shares.zip (slots.map (leftToFeed d))).any (fun x => decide (x.1 = 0 ∧ 0 < x.2))
          if !(slots.all (joins d k v.uid r0.basin)) || !decide slots.Nodup || full || decide (256 < slots.length) || decide (4 ≤ mere) ||
             (!ctlBit d .gen 0 0 && decide (1 < slots.length)) || isArmed d .gen 0 || !v.resident || !firstReady d k v.uid r0.basin slots ||
             !(decide (k = .prefill) || takesUp d r0.basin (undriven d slots)) then d
          else
            let (d, ss) := chargePass k d slots
            if ss = [] then d
            else
              let props := ss.map (fun s => match findReq d s with
                | some r => (match r.stream with
                  | some st => (match k with
                    | .prefill => ([] : List Nat)
                    | .draft => st.drafts
                    | .decode =>
                      let gv := Req.named d r.pins.grammar
                      -- without LOOKAHEAD the allowed sets are not there while the pass runs
                      headProposals d v gv (match vocabOf d v with | .ok voc => voc.eos | _ => 0) (headCount (Req.prof d r) v)
                        (st.prompt ++ st.gen) (if ctlBit d .gram 0 1 then gv.map (fun _ => gramOf gv st) else none))
                  | none => [])
                | none => [])
              let id := d.eng.nextId
              let d := ss.foldl (fun d s => modReq d s (fun r =>
                { r with busy := true, stream := r.stream.map (fun x => { x with driven := x.driven || !decide (k = .prefill) }) })) d
              let d := modVer d v.uid (fun v => { v with lastUse := d.now })
              { d with eng.nextId := id + 1,
                       eng.passes := d.eng.passes ++ [⟨id, v.uid, k, ss, props, prefillShare 1024 (ss.map (leftToFeed d)), mere, 0, 0, [], [], []⟩] }
      | _, _ => d

/-! ### Sampling (R263, R264) -/

/-- u of an answer position, in units of 2⁻²⁴ (R263). -/
def drawU (seed j : Nat) : Nat :=
  let m := 2 ^ 64
  let z := (seed + (j + 1) * 0x9E3779B97F4A7C15) % m
  let z := ((z ^^^ (z >>> 30)) * 0xBF58476D1CE4E5B9) % m
  let z := ((z ^^^ (z >>> 27)) * 0x94D049BB133111EB) % m
  let z := z ^^^ (z >>> 31)
  z / 2 ^ 40

/-- First candidate whose cumulative term exceeds the target. -/
def pickOver (target : FVal) : FVal → List (Nat × FVal) → Option Nat
  | _, [] => none
  | acc, (t, w) :: xs =>
    let a := acc.add w
    if target.lt a then some t else pickOver target a xs

/-- Draw among candidates in order (R264). -/
def drawFrom (u : Nat) (cs : List (Nat × FVal)) : Nat :=
  let z := FVal.sum (cs.map (·.2))
  (pickOver (z.mul (.fin false u (-24))) (.fin false 0 0) cs).getD ((cs.getLast?.map (·.1)).getD 0)

/-- Shortest rank prefix whose cumulative term reaches the target, if any (top-p). -/
def prefixReaching (target : FVal) : FVal → List (Nat × FVal) → Option (List (Nat × FVal))
  | _, [] => none
  | acc, c :: cs =>
    let a := acc.add c.2
    if target.le a then some [c] else (prefixReaching target a cs).map (fun xs => c :: xs)

/-- Sort the allowed logits on the mere's MSORT (R188, R264). -/
def sampleSort (d : Dev) (mere : Nat) (r : Req) (recs : List SRec) (k : Nat) (temp : W32) : Dev × SortOut :=
  let o := sortRun recs k true false true false temp
  (countSort d (1 + mere) k o r.basin r.tag, o)

def termsOf (temp : W32) (ref : Nat) (xs : List SRec) : List (Nat × FVal) :=
  xs.map (fun x => (x.id, val32 (sortTerm true temp ref x.key)))

/-- Top-p over growing selections. -/
def topP (d : Dev) (mere : Nat) (r : Req) (recs : List SRec) (temp : W32) (p : FVal) : List Nat → Dev × List (Nat × FVal)
  | [] => (d, [])
  | k :: ks =>
    let (d, o) := sampleSort d mere r recs k temp
    let cs := termsOf temp o.refKey o.recs
    let target := p.mul ((val32 o.sumSel).add (val32 o.sumOut))
    match prefixReaching target (.fin false 0 0) cs with
    | some xs => (d, xs)
    | none => if ks = [] then (d, cs) else topP d mere r recs temp p ks

/-- Choose the token of an answer position from the allowed logits. -/
def sampleTok (d : Dev) (mere : Nat) (r : Req) (p : List Byte) (recs : List SRec) (j : Nat) : Dev × Nat :=
  let canon := recs.map (fun x => { x with key := canonKey true x.key })
  let best := (sortBy (recLe true) canon).head?
  let temp := BitVec.ofNat 32 (Prof.temp p * 65536)
  let u := drawU (Desc.seed r.desc) j
  match Prof.sampling p with
  | 0 => (d, (best.map (·.id)).getD 0)
  | 1 => (d, drawFrom u (termsOf temp ((best.map (·.key)).getD 0) canon))
  | 2 =>
    let (d, o) := sampleSort d mere r recs (Prof.topK p) temp
    (d, drawFrom u (termsOf temp o.refKey o.recs))
  | _ =>
    let (d, cs) := topP d mere r recs temp (val32 (BitVec.ofNat 32 (Prof.topP p * 65536))) [1024, 65536, recs.length]
    (d, drawFrom u cs)

/-! ### Allowed sets (R280, R285, R289–R291) -/

/-- The allowed set of a grammar state, with its counts. -/
def makeMask (d : Dev) (r : Req) (gv : Version) (st : Nat × List Nat) (eos j : Nat) : Dev × Acc (List Nat) :=
  match readState d gv st.1 with
  | .ok g =>
    let (set, ref) := allowedSet g.st g.cls g.maxDepth eos st.2
    let (n, d) := draw d
    let d := count (count d .gram 0 0x104 1) .gram 0 0x114 (Config.gramMisses n)
    let d := if ref = 0 then d else gramStat (count d .gram 0 0x110 ref) 1 r st.1 gv.slot j
    (d, .ok set)
  | .poison w => (poisonUsed d .gram 0 2 r (placeOf w) (BitVec.ofNat 32 st.1) (BitVec.ofNat 32 (gv.slot + j % 2 ^ 28 * 16)), .poison w)
  | .xfault => (d, .xfault)
  | .fabric x => (d, .fabric x)
  | .flash => (d, .flash)

/-- Advance a grammar state by a token. -/
def gramNext (d : Dev) (gv : Version) (st : Nat × List Nat) (t : Nat) : Option (Nat × List Nat) :=
  match readState d gv st.1 with
  | .ok g => advanceGram g.st g.cls st.2 t
  | _ => none

/-- Allowed sets along the proposals past the last accepted one, as LOOKAHEAD computes them: for rejected proposals, they
count in GRAM_MASKS and nowhere else (R290, R291). -/
def lookahead (gv : Version) (eos : Nat) : Dev → Nat × List Nat → List Nat → Dev
  | d, _, [] => d
  | d, st, p :: ps =>
    match readState d gv st.1 with
    | .ok g =>
      if (allowedSet g.st g.cls g.maxDepth eos st.2).1.contains p && decide (p ≠ eos) then
        match advanceGram g.st g.cls st.2 p with
        | some st => lookahead gv eos (count d .gram 0 0x104 1) st ps
        | none => d
      else d
    | _ => d

/-! ### Emission (R21, R262, R265, R287) -/

/-- Token limit of a stream (R259). -/
def tokenLimit (r : Req) (p : List Byte) (s : Stream) (v : Version) : Nat :=
  min (if Desc.k r.desc = 0 then Prof.maxTok p else Desc.k r.desc) (Mdl.maxCtx v.desc - s.prompt.length)

/-- Sample and emit the next answer token: the class that ends the request, if one does. -/
def emitOne (d : Dev) (mere slot : Nat) (v : Version) (voc : Vocab) : Dev × Option Nat :=
  match findReq d slot with
  | none => (d, some 0)
  | some r =>
    match r.stream with
    | none => (d, some 0)
    | some s =>
      let p := Req.prof d r
      let j := s.gen.length
      if tokenLimit r p s v ≤ j then (d, some 0x31)
      else
        let gv := Req.named d r.pins.grammar
        let st := gramOf gv s
        let m : Dev × Acc (List Nat) := match gv with
          | some g => makeMask d r g st voc.eos j
          | none => (d, .ok (List.range voc.tokens.length))
        match m with
        | (d, .ok allowed) =>
          if allowed = [] then (d, some 0x30)
          else
            let recs := (allowed.zip (List.range allowed.length)).map (fun x =>
              (⟨keyOfScore (Config.logit v.basin v.slot v.num (s.prompt ++ s.gen) x.1), x.1, 0, 0, x.2⟩ : SRec))
            let (d, t) := sampleTok d mere r p recs j
            if t = voc.eos then (modReq d slot (fun r => { r with stream := some { s with gen := s.gen ++ [t] } }), some 0)
            else
              let bs := spellOf voc t
              let base := answerBase d r
              if Desc.outCap r.desc < base + s.answer + bs.length then (d, some 0x31)
              else
                let d := outWrite d r (base + s.answer) bs
                let d := count (count d .gen 0 0x108 1) .tok 0 0x108 bs.length
                let g' := match gv with | some g => gramNext d g st t | none => none
                let d := if gv.isSome then count d .gram 0 0x108 1 else d
                let s' := { s with gen := s.gen ++ [t], answer := s.answer + bs.length, gram := g' }
                let d := modReq d slot (fun r => { r with stream := some s', outCount := r.outCount + 1, outLen := base + s'.answer })
                (d, if tokenLimit r p s' v ≤ s'.gen.length then some 0x31 else none)
        | (d, e) => (noteAcc d e r.basin r.tag, some e.cls)

def lastTok (d : Dev) (slot : Nat) : Option Nat := ((findReq d slot).bind (·.stream)).bind (fun s => s.gen.getLast?)

/-- The token that ended the request was committed, and is the next proposal: it counts as accepted, though it is not fed. -/
def endsOn (d : Dev) (slot before : Nat) (ps : List Nat) : Nat :=
  match ((findReq d slot).bind (·.stream)).map (fun s => s.gen), ps with
  | some g, p :: _ => if before < g.length ∧ g.getLast? = some p then 1 else 0
  | _, _ => 0

def genLen (d : Dev) (slot : Nat) : Nat := (((findReq d slot).bind (·.stream)).map (fun s => s.gen.length)).getD 0

/-- The procedure of R265 from the first proposal on: class that ends the request, proposals fed, and the one accepted last
where it ended the request. -/
def acceptLoop (mere slot : Nat) (v : Version) (voc : Vocab) : Dev → List Nat → Dev × Option Nat × Nat × Nat
  | d, [] => (d, none, 0, 0)
  | d, p :: ps =>
    if lastTok d slot ≠ some p then (d, none, 0, 0)
    else
      let n := genLen d slot
      match emitOne d mere slot v voc with
      | (d, some c) => (d, some c, 1, endsOn d slot n ps)
      | (d, none) => match acceptLoop mere slot v voc d ps with
        | (d, c, n, l) => (d, c, n + 1, l)

/-- Count lookahead sets for the proposals after the accepted ones; `s` is the stream before the pass. -/
def lookAfter (d : Dev) (slot : Nat) (voc : Vocab) (s : Stream) (props : List Nat) (acc : Nat) : Dev :=
  match findReq d slot with
  | none => d
  | some r =>
    match Req.named d r.pins.grammar with
    | none => d
    | some g =>
      if !ctlBit d .gram 0 1 then d
      else
        match (props.take acc).foldl (fun st p => st.bind (fun q => gramNext d g q p)) s.gram with
        | some q => lookahead g voc.eos d q (props.drop acc)
        | none => d

/-- Add fed positions to a stream; a refused page ends the request (R48). -/
def commitFed (d : Dev) (slot n : Nat) : Dev × Bool :=
  match chargeFed d slot n with
  | (d, b) => (modReq d slot (fun r => { r with stream := r.stream.map (fun s => { s with fed := s.fed + n }) }), b)

/-- A stream's part of a pass ends: tokens are committed and written; the class that ends the request, if any. Under LOOKAHEAD
the sets past the accepted proposals are computed for heads; whether they are for drafts too is open, and the model computes
none. DESIGN CHOICE (log 211). -/
def streamEnd (d : Dev) (q : Pass) (v : Version) (voc : Vocab) (slot : Nat) (props : List Nat) (n : Nat) : Dev × Option Nat :=
  match findReq d slot with
  | none => (d, none)
  | some r =>
    match r.stream with
    | none => (d, none)
    | some s =>
      match q.kind with
      | .prefill =>
        let s := { s with fed := s.fed + n }
        let d := modReq d slot (fun r => { r with stream := some s })
        if s.fed < s.prompt.length then (d, none)
        else if firstDue (r.due ++ [0xFF]) ≠ 0xFF then (d, none)
        else
          match emitOne d q.mere slot v voc with
          | (d, some c) => (d, some c)
          | (d, none) =>
            let d := modReq d slot (fun r => { r with stage := .decode })
            let sc := if headCount (Req.prof d r) v = 0 then 0 else Mdl.scratch v.desc
            if fitsHbm d r.basin sc then (modReq d slot (fun r => { r with stream := r.stream.map (fun s => { s with scratch := sc }) }), none)
            else (d, some 0x50)
      | .decode =>
        let (d, c0) := emitOne d q.mere slot v voc
        let (d, c, acc, last) := match c0 with
          | some c => (d, some c, 0, endsOn d slot s.gen.length props)
          | none => acceptLoop q.mere slot v voc d props
        let d := count d .gen 0 0x110 (acc + last)
        let d := lookAfter d slot voc s props acc
        match commitFed d slot (1 + acc) with
        | (d, true) => (d, c)
        | (d, false) => (d, some 0x50)
      | .draft =>
        let (d, c, acc, last) := acceptLoop q.mere slot v voc d props
        let d := count d .gen 0 0x110 (acc + last)
        let d := modReq d slot (fun r => { r with stream := r.stream.map (fun s => { s with drafts := [], draftAccepted := acc + last }) })
        match commitFed d slot acc with
        | (d, true) => (d, c)
        | (d, false) => (d, some 0x50)

/-- A stream's work meets a poisoned word in the cited handle's store: the handle is freed (R277). -/
def storePoison (d : Dev) (slot : Nat) (errs : List ReadError) : Dev :=
  match findReq d slot with
  | none => d
  | some r => match r.stream, r.hold with
    | some s, some h =>
      let met := errs.any (fun e => match e.place with
        | .work w .kv off => decide (w = slot) && ofStore d r s (off / 65536) && (decide (e.bits = 3) || (match e.path with | some (_, b) => b | none => false))
        | _ => false)
      if met || (pagesPoison d (storePages d r s)).isSome then loseStore d h else d
    | _, _ => d

/-- GEN's POISON bit tells of a poisoned word of the weights too. -/
def weightsMet (d : Dev) (r : Req) (errs : List ReadError) (handle : Nat) (v : Version) (bad : List Nat) : Dev :=
  let met := errs.any (fun e => match e.place with
    | .work w .weights _ => decide (w = r.slot) && (decide (e.bits = 3) || (match e.path with | some (_, b) => b | none => false))
    | _ => false)
  if met || decide (bad ≠ []) then genStat d 0 r.basin r.tag handle v.slot else d

/-- What GRAM captures of a stream's grammar state: its number, and the grammar's slot with the answer position. -/
def gramPlace (d : Dev) (r : Req) : Nat × Nat :=
  match r.stream, Req.named d r.pins.grammar with
  | some s, some g => ((gramOf (some g) s).1, g.slot + s.gen.length % 2 ^ 28 * 16)
  | _, _ => (0, 0)

/-- End of one stream's part: the request ends, or is at a step boundary. A poisoned word in the weights, the KV store or the
logits, or in the grammar state, ends it (R277, R393). -/
def passStream (q : Pass) (v : Version) (voc : Vocab) (errs : List ReadError) (d : Dev) (x : Nat × List Nat × Nat) : Dev :=
  match findReq d x.1 with
  | none => d
  | some r =>
    let handle := match handleOf d r with | some h => h.value | none => 0
    workStep (storePoison d x.1 errs) ⟨.gram, 0, r.basin, x.1⟩ 2 [.grammar] errs (fun d =>
    workStep (weightsMet d r errs handle v q.bad) ⟨.weir, q.mere, r.basin, x.1⟩ 1 [.weights] errs (fun d =>
    -- a sampling sort reads the logits as its list (R202)
    let sorter : Reader := if 2 ≤ Prof.sampling (Req.prof d r) then ⟨.msort, q.mere, r.basin, x.1⟩ else ⟨.gen, 0, r.basin, x.1⟩
    workStep d ⟨.gen, 0, r.basin, x.1⟩ 0 [.kv, .tagState] errs (fun d =>
    workStep d sorter (if 2 ≤ Prof.sampling (Req.prof d r) then 1 else 0) [.logits] errs (fun d =>
    match streamEnd d q v voc x.1 x.2.1 x.2.2 with
    | (d, some c) => endGen (writeHeader d x.1) x.1 c
    | (d, none) =>
      boundary (modReq (writeHeader d x.1) x.1 (fun r => { r with stream := r.stream.map (fun s => { s with ready := d.now }) })) x.1)
      (fun _ off => if 2 ≤ Prof.sampling (Req.prof d r) then (off / 16, 0) else (handle, v.slot)))
      (fun _ _ => (handle, v.slot)) (had := workPoison d r .kv)) (fun _ off => (off / 4096, v.slot)) (had := q.bad.head?)) (fun _ _ => gramPlace d r)

/-- A basin's pages of a range of its addresses. -/
def inRange (d : Dev) (b a n page : Nat) : Bool :=
  (List.range (ceilDiv (a % 65536 + n) 65536)).any (fun k => match translate d b ((a / 65536 + k) * 65536) with
    | .ok p => !p.pool && decide (p.base / 65536 = page)
    | _ => false)

/-- Streams of a pass whose work uses the words of a page: of the pass's vocabulary all of them, of a grammar image those under
that grammar (R94). -/
def pageUsers (d : Dev) (q : Pass) (v : Version) (page : Nat) : List Nat :=
  q.slots.filter (fun s => match findReq d s with
    | some r => inRange d v.basin (Mdl.vocabAddr v.desc) (match readVocabImage d v with | .ok b => b.length | _ => 64) page ||
        (match Req.named d r.pins.grammar with
          | some g => [(Gr.clsAddr g.desc, 2 * Gr.nTok g.desc), (Gr.stAddr g.desc, 16 * Gr.nState g.desc), (Gr.trAddr g.desc, Gr.trBytes g.desc),
              (Gr.mkAddr g.desc, Gr.mkBytes g.desc)].any (fun x => inRange d v.basin x.1 x.2 page)
          | none => false)
    | none => false)

/-- The errors that a pass meets in the vocabulary and the grammar images. -/
def passReads (d : Dev) (q : Pass) (v : Version) (errs : List ReadError) : Dev :=
  errs.foldl (fun d e => match e.place, basinWord d v.basin e.place with
    | .hbm a, some _ => (pageUsers d q v (a / 65536)).foldl (fun d s => usedCorrected d s e.bits)
        (readErrors d ⟨.gen, 0, v.basin, 2 ^ 20⟩ (fun d p => basinWord d v.basin p) [e])
    | _, _ => d) d

/-- A pass ends (R261, R262, R265). Its proposals have been fed, however its streams go on (R278). -/
def passEndOp (d : Dev) (id : Nat) (errs : List ReadError) : Dev :=
  let d := match d.eng.passes.find? (fun q => decide (q.id = id)) with
    | some q => (match findVer d q.model with | some v => passReads d q v errs | none => d)
    | none => d
  match d.eng.passes.find? (fun q => decide (q.id = id)) with
  | none => d
  | some q =>
    let d := { count (count d .gen 0 0x104 1) .gen 0 0x10C (q.props.map (·.length)).sum with eng.passes := d.eng.passes.filter (fun q => !decide (q.id = id)) }
    match findVer d q.model with
    | none => d
    | some v =>
      match vocabOf d v with
      | .ok voc => (q.slots.zip (q.props.zip q.counts)).foldl (passStream q v voc errs) d
      | e => q.slots.foldl (fun d s =>
          match findReq d s with
          | some r => endGen (poisonMet (noteAcc d e r.basin r.tag) e .tok 0 3 r) s e.cls
          | none => d) d

/-! ### Parking and expiry of handles (R272, R275, R277) -/

/-- PARK_IDLE_MS has passed without a hold: the store begins to move to the pool, if the charge fits. -/
def parkIdleOp (d : Dev) (i : Nat) : Dev :=
  match findHandleIdx d i with
  | none => d
  | some h =>
    if h.st ≠ .idle ∨ h.moving ∨ h.inPool then d
    else
      let d := advanceTo d (h.since + msCycles h.idleMs)
      let n := Config.parkedPages h.idx h.own
      let slot := match findVer d h.model with | some v => v.slot | none => 0
      if fitsPool d h.basin n then modHandle d i (fun h => { h with moving := true, poolPages := n })
      else genStat d 2 h.basin noTag h.value slot

/-- Pages of a store that it does not share with its lender. -/
def Handle.ownPages (h : Handle) : List Nat := h.kv.drop (match h.lender with | some (_, n) => n | none => 0)

/-- A store's own pages leave HBM for the pool, and its sharers' references with them. -/
def toPool (d : Dev) (h : Handle) : Dev :=
  let own := h.ownPages
  movePages { d with fresh := d.fresh + own.length } (own.zip ((List.range own.length).map (fun i => 2 ^ 40 + d.fresh + i)))

/-- The pages of a store come back into HBM. -/
def fromPool (d : Dev) (h : Handle) : Dev :=
  let away := h.ownPages.filter (fun p => decide (2 ^ 40 ≤ p))
  let (d, ps) := givePages d 0 12 away.length
  movePages d (away.zip ps)

/-- A word of a store's own pages, in HBM or, from 2^40 on, in the pool. -/
def storeWord (d : Dev) (i : Nat) : ErrorPlace → Option (Space × Nat)
  | .hbm a => match findHandleIdx d i with
    | some h => if h.ownPages.contains (a / 65536) then some (.hbm, a / 8) else none
    | none => none
  | _ => none

/-- A store is moved, with the errors that its words meet: a word that comes poisoned is poisoned where it goes (R392). -/
def movesStore (d : Dev) (i : Nat) (errs : List ReadError) (move : Dev → Nat → Dev) : Dev :=
  match findHandleIdx d i with
  | some h =>
    if h.moving then
      let x : Reader := ⟨.gen, 0, h.basin, 2 ^ 20⟩
      move (addLost (readErrors d x (fun d => storeWord d i) errs) (lostOnWay d (fun d => storeWord d i) errs)) i
    else d
  | none => d

/-- The store has been moved to the pool, unless a hold that needs it came meanwhile. Pages that a later handle shares with it
move, and are charged, with this one. DESIGN CHOICE (log 210). -/
def parkDoneOp (d : Dev) (i : Nat) : Dev :=
  match findHandleIdx d i with
  | none => d
  | some h =>
    if !h.moving ∨ h.inPool then d
    else if h.holds = [] then
      count (modHandle (toPool d h) i (fun h => { h with moving := false, inPool := true, hbmPages := 0, st := .parked, expiry := some (d.now + sCycles h.ttlS) })) .gen 0 0x120 1
    else if allParked d h then
      count (modHandle (toPool d h) i (fun h => { h with moving := false, inPool := true, hbmPages := 0, expiry := if h.released then h.expiry else none })) .gen 0 0x120 1
    else modHandle d i (fun h => { h with moving := false, poolPages := 0 })

/-- A pool write fails while parking. -/
def parkFailOp (d : Dev) (i : Nat) : Dev :=
  match findHandleIdx d i with
  | none => d
  | some h =>
    if !h.moving ∨ h.inPool then d
    else
      let slot := match findVer d h.model with | some v => v.slot | none => 0
      genStat (modHandle d i (fun h => { h with moving := false, poolPages := 0 })) 1 h.basin noTag h.value slot

/-- A held store is back in HBM. DEDUCED (log 68): a TTL that runs from the parking goes on while the handle is held. -/
def unparkDoneOp (d : Dev) (i : Nat) : Dev :=
  match findHandleIdx d i with
  | none => d
  | some h =>
    if !h.moving ∨ !h.inPool then d
    else
      let held := decide (h.holds ≠ [])
      modHandle (fromPool d h) i (fun h => { h with moving := false, inPool := false, poolPages := 0,
                                                    expiry := if held then h.expiry else none, st := if held then .held else .idle })

/-- PARK_TTL_S has passed. A held handle keeps the expiry that has passed, so that the end of its last hold counts it. -/
def ttlOp (d : Dev) (i : Nat) : Dev :=
  match findHandleIdx d i with
  | none => d
  | some h =>
    match h.expiry with
    | none => d
    | some t =>
      let d := advanceTo d t
      if h.released then d
      else if h.holds = [] then freeHandle (count d .gen 0 0x124 1) i
      else modHandle d i (fun h => { h with released := true })

def execHandleParkIdle (h : Nat) (s : State) : Host.Outcome State Fault Refusal := ok s (parkIdleOp s.dev h)
def execHandleParkDone (r : Reads) (s : State) : Host.Outcome State Fault Refusal := ok s (movesStore s.dev r.id r.errs parkDoneOp)
def execParkWriteFail (h : Nat) (s : State) : Host.Outcome State Fault Refusal := ok s (parkFailOp s.dev h)
def execHandleUnparkDone (r : Reads) (s : State) : Host.Outcome State Fault Refusal := ok s (movesStore s.dev r.id r.errs unparkDoneOp)
def execHandleTtlExpiry (h : Nat) (s : State) : Host.Outcome State Fault Refusal := ok s (ttlOp s.dev h)

end Sys2Proof.Machine
end

