-- ==== Sys2Proof/Machine/Weights.lean ====
section
/-! DEFINITION. Weight images and their place in HBM and in the weir (R366–R373, R376). -/

namespace Sys2Proof.Machine

/-- Tile size and tiles per frame of a format (Table 16-2). -/
def tileBytes : Nat → Nat
  | 0 => 1024 | 1 => 512 | 2 => 1024 | 3 => 1024 | 4 => 544 | 5 => 1056 | _ => 2048
def tilesPerFrame : Nat → Nat
  | 0 => 4 | 1 => 8 | 2 => 4 | 3 => 4 | 4 => 7 | 5 => 3 | _ => 2

def parseFrame (e : Nat) : WFrame := ⟨bitsOf e 39 0, bitsOf e 52 40, bitOf e 53, bitsOf e 57 54, bitsOf e 60 58 + 1⟩

def WFrame.occupied (f : WFrame) : Nat := f.tiles * tileBytes f.fmt

namespace WImg
def pitch (x : List Byte) : Bool := bitOf (byteAt x 6) 0
def nFrame (x : List Byte) : Nat := fieldN x 8 4
def nLayer (x : List Byte) : Nat := fieldN x 12 2
def codeLen (x : List Byte) (s : Nat) : Nat := bitsOf (fieldN x 16 8) (4 * s + 3) (4 * s)
def dirOff (nLayer : Nat) : Nat := 64 * ceilDiv (64 + 8 * nLayer) 64
/-- FIRST_FRAME and N_FRAMES of a layer. -/
def layer (x : List Byte) (l : Nat) : Nat × Nat := (fieldN x (64 + 8 * l) 4, fieldN x (68 + 8 * l) 4)
def layers (x : List Byte) : List (Nat × Nat) := (List.range (nLayer x)).map (layer x)
def entry (x : List Byte) (i : Nat) : Nat := fieldN x (dirOff (nLayer x) + 8 * i) 8
def frames (x : List Byte) : List WFrame := (List.range (nFrame x)).map (fun i => parseFrame (entry x i))
end WImg

/-- Canonical codes of the used symbols: length, code, symbol (R368). -/
def canonical (lens : List (Nat × Nat)) : List (Nat × Nat × Nat) :=
  ((sortBy (fun a b => decide (a.1 < b.1 ∨ (a.1 = b.1 ∧ a.2 ≤ b.2))) lens).foldl (fun (acc : List (Nat × Nat × Nat) × Nat × Nat) s =>
    let code := acc.2.1 <<< (s.1 - acc.2.2)
    (acc.1 ++ [(s.1, code, s.2)], code + 1, s.1)) ([], 0, 0)).1

def codesOf (x : List Byte) : List (Nat × Nat × Nat) :=
  canonical (((List.range 16).filter (fun s => decide (WImg.codeLen x s ≠ 0))).map (fun s => (WImg.codeLen x s, s)))

/-- The lengths satisfy the Kraft inequality. -/
def kraftOk (x : List Byte) : Bool :=
  decide (((List.range 16).map (fun s => if WImg.codeLen x s = 0 then 0 else 2 ^ (15 - WImg.codeLen x s))).sum ≤ 2 ^ 15)

/-- The next symbol at bit `pos` of a coded frame, and its length; codes are at most 15 bits. -/
def nextSym (codes : List (Nat × Nat × Nat)) (bits : Nat → Bool) (pos avail : Nat) : Option (Nat × Nat) :=
  (List.range 15).findSome? (fun k =>
    let n := k + 1
    if avail < n then none
    else
      let v := (List.range n).foldl (fun v i => 2 * v + (if bits (pos + i) then 1 else 0)) 0
      (codes.find? (fun c => decide (c.1 = n ∧ c.2.1 = v))).map (fun c => (c.2.2, n)))

/-- `n` nibbles from bit `pos` on, and the bits they took. -/
def decodeNibbles (codes : List (Nat × Nat × Nat)) (bits : Nat → Bool) (total : Nat) : Nat → Nat → List Nat → Option (List Nat × Nat)
  | 0, pos, acc => some (acc, pos)
  | n + 1, pos, acc =>
    match nextSym codes bits pos (total - pos) with
    | some (s, k) => decodeNibbles codes bits total n (pos + k) (acc ++ [s])
    | none => none

def nibbleBytes : List Nat → List Byte
  | a :: b :: r => BitVec.ofNat 8 (a + 16 * b) :: nibbleBytes r
  | _ => []

/-- The occupied bytes of a frame; none where its bits do not decode to exactly them. -/
def frameData (x : List Byte) (f : WFrame) : Option (List Byte) :=
  let bs := (x.drop f.off).take f.clen
  if !f.coded then some bs
  else
    let bits := fun i => bitOf (byteAt bs (i / 8)) (i % 8)
    match decodeNibbles (codesOf x) bits (8 * f.clen) (2 * f.occupied) 0 [] with
    | some (ns, used) => if ceilDiv used 8 = f.clen then some (nibbleBytes ns) else none
    | none => none

/-- Layers contiguous and in order, each with a frame, the last ending at N_FRAME (R367). -/
def layersOk (nFrame : Nat) : Nat → List (Nat × Nat) → Bool
  | next, [] => decide (next = nFrame)
  | next, (a, n) :: ls => decide (a = next ∧ 1 ≤ n) && layersOk nFrame (next + n) ls

/-- Ranges in rising order do not overlap. -/
def disjointRising : List (Nat × Nat) → Bool
  | (a, n) :: (b, m) :: r => decide (a + n ≤ b) && disjointRising ((b, m) :: r)
  | _ => true

def entryOk (x : List Byte) (len e : Nat) : Bool :=
  let f := parseFrame e
  decide (1 ≤ f.clen ∧ f.clen ≤ 4096 ∧ f.fmt ≤ 6 ∧ f.tiles ≤ tilesPerFrame f.fmt ∧ bitsOf e 63 61 = 0 ∧
    WImg.dirOff (WImg.nLayer x) + 8 * WImg.nFrame x ≤ f.off ∧ f.off + f.clen ≤ len) &&
  (f.coded || decide (f.clen = f.occupied))

/-- Frames of a layer that a mere holds (R370). -/
def mereFrames (fs : List WFrame) (layer : Nat × Nat) (m : Nat) : List WFrame :=
  (mereIndices layer m).map (fun i => fs.getD i ⟨0, 0, false, 0, 0⟩)

/-- HBM pages that the frames take (R370). -/
def weightPages (x : List Byte) : Nat :=
  let fs := WImg.frames x
  ((List.range 4).map (fun m => ceilDiv ((WImg.layers x).map (fun l => (mereFrames fs l m).length)).sum 16)).sum

/-- The image keeps R367 to R369 for its descriptor. -/
def weightOk (desc x : List Byte) : Bool :=
  decide (64 ≤ x.length ∧ fieldN x 0 4 = 0x54484757 ∧ fieldN x 4 2 = 1 ∧ byteAt x 6 < 2 ∧ byteAt x 7 = 0 ∧ 1 ≤ WImg.nFrame x ∧
    WImg.nLayer x = Mdl.nLayer desc ∧ WImg.dirOff (WImg.nLayer x) + 8 * WImg.nFrame x ≤ x.length) &&
  zeroAt x 14 2 && zeroAt x 24 40 && kraftOk x && layersOk (WImg.nFrame x) 0 (WImg.layers x) &&
  (List.range (WImg.nFrame x)).all (fun i => entryOk x x.length (WImg.entry x i)) &&
  disjointRising (sortBy (fun a b => decide (a.1 ≤ b.1)) ((WImg.frames x).map (fun f => (f.off, f.clen)))) &&
  (WImg.frames x).all (fun f => (frameData x f).isSome) && decide (Mdl.hbmPages desc = weightPages x)

/-! ### The weir window (R373, R376, R377) -/

/-- Bytes that the weir writes for a frame. -/
def writtenBytes (pitch : Bool) (f : WFrame) : Nat :=
  f.tiles * (if pitch && decide (f.fmt = 1) then 1024 else if pitch && decide (f.fmt = 4) then 1056 else tileBytes f.fmt)

/-- Bytes of a row of 32 elements of a format (R318, R366). -/
def frameRowBytes (fmt : Nat) : Nat := if fmt = 1 ∨ fmt = 4 then 16 else if fmt = 6 then 64 else 32

/-- The 4 KiB of a decoded tile frame: its occupied bytes, then zeros (R366). -/
def frameBytes (x : List Byte) (f : WFrame) : List Byte :=
  let bs := (frameData x f).getD []
  bs ++ List.replicate (4096 - bs.length) 0

/-- Row r of tile t of a frame, and the scale bytes of its 32 rows, which an MX tile has (R366). -/
def frameTileRow (f : WFrame) (frame : List Byte) (t r : Nat) : List Byte :=
  (frame.drop (t * tileBytes f.fmt + r * frameRowBytes f.fmt)).take (frameRowBytes f.fmt)
def frameTileScales (f : WFrame) (frame : List Byte) (t : Nat) : List Byte :=
  if f.fmt = 4 ∨ f.fmt = 5 then (frame.drop (t * tileBytes f.fmt + 32 * frameRowBytes f.fmt)).take 32 else []

/-- A tile as the weir writes it: with PITCH an INT4 or MXFP4 tile has its rows at a pitch of 32 bytes (R376). -/
def writtenTile (pitch : Bool) (f : WFrame) (frame : List Byte) (t : Nat) : List Byte :=
  let upper := if pitch && decide (f.fmt = 1 ∨ f.fmt = 4) then 16 else 0
  (List.range 32).flatMap (fun r => frameTileRow f frame t r ++ List.replicate upper 0) ++ frameTileScales f frame t

/-- A layer in its slot of a mere's weir window: its frames in order, each frame's tiles one after another (R373). -/
def slotImage (h : HeldModel) (layer : Nat × Nat) (m : Nat) : List Byte :=
  (mereIndices layer m).flatMap (fun i =>
    let f := h.dir.getD i ⟨0, 0, false, 0, 0⟩
    (List.range f.tiles).flatMap (writtenTile h.pitch f (h.frames.getD i [])))

/-- SLOT_BYTES of a mere. -/
def slotBytes (x : List Byte) (m : Nat) : Nat :=
  let fs := WImg.frames x
  64 * ceilDiv (((WImg.layers x).map (fun l => ((mereFrames fs l m).map (writtenBytes (WImg.pitch x))).sum)).foldl max 0) 64

def weirMib (d : Dev) (m : Nat) : Nat := liveN d .dbuf m 0x100 % 32

/-- The window fits in the weir region of every mere. -/
def weirFits (d : Dev) (desc x : List Byte) : Bool :=
  (List.range 4).all (fun m => decide (Mdl.window desc * slotBytes x m ≤ weirMib d m * 2 ^ 20))

/-- The bytes of a version's weight image. -/
def readWeights (d : Dev) (b : Nat) (desc : List Byte) : Acc (List Byte) :=
  nsRead d b (Mdl.imgSector desc * 4096) (Mdl.imgBytes desc)

/-- A version's weights come into HBM: every frame decoded, in pages of its mere's own stacks (R370, R371). -/
def holdModel (d : Dev) (uid : Nat) (x : List Byte) : Dev :=
  let layers := WImg.layers x
  let give := fun (acc : Dev × List (List Nat)) (m : Nat) =>
    let r := givePages acc.1 (3 * m) 3 (ceilDiv (mereOrder layers m).length 16)
    (r.1, acc.2 ++ [r.2])
  let r := (List.range 4).foldl give (dropModel d uid, [])
  { r.1 with mem.models := r.1.mem.models ++ [⟨uid, WImg.pitch x, layers, WImg.frames x, (WImg.frames x).map (frameBytes x), r.2⟩] }

/-- A page of the decoded frames that a mere holds in HBM: 16 frames, in frame order (R370). -/
def modelPage (h : HeldModel) (m page : Nat) : List Byte :=
  (((mereOrder h.layers m).drop (16 * page)).take 16).flatMap (fun i => h.frames.getD i [])

/-- Bytes that a version's window takes on a mere (R373). -/
def windowBytes (v : Version) (m : Nat) : Nat := Mdl.window v.desc * v.slotSizes.getD m 0

/-- The window fits in a mere's weir region. -/
def windowIn (d : Dev) (v : Version) (m : Nat) : Bool := decide (windowBytes v m ≤ weirMib d m * 2 ^ 20)

/-- A version fits the live partition (R373). -/
def verFits (d : Dev) (v : Version) : Bool := (List.range 4).all (windowIn d v)

/-- What a slot of a pass's window holds on a mere: the latest layer that has landed in it (R373). -/
def slotBytesNow (d : Dev) (v : Version) (p : Pass) (slot m : Nat) : List Byte :=
  match modelAt d v.uid, ((List.range p.landed).filter (fun l => decide (l % Mdl.window v.desc = slot))).getLast? with
  | some h, some l => slotImage h (h.layers.getD (l % Mdl.nLayer v.desc) (0, 0)) m
  | _, _ => []

/-- The pass that a context's job works for. -/
def passOf (d : Dev) (c : Ctx) : Option (Pass × Version) :=
  if c.pipe then (d.eng.passes.find? (fun p => p.slots.contains c.slot)).bind (fun p => (findVer d p.model).map (fun v => (p, v))) else none

/-- Bytes of the weir window that a pass's job sees in space 1 after its own window (R374). -/
def weirSpan (d : Dev) (c : Ctx) : Nat := match passOf d c with | some (_, v) => windowBytes v c.mere | none => 0

/-- Space 1 as a context's cores read it: its own window, then the slots of the weir window (R374). -/
def dbufSeen (d : Dev) (c : Ctx) : Mem :=
  match passOf d c with
  | some (p, v) =>
    let size := windowBytes v c.mere / max 1 (Mdl.window v.desc)
    (List.range (Mdl.window v.desc)).foldl (fun m s => Mem.writeL m (c.dbufBytes + s * size) (slotBytesNow d v p s c.mere)) c.dbuf
  | none => c.dbuf

/-- LANDED (R374). -/
def landedSem : Nat := 4094

/-- The weir changes LANDED of the jobs of a pass on a mere by N_CORES each. -/
def signalLanded (d : Dev) (p : Pass) (m : Nat) (up : Bool) : Dev :=
  { d with jobs.ctxs := modWhere (fun c => c.pipe && p.slots.contains c.slot && decide (c.mere = m ∧ c.phase ≠ .queued)) (fun c =>
      let v := SMap.get (fun _ => 0) c.sems landedSem
      { c with sems := SMap.set (fun _ => 0) c.sems landedSem (if up then v + c.nCores else v - c.nCores) }) d.jobs.ctxs }

end Sys2Proof.Machine
end

