-- ==== Sys2Proof/Machine/Objects.lean ====
section
/-! DEFINITION. The rules that an object must meet to be installed: indexes, tables, grammars, profiles, models, pack
templates (R26, R156, R163, R206, R233, R245, R246, R253, R255, R282, R283, R369, R487). -/

namespace Sys2Proof.Machine

/-- Result of a check: none when it passes, else the abort code (Table 5-7). -/
abbrev Chk := Option Nat

def need (b : Bool) : Chk := if b then none else some 1

/-- The first failure of a list of checks. -/
def firstFail : List Chk → Chk
  | [] => none
  | some c :: _ => some c
  | none :: cs => firstFail cs

/-- Abort code of a read of step 3 (R490): an unmapped page is a missing target, any other failure is UNREADABLE. A
failed pool access puts its pool address, plus 1, above the code. -/
def Acc.code {α : Type} : Acc α → Nat
  | .ok _ => 0
  | .xfault => 1
  | .fabric a => 7 + 8 * (a + 1)
  | _ => 7

def Acc.chk {α : Type} (x : Acc α) (f : α → Chk) : Chk :=
  match x with
  | .ok v => f v
  | e => some e.code

/-! ### Claimed regions (R487) -/

/-- First page or sector and count of a byte range. -/
def unitRange (size a n : Nat) : Nat × Nat := if n = 0 then (a / size, 0) else (a / size, (a + n - 1) / size - a / size + 1)

def bitmapBytes (n : Nat) : Nat := ceilDiv n 64 * 8

/-- HBM and pool regions of an object: address and length. -/
def memRegions (cls : Nat) (x : List Byte) : List (Nat × Nat) :=
  if cls = 0 then [(Idx.codebook x, 512 * Idx.D x), (Idx.pq x, Idx.nPass x * Idx.M x), (Idx.tomb x, bitmapBytes (Idx.nPass x)),
                   (Idx.dir x, ceilDiv (Idx.nPass x) 64 * 136)]
  else if cls = 1 then [(Tbl.base x, Tbl.rowCount x * Tbl.rowBytes x), (Tbl.absent x, bitmapBytes (Tbl.rowCount x))] ++
                       (if Tbl.hasRate x then [(Tbl.rate x, 4 * Tbl.rowCount x)] else [])
  else if cls = 2 then [(Gr.clsAddr x, 2 * Gr.nTok x), (Gr.stAddr x, 16 * Gr.nState x), (Gr.trAddr x, Gr.trBytes x), (Gr.mkAddr x, Gr.mkBytes x)]
  else []

/-- Flash extents of an object: namespace byte and length. -/
def flashExtents (cls : Nat) (x : List Byte) : List (Nat × Nat) :=
  if cls = 0 then [(Idx.graph x * 4096, ceilDiv (Idx.nPass x) 4 * 4096), (Idx.textStart x, Idx.textBytes x)]
  else if cls = 4 then [(Mdl.imgSector x * 4096, Mdl.imgBytes x)]
  else []

def pagesClaimed (cls : Nat) (x : List Byte) : List (Nat × Nat) := (memRegions cls x).map (fun r => unitRange 65536 r.1 r.2)
def sectorsClaimed (cls : Nat) (x : List Byte) : List (Nat × Nat) := (flashExtents cls x).map (fun r => unitRange 4096 r.1 r.2)

def rangesMeet (xs ys : List (Nat × Nat)) : Bool := xs.any (fun a => ys.any (fun b => overlaps a.1 a.2 b.1 b.2))

/-- Versions of a basin that are current or retained. -/
def keptOf (d : Dev) (b : Nat) : List Version := d.txn.versions.filter (fun v => decide (v.basin = b) && v.kept)

/-- The object shares no page and no sector with a claimed region. -/
def freeOfClaims (d : Dev) (b cls : Nat) (x : List Byte) : Bool :=
  (keptOf d b).all (fun v => !rangesMeet (pagesClaimed cls x) (pagesClaimed v.cls v.desc) && !rangesMeet (sectorsClaimed cls x) (sectorsClaimed v.cls v.desc))

/-- A sector of a namespace lies in a claimed extent (R383). -/
def sectorClaimed (d : Dev) (b s : Nat) : Bool :=
  (keptOf d b).any (fun v => rangesMeet [(s, 1)] (sectorsClaimed v.cls v.desc))

/-- Every page of a range is mapped and meets a condition. -/
def mappedAll (d : Dev) (b a n : Nat) (p : PageMap → Bool) : Chk :=
  let u := unitRange 65536 a n
  firstFail ((List.range u.2).map (fun i => (translate d b ((u.1 + i) * 65536)).chk (fun m => need (p m))))

def inHbm (m : PageMap) : Bool := !m.pool

/-- Bytes of a namespace (R383). -/
def nsCap (d : Dev) (b : Nat) : Nat := qFlash d b * 2 ^ 30

/-! ### Installed profiles -/

/-- Current profile records of a basin. -/
def installedProfiles (d : Dev) (b : Nat) : List (List Byte) :=
  (d.txn.versions.filter (fun v => decide (v.basin = b ∧ v.cls = 3) && v.superseded.isNone)).map (·.desc)

def namesSlot (p : List Byte) (cls slot : Nat) : Bool := (Prof.names p).contains (cls, slot)

/-- N_TOK of a model's vocabulary image. -/
def vocabNTok (d : Dev) (v : Version) : Acc Nat := (vRead d v.basin (Mdl.vocabAddr v.desc + 8) 4).map leNat

/-- The model of a slot has a role. -/
def roleIs (d : Dev) (b slot role : Nat) : Bool :=
  match currentVer d b 4 slot with
  | some v => decide (Mdl.role v.desc = role)
  | none => false

/-- Models named by a profile, with the roles their fields require (R26). -/
def namedRoles (p : List Byte) : List (Nat × Nat) :=
  (if Prof.stage p 0 || Prof.stage p 1 then [(Prof.encModel p, 0)] else []) ++
  (if Prof.stage p 2 then [(Prof.rrModel p, 1)] else []) ++
  (if Prof.stage p 3 || Prof.stage p 4 || decide (Prof.grammar p ≠ 0xFF) then [(Prof.genModel p, 2)] else []) ++
  (if Prof.fbModel p ≠ 0xFFFF then [(Prof.fbModel p, 2)] else [])

/-- First case of R163. -/
def dimOk (d : Dev) (b : Nat) (p : List Byte) : Bool :=
  !Prof.stage p 1 ||
  (match currentVer d b 4 (Prof.encModel p), currentVer d b 0 (Prof.index p) with
   | some m, some x => decide (Mdl.outDim m.desc = Idx.D x.desc)
   | _, _ => true)

/-- The fallback's vocabulary is the generator's (R246, R255). -/
def fbDigestOk (d : Dev) (b : Nat) (p : List Byte) : Bool :=
  decide (Prof.fbModel p = 0xFFFF) ||
  (match currentVer d b 4 (Prof.genModel p), currentVer d b 4 (Prof.fbModel p) with
   | some g, some f => decide (g.digest = f.digest)
   | _, _ => false)

/-- R246. -/
def packChk (d : Dev) (b : Nat) (p : List Byte) : Chk :=
  if !Prof.stage p 3 then none
  else match currentVer d b 5 (Prof.tmpl p), currentVer d b 4 (Prof.genModel p) with
    | some t, some g =>
      (vocabOf d g).chk (fun voc =>
        need (decide (1 ≤ Prof.maxIn p ∧ fixedTok voc (segmentsOf t.desc) + Prof.maxIn p ≤ Prof.tokBudget p) && fbDigestOk d b p))
    | _, _ => some 1

/-- R283. -/
def gramChk (d : Dev) (b : Nat) (p : List Byte) : Chk :=
  if Prof.grammar p = 0xFF then none
  else match currentVer d b 2 (Prof.grammar p), currentVer d b 4 (Prof.genModel p) with
    | some g, some m => (vocabNTok d m).chk (fun n => need (decide (Gr.digest g.desc = m.digest ∧ Gr.nTok g.desc = n)))
    | _, _ => some 1

/-! ### Profiles (R26, R163, R179, R246, R255, R283) -/

def bf16Val (v : Nat) : FVal := bf16.decode v

def bf16Positive (v : Nat) : Bool :=
  match bf16Val v with
  | .fin neg m _ => !neg && decide (m ≠ 0)
  | _ => false

/-- Generation rules (R255) and the ranges that bind with them. -/
def genRules (d : Dev) (b : Nat) (p : List Byte) : Bool :=
  let heads := Prof.heads p
  let nSpec := match currentVer d b 4 (Prof.genModel p) with | some v => Mdl.nSpec v.desc | none => 0
  fbDigestOk d b p &&
  (if Prof.spec p = 1 then decide (1 ≤ heads ∧ heads ≤ nSpec) else decide (heads = 0)) &&
  (decide (Prof.sampling p = 0) || bf16Positive (Prof.temp p)) &&
  (!decide (Prof.sampling p = 2) || decide (1 ≤ Prof.topK p)) &&
  (!decide (Prof.sampling p = 3) || (bf16Positive (Prof.topP p) && (bf16Val (Prof.topP p)).le (fp32.decode 0x3F800000))) &&
  decide (1 ≤ Prof.maxTok p)

/-- Ranges and reserved bytes of a profile record (Table 1-4, R179). -/
def profRanges (p : List Byte) : Bool :=
  decide (byteAt p 0 < 32 ∧ byteAt p 1 < 32 ∧ byteAt p 2 < 8 ∧ byteAt p 3 < 128 ∧ Prof.spec p < 3) &&
  decide (1 ≤ Prof.L p ∧ Prof.L p ≤ 512 ∧ 1 ≤ Prof.W p ∧ Prof.W p ≤ 16 ∧ Prof.rewalk p ≤ 2 ∧ 1 ≤ Prof.hopLimit p ∧ 1 ≤ Prof.kSearch p) &&
  decide (1 ≤ Prof.rrDepth p ∧ Prof.rrDepth p ≤ 1024 ∧ Prof.rrDepth p ≤ Prof.kSearch p ∧ 1 ≤ Prof.rrTokens p ∧ Prof.rrTokens p ≤ 512) &&
  decide (Prof.grammar p < 16 ∨ Prof.grammar p = 0xFF) && decide (1 ≤ Prof.parkTtl p ∧ Prof.parkTtl p ≤ 86400) &&
  zeroAt p 78 2 && zeroAt p 96 32 &&
  decide (Prof.dlSearch p = 0 ∨ Prof.dlRerank p = 0 ∨ Prof.dlSearch p ≤ Prof.dlRerank p) &&
  decide (Prof.dlRerank p ≤ Prof.dlBase p ∧ Prof.dlModel p ≤ Prof.dlBase p) &&
  (decide (byteAt p 2 = 0) || decide (Prof.dlBase p ≠ 0)) && (!Prof.cheap p 2 || decide (Prof.fbModel p ≠ 0xFFFF)) &&
  decide (fieldN p 22 2 = 0 ∨ fieldN p 20 2 ≤ fieldN p 22 2) &&
  decide (fieldN p 24 2 &&& fieldN p 26 2 = fieldN p 24 2 ∧ fieldN p 28 2 &&& fieldN p 30 2 = fieldN p 28 2)

def profileChk (d : Dev) (b : Nat) (p : List Byte) : Chk :=
  firstFail
    [need (profRanges p), need (!decide (Prof.spec p = 2) || basinAttr d b 0),
     need ((Prof.names p).all (fun n => (currentVer d b n.1 n.2).isSome)),
     need ((namedRoles p).all (fun n => roleIs d b n.1 n.2)),
     need (decide (Prof.fbModel p = 0xFFFF) || (match currentVer d b 4 (Prof.fbModel p) with | some v => Mdl.marked v.desc | none => false)),
     need (dimOk d b p), need (!Prof.stage p 4 || genRules d b p), packChk d b p, gramChk d b p]

/-! ### Indexes (R150, R156) -/

def indexRanges (x : List Byte) : Bool :=
  decide (fieldN x 0 4 = 0x58444E49 ∧ fieldN x 4 2 = 1 ∧ (Idx.M x = 16 ∨ Idx.M x = 32) ∧ Idx.vecFmt x ≤ 3) &&
  decide (8 ≤ Idx.D x ∧ Idx.D x ≤ 1024 ∧ Idx.D x % Idx.M x = 0) && (decide (Idx.vecFmt x = 0) || decide (Idx.D x ≤ 768)) &&
  decide (Idx.metric x ≤ 1 ∧ 1 ≤ Idx.maxDeg x ∧ Idx.maxDeg x ≤ 48 ∧ 1 ≤ Idx.nPass x ∧ Idx.nPass x ≤ 4294967294) &&
  decide (1 ≤ Idx.nEntry x ∧ Idx.nEntry x ≤ 8) && zeroAt x 17 7 &&
  (List.range 8).all (fun i => if i < Idx.nEntry x then decide (Idx.entry x i < Idx.nPass x) else decide (Idx.entry x i = 0xFFFFFFFF)) &&
  decide (Idx.textStart x % 4096 = 0 ∧ 1 ≤ Idx.textBytes x ∧ Idx.cachePages x ≤ 131072) && zeroAt x 116 4 && zeroAt x 128 128 &&
  decide (Idx.codebook x % 65536 = 0 ∧ Idx.pq x % 65536 = 0 ∧ Idx.tomb x % 65536 = 0 ∧ Idx.dir x % 65536 = 0)

def indexChk (d : Dev) (b addr slot : Nat) (x : List Byte) : Chk :=
  firstFail
    ([need (indexRanges x), mappedAll d b addr 256 inHbm] ++ (memRegions 0 x).map (fun r => mappedAll d b r.1 r.2 inHbm) ++
     [need ((flashExtents 0 x).all (fun e => decide (e.1 + e.2 ≤ nsCap d b))), need (freeOfClaims d b 0 x),
      need ((installedProfiles d b).all (fun p => !(Prof.stage p 1 && decide (Prof.index p = slot)) ||
        (match currentVer d b 4 (Prof.encModel p) with | some m => decide (Mdl.outDim m.desc = Idx.D x) | none => true)))])

/-! ### Tables (R206) -/

def tableRanges (x : List Byte) : Bool :=
  decide (fieldN x 0 4 = 0x4C424154 ∧ fieldN x 4 2 = 1 ∧ Tbl.fmt x ≤ 4 ∧ byteAt x 7 < 8 ∧ 64 ≤ Tbl.rowBytes x ∧ Tbl.rowBytes x ≤ 16384 ∧
    Tbl.rowBytes x % 64 = 0 ∧ 1 ≤ Tbl.rowCount x ∧ Tbl.rowCount x ≤ 2 ^ 38) && zeroAt x 12 4 && zeroAt x 52 76 &&
  decide (Tbl.base x % 65536 = 0 ∧ Tbl.absent x % 65536 = 0) && (Tbl.hasRate x || decide (Tbl.rate x = 0)) &&
  (Tbl.pool x || decide (Tbl.cachePages x = 0)) &&
  (!Tbl.writable x || decide (Tbl.fmt x ≤ 1)) && (!Tbl.hasRate x || Tbl.writable x)

def tableChk (d : Dev) (b : Nat) (x : List Byte) : Chk :=
  firstFail
    [need (tableRanges x),
     mappedAll d b (Tbl.base x) (Tbl.rowCount x * Tbl.rowBytes x) (fun m => m.pool == Tbl.pool x && (!Tbl.writable x || m.write)),
     mappedAll d b (Tbl.absent x) (bitmapBytes (Tbl.rowCount x)) inHbm,
     if Tbl.hasRate x then mappedAll d b (Tbl.rate x) (4 * Tbl.rowCount x) inHbm else none,
     need (freeOfClaims d b 1 x)]

/-! ### Grammars (R282) -/

def grammarChk (d : Dev) (b slot : Nat) (x : List Byte) : Chk :=
  firstFail
    ([need (gramDescOk x)] ++ (memRegions 2 x).map (fun r => mappedAll d b r.1 r.2 inHbm) ++
     [(vRead d b (Gr.clsAddr x) (2 * Gr.nTok x)).chk fun cls =>
      (vRead d b (Gr.stAddr x) (16 * Gr.nState x)).chk fun st =>
      (vRead d b (Gr.trAddr x) (Gr.trBytes x)).chk fun tr =>
      (vRead d b (Gr.mkAddr x) (Gr.mkBytes x)).chk fun mk => need (imageOk x cls st tr mk),
      need (freeOfClaims d b 2 x)] ++
     ((keptOf d b).filter (fun v => decide (v.cls = 4 ∧ v.digest = Gr.digest x))).map (fun v =>
       (vocabNTok d v).chk (fun n => need (decide (n = Gr.nTok x)))) ++
     ((installedProfiles d b).filter (fun p => decide (Prof.grammar p = slot))).map (fun p =>
       match currentVer d b 4 (Prof.genModel p) with
       | some m => (vocabNTok d m).chk (fun n => need (decide (Gr.digest x = m.digest ∧ Gr.nTok x = n)))
       | none => some 1))

/-! ### Models (R233, R253, R369, R373) -/

def modelRanges (x : List Byte) : Bool :=
  let role := Mdl.role x
  decide (fieldN x 0 4 = 0x4C444F4D ∧ fieldN x 4 2 = 1 ∧ role ≤ 2 ∧ byteAt x 7 < 2 ∧ byteAt x 8 ≤ 5) &&
  [0, 1, 2, 5].contains (byteAt x 9) && decide (1 ≤ Mdl.nLayer x ∧ Mdl.nLayer x ≤ 256) &&
  decide (64 ≤ fieldN x 12 2 ∧ fieldN x 12 2 ≤ 16384 ∧ fieldN x 12 2 % 32 = 0 ∧ 1 ≤ byteAt x 14 ∧ byteAt x 14 ≤ 128) &&
  decide (1 ≤ Mdl.nKv x ∧ Mdl.nKv x ≤ byteAt x 14 ∧ byteAt x 14 % Mdl.nKv x = 0 ∧ 32 ≤ Mdl.headDim x ∧ Mdl.headDim x ≤ 256 ∧ Mdl.headDim x % 32 = 0) &&
  decide (Mdl.nSpec x ≤ 7) && (decide (role = 2) || decide (Mdl.nSpec x = 0)) && zeroAt x 19 1 &&
  decide (1 ≤ Mdl.maxCtx x ∧ Mdl.maxCtx x ≤ 131072) && (if role = 0 then decide (8 ≤ Mdl.outDim x ∧ Mdl.outDim x ≤ 1024) else decide (Mdl.outDim x = 0)) &&
  decide (1 ≤ Mdl.window x ∧ Mdl.window x ≤ Mdl.nLayer x ∧ Mdl.prefetch x ≤ Mdl.nLayer x) && zeroAt x 30 2 && zeroAt x 68 60 &&
  decide (Mdl.vocabAddr x % 64 = 0)

/-- The vocabulary image at an address. -/
def vocabImage (d : Dev) (b a : Nat) : Acc (List Byte) := (vRead d b a 64).bind (fun h => vRead d b a (vocabLen h))

/-- Every page of a range is mapped with EXEC set. -/
def execAll (d : Dev) (b a n : Nat) : Chk := mappedAll d b a n (·.exec)

/-- The pages of one job image, over the length that its header gives (R253, R315). -/
def imageChk (d : Dev) (b a : Nat) : Chk :=
  firstFail [execAll d b a 128, (vRead d b a 128).chk (fun h =>
    firstFail [execAll d b (a + Img.segOff h) (16 * Img.nSeg h),
      (vRead d b (a + Img.segOff h) (16 * Img.nSeg h)).chk (fun tbl => execAll d b a (imgLen h tbl))])]

/-- Every page of a job-image set: those that describe it, and those of every job image that it contains (R253). -/
def jobSetChk (d : Dev) (b job : Nat) : Chk :=
  let pages := Config.jobSetPages job
  firstFail [execAll d b job 1, firstFail (pages.map (fun p => execAll d b (p * 65536) 65536)),
    ((pages.map (fun p => vRead d b (p * 65536) 65536)).foldl (fun acc x => acc.bind (fun bs => x.map (bs ++ ·))) (Acc.ok [])).chk
      (fun bs => firstFail ((Config.jobSetImages job bs).map (imageChk d b)))]

/-- Installed profiles still hold once the slot has this model (R246, R253, R255, R283). `d` has it installed. -/
def modelProfilesChk (d : Dev) (b slot : Nat) (x : List Byte) : Chk :=
  firstFail ((installedProfiles d b).filter (fun p => namesSlot p 4 slot) |>.flatMap (fun p =>
    [need ((namedRoles p).all (fun n => !decide (n.1 = slot) || decide (n.2 = Mdl.role x))),
     need (!decide (Prof.fbModel p = slot) || Mdl.marked x), need (!Prof.stage p 4 || fbDigestOk d b p), packChk d b p, gramChk d b p]))

def modelChk (d : Dev) (b : Nat) (x : List Byte) : Chk :=
  firstFail
    [need (modelRanges x), (vocabImage d b (Mdl.vocabAddr x)).chk (fun img => need (vocabOk img)),
     jobSetChk d b (Mdl.jobAddr x),
     need ((flashExtents 4 x).all (fun e => decide (e.1 + e.2 ≤ nsCap d b))), need (freeOfClaims d b 4 x),
     (readWeights d b x).chk (fun img => firstFail [need (weightOk x img), need (weirFits d x img)])]

/-! ### Pack templates (R244, R245) -/

def templateOk (x : List Byte) : Bool :=
  let n := byteAt x 6
  let pool := fieldN x 8 4
  let segs := (List.range n).map (fun i => (x.drop (16 + 16 * i)).take 16)
  let textOk := fun (off len : Nat) => if len = 0 then decide (off = 0)
    else decide (off + len ≤ pool) && validUtf8 (((x.drop (16 + 16 * n)).drop off).take len)
  decide (fieldN x 0 4 = 0x4C504D54 ∧ fieldN x 4 2 = 1 ∧ 1 ≤ n ∧ n ≤ 32 ∧ byteAt x 7 = 0 ∧ pool ≤ 65535) && zeroAt x 12 4 &&
  segs.all (fun s => decide (1 ≤ byteAt s 0 ∧ byteAt s 0 ≤ 3) && zeroAt s 1 3 && zeroAt s 12 4 &&
    textOk (fieldN s 4 2) (fieldN s 6 2) &&
    (if byteAt s 0 = 1 then decide (fieldN s 8 2 = 0 ∧ fieldN s 10 2 = 0) else textOk (fieldN s 8 2) (fieldN s 10 2))) &&
  decide ((segs.filter (fun s => decide (byteAt s 0 = 2))).length = 1) && decide ((segs.filter (fun s => decide (byteAt s 0 = 3))).length ≤ 1)

/-! ### Descriptors -/

/-- Alignment of a descriptor or record. -/
def descAlign (cls : Nat) : Nat := match cls with | 0 => 256 | 3 => 1 | 5 => 64 | _ => 128

/-- Slots of a class. -/
def slotCount (cls : Nat) : Nat := match cls with | 1 => 256 | 2 => 16 | 3 => 32 | _ => 64

/-- The record at an address. -/
def readDesc (d : Dev) (b cls a : Nat) : Acc (List Byte) :=
  if cls = 0 then vRead d b a 256
  else if cls = 5 then (vRead d b a 16).bind (fun h => vRead d b a (16 + 16 * (byteAt h 6 % 33) + fieldN h 8 4 % 65536))
  else vRead d b a 128

/-- Rules of the object itself, judged before it is installed. -/
def objectChk (d : Dev) (b cls slot a : Nat) (x : List Byte) : Chk :=
  match cls with
  | 0 => indexChk d b a slot x
  | 1 => tableChk d b x
  | 2 => grammarChk d b slot x
  | 3 => profileChk d b x
  | 4 => modelChk d b x
  | _ => need (templateOk x)

/-- Emptying a slot (R156, R253, R283, R246). -/
def emptyChk (d : Dev) (b cls slot : Nat) : Chk :=
  if cls = 1 ∨ cls = 3 then none else need ((installedProfiles d b).all (fun p => !namesSlot p cls slot))

/-- What installed profiles require of a template or model once the slot has it; `d` has it installed. -/
def afterChk (d : Dev) (b cls slot : Nat) (x : List Byte) : Chk :=
  match cls with
  | 4 => modelProfilesChk d b slot x
  | 5 => firstFail (((installedProfiles d b).filter (fun p => namesSlot p 5 slot)).map (packChk d b))
  | _ => none

end Sys2Proof.Machine
end

