-- ==== Sys2Proof/Machine/Dies.lean ====
section
/-! DEFINITION. The flash array: its dies, its geometry, stripes and parity, where a sector lies, wear (R54, R380, R381, R386). -/

namespace Sys2Proof.Machine

/-! ### Dies (R402, R403): die n has its channel in [4:0] and its die in [7:5] -/

/-- A die with copy a of its epoch. -/
def dieRaw (d : Dev) (n : Nat) : Die := SMap.get (fun _ => ⟨0, 0, 0⟩) d.flash.dies n

/-- Copies b and c of a die's epoch, where the three differ. -/
def dieCopies (d : Dev) (n : Nat) : Option (Nat × Nat) := (d.flash.dieTmr.find? (fun t => decide (t.1 = n))).map (·.2)

/-- The vote of a die's epoch; none without a majority. -/
def dieEpoch (d : Dev) (n : Nat) : Option Nat :=
  match dieCopies d n with
  | none => some (dieRaw d n).epoch
  | some (b, c) => vote (dieRaw d n).epoch b c

/-- A die as every read and use sees it: its epoch voted, zero without a majority (R116, R117). -/
def dieAt (d : Dev) (n : Nat) : Die := { (dieRaw d n) with epoch := (dieEpoch d n).getD 0 }

/-- Write a die with copy a of its epoch, and the copies that differ from it. -/
def putDie (d : Dev) (n : Nat) (v : Die) (copies : Option (Nat × Nat)) : Dev :=
  { d with flash.dies := SMap.set (fun _ => ⟨0, 0, 0⟩) d.flash.dies n v,
           flash.dieTmr := d.flash.dieTmr.filter (fun t => !decide (t.1 = n)) ++ (match copies with | some x => [(n, x)] | none => []) }

/-- Write a die; an epoch that changes is written in all three copies. -/
def setDie (d : Dev) (n : Nat) (v : Die) : Dev :=
  let kept := decide (v.epoch = (dieAt d n).epoch)
  putDie d n (if kept then { v with epoch := (dieRaw d n).epoch } else v) (if kept then dieCopies d n else none)

/-- A vote of a die's epoch (R118): FLC_DIE_STATE's page takes the mark. -/
def voteDie (before d : Dev) (n : Nat) : Dev :=
  match dieCopies d n, dieEpoch d n with
  | some c, some e =>
    let whole := putDie d n { (dieRaw d n) with epoch := e } none
    if (dieRaw d n).epoch = e ∧ c = (e, e) then whole else voteMismatch whole (regA .flc 0 0x144) false
  | some _, none => voteLost d (regA .flc 0 0x144) (dieEpoch before n).isNone
  | none, _ => d

/-! ### Geometry (R380) -/

/-- Parity group of a die. -/
def dieGroup (n : Nat) : Nat := n % 32 / 16 * 8 + n / 32

/-- Die `j` of a parity group. -/
def groupDie (g j : Nat) : Nat := 16 * (g / 8) + j % 16 + 32 * (g % 8)

/-- A place of the array: stripe n of group g, the page on the group's die j, one of the four sectors of the page. -/
def placeNum (g n j q : Nat) : Nat := ((n * 16 + g) * 16 + j) * 4 + q

def placeDie (p : Nat) : Nat := groupDie (p / 64 % 16) (p / 4 % 16)

/-- The die of the parity page of stripe n, within its group. -/
def parityDie (n : Nat) : Nat := n % 16

/-- Stripes of a parity group: 16 KiB pages of a 64 GiB die. -/
def stripes : Nat := 4194304

/-- Groups with a die in service. -/
def openGroups (d : Dev) : List Nat := (List.range 16).filter (fun g => (List.range 16).any (fun j => decide ((dieAt d (groupDie g j)).state = 0)))

/-- The place that FWP2 programs next: a data page, that holds no sector, of a die in service (R380, R403). -/
def newPlace (d : Dev) (n : Nat) : Nat :=
  let x := Config.freshSector n
  let gs := openGroups d
  let g := gs.getD (x % 16 % max 1 gs.length) 0
  let tries := (List.range (d.mem.place.length + 1)).map (fun i =>
    let stripe := (x / 1024 + i) % stripes
    let js := (List.range 16).filter (fun j => decide (j ≠ parityDie stripe ∧ (dieAt d (groupDie g j)).state = 0))
    placeNum g stripe (js.getD (x / 64 % 16 % (max 1 js.length)) ((parityDie stripe + 1) % 16)) (x / 16 % 4))
  (tries.find? (fun p => !d.mem.place.any (fun y => decide (y.2.2 = p)))).getD 0

/-- Where a sector lies. -/
def sectorPlace (d : Dev) (b s : Nat) : Nat :=
  match d.mem.place.find? (fun x => decide (x.1 = b ∧ x.2.1 = s)) with | some x => x.2.2 | none => 0

/-- Die of a sector. -/
def sectorDie (d : Dev) (b s : Nat) : Nat := placeDie (sectorPlace d b s)

/-! ### Keys (R55) -/

/-- A key pair is generated, stored wrapped, and loaded into the basin's key slot (R55). -/
def newKey (d : Dev) (b : Nat) : Dev :=
  let (n, d) := draw d
  let (m, d) := draw d
  let k := Config.rng n ++ Config.rng m
  { d with flash.wrapped := d.flash.wrapped.filter (fun k => !decide (k.1 = b)) ++ [(b, ⟨k⟩)],
           flash.slots := d.flash.slots.filter (fun k => !decide (k.1 = b)) ++ [(b, k)] }

/-! ### What the array holds (R54, R380) -/

/-- A sector as the array stores it: encrypted under the basin's key, its number the tweak. -/
def storedSector (d : Dev) (b s : Nat) : List Byte :=
  match d.flash.slots.find? (fun k => decide (k.1 = b)) with
  | some k => Aes.xts k.2 s (Mem.readN d.mem.flash (nsKey b (s * 4096)) 4096)
  | none => []

/-- The sector at a place; zeros where none lies. -/
def sectorAt (d : Dev) (p : Nat) : List Byte :=
  match d.mem.place.find? (fun x => decide (x.2.2 = p)) with
  | some x => storedSector d x.1 x.2.1
  | none => List.replicate 4096 0

/-- A sector of the parity page of a stripe: the XOR of the same sectors of its 15 data pages. -/
def paritySector (d : Dev) (g n q : Nat) : List Byte :=
  (((List.range 16).filter (fun j => decide (j ≠ parityDie n))).map (fun j => sectorAt d (placeNum g n j q))).foldl Aes.xorL
    (List.replicate 4096 0)

/-- A sector as its stripe rebuilds it, from the same position of the other 15 pages (R381). -/
def rebuiltSector (d : Dev) (p : Nat) : List Byte :=
  let g := p / 64 % 16
  let n := p / 1024
  (((List.range 16).filter (fun j => decide (j ≠ parityDie n ∧ j ≠ p / 4 % 16))).map (fun j => sectorAt d (placeNum g n j (p % 4)))).foldl
    Aes.xorL (paritySector d g n (p % 4))

/-! ### Programs and wear (R381, R386) -/

/-- No spare block remains: the flash is read-only. -/
def flashReadOnly (d : Dev) : Bool := decide (d.mem.spare = 0)

/-- A program wears the flash (R386): what spare blocks remain after it is free, and never more than before. -/
def wear (d : Dev) : Dev :=
  let (n, d) := draw d
  let old := d.mem.spare
  let new := min old (Config.sparePct n)
  let thr := liveN d .flc 0 0x130
  let d := { d with mem.spare := new }
  let d := if thr ≤ old ∧ new < thr then setStat d .flc 0 2 else d
  if 0 < old ∧ new = 0 then setStat d .flc 0 3 else d

/-- A sector is programmed into a fresh page. -/
def programSector (d : Dev) (b s : Nat) : Dev :=
  let (n, d) := draw (wear d)
  { d with mem.place := d.mem.place.filter (fun x => !decide (x.1 = b ∧ x.2.1 = s)) ++ [(b, s, newPlace d n)],
           flash.erased := d.flash.erased.filter (fun x => !decide (x = (b, s))) }

/-- FWP2 relocates a sector (R381), which stops while the flash is read-only (R386); while FWP2 restarts, it waits. -/
def relocate (d : Dev) (b s : Nat) : Dev :=
  if flashReadOnly d then d
  else if fwpRuns d 2 then programSector d b s
  else { d with flash.moves := d.flash.moves.filter (fun x => !decide (x = (b, s))) ++ [(b, s)] }

/-- The relocations that waited for FWP2. -/
def releaseMoves (d : Dev) : Dev :=
  d.flash.moves.foldl (fun d x => if d.mem.alloc.contains x then relocate d x.1 x.2 else d) { d with flash.moves := [] }

/-- Sectors that lie on a die. -/
def onDie (d : Dev) (n : Nat) : List (Nat × Nat) := d.mem.alloc.filter (fun x => decide (sectorDie d x.1 x.2 = n) && !d.flash.erased.contains x)

end Sys2Proof.Machine
end

