-- ==== Sys2Proof/Machine/Weir.lean ====
section
/-! DEFINITION. Model loads, the weir, write-back (R370–R379), the start and end of a pass (R261, R373–R375). -/

namespace Sys2Proof.Machine

/-! ### Write-back (R378, R379) -/

/-- A namespace sector's cached bytes go to flash: a fresh page holds them. -/
def flushSector (d : Dev) (b s : Nat) : Dev :=
  if d.mem.dirty.contains (b, s) then
    let a := nsKey b (s * 4096)
    let d := programSector d b s
    { d with mem.flash := Mem.writeL d.mem.flash a (Mem.readN d.mem.wcache a 4096),
             mem.wcache := Mem.clear d.mem.wcache a (a + 4096),
             mem.dirty := d.mem.dirty.filter (fun x => !decide (x = (b, s))),
             mem.unreadable := d.mem.unreadable.filter (fun x => !decide (x = (b, s))) }
  else d

/-- Flush the dirty sectors that satisfy `p`. -/
def flushWhere (d : Dev) (p : Nat × Nat → Bool) : Dev := (d.mem.dirty.filter p).foldl (fun d x => flushSector d x.1 x.2) d

/-- Dirty hot rows that satisfy `p` are written back to the pool. -/
def cleanRows (d : Dev) (p : Nat × Nat → Bool) : Dev :=
  { d with eng.rowCache := d.eng.rowCache.map (fun e => if p (e.1, e.2.1) then (e.1, e.2.1, false) else e),
           eng.rowsHeld := d.eng.rowsHeld.filter (fun e => !p e) }

/-- A write-back may reach the pool: both ports of the map are up. -/
def rowPortsUp (d : Dev) (uid : Nat) : Bool := match findVer d uid with | some v => portsUp d v | none => true

/-- The dirty row of a version that was written least recently. -/
def oldestRow (d : Dev) (uid : Nat) : Option (Nat × Nat) :=
  d.eng.rowWrites.find? (fun w => decide (w.1 = uid) && d.eng.rowCache.any (fun e => decide ((e.1, e.2.1) = w) && e.2.2))

/-- WRITE_BACK (R378): the namespace sector of the write cache, or the hot row of a table version, that was written least
recently. -/
def writeBackOp (d : Dev) (row : Bool) (owner unit : Nat) : Dev :=
  if row then (if rowPortsUp d owner && !d.eng.rowsHeld.contains (owner, unit) && decide (oldestRow d owner = some (owner, unit)) then cleanRows d (fun e => decide (e = (owner, unit))) else d)
  else if fwpRuns d 2 && decide (d.mem.dirty.head? = some (owner, unit)) then flushSector d owner unit else d

def execWriteBack (row : Bool) (owner unit : Nat) (s : State) : Host.Outcome State Fault Refusal := ok s (writeBackOp s.dev row owner unit)

/-! ### Loads (R370–R372) -/

/-- Models that a request's profile names and that its stages wait for. -/
def Req.models (r : Req) : List Nat := [r.pins.enc, r.pins.rr, r.pins.gen, r.pins.fb].filterMap id

/-- An idle version (R371): no pass of it runs and no admitted request names it. -/
def verIdle (d : Dev) (uid : Nat) : Bool :=
  !d.eng.passes.any (fun p => decide (p.model = uid)) && !d.reqs.any (fun r => r.live && (Req.models r).contains uid)

/-- On-demand versions of a basin that may be evicted, least recently used first. -/
def evictable (d : Dev) (b : Nat) : List Version :=
  sortBy (fun x y => decide (x.lastUse ≤ y.lastUse))
    (d.txn.versions.filter (fun v => decide (v.basin = b ∧ v.cls = 4) && v.kept && v.resident && !Mdl.marked v.desc && verIdle d v.uid))

def countWeir (d : Dev) (off n : Nat) : Dev := (List.range 4).foldl (fun d m => count d .weir m off n) d

/-- A version's frames leave HBM. -/
def evict (d : Dev) (uid : Nat) : Dev := dropModel (modVer d uid (fun v => { v with resident := false })) uid

/-- Evicting every version of a list makes room for a charge. -/
def makesRoom (d : Dev) (b pages : Nat) (vs : List Version) : Bool :=
  fitsHbm (vs.foldl (fun d v => evict d v.uid) d) b pages

/-- Evict until a charge fits. -/
def evictFor (b pages : Nat) : List Version → Dev → Dev
  | [], d => d
  | v :: vs, d =>
    if fitsHbm d b pages then d
    else evictFor b pages vs (countWeir (evict d v.uid) 0x118 1)

/-- An admitted request needs the version (R371). -/
def wanted (d : Dev) (uid : Nat) : Bool :=
  d.reqs.any (fun r => r.live && decide (r.pins.enc = some uid ∨ r.pins.rr = some uid ∨ r.pins.gen = some uid))

/-- MODEL_LOAD_START (R371): the load starts once its charge fits. Its first try evicts what is idle; a later one evicts only
if that makes room. -/
def loadStartOp (d : Dev) (uid : Nat) : Dev :=
  match findVer d uid with
  | none => d
  | some v =>
    if v.cls ≠ 4 || !v.kept || v.resident || v.loading || !wanted d uid then d
    else
      let n := Mdl.hbmPages v.desc
      let vs := evictable d v.basin
      let d := if !v.loadWaits || makesRoom d v.basin n vs then evictFor v.basin n vs d else d
      if fitsHbm d v.basin n then modVer d uid (fun v => { v with loading := true, loadWaits := false })
      else modVer d uid (fun v => { v with loadWaits := true })

/-- The stages that waited for a version go on. -/
def wakeModel (d : Dev) (uid : Nat) : Dev :=
  d.reqs.foldl (fun d r =>
    if !r.live || r.busy then d
    else if (decide (r.stage = .embed) && decide (r.pins.enc = some uid)) || (decide (r.stage = .fetchRank) && decide (r.pins.rr = some uid)) then
      modReq (useModel d (some uid)) r.slot (fun r => { r with busy := true })
    else if decide (r.stage = .model) && decide (r.pins.gen = some uid) then chooseModel d r.slot
    else d) d

/-- MODEL_LOAD_DONE (R371): every frame is held. -/
def loadDoneOp (d : Dev) (uid : Nat) : Dev :=
  match findVer d uid with
  | none => d
  | some v =>
    if !v.loading then d
    else match readWeights d v.basin v.desc with
      | .ok x => wakeModel (countWeir (holdModel (modVer d uid (fun v => { v with loading := false, resident := true, lastUse := d.now })) uid x) 0x114 1) uid
      | _ => d

/-- Requests that wait for a version. -/
def waitsFor (r : Req) (uid : Nat) : Bool :=
  r.live && !r.busy &&
  ((decide (r.stage = .embed) && decide (r.pins.enc = some uid)) || (decide (r.stage = .fetchRank) && decide (r.pins.rr = some uid)) ||
   (decide (r.stage = .model) && decide (r.pins.gen = some uid)))

/-- LOAD_FAIL (R372): the frame cannot be read or rebuilt. -/
def loadFailOp (d : Dev) (uid frame : Nat) : Dev :=
  match findVer d uid with
  | none => d
  | some v =>
    if !v.loading then d
    else
      let hdr := match nsRead d v.basin (Mdl.imgSector v.desc * 4096) (64 + 8 * Mdl.nLayer v.desc) with | .ok x => x | _ => []
      let m := frameMere (WImg.layers hdr) frame
      let d := setStat (modVer d uid (fun v => { v with loading := false })) .weir m 2 v.basin noTag (BitVec.ofNat 32 frame) (BitVec.ofNat 32 (v.slot % 64))
      (d.reqs.filter (fun r => waitsFor r uid)).foldl (fun d r => endAt d r.slot 0x41) d

def execModelLoadStart (uid : Nat) (s : State) : Host.Outcome State Fault Refusal := ok s (loadStartOp s.dev uid)
def execModelLoadDone (uid : Nat) (s : State) : Host.Outcome State Fault Refusal := ok s (loadDoneOp s.dev uid)
def execLoadFail (uid frame : Nat) (s : State) : Host.Outcome State Fault Refusal := ok s (loadFailOp s.dev uid frame)

/-! ### Passes at the weir (R373–R375) -/

/-- The version of a pass that is to start. -/
def passVersion (d : Dev) (slots : List Nat) : Option Version :=
  (slots.head?.bind (findReq d)).bind (fun r => r.stream.bind (fun s => findVer d s.model))

/-- The window fits beside those of the passes that the weir serves. -/
def weirRoom (d : Dev) (v : Version) : Bool :=
  (List.range 4).all (fun m => decide
    (((d.eng.passes.filterMap (fun p => findVer d p.model)).map (windowBytes · m)).sum + windowBytes v m ≤ weirMib d m * 2 ^ 20))

/-- A stream waits at the weir before the streams given: its class is lower, or the same and it has been ready for longer (R373).
It waits since its pass found no place, or is of another version for which there is no room. -/
def weirBefore (d : Dev) (v : Version) (slots : List Nat) : Bool :=
  let rank := fun (r : Req) => r.stream.map (fun s => (r.passPrio, s.ready))
  let best := slots.filterMap (fun s => (findReq d s).bind rank)
  d.reqs.any (fun r => match r.stream, readyKind r with
    | some s, some k => (match findVer d s.model with
      | some u => (d.eng.weirWait.contains r.slot || (decide (u.uid ≠ v.uid) && !weirRoom d u)) && !slots.contains r.slot && u.resident &&
          joins d k u.uid r.basin r.slot && verFits d u && best.all (fun x => decide (r.passPrio < x.1 ∨ (r.passPrio = x.1 ∧ s.ready < x.2)))
      | none => false)
    | _, _ => false)

/-- Set NO_FIT where the window does not fit. -/
def noFit (d : Dev) (v : Version) : Dev :=
  (List.range 4).foldl (fun d m => if windowIn d v m then d else setStat d .weir m 0 v.basin noTag 0 (BitVec.ofNat 32 (v.slot % 64))) d

/-- A pass waits at the weir. -/
def weirWaits (d : Dev) (slots : List Nat) : Dev := { d with eng.weirWait := d.eng.weirWait.filter (fun s => !slots.contains s) ++ slots.take 1 }

/-- Prefetched layers of a mere are discarded (R375). -/
def dropPrefetch (d : Dev) (m : Nat) : Dev :=
  let n := ((d.eng.prefetch.filter (fun p => decide (p.1 = m))).map (fun p => p.2.2.1)).sum
  count { d with eng.prefetch := d.eng.prefetch.filter (fun p => !decide (p.1 = m)) } .weir m 0x10C n

/-- The pass that has just started takes the layers prefetched for its version; those for another are discarded. -/
def takePrefetch (d : Dev) (v : Version) (id : Nat) : Dev :=
  let mine := d.eng.prefetch.filter (fun p => decide (p.2.1 = v.uid))
  let of := fun (f : Nat × Nat × Nat × Nat × Nat → Nat) (m : Nat) => ((mine.find? (fun p => decide (p.1 = m))).map f).getD 0
  let ahead := (List.range 4).map (fun m => (of (·.2.2.1) m, of (·.2.2.2.2) m))
  let all := fun (f : Nat × Nat → Nat) => (ahead.map f).foldl min 1000
  let begun := max (all (·.1)) (min (Mdl.window v.desc) (Mdl.nLayer v.desc))
  let bad := (List.range begun).flatMap (fun l => (List.range 4).flatMap (layerPoison d v.uid l))
  let d := { d with eng.prefetch := d.eng.prefetch.filter (fun p => !decide (p.2.1 = v.uid)) }
  let d := (List.range 4).foldl dropPrefetch d
  { d with eng.passes := modWhere (fun p => decide (p.id = id)) (fun p =>
      { p with landed := all (·.2), written := begun, ahead := ahead, next := List.replicate 4 (0, 0), bad := bad }) d.eng.passes }

/-- PASS_START (R261, R373): a pass of a version that does not fit waits at the weir, and so does one whose window finds no
room beside those of the passes under way, or that came after another that waits. -/
def weirPassStart (d : Dev) (mere : Nat) (slots : List Nat) : Dev :=
  match passVersion d slots with
  | none => d
  | some v =>
    if !verFits d v then noFit d v
    else if !weirRoom d v || weirBefore d v slots then weirWaits d slots
    else
      let id := d.eng.nextId
      let d := passStartOp d mere slots
      if d.eng.passes.any (fun p => decide (p.id = id)) then takePrefetch { d with eng.weirWait := d.eng.weirWait.filter (fun s => !slots.contains s) } v id else d

/-- PASS_END: layers written for the next pass stay prefetched. -/
def weirPassEnd (d : Dev) (id : Nat) (errs : List ReadError) : Dev :=
  match d.eng.passes.find? (fun p => decide (p.id = id)) with
  | none => d
  | some p =>
    let kept := match findVer d p.model with
      | some _ => (List.range 4).filterMap (fun m => let n := p.next.getD m (0, 0); if n.1 = 0 then none else some (m, p.model, n.1, d.now, n.2))
      | none => []
    let d := passEndOp d id errs
    { d with eng.prefetch := kept ++ d.eng.prefetch.filter (fun q => !decide (q.2.1 = p.model ∧ kept.any (fun k => decide (k.1 = q.1)))) }

/-- Layers that a pass may have written: its own, and the first min(PREFETCH, WINDOW) of the next pass. -/
def layerLimit (d : Dev) (v : Version) : Nat :=
  Mdl.nLayer v.desc + (if (List.range 4).any (fun m => ctlBit d .weir m 0) then min (Mdl.prefetch v.desc) (Mdl.window v.desc) else 0)

/-- Bytes that the weir of a mere writes for a layer, counted from the first layer of a pass on. -/
def layerBytes (d : Dev) (v : Version) (layer m : Nat) : Nat :=
  match modelAt d v.uid with
  | some h => ((mereFrames h.dir (h.layers.getD (layer % Mdl.nLayer v.desc) (0, 0)) m).map (writtenBytes h.pitch)).sum
  | none => 0

def setNext (d : Dev) (pass m : Nat) (n : Nat × Nat) : Dev :=
  { d with eng.passes := modWhere (fun q => decide (q.id = pass)) (fun q => { q with next := (List.range 4).map (fun i => if i = m then n else q.next.getD i (0, 0)) }) d.eng.passes }

/-- The weir of a mere has landed a layer; one of the next pass is signalled when that pass starts (R374). -/
def landLayer (v : Version) (p : Pass) (layer : Nat) (d : Dev) (m : Nat) : Dev :=
  let j := layer - Mdl.nLayer v.desc
  let n := p.next.getD m (0, 0)
  let landed := fun (d : Dev) =>
    count { d with eng.weirBytes := SMap.set (fun _ => 0) d.eng.weirBytes m (SMap.get (fun _ => 0) d.eng.weirBytes m + layerBytes d v layer m) } .weir m 0x108 1
  if Mdl.nLayer v.desc ≤ layer then (if n.2 = j ∧ j < n.1 then landed (setNext d p.id m (n.1, j + 1)) else d)
  else if layer < (p.ahead.getD m (0, 0)).2 then d
  else landed (signalLanded d p m true)

/-- LAYER_LANDED (R374): layers land in order, on each mere but those that hold the layer already. -/
def layerLandedOp (d : Dev) (pass layer : Nat) : Dev :=
  match d.eng.passes.find? (fun p => decide (p.id = pass)) with
  | none => d
  | some p =>
    match findVer d p.model with
    | none => d
    | some v =>
      if layer ≠ p.landed ∨ p.written ≤ layer then d
      else (List.range 4).foldl (landLayer v p layer)
        { d with eng.passes := modWhere (fun q => decide (q.id = pass)) (fun q => { q with landed := q.landed + 1 }) d.eng.passes }

/-- A word of the frames of a layer that a mere holds. -/
def layerWord (d : Dev) (uid layer m : Nat) : ErrorPlace → Option (Space × Nat)
  | .hbm a =>
    match modelAt d uid with
    | some h => if (mereIndices (h.layers.getD layer (0, 0)) m).any (fun f => match frameAddr h f with | some b => decide (b ≤ a ∧ a < b + 4096) | none => false)
        then some (.hbm, a / 8) else none
    | none => none
  | _ => none

/-- A mere's weir begins to write a layer, of the pass or, where PREFETCH_EN is set, of the next one. The cores have each waited for
1 on LANDED and signalled 1 on FREED; that the weir waited for it is counted. Poison goes with the words (R392). -/
def writeLayer (v : Version) (p : Pass) (layer : Nat) (errs : List ReadError) (d : Dev) (m : Nat) : Dev :=
  let j := layer - Mdl.nLayer v.desc
  let n := p.next.getD m (0, 0)
  let freed := fun (d : Dev) =>
    let x := draw (signalLanded d p m false)
    if Config.freedWaited x.1 then count x.2 .weir m 0x110 1 else x.2
  withErrors d ⟨.weir, m, v.basin, 2 ^ 20⟩ (fun d => layerWord d v.uid (layer % Mdl.nLayer v.desc) m) errs fun d =>
  if layer < Mdl.nLayer v.desc then
    freed { d with eng.passes := modWhere (fun q => decide (q.id = p.id)) (fun q => { q with bad := q.bad ++ layerPoison d v.uid layer m }) d.eng.passes }
  else if ctlBit d .weir m 0 && decide (n.1 = j) then freed (setNext d p.id m (j + 1, n.2))
  else d

/-- WEIR_LAYER_WRITE (R374, R375): the next layer goes into a slot whose layer the cores have freed, once FREED has reached
N_CORES, which the weir subtracts. When that is, the job images of the pass decide. An armed weir writes none (R112). -/
def layerWriteOp (d : Dev) (pass layer : Nat) (errs : List ReadError) : Dev :=
  match d.eng.passes.find? (fun p => decide (p.id = pass)) with
  | none => d
  | some p =>
    match findVer d p.model with
    | none => d
    | some v =>
      if layer ≠ p.written ∨ layerLimit d v ≤ layer ∨ p.landed + Mdl.window v.desc ≤ layer ∨ (List.range 4).any (fun m => isArmed d .weir m) then d
      else (List.range 4).foldl (writeLayer v p layer errs)
        { d with eng.passes := modWhere (fun q => decide (q.id = pass)) (fun q => { q with written := q.written + 1 }) d.eng.passes }

/-- PREFETCH_DROP (R375): no pass of the version has started within 1 ms. -/
def prefetchDropOp (d : Dev) (m : Nat) : Dev :=
  match d.eng.prefetch.find? (fun p => decide (p.1 = m)) with
  | none => d
  | some p => dropPrefetch (advanceTo d (p.2.2.2.1 + msCycles 1)) m

def execPassStart (mere : Nat) (slots : List Nat) (s : State) : Host.Outcome State Fault Refusal := forSlot s (slots.headD 0) (weirPassStart · mere slots)
def execPassEnd (r : Reads) (s : State) : Host.Outcome State Fault Refusal := ok s (orWait s.dev (weirPassEnd s.dev r.id r.errs))
def execLayerLanded (pass layer : Nat) (s : State) : Host.Outcome State Fault Refusal := ok s (layerLandedOp s.dev pass layer)
def execWeirLayerWrite (layer : Nat) (r : Reads) (s : State) : Host.Outcome State Fault Refusal := ok s (layerWriteOp s.dev r.id layer r.errs)
def execPrefetchDrop (mere : Nat) (s : State) : Host.Outcome State Fault Refusal := ok s (prefetchDropOp s.dev mere)

end Sys2Proof.Machine
end

