-- ==== Sys2Proof/Machine/Flash.lean ====
section
/-! DEFINITION. In-package flash: sector reads, dies, the load engine (R380–R386, R403, R407, R412). -/

namespace Sys2Proof.Machine

/-! ### Declaration of dies (R402, R403) -/

/-- A flash die is declared dead (R403, R412): with a second die of its parity group not yet relocated, the sectors of both
cannot be rebuilt. -/
def declareDie (d : Dev) (n cause : Nat) : Dev :=
  let v := dieAt d n
  if 256 ≤ n ∨ v.state ≠ 0 ∨ dieEpoch d n = none then d
  else
    let epoch := (v.epoch + 1) % 65536
    let other := (List.range 256).filter (fun k => decide (k ≠ n ∧ dieGroup k = dieGroup n ∧ (dieAt d k).state = 2))
    let d := setDie d n ⟨2, epoch, v.fails⟩
    let d := logEvent (setStat d .flch (n % 32) 2 0 noTag (BitVec.ofNat 32 (n / 32)) 0) 0xC (pageNo .flch (n % 32)) 0xFF noTag n cause epoch
    if other = [] then d
    else
      let lost := d.mem.alloc.filter (fun x => ((n :: other).contains (sectorDie d x.1 x.2) ||
        d.flash.erased.contains x && decide (dieGroup (sectorDie d x.1 x.2) = dieGroup n)) && !d.mem.unreadable.contains x)
      { d with mem.unreadable := d.mem.unreadable ++ lost }

/-- FLASH_DIE_TIMEOUT. -/
def dieTimeoutOp (d : Dev) (n : Nat) : Dev := declareDie d n 2

/-- DIE_RELOCATED (R412): the die's sectors move; where the flash becomes read-only meanwhile, the others stay (R386). -/
def dieRelocatedOp (d : Dev) (n : Nat) : Dev :=
  let v := dieAt d n
  if n < 256 ∧ v.state = 2 ∧ fwpRuns d 2 ∧ !flashReadOnly d then
    let d := (onDie d n).foldl (fun d x => relocate d x.1 x.2) d
    if onDie d n = [] then setDie d n { v with state := 1 } else d
  else d

/-- FWP2 erases a quarantined die, whose sectors that have not moved are first rebuilt elsewhere, and it is readmitted (R407). A
sector that a read-only flash cannot move goes on being served by rebuild: no data on the die is read again. -/
def readmitDie (d : Dev) (n : Nat) : Dev :=
  let v := dieAt d n
  if v.state = 0 then d
  else
    let d := (onDie d n).foldl (fun d x => relocate d x.1 x.2) d
    let d := { d with flash.erased := d.flash.erased ++ onDie d n }
    logEvent (setDie d n { v with state := 0, fails := 0 }) 0xF (pageNo .flch (n % 32)) 0xFF noTag n 0 v.epoch

/-- FLC_DIE_READMIT of the selected die; it waits while FWP2 does not run. -/
def dieReadmitOp (d : Dev) (w : W32) : Dev :=
  let n := liveN d .flc 0 0x140 % 256
  if !bitOf w.toNat 0 ∨ (dieAt d n).state = 0 then d
  else if fwpRuns d 2 then readmitDie d n
  else { d with flash.readmits := d.flash.readmits ++ [n] }

/-- The relocations and readmissions that waited for FWP2. -/
def releaseReadmits (d : Dev) : Dev :=
  let d := releaseMoves d
  d.flash.readmits.foldl readmitDie { d with flash.readmits := [] }

/-- PROG_FAIL (R403): the page is rewritten elsewhere; the 64th failure declares the die. -/
def progFailOp (d : Dev) (n page : Nat) : Dev :=
  let v := dieAt d n
  if 256 ≤ n ∨ v.state ≠ 0 then d
  else
    let d := setStat (setDie d n { v with fails := v.fails + 1 }) .flch (n % 32) 1 0 noTag (BitVec.ofNat 32 (n / 32 + page * 8)) 0
    if 64 ≤ v.fails + 1 then declareDie d n 3 else d

/-! ### Sector reads (R381) -/

/-- How a read ends: a sector of a dead die, or of an erased page, is served by rebuild until it has moved. -/
def readOutcome (d : Dev) (b s : Nat) (r : FlashRead) : FlashRead :=
  if ((dieAt d (sectorDie d b s)).state = 2 ∨ d.flash.erased.contains (b, s) = true) ∧ r ≠ .unreadable then .rebuilt else r

/-- Counters, status and records of a sector read; a sector that needed retries or a rebuild is relocated. -/
def sectorRead (d : Dev) (b s : Nat) (tag : W32) (r : FlashRead) : Dev :=
  let die := sectorDie d b s
  let c := die % 32
  let stat := fun (d : Dev) (bit : Nat) => setStat d .flc 0 bit b tag (BitVec.ofNat 32 s) (BitVec.ofNat 32 die)
  let d := count d .flch c 0x104 1
  match r with
  | .clean => d
  | .retried => relocate (logEvent (count d .flch c 0x110 1) 8 (pageNo .flch c) b tag s die) b s
  | .rebuilt =>
    let d := setStat (count (count d .flch c 0x110 1) .flch c 0x114 1) .flch c 0 b tag (BitVec.ofNat 32 (die / 32 + sectorPlace d b s / 1024 * 8)) 0
    relocate (logEvent (stat d 1) 9 (pageNo .flch c) b tag s die) b s
  | .unreadable =>
    let d := setStat (count (count d .flch c 0x110 1) .flch c 0x114 1) .flch c 0 b tag (BitVec.ofNat 32 (die / 32 + sectorPlace d b s / 1024 * 8)) 0
    let d := logEvent (stat d 0) 0xA (pageNo .flch c) b tag s die
    { d with mem.unreadable := if d.mem.unreadable.contains (b, s) then d.mem.unreadable else d.mem.unreadable ++ [(b, s)] }

/-- A sector that lies on flash: written, and not served from the write cache. -/
def onFlash (d : Dev) (b s : Nat) : Bool := d.mem.alloc.contains (b, s) && !d.mem.dirty.contains (b, s)

/-- Sectors of a passage's text: first and count; none for a span outside the text extent, which no read fetches (R383). -/
def textSectors (d : Dev) (v : Version) (n : Nat) : Nat × Nat :=
  let e := Idx.dir v.desc + 136 * (n / 64)
  match vRead d v.basin e 8, vRead d v.basin (e + 8 + 2 * (n % 64)) 2,
        (if n % 64 = 0 then Acc.ok [] else vRead d v.basin (e + 6 + 2 * (n % 64)) 2) with
  | .ok base, .ok hi, .ok lo =>
    let b := leNat base + leNat lo
    let e := leNat base + leNat hi
    if e < b ∨ b < Idx.textStart v.desc ∨ Idx.textStart v.desc + Idx.textBytes v.desc < e then (0, 0) else unitRange 4096 b (e - b)
  | _, _, _ => (0, 0)

/-- The weight image that a transaction in step 3 installs holds the sector (R490). -/
def txnSector (d : Dev) (r : Req) (s : Nat) : Bool :=
  decide (r.stage = .txnWait) &&
  (let l := inBytes d r
   (List.range (fieldN l 0 2)).any (fun i =>
     let a := (l.drop (32 + 32 * i)).take 32
     decide (byteAt a 0 = 4 ∧ byteAt a 4 = 4) &&
     (match readDesc d (byteAt a 2) 4 (fieldN a 8 8) with | .ok x => rangesMeet [(s, 1)] (sectorsClaimed 4 x) | _ => false)))

/-- The request reads the sector at present: a node record of its walk, the text of its evidence, a model that it waits for, a
weight image that it installs. -/
def usesSector (d : Dev) (r : Req) (b s : Nat) : Bool :=
  decide (r.basin = b) && r.live && (txnSector d r s ||
  d.txn.versions.any (fun v => v.loading && decide (v.basin = b ∧ v.cls = 4) && waitsFor r v.uid && rangesMeet [(s, 1)] (sectorsClaimed 4 v.desc)) ||
  match Req.named d r.pins.index with
   | none => false
   | some v =>
     (match r.walk with
      | some w => w.reads.any (fun n => decide (Idx.graph v.desc + n.id / 4 = s))
      | none => false) ||
     ((decide (r.stage = .fetchRank) || decide (r.stage = .pack)) &&
       r.evid.any (fun e => let t := textSectors d v e.id; decide (t.1 ≤ s ∧ s < t.1 + t.2))))

/-- Deadline of a request's read of a sector (Table 16-11). -/
def readDeadline (d : Dev) (r : Req) (s : Nat) : Option Nat :=
  match r.walk, Req.named d r.pins.index with
  | some w, some v =>
    match w.reads.find? (fun n => decide (Idx.graph v.desc + n.id / 4 = s)) with
    | some n => if Prof.readBudget (Req.prof d r) = 0 then r.dlSearch else some (n.issued + usCycles (Prof.readBudget (Req.prof d r)))
    | none => r.dlRerank
  | _, _ => r.dlRerank

/-- The earliest MODEL_DL_US among the requests that wait for a version whose weight image holds the sector (Table 16-11). -/
def loadDeadlines (d : Dev) (b s : Nat) : List Nat :=
  (d.txn.versions.filter (fun v => v.loading && decide (v.basin = b ∧ v.cls = 4) && rangesMeet [(s, 1)] (sectorsClaimed 4 v.desc))).flatMap
    (fun v => (d.reqs.filter (fun r => waitsFor r v.uid)).filterMap (·.dlModel))

/-- A read that ends after its deadline is counted (R382). -/
def countLate (d : Dev) (b s : Nat) (users : List Req) : Dev :=
  if (users.filterMap (readDeadline d · s) ++ loadDeadlines d b s).any (fun t => decide (t < d.now)) then count d .flch (sectorDie d b s % 32) 0x118 1
  else d

/-- A read of a sector of the firmware area ends; one that cannot be read stays so until it is written (R434). -/
def imageRead (d : Dev) (s : Nat) (r : FlashRead) : Dev :=
  if r = .unreadable ∧ s < 3072 ∧ !d.flash.badImage.contains s then { d with flash.badImage := d.flash.badImage ++ [s] } else d

/-- FLASH_READ_DONE (R381): a read that needed retries or a rebuild sets CORRECTED_ERRORS. Basin 64 stands for the firmware
area (R434). DESIGN CHOICE (log 168). -/
def flashReadDoneOp (d : Dev) (b s : Nat) (r : FlashRead) : Dev :=
  if !onFlash d b s then (if b = 64 then imageRead d s r else d)
  else if d.mem.unreadable.contains (b, s) && decide (r ≠ .unreadable) then d
  else
    let users := d.reqs.filter (fun q => usesSector d q b s)
    let r := readOutcome d b s r
    let d := countLate d b s users
    let tag := match users.head? with | some q => q.tag | none => noTag
    let d := sectorRead d b s tag r
    if r = .retried ∨ r = .rebuilt then users.foldl (fun d q => modReq d q.slot (fun q => q.flag 12)) d else d

/-- PATROL (R381). -/
def patrolOp (d : Dev) (b s : Nat) (r : FlashRead) : Dev :=
  if ctlBit d .flc 0 0 && fwpRuns d 2 && onFlash d b s && (!d.mem.unreadable.contains (b, s) || decide (r = .unreadable)) then sectorRead d b s noTag (readOutcome d b s r)
  else d

/-! ### The load engine (R384, R385) -/

/-- OP, BASIN, BLOCK, LEN and DST as FLC_LD_GO finds them. -/
def ldOp (d : Dev) : Nat := liveN d .flc 0 0x100 % 16
def ldBasin (d : Dev) : Nat := bitsOf (liveN d .flc 0 0x100) 13 8
def ldBlock (d : Dev) : Nat := liveN d .flc 0 0x104 % 1024
def ldLen (d : Dev) : Nat := liveN d .flc 0 0x108
def ldDst (d : Dev) : Nat := liveN d .flc 0 0x10C + liveN d .flc 0 0x110 * 2 ^ 32

def ldLenOk (op len : Nat) : Bool :=
  match op with
  | 1 | 2 => decide (len % 4096 = 0 ∧ 4096 ≤ len ∧ len ≤ 67108864)
  | 3 | 4 => decide (len % 64 = 0 ∧ 64 ≤ len ∧ len ≤ 67108864)
  | 5 => decide (len % 4096 = 0)
  | 6 => decide (len = 0)
  | _ => false

/-- FLUSH of every basin. -/
def flushAll (d : Dev) : Bool := decide (ldOp d = 6 ∧ ldBasin d = 63 ∧ ldDst d = 2 ^ 64 - 1)

/-- Sectors of a basin that a WRITE or TRIM may not touch (R383). -/
def ldClaimed (d : Dev) (b dst sectors : Nat) : Bool := (keptOf d b).any (fun v => rangesMeet [(dst, sectors)] (sectorsClaimed v.cls v.desc))

/-- The first result that applies before anything moves, in table order (Table 16-13); 0 when none does. -/
def ldCheck (d : Dev) (flags : List W64) : Nat :=
  let op := ldOp d
  let b := ldBasin d
  let len := ldLen d
  let n := ceilDiv len 65536
  let sectors := len / 4096
  let blocks := (List.range n).map (· + ldBlock d)
  if !ldLenOk op len then 1
  else if !flushAll d ∧ b ≠ 0 ∧ basinState d b ≠ 1 ∧ basinState d b ≠ 2 then 2
  else if op ≤ 4 ∧ (1024 < ldBlock d + n ∨ blocks.any (fun k => isHeld d 0 k || logHolds d 0 k) ∨
      (List.range n).any (fun i => decide ((flags.getD i 0).toNat % 4 ≠ 0))) then 3
  else if (op = 1 ∨ op = 2 ∨ op = 5) ∧ nsCap d b < (ldDst d + sectors) * 4096 then 4
  else if (op = 3 ∨ op = 4) ∧ (let u := unitRange 65536 (ldDst d) len
      (List.range u.2).any (fun i => match translate d b ((u.1 + i) * 65536) with | .xfault => true | _ => false)) then 5
  else if (op = 1 ∨ op = 5) ∧ flashReadOnly d then 9
  else if (op = 1 ∨ op = 5) ∧ ldClaimed d b (ldDst d) sectors then 10
  else 0

/-- FLC_LD_GO (R384) begins a command. -/
def ldStart (d : Dev) (r : LoadReads) (v : W32) : Dev :=
  if !bitOf v.toNat 0 then d
  else match d.flash.load with
    | some _ => setStat d .flc 0 5
    | none =>
      let d := setLiveN d .flc 0 0x11C 0
      let d := setLiveN d .flc 0 0x118 (liveN d .flc 0 0x118 ||| 1)
      { d with flash.load := some ⟨ldOp d, ldBasin d, ldBlock d, ldLen d, ldDst d, if ldCheck d r.flags = 0 ∧ flushAll d then 256 else ldCheck d r.flags, r.errs⟩ }

/-- A write to FLC_LD_GO: an armed FLC page starts no command, and the write waits for its apply (R112). -/
def ldGo (d : Dev) (r : LoadReads) (v : W32) : Dev :=
  if isArmed d .flc 0 then { d with flash.goWaits := d.flash.goWaits ++ [(v, r)] } else ldStart d r v

/-- The writes that waited act. -/
def releaseGo (d : Dev) : Dev := d.flash.goWaits.foldl (fun d w => ldStart d w.2 w.1) { d with flash.goWaits := [] }

/-- Where a load command stops. -/
structure LdEnd where
  d : Dev
  result : Nat
  moved : Nat

/-- WRITE: sector by sector into the write cache. -/
def ldWrite (b block sector : Nat) : Nat → Nat → Dev → LdEnd
  | 0, i, d => ⟨d, 0, i * 4096⟩
  | n + 1, i, d =>
    let a := shoreAddr 0 block (i * 4096)
    if shorePoison d a 4096 then ⟨d, 7, i * 4096⟩
    else
      let s := (b, sector + i)
      let d := clearPoison d .ns (nsKey b ((sector + i) * 4096)) (nsKey b ((sector + i + 1) * 4096))
      ldWrite b block sector n (i + 1)
        { d with mem.wcache := Mem.writeL d.mem.wcache (nsKey b ((sector + i) * 4096)) (Mem.readN d.mem.shore a 4096),
                 mem.dirty := d.mem.dirty.filter (fun x => !decide (x = s)) ++ [s],
                 mem.alloc := if d.mem.alloc.contains s then d.mem.alloc else d.mem.alloc ++ [s],
                 flash.hostBytes := d.flash.hostBytes + 4096 }

/-- RESULT of a failed access while a command runs. -/
def ldResult {α : Type} : Acc α → Nat
  | .ok _ => 0 | .xfault => 5 | .poison _ => 7 | .fabric _ => 8 | .flash => 6

/-- READ: sector by sector to the blocks. -/
def ldRead (b block sector : Nat) : Nat → Nat → Dev → LdEnd
  | 0, i, d => ⟨d, 0, i * 4096⟩
  | n + 1, i, d =>
    match nsRead d b ((sector + i) * 4096) 4096 with
    | .ok bs => ldRead b block sector n (i + 1) (shoreWrite d 0 block (i * 4096) bs)
    | e => ⟨d, ldResult e, i * 4096⟩

/-- Write 64 bytes to a basin address whatever its WRITE bit. -/
def forceWrite (d : Dev) (b a : Nat) (bs : List Byte) : Acc Dev :=
  match translate d b a with
  | .ok p => if p.pool && !poolOpen d (p.base + a % 65536) then .fabric (p.base + a % 65536) else .ok (pageWrite d p (a % 65536) bs)
  | .xfault => .xfault
  | .poison w => .poison w
  | .fabric x => .fabric x
  | .flash => .flash

/-- COPY_IN: 64 bytes at a time to a basin address. -/
def ldCopyIn (b block dst : Nat) : Nat → Nat → Dev → LdEnd
  | 0, i, d => ⟨d, 0, i * 64⟩
  | n + 1, i, d =>
    let a := shoreAddr 0 block (i * 64)
    if shorePoison d a 64 then ⟨d, 7, i * 64⟩
    else
      let bs := Mem.readN d.mem.shore a 64
      let k := 65536 - (dst + i * 64) % 65536
      match (forceWrite d b (dst + i * 64) (bs.take k)).bind (fun d => if k < 64 then forceWrite d b (dst + i * 64 + k) (bs.drop k) else .ok d) with
      | .ok d => ldCopyIn b block dst n (i + 1) d
      | e => ⟨noteAcc d e b, ldResult e, i * 64⟩

/-- COPY_OUT: 64 bytes at a time from a basin address. -/
def ldCopyOut (b block dst : Nat) : Nat → Nat → Dev → LdEnd
  | 0, i, d => ⟨d, 0, i * 64⟩
  | n + 1, i, d =>
    match vRead d b (dst + i * 64) 64 with
    | .ok bs => ldCopyOut b block dst n (i + 1) (shoreWrite d 0 block (i * 64) bs)
    | e => ⟨noteAcc d e b, ldResult e, i * 64⟩

/-- TRIM: the sectors read as zeros again (R383). -/
def ldTrim (d : Dev) (b sector n : Nat) : Dev :=
  let out := fun (x : Nat × Nat) => !(decide (x.1 = b ∧ sector ≤ x.2 ∧ x.2 < sector + n))
  let lo := nsKey b (sector * 4096)
  let hi := nsKey b ((sector + n) * 4096)
  let d := clearPoison d .ns lo hi
  { d with mem.flash := Mem.clear d.mem.flash lo hi, mem.wcache := Mem.clear d.mem.wcache lo hi, mem.dirty := d.mem.dirty.filter out,
           mem.unreadable := d.mem.unreadable.filter out, mem.alloc := d.mem.alloc.filter out,
           mem.place := d.mem.place.filter (fun x => out (x.1, x.2.1)), flash.erased := d.flash.erased.filter out }

/-- What the command moves. An extent that a commit has claimed since the command began is no longer written (R159, R383). -/
def ldRun (d : Dev) (c : LoadCmd) : LdEnd :=
  if (c.op = 1 ∨ c.op = 5) ∧ ldClaimed d c.basin c.dst (c.len / 4096) then ⟨d, 10, 0⟩
  else match c.op with
  | 1 => ldWrite c.basin c.block c.dst (c.len / 4096) 0 d
  | 2 => ldRead c.basin c.block c.dst (c.len / 4096) 0 d
  | 3 => ldCopyIn c.basin c.block c.dst (c.len / 64) 0 d
  | 4 => ldCopyOut c.basin c.block c.dst (c.len / 64) 0 d
  | 5 => ⟨ldTrim d c.basin c.dst (c.len / 4096), 0, 0⟩
  | _ => ⟨flushWhere d (fun x => decide (c.early = 256 ∨ x.1 = c.basin)), 0, 0⟩

/-- A word that a load command reads: of the blocks, of the basin addresses, of the write cache. -/
def ldWord (d : Dev) (c : LoadCmd) : ErrorPlace → Option (Space × Nat)
  | .shore off => if (c.op = 1 ∨ c.op = 3) ∧ off < c.len then some (.shore, shoreAddr 0 c.block off / 8) else none
  | .hbm a => if c.op = 4 then
      (let u := unitRange 65536 c.dst c.len
       if (List.range u.2).any (fun i => match translate d c.basin ((u.1 + i) * 65536) with
          | .ok p => !p.pool && decide (p.base / 65536 = a / 65536 ∧ c.dst ≤ (u.1 + i) * 65536 + a % 65536 ∧ (u.1 + i) * 65536 + a % 65536 < c.dst + c.len)
          | _ => false) then some (.hbm, a / 8) else none)
    else none
  | .cache off => if (c.op = 6 ∨ (c.op = 2 ∧ c.dst * 4096 ≤ off ∧ off < c.dst * 4096 + c.len)) ∧ d.mem.dirty.contains (c.basin, off / 4096) = true
    then some (.ns, nsKey c.basin off / 8) else none
  | _ => none

/-- LD_DONE: the command ends with its RESULT. WRITE, TRIM and FLUSH wait while FWP2 restarts (Table 19-5). -/
def ldDoneOp (d : Dev) : Dev :=
  match d.flash.load with
  | none => d
  | some c =>
    if (c.op = 1 ∨ c.op = 5 ∨ c.op = 6) ∧ !fwpRuns d 2 then d
    else withErrors d ⟨.flc, 0, if c.op = 1 ∨ c.op = 3 then 0 else c.basin, 2 ^ 20⟩ (fun d => ldWord d c) (if c.early = 0 then c.errs else []) fun d =>
      let r := if c.early = 0 ∨ c.early = 256 then ldRun d c else ⟨d, c.early, 0⟩
      let d := setLiveN { r.d with flash.load := none } .flc 0 0x11C r.moved
      setStat (setLiveN d .flc 0 0x118 (r.result * 16)) .flc 0 4

def execFlashReadDone (basin sector : Nat) (r : FlashRead) (s : State) : Host.Outcome State Fault Refusal := ok s (flashReadDoneOp s.dev basin sector r)
def execPatrol (basin sector : Nat) (r : FlashRead) (s : State) : Host.Outcome State Fault Refusal := ok s (patrolOp s.dev basin sector r)
def execProgFail (die page : Nat) (s : State) : Host.Outcome State Fault Refusal := ok s (progFailOp s.dev die page)
def execFlashDieTimeout (die : Nat) (s : State) : Host.Outcome State Fault Refusal := ok s (dieTimeoutOp s.dev die)
def execDieRelocated (die : Nat) (s : State) : Host.Outcome State Fault Refusal := ok s (dieRelocatedOp s.dev die)
def execLdDone (s : State) : Host.Outcome State Fault Refusal := ok s (orWait s.dev (ldDoneOp s.dev))

end Sys2Proof.Machine
end

