-- ==== Sys2Proof/Machine/Errors.lean ====
section
/-! DEFINITION. HBM scrubbing and page remapping, and the error log (R388–R401). -/

namespace Sys2Proof.Machine

/-! ### Scrubbing (R389, R391, R396) -/

/-- One word that a scrub read of a stack finds in error; it consumes nothing (R396). -/
def scrubWord (stack : Nat) (d : Dev) (w : WordError) : Dev :=
  if stackOf w.addr ≠ some stack then d else hbmWord d stack w.addr w.bits

/-- HBM_SCRUB: a full pass of a stack. -/
def hbmScrubOp (d : Dev) (stack : Nat) (found : List WordError) : Dev :=
  if 12 ≤ stack then d else count (found.foldl (scrubWord stack) d) .hbm stack 0x214 1

/-! ### Remapping (R397) -/

/-- FWP4 is to remap the page: an uncorrectable word, or CE_THR corrected words within 24 h. -/
def remapDue (d : Dev) (page stack : Nat) : Bool :=
  let thr := bitsOf (liveN d .hbm stack 0x200) 23 16
  let ce := (d.mem.suspect.filter (fun s => decide (s.1 = page) && !s.2.2 && decide (d.now ≤ s.2.1 + sCycles 86400))).length
  d.mem.suspect.any (fun s => decide (s.1 = page) && s.2.2) || (decide (thr ≠ 0) && decide (thr ≤ ce))

/-- Pages of the firmware reserve that can be spare pages (R485): outside the translation area and basin 0's level-1
table, named by no translation entry and given to no model, stream or handle. Which stack holds which page of the reserve is internal. -/
def sparePage (d : Dev) (p : Nat) : Bool :=
  let a := p * 65536
  decide (0x4000000000 ≤ a ∧ a ≤ 0x40AA9F0000) && !decide (0x400FFC0000 ≤ a ∧ a < 0x4060000000) && (pageBasin d p).isNone && !deviceManaged d p

/-- Redirect every level-2 entry that names an HBM page. -/
def redirect (d : Dev) (page spare : Nat) : Dev :=
  let tables := (List.range 64).flatMap (level2Tables d)
  { d with mem.xlat := d.mem.xlat.map (fun e =>
      if tables.any (fun t => decide (t ≤ e.1 ∧ e.1 < t + 0x40000)) && e.2.getLsbD 0 && !e.2.getLsbD 2 && decide (e.2.toNat / 65536 = page)
      then (e.1, BitVec.ofNat 64 (spare * 65536 + e.2.toNat % 65536)) else e) }

/-- PAGE_REMAP: the page's content and its poison move to a spare page of the same stack. -/
def pageRemapOp (d : Dev) (page spare : Nat) : Dev :=
  match stackOf (page * 65536) with
  | none => d
  | some i =>
    let flagged := fun (d : Dev) => { d with host.held := modWhere (fun h => decide (windowPage h.basin h.block = page)) (fun h => { h with remapped := true }) d.host.held }
    if !fwpRuns d 4 ∨ !remapDue d page i then d
    else if liveN d .hbm i 0x210 = 0 then
      let d := flagged d
      if bitOf (liveN d .hbm i 0x20) 3 then d else logEvent (setStat d .hbm i 3) 0x10 (pageNo .hbm i) 0xFF noTag i 0
    else if !sparePage d spare ∨ spare = page ∨ stackOf (spare * 65536) ≠ some i then d
    else
      let a := page * 65536
      let n := spare * 65536
      let moved := d.mem.poison.map (fun p => if p.1 = .hbm ∧ a / 8 ≤ p.2 ∧ p.2 < a / 8 + 8192 then (.hbm, n / 8 + (p.2 - a / 8)) else p)
      -- a page that only the module uses keeps its addresses, and what it holds
      let inside := decide (0x2A00000000 ≤ a) && (pageBasin d page).isNone && !deviceManaged d page
      let d := if deviceManaged d page then
          let d := movePages d [(page, spare)]
          { d with mem.suspect := d.mem.suspect.filter (fun s => !decide (s.1 = page)) }
        else if inside then { flagged d with mem.suspect := d.mem.suspect.filter (fun s => !decide (s.1 = page)) } else
        let d := redirect d page spare
        { d with mem.hbm := Mem.clear (Mem.writeL d.mem.hbm n (Mem.readN d.mem.hbm a 65536)) a (a + 65536), mem.poison := moved,
                        mem.suspect := d.mem.suspect.filter (fun s => !decide (s.1 = page)) }
      let d := setLiveN (count d .hbm i 0x20C 1) .hbm i 0x210 (liveN d .hbm i 0x210 - 1)
      logEvent (setStat d .hbm i 2) 5 (pageNo .hbm i) (match pageOwner d spare with | some b => b | none => 0xFF) noTag a n

/-! ### The error log (R398–R401) -/

def logTail (d : Dev) : Nat := liveN d .errlog 0 0x108 % 16384
def logHead (d : Dev) : Nat := liveN d .errlog 0 0x104 % 16384
def logPhase (d : Dev) : Bool := bitOf (liveN d .errlog 0 0x108) 16
/-- Records that the ring holds. -/
def logSize (d : Dev) : Nat := bitsOf (liveN d .errlog 0 0x100) 20 16 * 1024

/-- The 64 bytes of a record (Table 17-3). -/
def recordBytes (e : LogEvent) (seq : Nat) (lost phase : Bool) : List Byte :=
  natLe 4 seq ++ natLe 1 e.kind ++ natLe 1 (if lost then 1 else 0) ++ natLe 1 e.basin ++ natLe 1 0 ++ natLe 8 (e.time % 2 ^ 48) ++
  natLe 4 (e.source % 32768) ++ natLe 4 e.tag.toNat ++ natLe 8 e.location ++ natLe 4 e.count ++ natLe 2 e.epoch ++ natLe 2 0 ++
  natLe 8 e.detail ++ List.replicate 15 0 ++ natLe 1 (if phase then 1 else 0)

/-- ERRLOG_RECORD (R400): the oldest event is written, or counted as lost while the ring is full. -/
def errlogRecordOp (d : Dev) : Dev :=
  match d.log.events with
  | [] => d
  | e :: rest =>
    if !fwpRuns d 4 || !logEnabled d || decide (logSize d = 0) then d
    else
      let n := logSize d
      let d := { d with log.events := rest }
      if (logTail d + 1) % n = logHead d then setStat { count d .errlog 0 0x10C 1 with log.lost := true } .errlog 0 1
      else
        let seq := (liveN d .errlog 0 0x118 + 1) % 2 ^ 32
        let t := logTail d
        let d := shoreWrite d 0 (liveN d .errlog 0 0x100 % 1024) (64 * t) (recordBytes e seq d.log.lost (logPhase d))
        let ph := if (t + 1) % n = 0 then !logPhase d else logPhase d
        let d := setLiveN (setLiveN { d with log.lost := false } .errlog 0 0x118 seq) .errlog 0 0x108 ((t + 1) % n + (if ph then 65536 else 0))
        setStat d .errlog 0 0

/-- ERRLOG_CE_MS (R401): the interval of a coalesced pair ends. -/
def ceMsOp (d : Dev) (kind source : Nat) : Dev :=
  match d.log.coal.find? (fun c => decide (c.kind = kind ∧ c.source = source)) with
  | none => d
  | some c =>
    let others := d.log.coal.filter (fun c => !decide (c.kind = kind ∧ c.source = source))
    let d := advanceTo d (c.last + msCycles (liveN d .errlog 0 0x110))
    if c.since = 0 then { d with log.coal := others }
    else holdEvent { d with log.coal := others ++ [{ c with last := d.now, since := 0 }] } { c.event with count := c.since }

def execHbmScrub (stack : Nat) (found : List WordError) (s : State) : Host.Outcome State Fault Refusal := ok s (hbmScrubOp s.dev stack found)
def execPageRemap (page spare : Nat) (s : State) : Host.Outcome State Fault Refusal := ok s (pageRemapOp s.dev page spare)
def execErrlogRecord (s : State) : Host.Outcome State Fault Refusal := ok s (errlogRecordOp s.dev)
def execErrlogCeMs (kind source : Nat) (s : State) : Host.Outcome State Fault Refusal := ok s (ceMsOp s.dev kind source)

end Sys2Proof.Machine
end

