-- ==== Sys2Proof/Machine/Flags.lean ====
section
/-! DEFINITION. Comparisons: branch conditions, predicate bits, masks (Tables 13-7, 13-8, R310, R327). -/

namespace Sys2Proof.Machine

/-- Branch condition of BEQ, BNE, BLT, BGE, BLTU, BGEU: OP − 0x40. -/
def branchTaken (k : Nat) (a b : W64) : Bool :=
  match k with
  | 0 => a == b
  | 1 => a != b
  | 2 => a.slt b
  | 3 => !a.slt b
  | 4 => a.ult b
  | _ => !a.ult b

/-- FP32 less than: NaN compares false. -/
def flt32 (a b : Nat) : Bool := (fp32.decode a).lt (fp32.decode b)

/-- VCMPEQ, VCMPLT, VCMPLE on one lane: OP − 0x10; ET 2 compares signed, ET 3 as FP32. -/
def laneCmp (k et a b : Nat) : Bool :=
  if et = 2 then
    let x := toInt 32 a
    let y := toInt 32 b
    match k with | 0 => decide (x = y) | 1 => decide (x < y) | _ => decide (x ≤ y)
  else
    let x := fp32.decode a
    let y := fp32.decode b
    match k with | 0 => x.eq y | 1 => x.lt y | _ => x.le y

/-- Comparison of a TCMP element pair: 0 EQ, 1 NE, 2 LT, 3 LE (R327). -/
def tileCmp (fmt sub a b : Nat) : Bool :=
  if fmt = 0 then
    let x := toInt 8 a
    let y := toInt 8 b
    match sub with | 0 => decide (x = y) | 1 => decide (x ≠ y) | 2 => decide (x < y) | _ => decide (x ≤ y)
  else
    let f := if fmt = 2 then e4m3 else e5m2
    let x := f.decode a
    let y := f.decode b
    match sub with | 0 => x.eq y | 1 => !x.eq y | 2 => x.lt y | _ => x.le y

end Sys2Proof.Machine
end

