-- ==== Sys2Proof/Machine/Scalar.lean ====
section
/-! DEFINITION. A core's registers and tarn, and the S slot (Table 13-7, R294–R299, R308). -/

namespace Sys2Proof.Machine

/-! ### Registers (Table 13-1): x0 reads zero and discards writes -/

def xr (k : CoreSt) (n : Nat) : W64 := if n = 0 then 0 else SMap.get (fun _ => 0) k.x n
def setX (k : CoreSt) (n : Nat) (v : W64) : CoreSt := if n = 0 then k else { k with x := SMap.set (fun _ => 0) k.x n v }
def vr (k : CoreSt) (n : Nat) : BitVec 1024 := SMap.get (fun _ => 0) k.v n
def setV (k : CoreSt) (n : Nat) (v : BitVec 1024) : CoreSt := { k with v := SMap.set (fun _ => 0) k.v n v }
def pr (k : CoreSt) (n : Nat) : W32 := SMap.get (fun _ => 0) k.p n
def setP (k : CoreSt) (n : Nat) (v : W32) : CoreSt := { k with p := SMap.set (fun _ => 0) k.p n v }
def tr (k : CoreSt) (n : Nat) : BitVec 128 := SMap.get (fun _ => 0) k.t n
def setT (k : CoreSt) (n : Nat) (v : BitVec 128) : CoreSt := { k with t := SMap.set (fun _ => 0) k.t n v }

/-! ### Frames (R296–R299) -/

def tarnTop : Nat := 0x60000

/-- Frames that a tarn range touches. -/
def framesIn (a n : Nat) : List Nat := if n = 0 then [] else (List.range ((a + n - 1) / 4096 - a / 4096 + 1)).map (· + a / 4096)

/-- A frame is PENDING: a draw into it is outstanding. -/
def framePending (k : CoreSt) (f : Nat) : Bool :=
  k.xfers.any (fun x => x.draw && x.pieces.any (fun p => overlaps p.2.1 p.2.2 (f * 4096) 4096))

def rangePending (k : CoreSt) (a n : Nat) : Bool := (framesIn a n).any (framePending k)

/-- Some frame of a range is a code frame. -/
def codeIn (k : CoreSt) (a n : Nat) : Bool := (framesIn a n).any (fun f => (frameOf k f).code)

/-- A frame changes: returns with CLEAN no longer make it clean. -/
def unclean (k : CoreSt) (f : Nat) : CoreSt :=
  { k with xfers := k.xfers.map (fun x => { x with frames := x.frames.filter (fun y => !decide (y.1 = f)) }) }

/-- Every frame of a range becomes valid and dirty, and forgets its source. -/
def touch (k : CoreSt) (a n : Nat) : CoreSt :=
  (framesIn a n).foldl (fun k f => setFrame (unclean k f) f ⟨true, true, false, none⟩) k

/-- A store of bytes into the tarn. -/
def storeBytes (k : CoreSt) (a : Nat) (bs : List Byte) : CoreSt :=
  touch { k with tarn := Mem.writeL k.tarn a bs } a bs.length

/-- A range of a core's tarn holds a poisoned word. -/
def tarnPoison (d : Dev) (id i a n : Nat) : Bool :=
  d.mem.poison.any (fun p => decide (p.1 = .tarn id i) && overlaps (p.2 * 8) 8 a n)

/-! ### What a slot does -/

/-- The context of a bundle's issue. -/
structure Env where
  d : Dev
  c : Ctx
  i : Nat
  k : CoreSt

/-- Registers that a slot writes: x n as n, v n as 32 + n, p n as 64 + n, t n as 72 + n. x0 is written by none. -/
abbrev Writes := List Nat

def xw (n : Nat) : Writes := if n = 0 then [] else [n]

/-! ### The S slot -/

def sDefined (op : Nat) : Bool :=
  decide (op ≤ 0x0E) || decide (0x10 ≤ op ∧ op ≤ 0x16) || decide (0x20 ≤ op ∧ op ≤ 0x29) || decide (0x30 ≤ op ∧ op ≤ 0x36) ||
  decide (0x38 ≤ op ∧ op ≤ 0x3B) || decide (0x40 ≤ op ∧ op ≤ 0x45) || [0x48, 0x49].contains op || decide (0x50 ≤ op ∧ op ≤ 0x58) ||
  [0x60, 0x61, 0x70, 0x71].contains op

def sLoad (op : Nat) : Bool := decide (0x30 ≤ op ∧ op ≤ 0x36)
def sStore (op : Nat) : Bool := decide (0x38 ≤ op ∧ op ≤ 0x3B)

def sWrites (s : Nat) : Writes :=
  let op := SS.op s
  if decide (1 ≤ op ∧ op ≤ 0x36) || [0x48, 0x49, 0x60].contains op || decide (0x50 ≤ op ∧ op ≤ 0x58) then xw (SS.rd s) else []

/-- Bytes of a load or store. -/
def sBytes (op : Nat) : Nat :=
  match op with
  | 0x30 => 1 | 0x31 => 2 | 0x32 => 4 | 0x33 => 8 | 0x34 => 1 | 0x35 => 2 | 0x36 => 4
  | 0x38 => 1 | 0x39 => 2 | 0x3A => 4 | _ => 8

def sAddr (k : CoreSt) (s : Nat) : Nat := (xr k (SS.rs1 s) + SS.imm s).toNat

/-- CSR values (Table 13-3). -/
def csrRead (e : Env) (n : Nat) : Option Nat :=
  match n with
  | 0 => some e.i
  | 1 => some e.c.nCores
  | 2 => some e.c.inLen
  | 3 => some e.c.outCap
  | 4 => some e.k.outLen
  | 5 => some e.k.bundles
  | 6 => some (e.c.dbufBytes + weirSpan e.d e.c)
  | 7 => some (match findReq e.d e.c.slot with | some r => Desc.seed r.desc | none => 0)
  | 8 => some e.c.prio
  | _ => none

/-- The fault that the S slot raises, if any. An access that is both misaligned and out of range takes ALIGN.
DESIGN CHOICE (log 212). -/
def sFault (e : Env) (s : Nat) : Option Nat :=
  let op := SS.op s
  if sLoad op || sStore op then
    let a := sAddr e.k s
    let n := sBytes op
    if a % n ≠ 0 then some 2
    else if a ≥ tarnTop then some 3
    else if sStore op && codeIn e.k a n then some 4
    else if sLoad op && tarnPoison e.d e.c.id e.i a n then some 0x11
    else none
  else if op = 0x60 then (if (csrRead e (SS.immN s % 4096)).isSome then none else some 1)
  else if op = 0x61 then
    (if SS.immN s % 4096 ≠ 4 then some 1 else if (xr e.k (SS.rs1 s)).toNat > e.c.outCap then some 7 else none)
  else if op = 0x71 then some 0x0A
  else none

def low32 (v : W64) : W32 := v.setWidth 32
def zext (v : W32) : W64 := v.setWidth 64
def bool64 (b : Bool) : W64 := if b then 1 else 0

/-- Two-operand results: OP 0x01 to 0x16 (R308). -/
def alu (op : Nat) (a b : W64) : W64 :=
  match op with
  | 0x01 => a + b
  | 0x02 => a - b
  | 0x03 => a &&& b
  | 0x04 => a ||| b
  | 0x05 => a ^^^ b
  | 0x06 => a <<< (b.toNat % 64)
  | 0x07 => a >>> (b.toNat % 64)
  | 0x08 => a.sshiftRight (b.toNat % 64)
  | 0x09 => bool64 (a.slt b)
  | 0x0A => bool64 (a.ult b)
  | 0x0B => if a.slt b then a else b
  | 0x0C => if a.slt b then b else a
  | 0x0D => if a.ult b then a else b
  | 0x0E => if a.ult b then b else a
  | 0x10 => a * b
  | 0x11 => BitVec.ofInt 64 (a.toInt * b.toInt / 2 ^ 64)
  | 0x12 => BitVec.ofNat 64 (a.toNat * b.toNat / 2 ^ 64)
  | 0x13 => if b = 0 then BitVec.allOnes 64 else BitVec.ofInt 64 (a.toInt.tdiv b.toInt)
  | 0x14 => if b = 0 then BitVec.allOnes 64 else BitVec.ofNat 64 (a.toNat / b.toNat)
  | 0x15 => if b = 0 then a else BitVec.ofInt 64 (a.toInt.tmod b.toInt)
  | _ => if b = 0 then a else BitVec.ofNat 64 (a.toNat % b.toNat)

/-- Results of the FP32 operations 0x50 to 0x58. -/
def fpu (op : Nat) (a b : W64) : W64 :=
  let x := low32 a
  let y := low32 b
  match op with
  | 0x50 => zext (fadd32 x y)
  | 0x51 => zext (fsub32 x y)
  | 0x52 => zext (fmul32 x y)
  | 0x53 => zext (fdiv32 x y)
  | 0x54 => zext (BitVec.ofNat 32 (fp32.minMax false x.toNat y.toNat))
  | 0x55 => zext (BitVec.ofNat 32 (fp32.minMax true x.toNat y.toNat))
  | 0x56 => BitVec.ofInt 64 (toIntSat 32 (val32 x))
  | 0x57 => zext (rnd32 (ofIntF x.toInt))
  | _ => bool64 (flt32 x.toNat y.toNat)

/-- A loaded value, sign- or zero-extended. -/
def loadVal (op : Nat) (v : Nat) : W64 :=
  if op ≤ 0x32 then sext64 (8 * sBytes op) v else BitVec.ofNat 64 v

/-- Bytes that the S slot stores: address and bytes. -/
def sStores (e : Env) (s : Nat) : List (Nat × List Byte) :=
  if sStore (SS.op s) then [(sAddr e.k s, natLe (sBytes (SS.op s)) (xr e.k (SS.rs2 s)).toNat)] else []

/-- The PC after the S slot. -/
def sNext (e : Env) (s : Nat) : Nat :=
  let op := SS.op s
  let here := BitVec.ofNat 64 e.k.pc
  let off := SS.imm s * 32
  if 0x40 ≤ op ∧ op ≤ 0x45 then
    (if branchTaken (op - 0x40) (xr e.k (SS.rs1 s)) (xr e.k (SS.rs2 s)) then (here + off).toNat else e.k.pc + 32)
  else if op = 0x48 then (here + off).toNat
  else if op = 0x49 then (xr e.k (SS.rs1 s) + off).toNat
  else e.k.pc + 32

/-- The register result of the S slot. -/
def sResult (e : Env) (s : Nat) : W64 :=
  let op := SS.op s
  let a := xr e.k (SS.rs1 s)
  let b := xr e.k (SS.rs2 s)
  let m := SS.imm s
  if op ≤ 0x16 then alu op a b
  else if sLoad op then loadVal op (leNat (Mem.readN e.k.tarn (sAddr e.k s) (sBytes op)))
  else if 0x50 ≤ op ∧ op ≤ 0x58 then fpu op a b
  else match op with
    | 0x20 => a + m
    | 0x21 => a &&& m
    | 0x22 => a ||| m
    | 0x23 => a ^^^ m
    | 0x24 => a <<< (m.toNat % 64)
    | 0x25 => a >>> (m.toNat % 64)
    | 0x26 => a.sshiftRight (m.toNat % 64)
    | 0x27 => bool64 (a.slt m)
    | 0x28 => m
    | 0x29 => (a <<< (24 : Nat)) ||| BitVec.ofNat 64 (SS.immN s % 2 ^ 24)
    | 0x60 => BitVec.ofNat 64 ((csrRead e (SS.immN s % 4096)).getD 0)
    | _ => BitVec.ofNat 64 (e.k.pc + 32)

/-- The S slot's effect on the core, but for its stores and the PC. -/
def sApply (e : Env) (s : Nat) (k : CoreSt) : CoreSt :=
  let k := if sWrites s = [] then k else setX k (SS.rd s) (sResult e s)
  if SS.op s = 0x61 then { k with outLen := (xr e.k (SS.rs1 s)).toNat } else k

end Sys2Proof.Machine
end

