-- ==== Sys2Proof/Machine/Tile.lean ====
section
/-! DEFINITION. The tile array (chapter 14): element values, products, distances, semirings, masks, transfers, and the
mere-wide forms over an array of accumulators. -/

namespace Sys2Proof.Machine

/-! ### Elements -/

/-- One operand element: its raw bits and its block scale byte. -/
structure Elem where
  raw : Nat
  scale : Nat
  deriving DecidableEq, Repr

/-- Multiply by 2^k. -/
def FVal.scaleBy (k : Int) : FVal → FVal
  | .fin n m e => .fin n m (e + k)
  | v => v

/-- The value of an element (Table 14-1, R319). -/
def elemVal (fmt : Nat) (x : Elem) : FVal :=
  match fmt with
  | 0 => ofIntF (toInt 8 x.raw)
  | 1 => ofIntF (toInt 4 x.raw)
  | 2 => e4m3.decode x.raw
  | 3 => e5m2.decode x.raw
  | 4 => if x.scale = 255 then .nan else (decodeE2M1 x.raw).scaleBy ((x.scale : Int) - 127)
  | 5 => if x.scale = 255 then .nan else (ofIntF (toInt 8 x.raw)).scaleBy ((x.scale : Int) - 133)
  | _ => bf16.decode x.raw

/-- Integer value of INT8 or INT4. -/
def elemInt (fmt : Nat) (x : Elem) : Int := toInt (if fmt = 1 then 4 else 8) x.raw

def w32OfInt (v : Int) : W32 := BitVec.ofInt 32 v

/-- Number of 1 bits of a byte. -/
def popByte (b : Nat) : Nat := ((List.range 8).filter (fun i => bitOf b i)).length

/-! ### One group of a product in one cell (R322–R327) -/

/-- Order of FP32 patterns that puts −0 below +0 (R325). -/
def fpKey (b : W32) : Nat := keyOfScore b

def pickMax (a b : W32) : W32 := if fpKey a < fpKey b then b else a
def pickMin (a b : W32) : W32 := if fpKey b < fpKey a then b else a

/-- Term of an FP8 semiring, rounded to FP32 (R325). -/
def semiTermF (fmt sub : Nat) (a b : Elem) : W32 :=
  let x := rnd32 (elemVal fmt a)
  let y := rnd32 (elemVal fmt b)
  if sub = 2 then pickMin x y else rnd32 ((elemVal fmt a).add (elemVal fmt b))

def semiGroup (fmt sub : Nat) (w : W32) (xs : List (Elem × Elem)) : W32 :=
  if fmt = 0 then
    let terms := (xs.filter (fun x => decide (x.1.raw ≠ 0x80 ∧ x.2.raw ≠ 0x80))).map (fun x =>
      let a := toInt 8 x.1.raw
      let b := toInt 8 x.2.raw
      if sub = 2 then min a b else a + b)
    w32OfInt (terms.foldl (fun acc t => if sub = 0 then min acc t else max acc t) w.toInt)
  else
    let terms := ((xs.filter (fun x => !(elemVal fmt x.1).isNan && !(elemVal fmt x.2).isNan)).map (fun x => semiTermF fmt sub x.1 x.2)).filter
      (fun t => !(val32 t).isNan)
    let sel := fun a b => if sub = 0 then pickMin a b else pickMax a b
    match terms with
    | [] => w
    | t :: ts => let r := ts.foldl sel t; if (val32 w).isNan then r else sel w r

/-- Bits of the comparison mask (R327). -/
def maskGroup (fmt sub : Nat) (xs : List (Elem × Elem)) : Nat :=
  (((List.range xs.length).zip xs).map (fun x => if tileCmp fmt sub x.2.1.raw x.2.2.raw then 2 ^ x.1 else 0)).sum

/-- Combine a mask of K bits with the word: 0 SET, 1 AND, 2 OR. -/
def maskCombine (mode k : Nat) (w : W32) (m : Nat) : W32 :=
  let low := BitVec.ofNat 32 (2 ^ k - 1)
  let mb := BitVec.ofNat 32 m
  match mode with
  | 0 => mb
  | 1 => w &&& (mb ||| ~~~ low)
  | _ => w ||| mb

/-- The word of a cell after one group of at most 32 depth elements. `op` is the core-level OP. -/
def cellGroup (op fmt sub imm : Nat) (w : W32) (xs : List (Elem × Elem)) : W32 :=
  match op with
  | 0x10 =>
    if fmt < 2 then w32OfInt (w.toInt + (xs.map (fun x => elemInt fmt x.1 * elemInt fmt x.2)).sum)
    else rnd32 (FVal.sum (val32 w :: xs.map (fun x => (elemVal fmt x.1).mul (elemVal fmt x.2))))
  | 0x11 =>
    if fmt < 2 then w32OfInt (w.toInt + (xs.map (fun x => let d := elemInt fmt x.1 - elemInt fmt x.2; d * d)).sum)
    else rnd32 (FVal.sum (val32 w :: xs.map (fun x => let d := (elemVal fmt x.1).sub (elemVal fmt x.2); d.mul d)))
  | 0x12 => w32OfInt (w.toInt + ((xs.map (fun x => popByte (x.1.raw ^^^ x.2.raw))).sum : Nat))
  | 0x13 => semiGroup fmt sub w xs
  | _ => maskCombine (imm % 4) xs.length w (maskGroup fmt sub xs)

/-- Split a depth into its groups of 32, ascending; `fuel` bounds the groups. -/
def groupsOf : Nat → List (Elem × Elem) → List (List (Elem × Elem))
  | 0, _ => []
  | _ + 1, [] => []
  | n + 1, xs => xs.take 32 :: groupsOf n (xs.drop 32)

/-- A cell after the whole depth (R323). -/
def cellRun (op fmt sub imm : Nat) (w : W32) (a b : List Elem) : W32 :=
  (groupsOf (a.length / 32 + 1) (a.zip b)).foldl (cellGroup op fmt sub imm) w

/-- Formats allowed for a product-kind operation (Table 14-3). -/
def prodFmtOk (op fmt : Nat) : Bool :=
  match op with
  | 0x10 => decide (fmt ≤ 6)
  | 0x12 => decide (fmt = 0)
  | _ => [0, 2, 3].contains fmt

/-- SUB and IMM of a product-kind operation. -/
def prodSubOk (op sub imm : Nat) : Bool :=
  match op with
  | 0x13 => decide (sub ≤ 2 ∧ imm = 0)
  | 0x14 => decide (sub ≤ 3 ∧ imm ≤ 2)
  | _ => decide (sub = 0 ∧ imm = 0)

/-! ### Transfers (R328, R329) -/

/-- The generator of R225. -/
def splitMix (z0 : Nat) : Nat :=
  let m := 2 ^ 64
  let z := z0 % m
  let z := ((z ^^^ (z >>> 30)) * 0xBF58476D1CE4E5B9) % m
  let z := ((z ^^^ (z >>> 27)) * 0x94D049BB133111EB) % m
  z ^^^ (z >>> 31)

def rndBits (seed n : Nat) : Nat := splitMix (seed + (n + 1) * 0x9E3779B97F4A7C15) % 65536

/-- Stochastic rounding of an FP32 pattern to BF16 (R225). -/
def stochBf16 (t : W32) (rnd : Nat) : Nat :=
  match val32 t with
  | .nan => (if t.getLsbD 31 then 0x8000 else 0) + 0x7FC0
  | .inf neg => bf16.round (.inf neg)
  | _ => ((t.toNat + rnd) % 2 ^ 32) / 65536

/-- Arithmetic shift right with rounding to nearest even. -/
def shiftRound (v : Int) (k : Nat) : Int := roundInt (decide (v < 0)) v.natAbs (-(k : Int))

def satI8 (lo v : Int) : Nat := ofInt 8 (max lo (min 127 v))

/-- FMT and SUB of a store. -/
def storeFmtOk (fmt sub : Nat) : Bool :=
  ([0, 2, 3, 6, 7, 8].contains fmt && decide (sub = 0)) || (decide (fmt = 6 ∧ sub = 1)) || (decide (fmt = 0 ∧ sub = 2))

/-- A stored element from an accumulator word. -/
def storeElem (fmt sub shift rnd : Nat) (w : W32) : Nat :=
  match fmt with
  | 0 =>
    if sub = 2 then
      if w = 0x7FFFFFFF ∨ w = 0x80000000 then 0x80 else satI8 (-127) (shiftRound w.toInt shift)
    else satI8 (-128) (shiftRound w.toInt shift)
  | 2 => toE4M3 (w.getLsbD 31) (val32 w)
  | 3 => toE5M2 w.toNat (val32 w)
  | 6 => if sub = 1 then stochBf16 w rnd else bf16.round (val32 w)
  | _ => w.toNat

/-- An accumulator word from a loaded element. -/
def loadElem (fmt e : Nat) : W32 :=
  match fmt with
  | 0 => w32OfInt (toInt 8 e)
  | 6 => BitVec.ofNat 32 (e * 65536)
  | _ => BitVec.ofNat 32 e

/-! ### Element-wise work (R330) -/

/-- ADD, SUB, MUL, MAX, MIN on INT32 (ty false) or FP32. -/
def ewOp (sub : Nat) (ty : Bool) (a b : W32) : W32 :=
  if ty then
    match sub with
    | 0 => fadd32 a b
    | 1 => fsub32 a b
    | 2 => fmul32 a b
    | 3 => BitVec.ofNat 32 (fp32.minMax true a.toNat b.toNat)
    | _ => BitVec.ofNat 32 (fp32.minMax false a.toNat b.toNat)
  else
    match sub with
    | 0 => a + b
    | 1 => a - b
    | 2 => a * b
    | 3 => if a.slt b then b else a
    | _ => if b.slt a then b else a

/-! ### Tiles in memory -/

/-- Element c of the row that starts at byte `a`. -/
def rowElem (m : Mem) (a fmt c : Nat) : Nat :=
  match fmtSize2 fmt with
  | 1 => let b := (Mem.read m (a + c / 2)).toNat; if c % 2 = 0 then b % 16 else b / 16
  | 2 => (Mem.read m (a + c)).toNat
  | 4 => leNat (Mem.readN m (a + 2 * c) 2)
  | _ => leNat (Mem.readN m (a + 4 * c) 4)

/-- Bytes of a row of elements of a storable format. -/
def rowOf (fmt : Nat) (es : List Nat) : List Byte := es.flatMap (natLe (fmtSize2 fmt / 2))

/-- Row r of a core-level tile as elements with its scale. -/
def tileRow (m : Mem) (t : BitVec 128) (r : Nat) : List Elem :=
  let s := if TR.fmt t = 4 ∨ TR.fmt t = 5 then (Mem.read m (TR.scale t + r)).toNat else 0
  (List.range (TR.cols t)).map (fun c => ⟨rowElem m (TR.base t + r * TR.stride t) (TR.fmt t) c, s⟩)

def accKey (a i j : Nat) : Nat := a * 1024 + 32 * i + j
def accGet (acc : SMap W32) (a i j : Nat) : W32 := SMap.get (fun _ => 0) acc (accKey a i j)
def accSet (acc : SMap W32) (a i j : Nat) (w : W32) : SMap W32 := SMap.set (fun _ => 0) acc (accKey a i j) w

/-- Set a rectangle of accumulator words from a function of the old word and its place. -/
def accRegion (acc : SMap W32) (a rows cols : Nat) (f : Nat → Nat → W32 → W32) : SMap W32 :=
  (List.range rows).foldl (fun m i => (List.range cols).foldl (fun m j => accSet m a i j (f i j (accGet m a i j))) m) acc

/-- Checks of a core-level operation at its issue: the fault cause, if any (R294, R318, R321, R328). -/
def tileCheck (w : Nat) (ta tb : BitVec 128) : Option Nat :=
  let op := TS.op w
  let range := fun (t : BitVec 128) => (tileRanges t).all (fun x => decide (x.1 + x.2 ≤ 0x60000))
  if op = 2 ∨ op = 3 then
    if !TR.ok ta || !tileShapeOk ta || !(if op = 2 then [0, 6, 7, 8].contains (TR.fmt ta) && decide (TS.sub w = 0 ∧ TS.imm w = 0) else
        storeFmtOk (TR.fmt ta) (TS.sub w) && decide (TS.imm w < (if TR.fmt ta = 0 then 32 else 1))) then some 1
    else if !range ta then some 3 else none
  else if 0x10 ≤ op ∧ op ≤ 0x14 then
    if !TR.ok ta || !TR.ok tb || !tileShapeOk ta || !tileShapeOk tb || decide (TR.fmt ta ≠ TR.fmt tb) || !prodFmtOk op (TR.fmt ta) ||
       decide (TR.cols ta ≠ TR.cols tb) || !prodSubOk op (TS.sub w) (TS.imm w) ||
       ((decide (TR.fmt ta = 4) || decide (TR.fmt ta = 5)) && decide (TR.cols ta ≠ 32)) then some 1
    else if !range ta || !range tb then some 3 else none
  else if op = 0x20 then
    if TS.sub w ≤ 4 ∧ TS.imm w < 8 then none else some 1
  else none

/-- Tarn ranges that an issued operation reads. -/
def tileReads (o : TileOp) : List (Nat × Nat) :=
  let op := TS.op o.word
  if op = 2 then tileRanges o.ta
  else if 0x10 ≤ op ∧ op ≤ 0x14 then tileRanges o.ta ++ tileRanges o.tb
  else []

/-- Tarn ranges that an issued operation writes. -/
def tileWrites (o : TileOp) : List (Nat × Nat) := if TS.op o.word = 3 then tileRanges o.ta else []

/-- A core-level operation's effect at its end: accumulators, stored rows (address and bytes), and the vector that TRD
delivers. -/
structure TileOut where
  acc : SMap W32
  stores : List (Nat × List Byte)
  vec : Option (Nat × BitVec 1024)

def tileRun (acc : SMap W32) (tarn : Mem) (seed : Nat) (o : TileOp) : TileOut :=
  let w := o.word
  let ad := TS.ad w
  match TS.op w with
  | 0x01 => ⟨accRegion acc ad 32 32 (fun _ _ _ => BitVec.ofNat 32 (TS.imm w)), [], none⟩
  | 0x02 =>
    let f := TR.fmt o.ta
    ⟨accRegion acc ad (TR.rows o.ta) (TR.cols o.ta) (fun i j _ => loadElem f (rowElem tarn (TR.base o.ta + i * TR.stride o.ta) f j)), [], none⟩
  | 0x03 =>
    let f := TR.fmt o.ta
    ⟨acc, (List.range (TR.rows o.ta)).map (fun i => (TR.base o.ta + i * TR.stride o.ta,
      rowOf f ((List.range (TR.cols o.ta)).map (fun j =>
        storeElem f (TS.sub w) (TS.imm w % 32) (rndBits seed (o.x.toNat * 1024 + 32 * i + j)) (accGet acc ad i j))))), none⟩
  | 0x20 =>
    let y := fun (i j : Nat) =>
      match TS.imm w % 4 with
      | 0 => accGet acc (TS.as w) i j
      | 1 => BitVec.ofNat 32 (velem 32 o.v j)
      | 2 => BitVec.ofNat 32 (velem 32 o.v i)
      | _ => BitVec.ofNat 32 o.x.toNat
    ⟨accRegion acc ad 32 32 (fun i j a => ewOp (TS.sub w) (bitOf (TS.imm w) 2) a (y i j)), [], none⟩
  | 0x21 => ⟨acc, [], some (TS.vr w, vmk 32 ((List.range 32).map (fun j => (accGet acc ad (o.x.toNat % 32) j).toNat)))⟩
  | 0x22 =>
    let i := o.x.toNat % 32
    ⟨(List.range 32).foldl (fun m j => accSet m ad i j (BitVec.ofNat 32 (velem 32 o.v j))) acc, [], none⟩
  | _ =>
    let as := (List.range (TR.rows o.ta)).map (tileRow tarn o.ta)
    let bs := (List.range (TR.rows o.tb)).map (tileRow tarn o.tb)
    ⟨accRegion acc ad (TR.rows o.ta) (TR.rows o.tb) (fun i j a =>
      cellRun (TS.op w) (TR.fmt o.ta) (TS.sub w) (TS.imm w) a (as.getD i []) (bs.getD j [])), [], none⟩

/-! ### Mere-wide operations (R336–R339) -/

/-! Fields of a mere-wide record (Table 14-8). -/
namespace MR
def aOff (r : List Byte) : Nat := fieldN r 0 4
def aStr (r : List Byte) : Nat := fieldN r 4 4
def bOff (r : List Byte) : Nat := fieldN r 8 4
def bStr (r : List Byte) : Nat := fieldN r 12 4
def m (r : List Byte) : Nat := fieldN r 16 2
def n (r : List Byte) : Nat := fieldN r 18 2
def k (r : List Byte) : Nat := fieldN r 20 2
def fmt (r : List Byte) : Nat := byteAt r 22
def shift (r : List Byte) : Nat := byteAt r 23
def aScale (r : List Byte) : Nat := fieldN r 24 4
def bScale (r : List Byte) : Nat := fieldN r 28 4
def scalar (r : List Byte) : Nat := fieldN r 32 4
def salt (r : List Byte) : Nat := fieldN r 36 4
end MR

/-- Core-level OP of a mere-wide product. -/
def coreOp (op : Nat) : Nat := op - 0x40 + 0x10

def mxFmt (f : Nat) : Bool := decide (f = 4 ∨ f = 5)

/-- Offset ranges of a mere-wide operation's operands and result in the DBUF window: offset and bytes. -/
def mwRanges (w : Nat) (r : List Byte) : List (Nat × Nat) :=
  let op := TS.op w
  let rowsOf := fun (off str rows bytes : Nat) => (List.range rows).map (fun i => (off + i * str, bytes))
  if op < 0x45 then
    rowsOf (MR.aOff r) (MR.aStr r) (MR.m r) (rowBytes (MR.fmt r) (MR.k r)) ++
    rowsOf (MR.bOff r) (MR.bStr r) (MR.n r) (rowBytes (MR.fmt r) (MR.k r)) ++
    (if mxFmt (MR.fmt r) then [(MR.aScale r, MR.m r * (MR.k r / 32)), (MR.bScale r, MR.n r * (MR.k r / 32))] else [])
  else if op = 0x51 then
    (if TS.imm w % 4 = 1 then [(MR.aOff r, 4 * MR.n r)] else if TS.imm w % 4 = 2 then [(MR.aOff r, 4 * MR.m r)] else [])
  else rowsOf (MR.aOff r) (MR.aStr r) (MR.m r) (rowBytes (MR.fmt r) (MR.n r))

/-- Byte offset in the record of the first field that is out of range or wrongly non-zero (R338). -/
def mwFieldBad (w : Nat) (r : List Byte) : Option Nat :=
  let op := TS.op w
  let prod := decide (op < 0x45)
  let xfer := decide (op = 0x52 ∨ op = 0x53)
  let ew := decide (op = 0x51)
  let vecY := ew && (decide (TS.imm w % 4 = 1) || decide (TS.imm w % 4 = 2))
  let mx := prod && mxFmt (MR.fmt r)
  let i4 := decide (MR.fmt r = 1 ∨ MR.fmt r = 4)
  let rowLen := if prod then rowBytes (MR.fmt r) (MR.k r) else rowBytes (MR.fmt r) (MR.n r)
  let checks : List (Nat × Bool) :=
    [(0, (prod || xfer || vecY || decide (MR.aOff r = 0)) && decide (MR.aOff r % 64 = 0)),
     (4, if prod || xfer then decide (MR.aStr r % 64 = 0 ∧ rowLen ≤ MR.aStr r) else decide (MR.aStr r = 0)),
     (8, if prod then decide (MR.bOff r % 64 = 0) else decide (MR.bOff r = 0)),
     (12, if prod then decide (MR.bStr r % 64 = 0) && (decide (MR.n r ≤ 1) || decide (rowLen ≤ MR.bStr r)) else decide (MR.bStr r = 0)),
     (16, decide (1 ≤ MR.m r ∧ MR.m r ≤ 512)),
     (18, decide (1 ≤ MR.n r ∧ MR.n r ≤ 512)),
     (20, if prod then decide (1 ≤ MR.k r ∧ MR.k r ≤ 4096) && (!mx || decide (MR.k r % 32 = 0)) && (!i4 || decide (MR.k r % 2 = 0)) else decide (MR.k r = 0)),
     (22, if prod then prodFmtOk (coreOp op) (MR.fmt r) else if op = 0x52 then [0, 6, 7, 8].contains (MR.fmt r)
          else if op = 0x53 then storeFmtOk (MR.fmt r) (TS.sub w) else decide (MR.fmt r = 0)),
     (23, if op = 0x53 ∧ MR.fmt r = 0 then decide (MR.shift r < 32) else decide (MR.shift r = 0)),
     (24, if mx then decide (MR.aScale r % 64 = 0) else decide (MR.aScale r = 0)),
     (28, if mx then decide (MR.bScale r % 64 = 0) else decide (MR.bScale r = 0)),
     (32, (ew && decide (TS.imm w % 4 = 3)) || decide (MR.scalar r = 0)),
     (36, decide (op = 0x53 ∧ TS.sub w = 1) || decide (MR.salt r = 0)),
     (40, zeroAt r 40 24)]
  (checks.find? (fun c => !c.2)).map (·.1)

/-- SUB and IMM of a mere-wide slot. -/
def mwSlotOk (w : Nat) : Bool :=
  let op := TS.op w
  if op < 0x45 then prodSubOk (coreOp op) (TS.sub w) (TS.imm w)
  else if op = 0x51 then decide (TS.sub w ≤ 4 ∧ TS.imm w < 8)
  else if op = 0x50 then true
  else if op = 0x53 then decide (TS.sub w ≤ 2 ∧ TS.imm w = 0)
  else decide (TS.sub w = 0 ∧ TS.imm w = 0)

/-- Row i of a mere-wide operand as elements with their block scales. -/
def mwRow (m : Mem) (off str fmt k scale i : Nat) : List Elem :=
  (List.range k).map (fun c => ⟨rowElem m (off + i * str) fmt c, if mxFmt fmt then (Mem.read m (scale + i * (k / 32) + c / 32)).toNat else 0⟩)

/-- Accumulator word (i, j) of the array, in the core at grid row i / 32 and column j / 32 (R336). -/
def arrGet (accs : List (SMap W32)) (a i j : Nat) : W32 := accGet (accs.getD (i / 32 * 16 + j / 32) []) a (i % 32) (j % 32)

/-- Apply a function over a region of the array. -/
def arrRegion (accs : List (SMap W32)) (a rows cols : Nat) (f : Nat → Nat → W32 → W32) : List (SMap W32) :=
  (accs.zip (List.range accs.length)).map (fun x =>
    let r0 := x.2 / 16 * 32
    let c0 := x.2 % 16 * 32
    accRegion x.1 a (min 32 (rows - r0)) (min 32 (cols - c0)) (fun i j w => f (r0 + i) (c0 + j) w))

/-- A mere-wide operation's effect at its end: accumulators and DBUF stores. -/
def mwRun (accs : List (SMap W32)) (dbuf : Mem) (seed : Nat) (o : TileOp) : List (SMap W32) × List (Nat × List Byte) :=
  let w := o.word
  let r := o.record
  let ad := TS.ad w
  let rowAt := fun (i : Nat) => MR.aOff r + i * MR.aStr r
  match TS.op w with
  | 0x50 => (arrRegion accs ad 512 512 (fun _ _ _ => BitVec.ofNat 32 (TS.imm w)), [])
  | 0x51 =>
    let y := fun (i j : Nat) =>
      match TS.imm w % 4 with
      | 0 => arrGet accs (TS.as w) i j
      | 1 => BitVec.ofNat 32 (leNat (Mem.readN dbuf (MR.aOff r + 4 * j) 4))
      | 2 => BitVec.ofNat 32 (leNat (Mem.readN dbuf (MR.aOff r + 4 * i) 4))
      | _ => BitVec.ofNat 32 (MR.scalar r)
    (arrRegion accs ad (MR.m r) (MR.n r) (fun i j a => ewOp (TS.sub w) (bitOf (TS.imm w) 2) a (y i j)), [])
  | 0x52 => (arrRegion accs ad (MR.m r) (MR.n r) (fun i j _ => loadElem (MR.fmt r) (rowElem dbuf (rowAt i) (MR.fmt r) j)), [])
  | 0x53 =>
    (accs, (List.range (MR.m r)).map (fun i => (rowAt i, rowOf (MR.fmt r) ((List.range (MR.n r)).map (fun j =>
      storeElem (MR.fmt r) (TS.sub w) (MR.shift r) (rndBits seed (MR.salt r * 262144 + 512 * i + j)) (arrGet accs ad i j))))))
  | op =>
    let as := (List.range (MR.m r)).map (mwRow dbuf (MR.aOff r) (MR.aStr r) (MR.fmt r) (MR.k r) (MR.aScale r))
    let bs := (List.range (MR.n r)).map (mwRow dbuf (MR.bOff r) (MR.bStr r) (MR.fmt r) (MR.k r) (MR.bScale r))
    (arrRegion accs ad (MR.m r) (MR.n r) (fun i j a =>
      cellRun (coreOp op) (MR.fmt r) (TS.sub w) (TS.imm w) a (as.getD i []) (bs.getD j [])), [])

/-- Occupancy of a mere-wide operation in fast cycles (Table 14-5). -/
def mwCycles (w : Nat) (r : List Byte) : Nat :=
  let k := MR.k r
  match TS.op w with
  | 0x40 => 24 + (match MR.fmt r with | 1 => ceilDiv k 2 | 4 => ceilDiv k 2 | 6 => 4 * k | _ => k)
  | 0x50 => 56
  | 0x51 => 56
  | 0x52 => 24 + ceilDiv (MR.m r * MR.n r * fmtSize2 (MR.fmt r) / 2) 2048
  | 0x53 => 24 + ceilDiv (MR.m r * MR.n r * fmtSize2 (MR.fmt r) / 2) 2048
  | _ => 24 + k

end Sys2Proof.Machine
end

