-- ==== Sys2Proof/Machine/Transfer.lean ====
section
/-! DEFINITION. Draws and returns (R297–R302, R459), their landing and completion. -/

namespace Sys2Proof.Machine

/-- A transfer that an M slot asks for. A piece is a space address, a tarn address and a length. -/
structure XReq where
  draw : Bool
  space : Nat
  pieces : List (Nat × Nat × Nat)
  keep : Bool
  code : Bool
  strided : Bool

/-- The transfer record of DRAWD and RETD, 32 bytes. -/
def stridedReq (draw : Bool) (r : List Byte) : XReq :=
  let rows := fieldN r 16 4
  let sp := fieldN r 20 4
  let tp := fieldN r 24 4
  { draw := draw, space := byteAt r 28 % 4, keep := bitOf (byteAt r 28) 2, code := false, strided := true,
    pieces := (List.range rows).map (fun i => (fieldN r 0 8 + i * sp, fieldN r 8 4 + i * tp, fieldN r 12 4)) }

/-- Fault of a record's fields. DESIGN CHOICE (log 62): lengths and alignments raise ALIGN, other fields ILLEGAL. -/
def recordFault (r : List Byte) : Option Nat :=
  if fieldN r 0 8 % 64 ≠ 0 ∨ fieldN r 8 4 % 64 ≠ 0 ∨ fieldN r 12 4 % 64 ≠ 0 ∨ fieldN r 12 4 = 0 ∨ 4096 < fieldN r 12 4 ∨
     fieldN r 20 4 % 64 ≠ 0 ∨ fieldN r 24 4 % 64 ≠ 0 then some 2
  else if fieldN r 16 4 = 0 ∨ 4096 < fieldN r 16 4 ∨ 8 ≤ byteAt r 28 ∨ !zeroAt r 29 3 then some 1
  else none

/-- The pages of a basin range, as first addresses in it. -/
def pagesOf (a n : Nat) : List Nat := (List.range ((a + n - 1) / 65536 - a / 65536 + 1)).map (fun i => max a ((a / 65536 + i) * 65536))

/-- Cause of the first page of a range that has no translation fit for the access. -/
def rangeFault (d : Dev) (b a n : Nat) (write exec : Bool) : Option Nat :=
  (pagesOf a n).findSome? (fun x =>
    match translate d b x with
    | .ok p => if (write && !p.write) then some 6 else if exec && !p.exec then some 5 else none
    | .poison _ => some 0x11
    | _ => some 6)

/-- A space 1 offset names a window of a linked set (R459): node and offset. -/
def remoteOf (c : Ctx) (draw : Bool) (a : Nat) : Option (Nat × Nat) :=
  if !draw && c.link.isSome && decide (2 ^ 32 ≤ a ∧ a < 2 ^ 33) then some ((a - 2 ^ 32) / 2 ^ 24, a % 2 ^ 24) else none

/-- Fault of a piece against its space (R300, R459); the weir window is read-only (R374). -/
def pieceFault (d : Dev) (c : Ctx) (q : XReq) (p : Nat × Nat × Nat) : Option Nat :=
  match q.space with
  | 0 => rangeFault d c.basin p.1 p.2.2 (!q.draw) q.code
  | 1 =>
    match remoteOf c q.draw p.1 with
    | some (_, o) => if o + p.2.2 ≤ c.dbufBytes then none else some 7
    | none => if p.1 + p.2.2 ≤ c.dbufBytes + (if q.draw then weirSpan d c else 0) then none else some 7
  | 2 => if q.draw && decide (p.1 + p.2.2 ≤ c.inLen) then none else some 7
  | _ => if !q.draw && decide (p.1 + p.2.2 ≤ c.outCap) then none else some 7

/-- The fault that a transfer raises at its issue. -/
def xferFault (d : Dev) (c : Ctx) (k : CoreSt) (q : XReq) : Option Nat :=
  if q.pieces.any (fun p => decide (p.1 % 64 ≠ 0 ∨ p.2.1 % 64 ≠ 0 ∨ p.2.2 % 64 ≠ 0 ∨ p.2.2 = 0 ∨ 393216 < p.2.2)) then some 2
  else if q.pieces.any (fun p => decide (tarnTop < p.2.1 + p.2.2)) then some 3
  else if q.code && (decide (q.space ≠ 0) || q.pieces.any (fun p => decide (p.2.1 % 4096 ≠ 0 ∨ p.2.2 % 4096 ≠ 0))) then some 5
  else match q.pieces.findSome? (pieceFault d c q) with
    | some f => some f
    | none => if q.draw && q.pieces.any (fun p => codeIn k p.2.1 p.2.2) then some 4 else none

/-- Tarn ranges that issued tile operations have not read, or not written, yet (R333). -/
def unread (k : CoreSt) : List (Nat × Nat) := k.tiles.flatMap tileReads
def unwritten (k : CoreSt) : List (Nat × Nat) := k.tiles.flatMap tileWrites
def hits (rs : List (Nat × Nat)) (a n : Nat) : Bool := rs.any (fun r => overlaps r.1 r.2 a n)

/-- The transfer has to wait before it can issue (R301, R302, R333). -/
def xferStall (k : CoreSt) (q : XReq) : Bool :=
  decide (32 ≤ k.xfers.length) ||
  q.pieces.any (fun p =>
    if q.draw then hits (unread k) p.2.1 p.2.2 || hits (unwritten k) p.2.1 p.2.2
    else rangePending k p.2.1 p.2.2 || hits (unwritten k) p.2.1 p.2.2)

/-- Frames that a return with CLEAN covers wholly from one destination, with the address of each (R297). -/
def cleanedBy (c : Ctx) (k : CoreSt) (q : XReq) : List (Nat × Nat) :=
  if q.draw || !q.keep || q.strided then []
  else q.pieces.flatMap (fun p =>
    if (remoteOf c q.draw p.1).isSome then []
    else (framesIn p.2.1 p.2.2).filterMap (fun f =>
      if p.2.1 ≤ f * 4096 ∧ f * 4096 + 4096 ≤ p.2.1 + p.2.2 ∧ !(frameOf k f).code then some (f, p.1 + (f * 4096 - p.2.1)) else none))

/-- A linked job's own window under its remote name is the window itself (R459). -/
def homePiece (d : Dev) (c : Ctx) (q : XReq) (p : Nat × Nat × Nat) : Nat × Nat × Nat :=
  match (if q.space = 1 then remoteOf c q.draw p.1 else none) with
  | some (n, o) => if n = ownNode d then (o, p.2) else p
  | none => p

/-- Issue a transfer: a draw sets the state of its frames (R297, R299); a return takes its source bytes (R302). -/
def issueXfer (d : Dev) (c : Ctx) (i : Nat) (k0 : CoreSt) (q : XReq) (k : CoreSt) : CoreSt :=
  let x : Xfer :=
    { id := k0.bundles, draw := q.draw, space := q.space, pieces := q.pieces.map (homePiece d c q), keep := q.keep, code := q.code, strided := q.strided,
      data := if q.draw then [] else q.pieces.flatMap (fun p => Mem.readN k0.tarn p.2.1 p.2.2),
      bad := if q.draw then [] else
        (q.pieces.flatMap (fun p => (List.range (p.2.2 / 8)).map (fun j => p.2.1 / 8 + j))).zipIdx.filterMap (fun y =>
          if poisoned d (.tarn c.id i) y.1 then some y.2 else none),
      frames := cleanedBy c k0 q, cancelled := false, pc := k0.pc,
      core := c.place.getD i 0, epoch := liveN d .core (c.place.getD i 0) 0x108, sent := [] }
  let k := if q.draw then
      q.pieces.foldl (fun k p =>
        let k := touch k p.2.1 p.2.2
        if q.strided || (q.keep && !q.code) then k else cleanFrames k q.space p.1 p.2.1 p.2.2 q.code) k
    else k
  { k with xfers := k.xfers ++ [x] }

/-! ### Landing and completion -/

/-- Space ranges of two transfers overlap. -/
def spaceOverlap (x y : Xfer) : Bool :=
  decide (x.space = y.space) && x.pieces.any (fun p => y.pieces.any (fun q => overlaps p.1 p.2.2 q.1 q.2.2))

def tarnOverlap (x y : Xfer) : Bool := x.pieces.any (fun p => y.pieces.any (fun q => overlaps p.2.1 p.2.2 q.2.1 q.2.2))

/-- A draw that resumption makes of a clean frame (R358): its number lies above that of any bundle, and it comes before
every transfer and operation of the bundles since. -/
def Xfer.redrawn (x : Xfer) : Bool := decide (2 ^ 64 ≤ x.id)

/-- Offset ranges of issued mere-wide operations that come before a transfer, against its pieces (R339). -/
def mereWideBefore (k : CoreSt) (x : Xfer) : Bool :=
  decide (x.space = 1) && !x.redrawn && k.tiles.any (fun o => decide (0x40 ≤ TS.op o.word ∧ TS.op o.word ≠ 0x50 ∧ o.id ≤ x.id) &&
    (mwRanges o.word o.record).any (fun r => x.pieces.any (fun p => overlaps r.1 r.2 p.1 p.2.2)))

/-- The transfers before one, in issue order. -/
def earlier (k : CoreSt) (x : Xfer) : List Xfer := k.xfers.takeWhile (fun y => !decide (y = x))

/-- The transfer is outstanding (R301): returns are, and draws up to 32 transfers in all; a draw beyond that, which only a
resumption can leave, waits for one to complete. -/
def outstanding (k : CoreSt) (x : Xfer) : Bool :=
  !x.draw || decide ((k.xfers.filter (fun y => !y.draw)).length + ((earlier k x).filter (·.draw)).length < 32)

/-- The other nodes that a return writes to (R459). -/
def Xfer.nodes (x : Xfer) : List Nat :=
  if x.draw ∨ x.space ≠ 1 then [] else (x.pieces.filter (fun p => decide (2 ^ 32 ≤ p.1))).map (fun p => (p.1 - 2 ^ 32) / 2 ^ 24)

/-- A draw comes after the tile operation of its own bundle whose tarn bytes it lands on: the T slot stands before the M slot
(R307, R333). -/
def tileBefore (k : CoreSt) (x : Xfer) : Bool :=
  x.draw && k.tiles.any (fun o => decide (o.id = x.id) && (tileReads o ++ tileWrites o).any (fun r => x.pieces.any (fun p => overlaps r.1 r.2 p.2.1 p.2.2)))

/-- An earlier transfer of the core, or a mere-wide operation, must take effect first (R302, R339); returns to one node do so in
their order (R459). -/
def mustWait (k : CoreSt) (x : Xfer) : Bool :=
  mereWideBefore k x || !outstanding k x || tileBefore k x ||
  (earlier k x).any (fun y => (spaceOverlap x y && !(x.draw && y.draw)) || (x.draw && y.draw && tarnOverlap x y) ||
    (decide (y.sent = []) && x.nodes.any (y.nodes.contains ·)))

/-- A core's transfers as far as they still order one another: the draws of a context that stops are discarded (R312), and
while a save waits for tile operations the draws that it has cancelled hold nothing back (R356). -/
def ordering (d : Dev) (c : Ctx) (k : CoreSt) : CoreSt :=
  if stopping d c then { k with xfers := k.xfers.filter (fun x => !x.draw) }
  else if k.tiles ≠ [] then { k with xfers := k.xfers.filter (fun x => !x.cancelled) }
  else k

/-- A piece lies in a pool page whose port's link is down: the transfer waits for it (Table 20-2). -/
def linkWait (d : Dev) (c : Ctx) (x : Xfer) : Bool :=
  decide (x.space = 0) && x.pieces.any (fun p => (List.range (p.2.2 / 65536 + 2)).any (fun i =>
    let a := max p.1 ((p.1 / 65536 + i) * 65536)
    decide (a < p.1 + p.2.2) && (match translate d c.basin a with
      | .ok m => m.pool && poolDown d (m.base + a % 65536)
      | _ => false)))

/-- Bytes of a space range with the poisoned word offsets, for a draw (R392). -/
def spaceRead (d : Dev) (c : Ctx) (space a n : Nat) : Acc (List Byte × List Nat) :=
  let words := fun (sp : Space) (base : Nat) => (List.range (n / 8)).filter (fun j => poisoned d sp (base / 8 + j))
  match space with
  | 0 => (vRaw d c.basin a n).map (fun bs => (bs, rangePoison d c.basin a n))
  | 1 => .ok (Mem.readN (dbufSeen d c) a n, words (.dbuf c.id) a)
  | s =>
    let came := match findReq d c.slot with | some r => if s = 2 ∧ r.streamed then some r.input else none | none => none
    match came with
    | some bs => .ok ((bs.drop a).take n ++ List.replicate (n - (bs.length - a)) 0, [])
    | none =>
    let blk := match findReq d c.slot with | some r => if s = 2 then Desc.inBlock r.desc else Desc.outBlock r.desc | none => 0
    let base := shoreAddr c.basin blk a
    .ok (Mem.readN d.mem.shore base n, words .shore base)

/-- Put drawn bytes into a tarn, but not into frames that FINV has taken out of the piece. -/
def landPiece (id i : Nat) (d : Dev) (t : Nat) (bs : List Byte) (bad : List Nat) : Dev :=
  let d := modCtx d id (fun c => match coreAt c i with | some k => setCore c i { k with tarn := Mem.writeL k.tarn t bs } | none => c)
  copyPoison d (.tarn id i) t bs.length bad

def landPieces (c : Ctx) (i space : Nat) : Dev → List (Nat × Nat × Nat) → Acc Dev
  | d, [] => .ok d
  | d, p :: ps => (spaceRead d c space p.1 p.2.2).bind (fun r => landPieces c i space (landPiece c.id i d p.2.1 r.1 r.2) ps)

def dropXfer (d : Dev) (id i x : Nat) : Dev :=
  modCtx d id (fun c => match coreAt c i with
    | some k => setCore c i { k with xfers := k.xfers.filter (fun y => !decide (y.id = x)) }
    | none => c)

/-- DRAW_LANDS (R301, R302). -/
def drawLandsOp (d : Dev) (id i xid : Nat) : Dev :=
  match findCtx d id with
  | none => d
  | some c => match coreAt c i with
    | none => d
    | some k => match k.xfers.find? (fun x => decide (x.id = xid) && x.draw) with
      | none => d
      | some x =>
        if decide (c.phase ≠ .running) || stopping d c || mustWait (ordering d c k) x || linkWait d c x then d
        else match landPieces c i x.space (dropXfer d id i xid) x.pieces with
          | .ok d => d
          | e => ctxAcc (dropXfer d id i xid) id i 3 e (some x.pc)

/-- WRITE bodies of a return (Table 20-5): the offset, and 192 data bytes. The last frame of a return that is no multiple of 192
bytes carries its last 192. DESIGN CHOICE (log 61): a return of 64 or 128 bytes, which no frame of the table fits, gives its
length in bytes 30 and 31. -/
def writeBodies (o : Nat) (bs : List Byte) : List (List Byte) :=
  let n := bs.length
  if n < 192 then [natLe 4 o ++ natLe 2 n ++ bs]
  else (List.range (ceilDiv n 192)).map (fun i =>
    let x := min (192 * i) (n - 192)
    natLe 4 (o + x) ++ [0, 0] ++ (bs.drop x).take 192)

/-- Write a return's bytes, taken from tarn address `t`, to their space. -/
def spaceWrite (d : Dev) (c : Ctx) (i space a t pc : Nat) (bs : List Byte) (bad : List Nat) : Acc Dev :=
  match space with
  | 0 => (vWrite d c.basin a bs).map (fun d =>
      bad.foldl (fun d j => match translate d c.basin (a + 8 * j) with
        | .ok p => let w := pageWord d p.pool (p.base + (a + 8 * j) % 65536); copyPoison d w.1 (8 * w.2) 8 [0]
        | _ => d) d)
  | 1 =>
    match remoteOf c false a, c.link with
    | some (n, o), some (dom, key, _) =>
      if bad ≠ [] then .ok (ctxFault d c.id i 0x11 3 0 false (t + 8 * bad.headD 0) (some pc))
      else .ok ((writeBodies o bs).foldl (fun d b => sendMsg d ⟨n, 2, dom, key, b⟩) d)
    | _, _ => if 2 ^ 32 ≤ a then .ok d else .ok (copyPoison (modCtx d c.id (fun c => { c with dbuf := Mem.writeL c.dbuf a bs })) (.dbuf c.id) a bs.length bad)
  | _ =>
    match findReq d c.slot with
    | none => .ok d
    | some r =>
      let d := outWrite d r a bs
      .ok (bad.foldl (fun d j => poisonBlock d r.basin (Desc.outBlock r.desc + (a + 8 * j) / 65536)) d)

def retPieces (c : Ctx) (i space pc : Nat) : Dev → List (Nat × Nat × Nat) → List Byte → Nat → List Nat → Acc Dev
  | d, [], _, _, _ => .ok d
  | d, p :: ps, bs, off, bad =>
    let mine := (bad.filter (fun j => decide (off ≤ j ∧ j < off + p.2.2 / 8))).map (· - off)
    (spaceWrite d c i space p.1 p.2.1 pc (bs.take p.2.2) mine).bind (fun d => retPieces c i space pc d ps (bs.drop p.2.2) (off + p.2.2 / 8) bad)

/-- Frames that a completed return with CLEAN makes clean. -/
def applyClean (k : CoreSt) (space : Nat) (fs : List (Nat × Nat)) : CoreSt :=
  fs.foldl (fun k f => if (frameOf k f.1).valid then setFrame k f.1 ⟨true, false, false, some (space, f.2)⟩ else k) k

/-- What a receiver does with what a fenced core sent before its fence (R404): the mere counts it and a STALE record
is written. -/
def staleCore (d : Dev) (core : Nat) : Dev :=
  let m := core / 264
  let old := (liveN d .core core 0x108 + 65535) % 65536
  logEvent (count d .mere m 0x210 1) 0xD (pageNo .core core) 0xFF noTag (core % 264) old

/-- The last return of a saved context has completed: its request stands at a step boundary (R361). -/
def savedReturns (d : Dev) (id : Nat) : Dev :=
  match findCtx d id with
  | none => d
  | some c => if c.phase = .saved ∧ !c.pipe ∧ returnsDone c then boundary d c.slot else d

/-- A return to another node can go: its route uses no port under declaration. -/
def routesReady (d : Dev) (x : Xfer) : Bool :=
  x.nodes.all (fun n => match routePort d n with | some p => !d.links.down.contains p | none => true)

/-- The last frame of a return to each node, as its port holds it until the peer acknowledges it. -/
def lastFrames (d : Dev) (x : Xfer) : List (Nat × Nat) :=
  x.nodes.filterMap (fun n => (routePort d n).map (fun p => (p, (portAt d p).seqTx)))

/-- Some frame of the return is not acknowledged yet. -/
def unacked (d : Dev) (x : Xfer) : Bool := x.sent.any (fun f => (portAt d f.1).held.any (fun h => decide (h.1 = f.2)))

def modXfer (d : Dev) (id i x : Nat) (f : Xfer → Xfer) : Dev :=
  modCtx d id (fun c => match coreAt c i with
    | some k => setCore c i { k with xfers := modWhere (fun y => decide (y.id = x) && !y.draw) f k.xfers }
    | none => c)

/-- A return is complete: its CLEAN frames are clean, and a saved context may stand at a boundary. -/
def retired (d : Dev) (id i : Nat) (x : Xfer) : Dev :=
  savedReturns (modCtx d id (fun c => match coreAt c i with | some k => setCore c i (applyClean k x.space x.frames) | none => c)) id

/-- RETURN_COMPLETES (R301, R302): a return whose core has been fenced since carries an old epoch and is discarded (R404). One
to another node is sent first, and completes when its frames have been taken (R459). -/
def returnCompletesOp (d : Dev) (id i xid : Nat) : Dev :=
  match findCtx d id with
  | none => d
  | some c => match coreAt c i with
    | none => d
    | some k => match k.xfers.find? (fun x => decide (x.id = xid) && !x.draw) with
      | none => d
      | some x =>
        let lost := noMajority d (regA .core x.core 0x108)
        if mustWait (ordering d c k) x || linkWait d c x || lost then d
        else if x.sent ≠ [] then (if unacked d x then d else retired (dropXfer d id i xid) id i x)
        else if x.epoch ≠ liveN d .core x.core 0x108 then savedReturns (staleCore (dropXfer d id i xid) x.core) id
        else if !routesReady d x then d
        else
          let d1 := dropXfer d id i xid
          match retPieces c i x.space x.pc (if x.nodes = [] then d1 else d) x.pieces x.data 0 x.bad with
          | .ok d2 =>
            let last := lastFrames d2 x
            if last = [] then retired (dropXfer d2 id i xid) id i x else modXfer d2 id i xid (fun x => { x with sent := last })
          | e => ctxAcc d1 id i 3 e (some x.pc)

/-- A transfer of a core that is to land or to complete now. -/
def moving (d : Dev) (c : Ctx) (i xid : Nat) (draw : Bool) : Option Xfer :=
  (coreAt c i).bind (fun k => (k.xfers.find? (fun x => decide (x.id = xid) && (x.draw == draw))).bind (fun x =>
    if mustWait (ordering d c k) x || linkWait d c x || (draw && (decide (c.phase ≠ .running) || stopping d c)) then none else some x))

/-- A word that a draw reads. -/
def drawWord (c : Ctx) (x : Xfer) (d : Dev) : ErrorPlace → Option (Space × Nat)
  | .hbm a => if x.space = 0 ∧ x.pieces.any (fun p => (pagesOf p.1 p.2.2).any (fun y => match translate d c.basin y with
      | .ok m => !m.pool && decide (m.base + y % 65536 ≤ a ∧ a < m.base + min 65536 (y % 65536 + (p.1 + p.2.2 - y)))
      | _ => false)) = true then some (.hbm, a / 8) else none
  | .dbuf o => if x.space = 1 ∧ x.pieces.any (fun p => overlaps o 8 p.1 p.2.2) = true then some (.dbuf c.id, o / 8) else none
  | .shore o =>
    match findReq d c.slot with
    | some r => if x.space = 2 ∧ x.pieces.any (fun p => overlaps o 8 p.1 p.2.2) = true then inputWord r (.shore o) else none
    | none => none
  | _ => none

/-- The tarn word at a number of a transfer's words. -/
def xferWord : List (Nat × Nat × Nat) → Nat → Option Nat
  | [], _ => none
  | p :: ps, j => if 8 * j < p.2.2 then some (p.2.1 / 8 + j) else xferWord ps (j - p.2.2 / 8)

/-- A word's first copy came uncorrectable and its second did not (R390). -/
def replays (d : Dev) (unit : Nat) (c : Ctx) (paths : List PathError) : Dev :=
  let tag := match findReq d c.slot with | some r => r.tag | none => noTag
  (paths.filter (fun p => !p.again)).foldl (fun d p => logEvent d 4 (pageNo .core unit) c.basin tag p.path 0) d

/-- Words that came uncorrectable twice. -/
def lostWords (x : Xfer) (paths : List PathError) : List Nat :=
  (paths.filter (fun p => p.again && (xferWord x.pieces p.word).isSome)).map (·.word)

/-- DRAW_LANDS with what its reads and its path meet: a lost word lies poisoned in the tarn (R390). -/
def drawErrors (d : Dev) (id i xid : Nat) (errs : List ReadError) (paths : List PathError) : Dev :=
  match (findCtx d id).bind (fun c => (moving d c i xid true).map (fun x => (c, x))) with
  | none => drawLandsOp d id i xid
  | some (c, x) =>
    let d := readErrors d ⟨.core, c.place.getD i 0, c.basin, c.slot⟩ (drawWord c x) errs
    let d := drawLandsOp (replays d (c.place.getD i 0) c paths) id i xid
    let lost := (lostWords x paths).filterMap (fun j => (xferWord x.pieces j).map (fun w => (Space.tarn id i, w)))
    if lost = [] ∨ ((findCtx d id).map (fun c => c.fault.isSome)).getD true = true then d
    else { d with mem.poison := d.mem.poison ++ lost.filter (fun w => !d.mem.poison.contains w) }

/-- RETURN_COMPLETES with what its path meets: a lost word is written poisoned (R390, R392). -/
def returnErrors (d : Dev) (id i xid : Nat) (paths : List PathError) : Dev :=
  match (findCtx d id).bind (fun c => (moving d c i xid false).map (fun x => (c, x))) with
  | none => returnCompletesOp d id i xid
  | some (c, x) =>
    if paths = [] ∨ x.sent ≠ [] ∨ x.epoch ≠ liveN d .core x.core 0x108 then returnCompletesOp d id i xid
    else
      let lost := (lostWords x paths).filter (fun j => !x.bad.contains j)
      let d := replays d (c.place.getD i 0) c paths
      let mark := fun (y : Xfer) => if y.id = xid ∧ y.draw = false then { y with bad := y.bad ++ lost } else y
      let d := modCtx d id (fun c => match coreAt c i with | some k => setCore c i { k with xfers := k.xfers.map mark } | none => c)
      returnCompletesOp d id i xid

def execDrawLands (ctx core xfer : Nat) (errs : List ReadError) (paths : List PathError) (s : State) : Host.Outcome State Fault Refusal :=
  forCtx s ctx (drawErrors · ctx core xfer errs paths)
def execReturnCompletes (ctx core xfer : Nat) (paths : List PathError) (s : State) : Host.Outcome State Fault Refusal :=
  forCtx s ctx (returnErrors · ctx core xfer paths)

end Sys2Proof.Machine
end

