-- ==== Sys2Proof/Machine/Vector.lean ====
section
/-! DEFINITION. The V slot (Table 13-8, R309, R310). -/

namespace Sys2Proof.Machine

def vDefined (op : Nat) : Bool :=
  decide (op ≤ 0x0D) || decide (0x10 ≤ op ∧ op ≤ 0x12) || [0x14, 0x18, 0x1C, 0x1D, 0x1E].contains op ||
  decide (0x20 ≤ op ∧ op ≤ 0x22) || decide (0x24 ≤ op ∧ op ≤ 0x26) || [0x28, 0x29, 0x2C].contains op

/-- The Types column. -/
def vTypeOk (op et : Nat) : Bool :=
  if op = 0 ∨ (7 ≤ op ∧ op ≤ 9) then true
  else if op ≤ 3 ∨ op = 5 ∨ op = 6 ∨ op = 0x0C ∨ op = 0x0D then decide (et ≤ 4)
  else if op = 4 then decide (et = 3 ∨ et = 4)
  else if op = 0x0A ∨ op = 0x0B then decide (et ≤ 2)
  else if (0x10 ≤ op ∧ op ≤ 0x12) ∨ (0x20 ≤ op ∧ op ≤ 0x22) then decide (et = 2 ∨ et = 3)
  else if 0x1C ≤ op ∧ op ≤ 0x1E then decide (et = 3)
  else decide (et ≤ 6)

/-- The slot is legal (R305, R309, Table 13-8). -/
def vLegal (s : Nat) : Bool :=
  let op := VS.op s
  vDefined op && !bitOf s 35 && vTypeOk op (VS.et s) && (VS.pen s || decide (VS.p s = 0)) &&
  (!decide (0x10 ≤ op ∧ op ≤ 0x12) || decide (VS.vd s < 8)) && (!decide (op = 0x14) || VS.pen s) &&
  (!decide (op = 0x18) || decide (VS.immN s % 8 ≠ 7))

def vWrites (s : Nat) : Writes :=
  let op := VS.op s
  if op = 0 ∨ op = 0x29 then []
  else if 0x10 ≤ op ∧ op ≤ 0x12 then [64 + VS.vd s % 8]
  else if (0x20 ≤ op ∧ op ≤ 0x22) ∨ op = 0x25 then xw (VS.xs s)
  else [32 + VS.vd s]

def vMem (op : Nat) : Bool := decide (op = 0x28 ∨ op = 0x29)

def vAddr (k : CoreSt) (s : Nat) : Nat := (xr k (VS.xs s) + VS.imm s).toNat

def vFault (e : Env) (s : Nat) : Option Nat :=
  if vMem (VS.op s) then
    let a := vAddr e.k s
    if a % 128 ≠ 0 then some 2
    else if a ≥ tarnTop then some 3
    else if VS.op s = 0x29 then (if codeIn e.k a 128 then some 4 else none)
    else if tarnPoison e.d e.c.id e.i a 128 then some 0x11
    else none
  else none

/-- The predicate of the slot: every lane without PEN. -/
def vPred (k : CoreSt) (s : Nat) : W32 := if VS.pen s then pr k (VS.p s) else BitVec.allOnes 32

/-- Elements of a vector. -/
def elems (w : Nat) (v : BitVec 1024) : List Nat := (List.range (1024 / w)).map (velem w v)

/-- One element of VADD, VSUB, VMUL, VMIN, VMAX, VSHL, VSHR, VABS, VNEG. -/
def vElem (op et a b : Nat) : Nat :=
  let w := etWidth et
  if etInt et then
    let x := toInt w a
    let y := toInt w b
    match op with
    | 1 => ofInt w (x + y)
    | 2 => ofInt w (x - y)
    | 3 => ofInt w (x * y)
    | 5 => ofInt w (min x y)
    | 6 => ofInt w (max x y)
    | 0x0A => ofInt w (x * 2 ^ (b % w))
    | 0x0B => ofInt w (x / 2 ^ (b % w))
    | 0x0C => ofInt w (if x < 0 then -x else x)
    | _ => ofInt w (-x)
  else
    let f := etFmt et
    match op with
    | 1 => f.round ((f.decode a).add (f.decode b))
    | 2 => f.round ((f.decode a).sub (f.decode b))
    | 3 => f.round ((f.decode a).mul (f.decode b))
    | 5 => f.minMax false a b
    | 6 => f.minMax true a b
    | 0x0C => f.round (f.decode a).abs
    | _ => f.round (f.decode a).neg

/-- Value of an element for a conversion. -/
def cvtVal (et a : Nat) : FVal := if etInt et then ofIntF (toInt (etWidth et) a) else (etFmt et).decode a

/-- One converted element (R310). -/
def cvtElem (src dst a : Nat) : Nat :=
  let v := cvtVal src a
  match dst with
  | 3 => fp32.round v
  | 4 => bf16.round v
  | 5 => toE4M3 (bitOf a (etWidth src - 1)) v
  | 6 => toE5M2 a v
  | _ => ofInt (etWidth dst) (toIntSat (etWidth dst) v)

/-- VCVT: IMM[2:0] is the destination type, IMM[5:4] the part. A narrowing whose part lies past the destination's elements writes
none, and a conversion between types of one width has no parts. DESIGN CHOICE (log 213). -/
def vcvt (s : Nat) (old a : BitVec 1024) : BitVec 1024 :=
  let src := VS.et s
  let dst := VS.immN s % 8
  let part := bitsOf (VS.immN s) 5 4
  let ws := etWidth src
  let wd := etWidth dst
  let n := 1024 / max ws wd
  if ws < wd then
    if (part + 1) * n * ws ≤ 1024 then vmk wd ((List.range n).map (fun k => cvtElem src dst (velem ws a (part * n + k))))
    else Config.cvtOpen s a
  else if wd < ws then
    vmk wd ((List.range (1024 / wd)).map (fun k =>
      if part * n ≤ k ∧ k < part * n + n then cvtElem src dst (velem ws a (k - part * n)) else velem wd old k))
  else vmk wd ((List.range n).map (fun k => cvtElem src dst (velem ws a k)))

/-- Lanes of 32 bits that take part. -/
def onLanes (p : W32) (v : BitVec 1024) : List Nat := ((List.range 32).filter (fun i => p.getLsbD i)).map (velem 32 v)

/-- An element as a result: a NaN of FP32 is written canonically (R310). -/
def canonOf (et x : Nat) : Nat := if et = 2 ∨ !(fp32.decode x).isNan then x else fp32.qnan

/-- VREDSUM, VREDMAX, VREDMIN: the low 32 bits. -/
def vReduce (op et : Nat) (xs : List Nat) : W32 :=
  match op with
  | 0x20 => if et = 2 then BitVec.ofInt 32 (xs.map (toInt 32)).sum else if xs = [] then 0 else rnd32 (FVal.sum (xs.map fp32.decode))
  | 0x21 =>
    (match xs with
     | [] => if et = 2 then 0x80000000 else 0xFF800000
     | y :: ys => BitVec.ofNat 32 (ys.foldl (fun m v => vElem 6 et m v) (canonOf et y)))
  | _ =>
    (match xs with
     | [] => if et = 2 then 0x7FFFFFFF else 0x7F800000
     | y :: ys => BitVec.ofNat 32 (ys.foldl (fun m v => vElem 5 et m v) (canonOf et y)))

/-- The new value of the slot's vector register before its predicate. -/
def vResult (e : Env) (s : Nat) : BitVec 1024 :=
  let op := VS.op s
  let et := VS.et s
  let w := etWidth et
  let a := vr e.k (VS.va s)
  let b := vr e.k (VS.vb s)
  let c := vr e.k (VS.vc s)
  let old := vr e.k (VS.vd s)
  let lanes := fun (f : W32 → W32) => vmk 32 ((elems 32 a).map (fun x => (f (BitVec.ofNat 32 x)).toNat))
  match op with
  | 0x04 =>
    let f := etFmt et
    vmk w ((List.range (1024 / w)).map (fun k =>
      f.round (((f.decode (velem w a k)).mul (f.decode (velem w b k))).add (f.decode (velem w c k)))))
  | 0x07 => a &&& b
  | 0x08 => a ||| b
  | 0x09 => a ^^^ b
  | 0x14 => underMask (laneMask (pr e.k (VS.p s))) b a
  | 0x18 => vcvt s old a
  | 0x1C => lanes exp32
  | 0x1D => lanes rcp32
  | 0x1E => lanes rsq32
  | 0x24 => vmk w (List.replicate (1024 / w) ((xr e.k (VS.xs s)).toNat % 2 ^ w))
  | 0x26 =>
    vmk w ((List.range (1024 / w)).map (fun k => if k = VS.immN s % 128 then (xr e.k (VS.xs s)).toNat % 2 ^ w else velem w old k))
  | 0x28 => BitVec.ofNat 1024 (leNat (Mem.readN e.k.tarn (vAddr e.k s) 128))
  | 0x2C => vmk 32 ((List.range 32).map (fun i => velem 32 a (velem 32 b i % 32)))
  | _ => vmk w ((List.range (1024 / w)).map (fun k => vElem op et (velem w a k) (velem w b k)))

/-- The V slot's effect on the core, but for its stores. -/
def vApply (e : Env) (s : Nat) (k : CoreSt) : CoreSt :=
  let op := VS.op s
  let p := vPred e.k s
  let a := vr e.k (VS.va s)
  if op = 0 ∨ op = 0x29 then k
  else if 0x10 ≤ op ∧ op ≤ 0x12 then
    let b := vr e.k (VS.vb s)
    let bits := (List.range 32).foldl (fun m i => if laneCmp (op - 0x10) (VS.et s) (velem 32 a i) (velem 32 b i) then m + 2 ^ i else m) 0
    setP k (VS.vd s % 8) (merge32 (pr e.k (VS.vd s % 8)) p (BitVec.ofNat 32 bits))
  else if 0x20 ≤ op ∧ op ≤ 0x22 then
    let r := vReduce op (VS.et s) (onLanes p a)
    setX k (VS.xs s) (BitVec.ofNat 64 (r.toNat + 2 ^ 32 * (Config.redHigh (VS.et s) r).toNat))
  else if op = 0x25 then
    let w := etWidth (VS.et s)
    let n := VS.immN s % 128
    setX k (VS.xs s) (BitVec.ofNat 64 (if n * w < 1024 then velem w a n else Config.elemOpen s a.toNat))
  else if op = 0x14 then setV k (VS.vd s) (vResult e s)
  else setV k (VS.vd s) (underMask (laneMask p) (vr e.k (VS.vd s)) (vResult e s))

/-- Bytes that VST stores: runs of enabled lanes, pairs of lanes in one 8-byte word together. -/
def vStores (e : Env) (s : Nat) : List (Nat × List Byte) :=
  if VS.op s = 0x29 then
    let p := vPred e.k s
    let a := vr e.k (VS.va s)
    let base := vAddr e.k s
    (List.range 16).flatMap (fun j =>
      let lo := p.getLsbD (2 * j)
      let hi := p.getLsbD (2 * j + 1)
      if lo && hi then [(base + 8 * j, natLe 8 (velem 64 a j))]
      else (if lo then [(base + 8 * j, natLe 4 (velem 32 a (2 * j)))] else []) ++
           (if hi then [(base + 8 * j + 4, natLe 4 (velem 32 a (2 * j + 1)))] else []))
  else []

end Sys2Proof.Machine
end

