-- ==== Sys2Proof/Machine/CoreUnit.lean ====
section
/-! DEFINITION. The bundle (R305–R307), the T and M slots (Tables 13-9, 14-3), synchronisation (R342–R349), the tile
unit's queue (R332–R339). -/

namespace Sys2Proof.Machine

/-! ### The T slot -/

/-- Bits of the T slot that an operation uses (R320, Table 14-3). -/
def tUsed (w : Nat) : Nat :=
  let m := bitsMask
  let ad := m 8 8
  let ta := m 11 9
  let tb := m 14 12
  let as := m 15 15
  let sub := m 19 16
  let xs := m 24 20
  let vr := m 29 25
  let imm := m 63 32
  let y := TS.imm w % 4
  m 7 0 + match TS.op w with
    | 0x00 => 0
    | 0x01 => ad + imm
    | 0x02 => ad + ta
    | 0x03 => ad + ta + sub + imm + (if TS.sub w = 1 then xs else 0)
    | 0x10 => ad + ta + tb
    | 0x11 => ad + ta + tb
    | 0x12 => ad + ta + tb
    | 0x13 => ad + ta + tb + sub
    | 0x14 => ad + ta + tb + sub + imm
    | 0x20 => ad + sub + imm + (if y = 0 then as else if y = 3 then xs else vr)
    | 0x21 => ad + xs + vr
    | 0x22 => ad + xs + vr
    | 0x43 => ad + xs + sub
    | 0x44 => ad + xs + sub + imm
    | 0x50 => ad + imm
    | 0x51 => ad + xs + sub + imm + (if y = 0 then as else 0)
    | 0x53 => ad + xs + sub
    | _ => ad + xs

def tDefined (op : Nat) : Bool :=
  decide (op ≤ 3) || decide (0x10 ≤ op ∧ op ≤ 0x14) || decide (0x20 ≤ op ∧ op ≤ 0x22) || decide (0x40 ≤ op ∧ op ≤ 0x44) ||
  decide (0x50 ≤ op ∧ op ≤ 0x53)

def mereWide (op : Nat) : Bool := decide (0x40 ≤ op)

/-- The slot is legal as a word (R305, R320, R337). -/
def tLegal (gang : Bool) (i w : Nat) : Bool :=
  let op := TS.op w
  tDefined op && decide (w &&& tUsed w = w) &&
  (decide (op = 0) || (if gang then decide (i = 0) && mereWide op else !mereWide op))

def tWrites (w : Nat) : Writes := if TS.op w = 0x21 then [32 + TS.vr w] else []

/-- Vector registers that the slot names. -/
def tVectors (w : Nat) : List Nat :=
  if TS.op w = 0x21 ∨ TS.op w = 0x22 ∨ (TS.op w = 0x20 ∧ (TS.imm w % 4 = 1 ∨ TS.imm w % 4 = 2)) then [TS.vr w] else []

/-- The operation that the slot issues. -/
def tileOf (e : Env) (w : Nat) : TileOp :=
  let op := TS.op w
  { id := e.k.bundles, word := w, ta := tr e.k (TS.ta w), tb := tr e.k (TS.tb w), x := xr e.k (TS.xs w), v := vr e.k (TS.vr w),
    record := if mereWide op ∧ op ≠ 0x50 then Mem.readN e.k.tarn (xr e.k (TS.xs w)).toNat 64 else [], started := false, pc := e.k.pc }

/-- A mere-wide operation needs its record: the range in the tarn. -/
def recordAt (e : Env) (w : Nat) : Option Nat :=
  if mereWide (TS.op w) ∧ TS.op w ≠ 0x50 then some (xr e.k (TS.xs w)).toNat else none

/-- Fault of a mere-wide operation at its issue, and the BLK_ERRCAP2 of the MERE page (R338). -/
def mwFault (e : Env) (w : Nat) : Option (Nat × Nat) :=
  match recordAt e w with
  | none => none
  | some a =>
    if a % 64 ≠ 0 then some (2, 0)
    else if a ≥ tarnTop then some (3, 0)
    else if tarnPoison e.d e.c.id e.i a 64 then some (0x11, 0)
    else
      let r := Mem.readN e.k.tarn a 64
      if !mwSlotOk w then some (1, 0)
      else match mwFieldBad w r with
        | some off => some (1, off)
        | none => match (mwRanges w r).find? (fun x => decide (e.c.dbufBytes + (if TS.op w = 0x53 then 0 else weirSpan e.d e.c) < x.1 + x.2)) with
          | some x => some (7, x.1)
          | none => none

def tFault (e : Env) (w : Nat) : Option Nat :=
  let op := TS.op w
  if op = 0 ∨ op = 0x50 then none
  else if mereWide op then (mwFault e w).map (·.1)
  else
    let o := tileOf e w
    match tileCheck w o.ta o.tb with
    | some f => some f
    | none => if (tileWrites o).any (fun r => codeIn e.k r.1 r.2) then some 4 else none

/-- Cycles that an operation holds its unit (Table 14-5), for the limit of R355. -/
def gangLoad (k : CoreSt) : Nat := (k.tiles.map (fun o => mwCycles o.word o.record)).sum

def tStall (e : Env) (w : Nat) : Bool :=
  let op := TS.op w
  if op = 0 then false
  else
    let o := tileOf e w
    decide ((e.k.tiles.filter (fun t => !t.started)).length ≥ 2) ||
    (match recordAt e w with
     | some a => rangePending e.k a 64 || hits (unwritten e.k) a 64
     | none => (tileReads o).any (fun r => rangePending e.k r.1 r.2) || (tileWrites o).any (fun r => rangePending e.k r.1 r.2)) ||
    (mereWide op && decide (e.k.tiles ≠ []) && decide (16384 < gangLoad e.k + mwCycles w o.record))

/-! ### The M slot -/

def mDefined (op : Nat) : Bool :=
  decide (op ≤ 8) || [0x10, 0x11].contains op || decide (0x18 ≤ op ∧ op ≤ 0x1E) || decide (0x20 ≤ op ∧ op ≤ 0x22) ||
  decide (0x30 ≤ op ∧ op ≤ 0x34)

def mWrites (s : Nat) : Writes :=
  let op := MS.op s
  if [0x08, 0x1D, 0x34].contains op then xw (MS.xc s)
  else if op = 0x11 then xw (MS.xa s) ++ xw (MS.xb s)
  else if [0x18, 0x19, 0x1A, 0x1B, 0x1C, 0x1E].contains op then [64 + MS.d s]
  else if op = 0x10 then [72 + MS.d s]
  else []

/-- Record address of DRAWD and RETD. -/
def mRecord (k : CoreSt) (s : Nat) : Option Nat := if MS.op s = 3 ∨ MS.op s = 4 then some (xr k (MS.xa s)).toNat else none

/-- The transfer that the slot asks for. -/
def mReq (k : CoreSt) (s : Nat) : Option XReq :=
  let low19 := fun (n : Nat) => (xr k n).toNat % 2 ^ 19
  match MS.op s with
  | 1 => some ⟨true, MS.imm s % 4, [((xr k (MS.xa s)).toNat, low19 (MS.xb s), low19 (MS.xc s))], bitOf (MS.imm s) 2, bitOf (MS.imm s) 3, false⟩
  | 2 => some ⟨false, MS.imm s % 4, [((xr k (MS.xa s)).toNat, low19 (MS.xb s), low19 (MS.xc s))], bitOf (MS.imm s) 2, false, false⟩
  | 3 => some (stridedReq true (Mem.readN k.tarn (xr k (MS.xa s)).toNat 32))
  | 4 => some (stridedReq false (Mem.readN k.tarn (xr k (MS.xa s)).toNat 32))
  | _ => none

/-- Neighbour of a logical index in a direction: 0 north, 1 east, 2 south, 3 west (R348). -/
def gridNeighbour (n i dir : Nat) : Option Nat :=
  let j := match dir with
    | 0 => if 16 ≤ i then some (i - 16) else none
    | 1 => if i % 16 = 15 then none else some (i + 1)
    | 2 => some (i + 16)
    | _ => if i % 16 = 0 then none else some (i - 1)
  match j with
  | some j => if j < n then some j else none
  | none => none

/-- Cause of a space 0 command address. -/
def cmdFault (d : Dev) (b a : Nat) : Option Nat :=
  match vRead d b a 64 with
  | .xfault => some 6
  | .fabric _ => some 0x12
  | _ => none

def mFault (e : Env) (s : Nat) : Option Nat :=
  let k := e.k
  let op := MS.op s
  if 1 ≤ op ∧ op ≤ 4 then
    let rec? := match mRecord k s with
      | some a =>
        if a % 32 ≠ 0 then some 2
        else if a ≥ tarnTop then some 3
        else if tarnPoison e.d e.c.id e.i a 32 then some 0x11
        else recordFault (Mem.readN k.tarn a 32)
      | none => none
    match rec?, mReq k s with
    | some f, _ => some f
    | none, some q => xferFault e.d e.c k q
    | none, none => none
  else if op = 7 then (if (xr k (MS.xa s)).toNat + (xr k (MS.xb s)).toNat ≤ 96 then none else some 3)
  else if op = 8 then (if (xr k (MS.xa s)).toNat % 128 < 96 then none else some 3)
  else if op = 0x20 ∨ op = 0x21 then cmdFault e.d e.c.basin (xr k (MS.xa s)).toNat
  else if op = 0x30 ∨ op = 0x31 then (if (xr k (MS.xa s)).toNat < 65536 then none else some 1)
  else if op = 0x33 ∨ op = 0x34 then (if (gridNeighbour e.c.nCores e.i (MS.imm s % 4)).isSome then none else some 1)
  else none

/-- Every command that the core submitted has written its result. -/
def commandsDone (e : Env) : Bool :=
  e.d.eng.sorts.all (fun c => !decide (c.ctx = some e.c.id ∧ c.core = e.i)) &&
  e.d.eng.gaths.all (fun g => !decide (g.ctx = some e.c.id ∧ g.core = e.i))

def mStall (e : Env) (s : Nat) : Bool :=
  let k := e.k
  match MS.op s with
  | 5 => k.xfers.any (·.draw)
  | 6 => k.xfers.any (fun x => !x.draw)
  | 8 => let f := (xr k (MS.xa s)).toNat % 128
         -- whether a frame is clean does not tell when a return completed (R293)
         k.xfers.any (fun x => !x.draw && x.frames.any (fun y => decide (y.1 = f)))
  | 7 => let a := (xr k (MS.xa s)).toNat * 4096
         let n := (xr k (MS.xb s)).toNat * 4096
         decide (a + n ≤ tarnTop) && (hits (unread k) a n || hits (unwritten k) a n)
  | 0x22 => !commandsDone e
  | _ =>
    (match mRecord k s with
     | some a => decide (a < tarnTop) && (rangePending k a 32 || hits (unwritten k) a 32)
     | none => false) ||
    (match mReq k s with
     | some q => (xferFault e.d e.c k q).isNone && xferStall k q
     | none => false)

/-- Take the frames f to g − 1 out of an outstanding draw (FINV). -/
def cutDraw (lo hi : Nat) (p : Nat × Nat × Nat) : List (Nat × Nat × Nat) :=
  let t := p.2.1
  let e := t + p.2.2
  if hi ≤ t ∨ e ≤ lo then [p]
  else (if t < lo then [(p.1, t, lo - t)] else []) ++ (if hi < e then [(p.1 + (hi - t), hi, e - hi)] else [])

/-- FINV: the frames are invalid and clean; what a pending draw would bring into them is discarded. -/
def finv (k : CoreSt) (f n : Nat) : CoreSt :=
  let lo := f * 4096
  let hi := (f + n) * 4096
  let k := (List.range n).foldl (fun k j => setFrame (unclean k (f + j)) (f + j) noFrame) k
  { k with
    tarn := Mem.clear k.tarn lo hi,
    xfers := (k.xfers.map (fun x => if x.draw then { x with pieces := x.pieces.flatMap (cutDraw lo hi) } else x)).filter (fun x => !x.draw || decide (x.pieces ≠ [])) }

/-- FSTAT's value. A redraw after a pre-emption, which follows no instruction, does not show (R311). -/
def frameBits (k : CoreSt) (f : Nat) : Nat :=
  let s := frameOf k f
  (if s.valid then 1 else 0) + (if s.dirty then 2 else 0) + (if s.code then 4 else 0) +
    (if framePending { k with xfers := k.xfers.filter (fun x => !x.redrawn) } f then 8 else 0)

/-- The M slot's effect on the core, but for synchronisation and commands. -/
def mApply (e : Env) (s : Nat) (k : CoreSt) : CoreSt :=
  let x := xr e.k
  match MS.op s with
  | 0x07 => finv k (x (MS.xa s)).toNat (x (MS.xb s)).toNat
  | 0x08 => setX k (MS.xc s) (BitVec.ofNat 64 (frameBits e.k ((x (MS.xa s)).toNat % 128)))
  | 0x10 => setT k (MS.d s) ((x (MS.xb s)) ++ (x (MS.xa s)))
  | 0x11 => setX (setX k (MS.xa s) ((tr e.k (MS.d s)).setWidth 64)) (MS.xb s) ((tr e.k (MS.d s) >>> (64 : Nat)).setWidth 64)
  | 0x18 => setP k (MS.d s) (pr e.k (MS.pa s) &&& pr e.k (MS.pb s))
  | 0x19 => setP k (MS.d s) (pr e.k (MS.pa s) ||| pr e.k (MS.pb s))
  | 0x1A => setP k (MS.d s) (pr e.k (MS.pa s) ^^^ pr e.k (MS.pb s))
  | 0x1B => setP k (MS.d s) (~~~ pr e.k (MS.pa s))
  | 0x1C => setP k (MS.d s) (BitVec.ofNat 32 (MS.imm s))
  | 0x1D => setX k (MS.xc s) (zext (pr e.k (MS.pa s)))
  | 0x1E => setP k (MS.d s) (low32 (x (MS.xa s)))
  | 0x34 => setX k (MS.xc s) (((e.c.mbox.find? (fun b => decide (b.1 = 4 * e.i + MS.imm s % 4))).map (·.2)).getD 0)
  | _ => match mReq e.k s with
    | some q => issueXfer e.d e.c e.i e.k q k
    | none => k

/-- Commands that the M slot submits (R192, R229). -/
def mSubmit (e : Env) (s : Nat) (d : Dev) : Dev :=
  let cmd := vRead e.d e.c.basin (xr e.k (MS.xa s)).toNat 64
  let bytes := match cmd with | .ok bs => bs | _ => []
  -- A GATH command is 64-byte aligned (R229).
  let gath := if (xr e.k (MS.xa s)).toNat % 64 = 0 then bytes else []
  let bad := match cmd with | .poison w => some w | _ => none
  match MS.op s with
  | 0x20 =>
    acceptSort { d with eng.nextId := d.eng.nextId + 1 } ⟨d.eng.nextId, 1 + e.c.mere, e.c.prio, none, some e.c.id, e.i, bytes, bad, e.k.pc, e.c.basin, false⟩
  | 0x21 =>
    { d with eng.gaths := d.eng.gaths ++ [⟨d.eng.nextId, e.c.mere, none, some e.c.id, e.i, gath, bad, false, false, 0, .queued, 0, [], 0, 0, e.k.pc⟩],
             eng.nextId := d.eng.nextId + 1 }
  | _ => d

/-! ### Synchronisation (R341–R349) -/

/-- A semaphore or group takes a binding, or is left in DBUF (R345); i is the core at whose use it does. -/
def takeBinding (d : Dev) (id i n : Nat) : Dev :=
  match findCtx d id with
  | none => d
  | some c =>
    if c.bound.contains n || c.spilled.contains n then d
    else if boundOn d c.mere (decide (4096 ≤ n)) < (if 4096 ≤ n then 256 else 4096) then modCtx d id (fun c => { c with bound := c.bound ++ [n] })
    else
      let tag := match findReq d c.slot with | some r => r.tag | none => noTag
      let d := modCtx d id (fun c => { c with spilled := c.spilled ++ [n] })
      setStat d .sync c.mere 1 c.basin tag (BitVec.ofNat 32 (c.place.getD i 0 % 264)) (BitVec.ofNat 32 n)

/-- Use of a semaphore or group by core i; one on a spilled one is counted. -/
def bindSync (d : Dev) (id i n : Nat) : Dev :=
  let d := takeBinding d id i n
  match findCtx d id with
  | none => d
  | some c => if c.spilled.contains n then count d .sync c.mere 0x124 1 else d

/-- Serve a semaphore's waits in the order in which they came; each takes its count if the value allows. -/
def semServe (n : Nat) (c : Ctx) : List (Nat × Nat × Nat) → Ctx
  | [] => c
  | w :: ws =>
    let v := SMap.get (fun _ => 0) c.sems n
    if w.1 = n ∧ w.2.2 ≤ v then
      semServe n (grantCore { c with sems := SMap.set (fun _ => 0) c.sems n (v - w.2.2), semWait := c.semWait.erase w } w.2.1) ws
    else semServe n c ws

def setWait (d : Dev) (id i : Nat) (w : SyncWait) : Dev :=
  modCtx d id (fun c => match coreAt c i with | some k => setCore c i { k with wait := w } | none => c)

/-- Number n of a linked set's context is a set semaphore (R457). -/
def setSem (c : Ctx) (n : Nat) : Bool := c.link.isSome && decide (3840 ≤ n ∧ n ≤ 4093)

/-- Every earlier return has completed and, in a GANG context, every mere-wide operation has ended (R303, R339). -/
def syncReady (e : Env) : Bool := e.k.xfers.all (·.draw) && (!e.c.gang || decide (e.k.tiles = []))

/-- Try a wait or signal on a set semaphore at its home. -/
def semRemote (e : Env) (n v : Nat) (sig : Bool) : Dev × Bool :=
  match e.k.wait with
  | .sem _ _ true => (setWait e.d e.c.id e.i .none, true)
  | .sem _ _ false => (e.d, false)
  | _ =>
    match e.c.link with
    | none => (e.d, true)
    | some (dom, key, home) =>
      let d := setWait e.d e.c.id e.i (.sem n v false)
      if home = ownNode d then (semHome d dom key home n v e.i sig, false)
      else (sendMsg d ⟨home, 3, dom, key, semBody n v (if sig then 2 else 1) e.i⟩, false)

/-- SEM_WAIT (R343, R344). -/
def semWait (e : Env) (n v : Nat) : Dev × Bool :=
  if setSem e.c n then semRemote e n v false
  else match e.k.wait with
    | .sem _ _ true => (setWait e.d e.c.id e.i .none, true)
    | .sem _ _ false => (e.d, false)
    | _ =>
      let d := bindSync e.d e.c.id e.i n
      let val := SMap.get (fun _ => 0) e.c.sems n
      if v ≤ val then (modCtx d e.c.id (fun c => { c with sems := SMap.set (fun _ => 0) c.sems n (val - v) }), true)
      else (setWait (modCtx d e.c.id (fun c => { c with semWait := c.semWait ++ [(n, e.i, v)] })) e.c.id e.i (.sem n v false), false)

/-- SEM_SIG (R303, R343). -/
def semSig (e : Env) (n v : Nat) : Dev × Bool :=
  if !syncReady e then (e.d, false)
  else if setSem e.c n then semRemote e n v true
  else
    let val := SMap.get (fun _ => 0) e.c.sems n
    if 65535 < val + v then (e.d, false)
    else
      let d := bindSync e.d e.c.id e.i n
      (modCtx d e.c.id (fun c => semServe n { c with sems := SMap.set (fun _ => 0) c.sems n (val + v) } c.semWait), true)

/-- A group may be complete: release it, or tell the home of a linked set (R346, R458). -/
def barLocal (d : Dev) (id g : Nat) : Dev :=
  match findCtx d id with
  | none => d
  | some c =>
    if !allArrived c g then d
    else match c.link with
      | some (dom, key, home) =>
        if g < 128 then releaseCtx d id g
        else if home = ownNode d then barHome d dom key g home
        else sendMsg d ⟨home, 4, dom, key, barBody g 0⟩
      | none => releaseCtx d id g

/-- BAR (R303, R346). -/
def barTry (e : Env) (g : Nat) : Dev × Bool :=
  match e.k.wait with
  | .bar _ true => (setWait e.d e.c.id e.i .none, true)
  | .bar _ false => (e.d, false)
  | _ =>
    if !syncReady e then (e.d, false)
    else
      let d := bindSync e.d e.c.id e.i (4096 + g)
      let d := modCtx d e.c.id (fun c => { c with arrived := c.arrived ++ [(g, e.i)] })
      let d := barLocal (setWait d e.c.id e.i (.bar g false)) e.c.id g
      match (findCtx d e.c.id).bind (fun c => coreAt c e.i) with
      | some k => if k.wait = .bar g true then (setWait d e.c.id e.i .none, true) else (d, false)
      | none => (d, false)

/-- MBOX_SEND (R303, R348): the slot of the receiver for the opposite direction. -/
def mboxSend (e : Env) (dir : Nat) (w : W64) : Dev × Bool :=
  match gridNeighbour e.c.nCores e.i dir with
  | none => (e.d, true)
  | some j =>
    let slot := 4 * j + (dir + 2) % 4
    if !syncReady e || e.c.mbox.any (fun b => decide (b.1 = slot)) then (e.d, false)
    else (modCtx e.d e.c.id (fun c => { c with mbox := c.mbox ++ [(slot, w)] }), true)

/-- MBOX_RECV (R348). -/
def mboxRecv (e : Env) (dir : Nat) : Dev × Bool :=
  let slot := 4 * e.i + dir
  if e.c.mbox.any (fun b => decide (b.1 = slot)) then
    (modCtx e.d e.c.id (fun c => { c with mbox := c.mbox.filter (fun b => !decide (b.1 = slot)) }), true)
  else (e.d, false)

/-- The synchronisation operation of a bundle: the next state, and whether the bundle may issue. -/
def syncTry (e : Env) (m : Nat) : Dev × Bool :=
  let c := (xr e.k (MS.xa m)).toNat
  match MS.op m with
    | 0x30 => semWait e (MS.imm m % 4096) c
    | 0x31 => semSig e (MS.imm m % 4096) c
    | 0x32 => barTry e (MS.imm m % 256)
    | 0x33 => mboxSend e (MS.imm m % 4) (xr e.k (MS.xa m))
    | 0x34 => mboxRecv e (MS.imm m % 4)
    | _ => (e.d, true)

/-! ### The bundle -/

/-- A slot makes the bundle illegal (R305): 0 S, 1 V, 2 T, 3 M. -/
def illegalSlot (gang : Bool) (i w slot : Nat) : Bool :=
  let s := Bundle.slotS w
  let v := Bundle.slotV w
  let t := Bundle.slotT w
  let m := Bundle.slotM w
  let ws := [sWrites s, vWrites v, tWrites t, mWrites m]
  let clash := fun (j : Nat) => (ws.getD j []).any (fun r => ((ws.take j).flatMap id).contains r)
  match slot with
  | 0 => decide (16 ≤ Bundle.header w) || (!Bundle.enS w && decide (s ≠ 0)) || !sDefined (SS.op s)
  | 1 => (!Bundle.enV w && decide (v ≠ 0)) || !vLegal v || clash 1
  | 2 => (!Bundle.enT w && decide (t ≠ 0)) || !tLegal gang i t || clash 2
  | _ => (!Bundle.enM w && decide (m ≠ 0)) || !mDefined (MS.op m) || clash 3

/-- Vector registers that a TRD has still to write. -/
def pendingV (k : CoreSt) : List Nat := (k.tiles.filter (fun o => decide (TS.op o.word = 0x21))).map (fun o => TS.vr o.word)

/-- A slot waits for a result, a transfer or the tile unit (R302, R306, R332, R333). -/
def slotStall (e : Env) (w slot : Nat) : Bool :=
  let k := e.k
  let s := Bundle.slotS w
  let v := Bundle.slotV w
  let t := Bundle.slotT w
  let mem := fun (a n : Nat) (store : Bool) =>
    decide (a + n ≤ tarnTop) && (rangePending k a n || hits (unwritten k) a n || (store && hits (unread k) a n))
  let waits := fun (vs : List Nat) => vs.any (fun n => (pendingV k).contains n)
  match slot with
  | 0 => (sLoad (SS.op s) || sStore (SS.op s)) && mem (sAddr k s) (sBytes (SS.op s)) (sStore (SS.op s))
  | 1 => (decide (VS.op v ≠ 0) && waits [VS.vd v, VS.va v, VS.vb v, VS.vc v]) ||
         (vMem (VS.op v) && mem (vAddr k v) 128 (decide (VS.op v = 0x29)))
  | 2 => waits (tVectors t) || tStall e t
  | _ => mStall e (Bundle.slotM w)

/-- A slot's fault. -/
def slotFault (e : Env) (w slot : Nat) : Option Nat :=
  if illegalSlot e.c.gang e.i w slot then some 1
  else match slot with
    | 0 => sFault e (Bundle.slotS w)
    | 1 => vFault e (Bundle.slotV w)
    | 2 => tFault e (Bundle.slotT w)
    | _ => mFault e (Bundle.slotM w)

/-- The first of the slots that stalls or faults, in the order S, V, T, M (R307): none, the cause for a fault. A slot is
reached once those before it neither wait nor fault, so that the fault taken does not depend on latency. -/
def firstStop (e : Env) (w : Nat) : List Nat → Option (Nat × Option Nat)
  | [] => none
  | j :: js =>
    if !illegalSlot e.c.gang e.i w j && slotStall e w j then some (j, none)
    else match slotFault e w j with
      | some f => some (j, some f)
      | none => firstStop e w js

/-- Place of the poisoned word that a bundle's slot consumes, or of the poisoned translation entry that a transfer meets. -/
def bundlePlace (e : Env) (w slot : Nat) : Nat :=
  let tarn := fun (a n : Nat) => placeIn e.d (.tarn e.c.id e.i) a n
  match slot with
  | 0 => tarn (sAddr e.k (Bundle.slotS w)) (sBytes (SS.op (Bundle.slotS w)))
  | 1 => tarn (vAddr e.k (Bundle.slotV w)) 128
  | 2 => ((recordAt e (Bundle.slotT w)).map (fun a => tarn a 64)).getD 0
  | _ =>
    match (mRecord e.k (Bundle.slotM w)).bind (fun a => poisonIn e.d (.tarn e.c.id e.i) a 32), mReq e.k (Bundle.slotM w) with
    | some x, _ => placeOf x
    | none, some q => (q.pieces.findSome? (fun p => (pagesOf p.1 p.2.2).findSome? (fun x =>
        match translate e.d e.c.basin x with | .poison y => some (placeOf y) | _ => none))).getD 0
    | none, none => 0

/-- The MERE page's record of a mere-wide operation's fault (R338). -/
def mwRecord (e : Env) (w cause : Nat) (illegal : Bool) (d : Dev) : Dev :=
  let tag := match findReq d e.c.slot with | some r => r.tag | none => noTag
  if mereWide (TS.op w) && tDefined (TS.op w) && [1, 2, 7].contains cause then
    setStat d .mere e.c.mere 0 e.c.basin tag (BitVec.ofNat 32 (if illegal then 0 else ((mwFault e w).map (·.2)).getD 0)) (BitVec.ofNat 32 (TS.op w))
  else d

/-- END is executed once the core's returns have completed, its commands have written their results and its tile operations
have ended, those of END's own bundle among them (R304, R335); none while it waits. From then on the core counts as arrived
at every group (R346). -/
def endWait (d : Dev) (id i : Nat) : Option Dev :=
  (findCtx d id).bind (fun c => (coreAt c i).bind (fun k =>
    if k.xfers ≠ [] ∨ k.tiles ≠ [] ∨ !commandsDone ⟨d, c, i, k⟩ then none
    else
      let d := modCtx d id (fun c => setCore c i { k with ended := true, wait := .none })
      some ((dedup (c.arrived.map (·.1))).foldl (fun d g => barLocal d id g) d)))

/-- The bundle issues: every slot takes effect from the sources before it (R306). -/
def issueBundle (e : Env) (w : Nat) (d : Dev) : Dev :=
  let s := Bundle.slotS w
  let v := Bundle.slotV w
  let t := Bundle.slotT w
  let m := Bundle.slotM w
  let stores := sStores e s ++ vStores e v
  let k := match (findCtx d e.c.id).bind (fun c => coreAt c e.i) with | some k => k | none => e.k
  let k := sApply e s k
  let k := vApply e v k
  let k := stores.foldl (fun k x => storeBytes k x.1 x.2) k
  let k := if TS.op t = 0 then k else { k with tiles := k.tiles ++ [tileOf e t] }
  let k := mApply e m k
  let k := if SS.op s = 0x70 then { k with wait := .ending, xfers := k.xfers.filter (fun x => !x.draw) } else k
  let k := { k with bundles := k.bundles + 1, pc := sNext e s }
  let d := modCtx d e.c.id (fun c => setCore c e.i k)
  let d := stores.foldl (fun d x => clearPoison d (.tarn e.c.id e.i) x.1 (x.1 + x.2.length)) d
  let d := if MS.op m = 7 then clearPoison d (.tarn e.c.id e.i) ((xr e.k (MS.xa m)).toNat * 4096) (((xr e.k (MS.xa m)).toNat + (xr e.k (MS.xb m)).toNat) * 4096) else d
  let d := mSubmit e m d
  let phys := e.c.place.getD e.i 0
  let d := setLiveN (count d .core phys 0x110 1) .core phys 0x10C e.k.pc
  if SS.op s = 0x70 then (endWait d e.c.id e.i).getD d else d

/-- A stalled bundle costs a cycle (Table 13-14). -/
def stallOp (e : Env) (d : Dev) : Dev := count d .core (e.c.place.getD e.i 0) 0x114 1

/-- A core fetches a bundle. -/
def fetches (d : Dev) (c : Ctx) (k : CoreSt) : Bool :=
  decide (c.phase = .running) && !c.pipe && !stopping d c && !d.power.relock.contains c.mere && !k.ended && decide (k.wait ≠ .ending) && decide (k.pc % 32 = 0 ∧ k.pc < tarnTop) && !rangePending k k.pc 32

/-- Tarn ranges that a bundle reads: itself, its loads, its records. -/
def bundleReads (k : CoreSt) : List (Nat × Nat) :=
  let w := leNat (Mem.readN k.tarn k.pc 32)
  let s := Bundle.slotS w
  let v := Bundle.slotV w
  let t := Bundle.slotT w
  [(k.pc, 32)] ++ (if sLoad (SS.op s) then [(sAddr k s, sBytes (SS.op s))] else []) ++
  (if vMem (VS.op v) && !decide (VS.op v = 0x29) then [(vAddr k v, 128)] else []) ++
  (if mereWide (TS.op t) && !decide (TS.op t = 0x50) then [((xr k (TS.xs t)).toNat, 64)] else []) ++
  (match mRecord k (Bundle.slotM w) with | some a => [(a, 32)] | none => [])

/-- A word that a bundle reads in its core's tarn. -/
def bundleWord (id i : Nat) (k : CoreSt) : ErrorPlace → Option (Space × Nat)
  | .tarn o => if (bundleReads k).any (fun r => overlaps o 8 r.1 r.2) then some (.tarn id i, o / 8) else none
  | _ => none

/-- A word of the command that a bundle submits to the sorter or to GATH. -/
def submitWord (d : Dev) (c : Ctx) (k : CoreSt) : ErrorPlace → Option (Space × Nat)
  | .hbm a =>
    let s := Bundle.slotM (leNat (Mem.readN k.tarn k.pc 32))
    let x := (xr k (MS.xa s)).toNat
    if (MS.op s = 0x20 ∨ MS.op s = 0x21) ∧ (List.range 64).any (fun j => match translate d c.basin (x + j) with
        | .ok p => !p.pool && decide ((p.base + (x + j) % 65536) / 8 = a / 8)
        | _ => false) then some (.hbm, a / 8) else none
  | _ => none

/-- A step of a core's bundle with the errors in the words that it reads: of the tarn, of a command that it submits. -/
def bundleErrors (d : Dev) (id i : Nat) (errs : List ReadError) (step : Dev → Dev) : Dev :=
  match findCtx d id with
  | none => step d
  | some c => match coreAt c i with
    | none => step d
    | some k =>
      if fetches d c k then
        withErrors d ⟨.core, c.place.getD i 0, c.basin, c.slot⟩ (fun d p => (bundleWord id i k p).or (submitWord d c k p)) errs step
      else step d

/-- A core's next bundle: it stalls, faults or issues (R299, R305–R308). -/
def bundleAt (e : Env) : Dev :=
  let d := e.d
  let c := e.c
  let i := e.i
  let k := e.k
  let id := c.id
  if k.wait = .ending then (endWait d id i).getD (stallOp e d)
  else if k.pc % 32 ≠ 0 ∨ tarnTop ≤ k.pc then ctxFault d id i 5 0
  else if rangePending k k.pc 32 then stallOp e d
  else if !(frameOf k (k.pc / 4096)).code then ctxFault d id i 5 0
  else if tarnPoison d id i k.pc 32 then ctxFault d id i 0x11 0 0 false (placeIn d (.tarn id i) k.pc 32)
  else
    let w := leNat (Mem.readN k.tarn k.pc 32)
    match firstStop e w [0, 1, 2, 3] with
    | some (_, none) => stallOp e d
    | some (slot, some cause) =>
      ctxFault (if slot = 2 then mwRecord e (Bundle.slotT w) cause (illegalSlot c.gang i w 2) d else d) id i cause slot
        (if cause = 0x0A then SS.immN (Bundle.slotS w) % 65536 else 0) false (if cause = 0x11 then bundlePlace e w slot else 0)
    | none =>
      let r := syncTry e (Bundle.slotM w)
      if r.2 then issueBundle e w r.1 else stallOp e r.1

/-- BUNDLE (R299, R305–R308). -/
def bundleOp (d : Dev) (id i : Nat) : Dev :=
  match findCtx d id with
  | none => d
  | some c => match coreAt c i with
    | none => d
    | some k =>
      if decide (c.phase ≠ .running) || c.pipe || stopping d c || k.ended || d.power.relock.contains c.mere then d
      else bundleAt ⟨d, c, i, k⟩

/-! ### The tile unit (R332–R339) -/

/-- TILE_OP_START: the unit is free, and the context does not stop, which discards what is queued (R361); a mere-wide operation also waits for core 0's earlier returns to space 1, and for an
armed die sequencer to apply (R112). -/
def tileStartOp (d : Dev) (id i : Nat) : Dev :=
  match findCtx d id with
  | none => d
  | some c => match coreAt c i with
    | none => d
    | some k =>
      match k.tiles with
      | [] => d
      | o :: os =>
        let before := mereWide (TS.op o.word) && (ordering d c k).xfers.any (fun x => !x.draw && decide (x.space = 1 ∧ x.id < o.id))
        if o.started || before || stopping d c || d.power.relock.contains c.mere || (mereWide (TS.op o.word) && isArmed d .mere c.mere) || decide (c.phase ≠ .running ∧ c.phase ≠ .saving) then d
        else modCtx d id (fun c => setCore c i { k with tiles := { o with started := true } :: os })

/-- A poisoned DBUF word among a mere-wide operation's operands: its offset (R339). -/
def mwPoison (d : Dev) (id w : Nat) (r : List Byte) : Option Nat :=
  if TS.op w = 0x53 then none
  else (d.mem.poison.find? (fun p => decide (p.1 = .dbuf id) && (mwRanges w r).any (fun x => overlaps (p.2 * 8) 8 x.1 x.2))).map (fun p => p.2 * 8)

/-- A mere-wide operation has ended, and held the array for some cycles (R340). -/
def countMereWide (d : Dev) (m cycles : Nat) : Dev := count (count d .mere m 0x104 1) .mere m 0x108 cycles

/-- The operation writes DBUF bytes that an earlier draw of core 0 has still to read (R302, R339). -/
def drawsFirst (k : CoreSt) (o : TileOp) : Bool :=
  decide (TS.op o.word = 0x53) && k.xfers.any (fun x => x.draw && decide (x.space = 1) && !x.cancelled && (decide (x.id < o.id) || x.redrawn) &&
    (mwRanges o.word o.record).any (fun r => x.pieces.any (fun p => overlaps r.1 r.2 p.1 p.2.2)))

def endMereWide (d : Dev) (c : Ctx) (k : CoreSt) (o : TileOp) (os : List TileOp) : Dev :=
  let d := countMereWide (modCtx d c.id (fun c => setCore c 0 { k with tiles := os })) c.mere (mwCycles o.word o.record)
  let tag := match findReq d c.slot with | some r => r.tag | none => noTag
  match mwPoison d c.id o.word o.record with
  | some off =>
    let d := setStat d .mere c.mere 1 c.basin tag (BitVec.ofNat 32 off) (BitVec.ofNat 32 (TS.op o.word))
    ctxFault (logEvent d 3 (pageNo .mere c.mere) c.basin tag off 0x40) c.id 0 0x11 2 0 true 0 (some o.pc)
  | none =>
    let out := mwRun (c.cores.map (·.acc)) (dbufSeen d c) (match findReq d c.slot with | some r => Desc.seed r.desc | none => 0) o
    let d := modCtx d c.id (fun c => { c with
      cores := (c.cores.zip out.1).map (fun x => { x.1 with acc := x.2 }),
      dbuf := out.2.foldl (fun m x => Mem.writeL m x.1 x.2) c.dbuf })
    out.2.foldl (fun d x => clearPoison d (.dbuf c.id) x.1 (x.1 + x.2.length)) d

/-- TILE_OP_END (R333). A poisoned tarn word among the operands ends the context. -/
def tileEndOp (d : Dev) (id i : Nat) : Dev :=
  match findCtx d id with
  | none => d
  | some c => match coreAt c i with
    | none => d
    | some k =>
      match k.tiles with
      | [] => d
      | o :: os =>
        if !o.started || d.power.relock.contains c.mere then d
        else if stopping d c then
          -- it stopped at the end of a group, and its results are discarded (R361)
          let d := modCtx d id (fun c => setCore c i { k with tiles := os })
          if mereWide (TS.op o.word) then countMereWide d c.mere (Config.stoppedCycles o.id % (mwCycles o.word o.record + 1)) else d
        else if mereWide (TS.op o.word) then (if drawsFirst k o then d else endMereWide d c k o os)
        else if (tileReads o).any (fun r => tarnPoison d id i r.1 r.2) then
          ctxFault (modCtx d id (fun c => setCore c i { k with tiles := os })) id i 0x11 2 0 false
            (((tileReads o).findSome? (fun r => poisonIn d (.tarn id i) r.1 r.2)).elim 0 placeOf) (some o.pc)
        else
          let out := tileRun k.acc k.tarn (match findReq d c.slot with | some r => Desc.seed r.desc | none => 0) o
          let k := { k with tiles := os, acc := out.acc }
          let k := out.stores.foldl (fun k x => storeBytes k x.1 x.2) k
          let k := match out.vec with | some (n, v) => setV k n v | none => k
          let d := modCtx d id (fun c => setCore c i k)
          out.stores.foldl (fun d x => clearPoison d (.tarn id i) x.1 (x.1 + x.2.length)) d

/-- A word that a tile or mere-wide operation reads. -/
def tileWord (c : Ctx) (i : Nat) (o : TileOp) : ErrorPlace → Option (Space × Nat)
  | .tarn a => if !mereWide (TS.op o.word) && (tileReads o).any (fun r => overlaps a 8 r.1 r.2) then some (.tarn c.id i, a / 8) else none
  | .dbuf a => if mereWide (TS.op o.word) && decide (TS.op o.word ≠ 0x50 ∧ TS.op o.word ≠ 0x53) && (mwRanges o.word o.record).any (fun r => overlaps a 8 r.1 r.2)
      then some (.dbuf c.id, a / 8) else none
  | _ => none

/-- TILE_OP_END with the errors that the operation's reads meet. -/
def tileErrors (d : Dev) (id i : Nat) (errs : List ReadError) : Dev :=
  match (findCtx d id).bind (fun c => (coreAt c i).bind (fun k => (k.tiles.head?).map (fun o => (c, o)))) with
  | none => tileEndOp d id i
  | some (c, o) =>
    if !o.started ∨ stopping d c = true then tileEndOp d id i
    else
      let x : Reader := if mereWide (TS.op o.word) then ⟨.mere, c.mere, c.basin, c.slot⟩ else ⟨.core, c.place.getD i 0, c.basin, c.slot⟩
      withErrors d x (fun _ p => tileWord c i o p) errs (tileEndOp · id i)

def execBundle (ctx core : Nat) (errs : List ReadError) (s : State) : Host.Outcome State Fault Refusal :=
  forCtx s ctx (fun d => bundleErrors d ctx core errs (bundleOp · ctx core))
def execTileOpStart (ctx core : Nat) (s : State) : Host.Outcome State Fault Refusal := ok s (tileStartOp s.dev ctx core)
def execTileOpEnd (ctx : Nat) (r : Reads) (s : State) : Host.Outcome State Fault Refusal :=
  ok s (tileErrors s.dev ctx r.id r.errs)

end Sys2Proof.Machine
end

