-- ==== Sys2Proof/Machine/Sched.lean ====
section
/-! DEFINITION. Scheduling, pre-emption, saving and resumption (R351–R363). -/

namespace Sys2Proof.Machine

/-! ### Power domains as the scheduler sees them (Table 18-1): meres 0 to 3 and the shore, 4 -/

def domState (d : Dev) (dom : Nat) : Nat := bitsOf (liveN d .pwr 0 0x118) (2 * dom + 1) (2 * dom)
def domMoving (d : Dev) (dom : Nat) : Bool := bitOf (liveN d .pwr 0 0x118) (16 + dom)

/-- A mere takes jobs: it is in S0 and neither entering nor leaving another state. -/
def mereRuns (d : Dev) (m : Nat) : Bool := decide (domState d m = 0) && !domMoving d m

/-! ### Cores and grids -/

def coreMap (d : Dev) (i : Nat) : Nat := liveN d .core i 0x104
def isMapped (d : Dev) (i : Nat) : Bool := bitOf (coreMap d i) 31
def gridOf (d : Dev) (i : Nat) : Nat := coreMap d i % 256
def isOffline (d : Dev) (i : Nat) : Bool := ctlBit d .core i 0
def isQuarantined (d : Dev) (i : Nat) : Bool := d.jobs.quarantined.contains i

/-- A core that R352 allows; an armed one starts no job (R112). -/
def usable (d : Dev) (i : Nat) : Bool := isMapped d i && !isOffline d i && !isQuarantined d i && !isArmed d .core i && !d.jobs.deadMeres.contains (i / 264)

def coreBusy (d : Dev) (i : Nat) : Bool := d.jobs.ctxs.any (fun c => holding c && c.place.contains i)

def coresOn (m : Nat) : List Nat := (List.range 264).map (· + 264 * m)

/-- Physical core at a grid position of a mere. -/
def atGrid (d : Dev) (m g : Nat) : Option Nat := (coresOn m).find? (fun i => isMapped d i && decide (gridOf d i = g))

/-- CORE_MAP of a core has no majority, so it takes part in no mapping (R117). -/
def mapLost (d : Dev) (i : Nat) : Bool := noMajority d (regA .core i 0x104)

/-- Grid positions that no core holds; none is known to be free while a CORE_MAP of the mere has no majority. -/
def unmapped (d : Dev) (m : Nat) : List Nat :=
  if (coresOn m).any (mapLost d) then [] else (List.range 256).filter (fun g => (atGrid d m g).isNone)

/-- Free spares of a mere (R408, R409). -/
def freeSpares (d : Dev) (m : Nat) : List Nat :=
  (coresOn m).filter (fun i => !isMapped d i && !isOffline d i && !isQuarantined d i && !mapLost d i)

/-- R410. -/
def gangCapable (d : Dev) (m : Nat) : Bool := (List.range 256).all (fun g => (atGrid d m g).isSome) && !d.jobs.deadMeres.contains m

/-! ### What a job needs -/

structure Need where
  n : Nat
  gang : Bool
  dbuf : Nat
  /-- It resumes on this mere. -/
  only : Option Nat
  /-- FWP1 must bring its records or window back from the firmware reserve (R357). -/
  back : Bool

/-- Needs of a waiting context: of its record when saved, of its image header when queued. An image that is not in order
still starts, and ends with its fault (R316). -/
def needOf (d : Dev) (c : Ctx) : Need :=
  if c.phase = .saved then ⟨c.nCores, c.gang, if c.away then c.dbufBytes else 0, some c.mere, c.moved⟩
  else if c.pipe then ⟨c.nCores, false, c.dbufBytes, none, false⟩
  else match imgHeader d c.basin c.image with
    | .ok h => if headerOk h then ⟨Img.nCores h, Img.gang h, Img.dbuf h, none, false⟩ else ⟨1, false, 0, none, false⟩
    | _ => ⟨1, false, 0, none, false⟩

/-- The DBUF window of a job fits on a mere; one that needs no new window always does (R377). Save records make room for
it, and come back from the reserve, if FWP1 runs to move them (R357). -/
def windowFits (d : Dev) (m : Nat) (q : Need) : Bool :=
  (!q.back || fwpRuns d 1) &&
  (decide (q.dbuf = 0) || decide (windowsHeld d m + scratchHeld d m + q.dbuf + (if fwpRuns d 1 then 0 else recordsHeld d m) ≤ jobPool d m))

/-- A placement keeps R352 and R336. -/
def placeOk (d : Dev) (q : Need) (place : List Nat) : Bool :=
  match place.head? with
  | none => false
  | some i =>
    let m := i / 264
    decide (place.length = q.n) && decide place.Nodup && mereRuns d m && place.all (fun j => decide (j / 264 = m ∧ j < 1056) && usable d j && !coreBusy d j) &&
    (match q.only with | some k => decide (k = m) | none => true) && windowFits d m q &&
    (!q.gang || (ctlBit d .mere m 0 && decide (place = (List.range 256).filterMap (atGrid d m)) ))

/-- A job could be placed on mere m if the contexts of `gone` were away. -/
def couldPlace (d : Dev) (gone : List Nat) (q : Need) (m : Nat) : Bool :=
  let busy := fun (i : Nat) => d.jobs.ctxs.any (fun c => holding c && !gone.contains c.id && c.place.contains i)
  let free := (coresOn m).filter (fun i => usable d i && !busy i)
  mereRuns d m && (match q.only with | some k => decide (k = m) | none => true) && windowFits d m q &&
  (if q.gang then ctlBit d .mere m 0 && decide (free.length = 256) && gangCapable d m else decide (q.n ≤ free.length))

/-- The jobs of a set, in the order of their issue. -/
def setJobs (d : Dev) (set : Nat) : List Ctx := d.jobs.ctxs.filter (fun c => decide (c.set = set))

/-- Every job of a set could be placed, each on a mere of its own among some (R347). -/
def couldPlaceOn (d : Dev) (gone : List Nat) : List Ctx → List Nat → Bool
  | [], _ => true
  | c :: js, ms => ms.any (fun m => couldPlace d gone (needOf d c) m && couldPlaceOn d gone js (ms.filter (fun x => !decide (x = m))))

def setCouldPlace (d : Dev) (gone : List Nat) (js : List Ctx) : Bool := couldPlaceOn d gone js (List.range 4)

/-- A window that is larger than every job pool can never start (R377). -/
def neverFits (d : Dev) (q : Need) : Bool := (List.range 4).all (fun m => decide (jobPool d m < q.dbuf))

/-! ### Queues (R351, R353) -/

def waitsToRun (c : Ctx) : Bool := decide (c.phase = .queued ∨ c.phase = .saved)

/-- The head of a basin: of its lowest non-empty class, the context that entered first. One that is to end no longer waits
to run (R360). -/
def headOf (d : Dev) (b : Nat) : Option Ctx :=
  let ws := d.jobs.ctxs.filter (fun c => decide (c.basin = b) && waitsToRun c && !stopping d c)
  let low := (ws.map (·.prio)).foldl min 4
  ws.find? (fun c => decide (c.prio = low))

/-! ### Shares of core time (R59, R353, R359) -/

/-- The part of a span of time that lies in the window before now. -/
def inWindow (d : Dev) (lo hi : Nat) : Nat := min hi d.now - max lo (d.now - shareWindow)

/-- Core time that a basin has received over the window [core × cycle]. -/
def coreTime (d : Dev) (b : Nat) : Nat :=
  ((d.jobs.spans.filter (fun x => decide (x.1 = b))).map (fun x => x.2.1 * inWindow d x.2.2.1 x.2.2.2)).sum +
  ((d.jobs.ctxs.filter (fun c => decide (c.basin = b) && holding c)).map (fun c => c.place.length * inWindow d c.started d.now)).sum

/-- The basin has runnable work. -/
def runnable (d : Dev) (b : Nat) : Bool := d.jobs.ctxs.any (fun c => decide (c.basin = b) && (waitsToRun c || holding c))

def totalWeight (d : Dev) : Nat := (((List.range 64).filter (runnable d)).map (basinWeight d)).sum

/-- How far a basin's core time lies below its share of the 1,024 cores, times the total weight. -/
def shortfall (d : Dev) (b : Nat) : Int :=
  ((basinWeight d b * 1024 * shareWindow : Nat) : Int) - ((coreTime d b * totalWeight d : Nat) : Int)

def belowShare (d : Dev) (b : Nat) : Bool := runnable d b && decide (0 < shortfall d b)
def aboveShare (d : Dev) (b : Nat) : Bool := decide (shortfall d b < 0)

/-- The head of the basin can be placed with its set: every job of the set waits, and none waits for a linked set. -/
def placeable (d : Dev) (b : Nat) : Bool :=
  match headOf d b with
  | none => false
  | some h => let js := setJobs d h.set; !basinWaits d b && js.all (fun c => waitsToRun c && c.joined && !stopping d c) && setCouldPlace d [] js

/-- The basin that the scheduler takes (R353): with placeable work and farthest below its share, the lowest in a tie. -/
def nextBasin (d : Dev) : Option Nat :=
  ((List.range 64).filter (placeable d)).foldl (fun acc b => match acc with
    | some a => if shortfall d a < shortfall d b then some b else some a
    | none => some b) none

/-! ### Pre-emption (R354, R356) -/

/-- The pre-emption instant of one context. A member of a linked set resumes when the home does. -/
def preemptOne (d : Dev) (c : Ctx) : Dev :=
  let d := modCtx d c.id (fun c => { c with
    phase := .saving, joined := (match c.link with | some (_, _, home) => decide (home = ownNode d) | none => true),
    cores := c.cores.map (fun k => { k with xfers := k.xfers.map (fun x => if x.draw then { x with cancelled := true } else x) }) })
  let d := count d .sync c.mere 0x110 1
  modReq d c.slot (fun r => r.flag 11)

/-- The home tells every other member of a linked set. -/
def tellAll (d : Dev) (dom key op : Nat) : Dev :=
  match findSet d dom key with
  | some s => (s.members.filter (fun m => !decide (m.1 = ownNode d) && !s.gone.contains m.1)).foldl
      (fun d m => sendMsg d ⟨m.1, 5, dom, key, setBody op 0 0⟩) d
  | none => d

/-- A pre-emption reaches the other members of a linked set: through the home, or from it. -/
def tellSet (d : Dev) (c : Ctx) : Dev :=
  match c.link with
  | none => d
  | some (dom, key, home) => if home = ownNode d then tellAll d dom key 2 else sendMsg d ⟨home, 5, dom, key, setBody 2 0 0⟩

/-- The home's job of a linked set starts or resumes, and the other members with it (R351, R455). -/
def tellResume (d : Dev) (c : Ctx) : Dev :=
  match c.link with
  | some (dom, key, home) => if home = ownNode d then tellAll d dom key 3 else d
  | none => d

/-- Pre-empt every running context of a set. -/
def preemptSet (d : Dev) (set : Nat) (tell : Bool := true) : Dev :=
  ((setJobs d set).filter (fun c => decide (c.phase = .running))).foldl (fun d c =>
    let d := preemptOne d c
    if tell then tellSet d c else d) d

/-- Order in which contexts are taken: highest class first, then the most recently started. -/
def takeBefore (x y : Ctx) : Bool := decide (y.prio < x.prio ∨ (x.prio = y.prio ∧ y.started ≤ x.started))

/-- Pre-empt candidates one after another until the head can be placed. -/
def preemptUntil (js : List Ctx) : Dev → List Nat → List Ctx → Dev
  | d, _, [] => d
  | d, gone, c :: cs =>
    if setCouldPlace d gone js then d
    else preemptUntil js (preemptSet d c.set) (gone ++ (setJobs d c.set).map (·.id)) cs

/-- Contexts being saved already count as away. -/
def savingIds (d : Dev) : List Nat := (d.jobs.ctxs.filter (fun c => decide (c.phase = .saving))).map (·.id)

/-- Case 2 of R354 may take the context: its mere's SYNC_SCHED allows it, and it has run MIN_RUN_US. -/
def takable (d : Dev) (c : Ctx) : Bool :=
  let v := liveN d .sync c.mere 0x100
  decide (c.phase = .running) && bitOf v 16 && decide (c.started + usCycles (bitsOf v 15 8) ≤ d.now)

/-- Cases 1 and 2 of R354 for a head that cannot be placed. -/
def makeRoom (d : Dev) (h : Ctx) : Dev :=
  let js := setJobs d h.set
  let run := d.jobs.ctxs.filter (fun c => decide (c.phase = .running))
  let own := sortBy takeBefore (run.filter (fun c => decide (c.basin = h.basin ∧ h.prio < c.prio)))
  let d := preemptUntil js d (savingIds d) own
  if belowShare d h.basin ∧ !setCouldPlace d (savingIds d) js then
    preemptUntil js d (savingIds d) (sortBy takeBefore (d.jobs.ctxs.filter (fun c => aboveShare d c.basin && takable d c)))
  else d

/-- Case 3 of R354: every context on a mere is pre-empted. -/
def emptyMere (d : Dev) (m : Nat) : Dev :=
  (d.jobs.ctxs.filter (fun c => decide (c.mere = m ∧ c.phase = .running))).foldl (fun d c => preemptSet d c.set) d

/-! ### Resumption (R358) -/

/-- Clean frames, code frames first. -/
def cleanList (k : CoreSt) : List (Nat × FrameSt) :=
  let fs := (List.range 96).map (fun f => (f, frameOf k f))
  let ok := fs.filter (fun f => f.2.valid && !f.2.dirty && f.2.src.isSome)
  ok.filter (fun f => f.2.code) ++ ok.filter (fun f => !f.2.code)

/-- Redraw of a clean frame. -/
def redraw (k : CoreSt) (f : Nat × FrameSt) : Xfer :=
  let s := f.2.src.getD (0, 0)
  { id := 2 ^ 64 + f.1, draw := true, space := s.1, pieces := [(s.2, f.1 * 4096, 4096)], keep := false, code := f.2.code,
    strided := false, data := [], bad := [], frames := [], cancelled := false, pc := k.pc, core := 0, epoch := 0, sent := [] }

/-- A core's transfers at its resumption: the redraws of its clean frames, and then what was outstanding, in its order; a
cancelled redraw of a frame that is still clean is made anew. -/
def resumeCore (k : CoreSt) : CoreSt :=
  let new := (cleanList k).map (redraw k)
  let kept := k.xfers.filter (fun x => !new.any (fun y => decide (y.id = x.id)))
  { k with xfers := new ++ kept.map (fun x => { x with cancelled := false }), tiles := [] }

/-- Poison in a save record ends the context (R360). -/
def resumeCtx (d : Dev) (c : Ctx) (place : List Nat) : Dev :=
  let d := modCtx d c.id (fun x => { x with phase := .running, moved := false, away := false, place := place, started := d.now, cores := c.cores.map resumeCore, bound := if c.away then [] else c.bound })
  let d := if c.away then relieve (c.bound.foldl (fun d n => takeBinding d c.id 0 n) d) c.mere else d
  let d := if c.pipe then d else modReq d c.slot (fun r => { r with busy := true })
  let d := count (countStart d { c with place := place }) .sync c.mere 0x114 1
  let d := count d .sync c.mere 0x11C (c.cores.map (fun k => (cleanList k).length)).sum
  match d.mem.poison.find? (fun p => decide (p.1 = .save c.id)) with
  | some w =>
    let tag := match findReq d c.slot with | some r => r.tag | none => noTag
    ctxFault (logEvent (setStat d .sync c.mere 2 c.basin tag (BitVec.ofNat 32 (place.headD 0 % 264))) 3 (pageNo .sync c.mere) c.basin tag (placeOf w) 0x40) c.id 0 0x11 3 0 true
  | none => d

/-! ### The tick -/

/-- DBUF SHORT: a job waits for window room (R377). -/
def noteShort (d : Dev) (q : Need) (c : Ctx) : Dev :=
  let ms := match q.only with | some m => [m] | none => List.range 4
  match ms.find? (fun m => !windowFits d m q && couldPlace d [] { q with dbuf := 0 } m) with
  | some m => setStat d .dbuf m 1 c.basin (match findReq d c.slot with | some r => r.tag | none => noTag)
  | none => d

/-- The jobs of a set of more than one stand on meres of their own (R347). -/
def ownMeres (place : List (List Nat)) : Bool :=
  decide (place.length ≤ 1) || decide (place.map (fun p => (p.headD 0) / 264)).Nodup

/-- Words of the save records of some contexts. -/
def saveWord (js : List Ctx) : ErrorPlace → Option (Space × Nat)
  | .save id off => if js.any (fun c => decide (c.id = id ∧ c.phase = .saved) && decide (off < saveBytes c)) then some (.save id, off / 8) else none
  | _ => none

/-- A job of a set starts or resumes; a resumption reads its save records, a start its image, and either may meet errors
(R315, R360). -/
def beginJob (errs : List ReadError) (d : Dev) (x : Ctx × List Nat) : Dev :=
  tellResume (if x.1.phase = .saved then
    resumeCtx (readErrors d ⟨.sync, x.1.mere, x.1.basin, x.1.slot⟩ (fun _ => saveWord [x.1]) errs) x.1 x.2
  else if x.1.pipe then startCtx d x.1.id x.2
  else withErrors d ⟨.core, x.2.headD 0, x.1.basin, x.1.slot⟩ (fun d p => basinWord d x.1.basin p) errs (startCtx · x.1.id x.2)) x.1

/-- SCHEDULING_TICK (R352–R354): the head of the basin that R353 takes starts or resumes with its set on the given cores;
where a basin's head cannot be placed, contexts are pre-empted for it. -/
def tickOp (d : Dev) (p : SchedPick) : Dev :=
  match findCtx d p.ctx with
  | none => d
  | some c =>
    match headOf d c.basin with
    | none => d
    | some h =>
      let js := setJobs d c.set
      if h.id ≠ c.id ∨ !js.all (fun c => waitsToRun c && c.joined && !stopping d c) ∨ basinWaits d c.basin then d
      else if nextBasin d = some c.basin ∧ p.place.length = js.length ∧ (js.zip p.place).all (fun x => placeOk d (needOf d x.1) x.2) ∧
          decide p.place.flatten.Nodup ∧ ownMeres p.place then
        (js.zip p.place).foldl (beginJob p.errs) d
      else if setCouldPlace d (savingIds d) js then d
      else makeRoom (js.foldl (fun d j => noteShort d (needOf d j) j) d) h

/-- SAVE_DONE (R356, R357): every tile operation has ended; the cores are released. Returns still being written keep the
request from ending until they complete (R361). -/
def saveDoneOp (d : Dev) (id : Nat) : Dev :=
  match findCtx d id with
  | none => d
  | some c =>
    if decide (c.phase ≠ .saving) || d.power.relock.contains c.mere || c.cores.any (fun k => decide (k.tiles ≠ [])) || (!c.pipe && stopping d c) then d
    else
      let dirty := (c.cores.map (fun k => ((List.range 96).filter (fun f => (frameOf k f).dirty)).length)).sum
      let d := modCtx (endSpan d c) id (fun c => { c with phase := .saved, place := [] })
      let d := relieve (count d .sync c.mere 0x118 dirty) c.mere
      if c.pipe then d
      else settle (modReq d c.slot (fun r => { r with busy := !returnsDone c, outLen := match coreAt c 0 with | some k => k.outLen | none => 0 }))

/-! ### Issue -/

/-- RUN_JOB (R313): the job is issued at admission. A window above every job pool ends it with IMAGE (R377), a GANG image
with no GANG-capable mere with FENCED (R410). -/
def startRunJob (d : Dev) (r : Req) : Dev :=
  let id := d.eng.nextId
  let d := issueJob d r id false
  let q := match findCtx d id with | some c => needOf d c | none => ⟨1, false, 0, none, false⟩
  let bind := bindOf d r.basin
  if neverFits d q then endAt d r.slot 0x60
  else if q.gang ∧ !(List.range 4).any (gangCapable d) then endAt d r.slot 0x61
  else if bind.1 = 0 ∨ !r.link then d
  else
    let d := modCtx d id (fun c => { c with link := some (bind.1, Desc.seed r.desc, bind.2.2), joined := false })
    let dbuf := match imgHeader d r.basin (Desc.opspec r.desc) with | .ok h => Img.dbuf h | _ => 0
    match findCtx d id with
    | some c => askJoin d c dbuf
    | none => d

def execRunJob (f : Fetch) (slot : Nat) (s : State) : Host.Outcome State Fault Refusal := ok s (admitOp (isOp 11) (whenWhole startRunJob) s.dev f slot)

/-- The input of a table request or a job has come to its end: its work starts. -/
def startStreamed (before d : Dev) (slot : Nat) : Dev :=
  match findReq before slot, findReq d slot with
  | some r0, some r =>
    if r0.stage = .input ∧ r.streamed ∧ r.live then
      (match r.stage with
       | .tableCmd =>
         if r.op = 10 then { d with eng.gaths := modWhere (fun g => decide (g.slot = some slot)) (fun g => { g with valid := true }) d.eng.gaths }
         else startTable false d r
       | .job => startRunJob d r
       | _ => d)
    else d
  | _, _ => d

/-- CUT_PIECE (R95, R234, R239). -/
def execCutPiece (slot : Nat) (errs : List ReadError) (s : State) : Host.Outcome State Fault Refusal :=
  forSlot s slot (fun d => if isArmed d .tok 0 then d else startStreamed d (chooseModel (cutReads d slot errs (cutPieceOp · slot)) slot) slot)

/-- A pipeline unit issues n jobs of a set; a window above every job pool ends the request with IMAGE (R377). -/
def issueSet (d : Dev) (r : Req) (n : Nat) : Dev :=
  let s := d.eng.nextId
  let d' := (List.range n).foldl (fun d _ => issueJob d r s true) d
  if (setJobs d' s).any (fun c => neverFits d' (needOf d' c)) then settle (addDue d r.slot 0x60) else d'

/-- JOB_ISSUE (R347, R351): a pipeline stage that works for a request issues its jobs: the four of a pass, or one. -/
def jobIssueOp (d : Dev) (slot : Nat) : Dev :=
  match findReq d slot with
  | none => d
  | some r =>
    if !r.live || d.jobs.ctxs.any (fun c => decide (c.slot = slot)) then d
    else if r.stage = .job then startRunJob d r
    else if !r.busy then d
    else match r.stage with
      | .embed | .fetchRank | .table => issueSet d r 1
      | .prefill | .decode => if d.jobs.deadMeres ≠ [] then settle (addDue d slot 0x61) else issueSet d r 4
      | _ => d

def execJobIssue (slot : Nat) (s : State) : Host.Outcome State Fault Refusal := forSlot s slot (jobIssueOp · slot)


def execSchedulingTick (mere : Nat) (pick : SchedPick) (s : State) : Host.Outcome State Fault Refusal :=
  ok s (if mere < 4 then orWait s.dev (tickOp s.dev pick) else s.dev)
def execSaveDone (ctx : Nat) (s : State) : Host.Outcome State Fault Refusal := ok s (saveDoneOp s.dev ctx)

end Sys2Proof.Machine
end

