-- ==== Sys2Proof/Machine/Fence.lean ====
section
/-! DEFINITION. Heartbeats, epoch fencing of cores, and spare cores (R350, R402–R411). -/

namespace Sys2Proof.Machine

/-- Mark a grid position's core and the change of MERE_SPARES, which is computed from the cores. -/
def setMap (d : Dev) (i : Nat) (mapped : Bool) (grid : Nat) : Dev := setLiveN d .core i 0x104 ((if mapped then 2 ^ 31 else 0) + grid % 256)

/-- FWP4 is to map a spare (R408, R409): the mere is emptied first. -/
def wantSpare (d : Dev) (m : Nat) : Dev :=
  let auto := bitOf (liveN d .mere m 0x208) 0
  -- a request whose core is a free spare no more, or whose position is mapped, has lapsed
  let d := { d with jobs.mapReq := d.jobs.mapReq.filter (fun r => decide (r.1 / 264 ≠ m) || ((freeSpares d m).contains r.1 && (unmapped d m).contains r.2)) }
  let asked := d.jobs.mapReq.any (fun r => decide (r.1 / 264 = m))
  if fwpRuns d 4 && ((auto && decide (freeSpares d m ≠ [] ∧ unmapped d m ≠ [])) || asked) then emptyMere d m else d

/-- A SPARE_OUT record is written when a mere's last free spare, which it had before, is gone (R410). -/
def spareOut (before d : Dev) (i : Nat) : Dev :=
  if freeSpares before (i / 264) ≠ [] ∧ freeSpares d (i / 264) = [] then logEvent d 0x10 (pageNo .core i) 0xFF noTag (i % 264) 0 else d

/-- A core gives up its grid position (R408). -/
def vacate (d : Dev) (i : Nat) : Dev := if isMapped d i then wantSpare (setMap d i false (gridOf d i)) (i / 264) else d

/-- Contexts that hold a core end with FENCED, and with them the other jobs of their sets (R362, R405). -/
def fenceContexts (d : Dev) (i : Nat) : Dev :=
  (d.jobs.ctxs.filter (fun c => holding c && c.place.contains i)).foldl (fun d c =>
    let d := if c.pipe then (setJobs d c.set).foldl (fun d x => dropCtx d x.id) d else d
    settle (addDue d c.slot 0x61)) d

/-- The declaration of a core (R403, R408): cause 1 heartbeat, 2 timeout. -/
def declareCore (d : Dev) (i cause : Nat) (spare : Bool := true) : Dev :=
  if isQuarantined d i ∨ noMajority d (regA .core i 0x108) then d
  else
    let d0 := d
    let epoch := (liveN d .core i 0x108 + 1) % 65536
    let d := setLiveN d .core i 0x108 epoch
    let d := { d with jobs.quarantined := d.jobs.quarantined ++ [i] }
    let d := count d .mere (i / 264) 0x20C 1
    let d := logEvent d 0xC (pageNo .core i) 0xFF noTag (i % 264) cause epoch
    let d := fenceContexts d i
    if spare then spareOut d0 (vacate d i) i else if isMapped d i then setMap d i false (gridOf d i) else d

/-- Periods of a core or die sequencer missed in a row. -/
def missedRow (d : Dev) (m core : Nat) : Nat := SMap.get (fun _ => 0) d.jobs.missed (265 * m + core)
def setMissed (d : Dev) (m core n : Nat) : Dev := { d with jobs.missed := SMap.set (fun _ => 0) d.jobs.missed (265 * m + core) n }

/-- A period of which a core is held to its heartbeat: its fast clock runs and it is not fenced (R350). -/
def hbCounts (d : Dev) (m core : Nat) : Bool :=
  decide (m < 4 ∧ core ≤ 264 ∧ domState d m = 0) && !d.power.relock.contains m && !(decide (core < 264) && isQuarantined d (264 * m + core))

/-- HEARTBEAT (R350, R406): a period ends in which the heartbeat came or was missed; one that carries an old epoch is
discarded. -/
def heartbeatOp (d : Dev) (m core : Nat) (came : Bool) : Dev :=
  if came ∧ m < 4 ∧ core < 264 ∧ isQuarantined d (264 * m + core) then staleCore d (264 * m + core)
  else if !hbCounts d m core then d
  else if came then setMissed d m core 0
  else setMissed (count d .sync m 0x128 1) m core (missedRow d m core + 1)

/-- Periods before a report. -/
def hbMiss (d : Dev) (m : Nat) : Nat := max 2 (liveN d .sync m 0x104 % 16)

/-- HB_LOST (R350): core 264 stands for the die sequencer, which is reported and not declared. -/
def hbLostOp (d : Dev) (m core : Nat) : Dev :=
  if !hbCounts d m core then d
  else
    let unit := if core = 264 then 0x1FF else core
    let n := hbMiss d m
    -- of the missed periods, those not yet counted
    let d := count (setStat d .sync m 0 0 noTag (BitVec.ofNat 32 unit) 0) .sync m 0x128 (n - missedRow d m core)
    let d := setMissed d m core 0
    let d := logEvent d 0xB (if core = 264 then pageNo .mere m else pageNo .core (264 * m + core)) 0xFF noTag unit n
    if core = 264 then d else declareCore d (264 * m + core) 1

/-- PREEMPT_STOP_TIMEOUT (R403): the core is in a context that is being saved. -/
def stopTimeoutOp (d : Dev) (m core : Nat) : Dev :=
  let i := 264 * m + core
  if m < 4 ∧ core < 264 ∧ d.jobs.ctxs.any (fun c => decide (c.phase = .saving) && c.place.contains i) then declareCore d i 2 else d

/-- MERE_HEARTBEAT_LOSS (R411). -/
def mereLossOp (d : Dev) (m : Nat) : Dev :=
  if 4 ≤ m ∨ d.jobs.deadMeres.contains m then d
  else
    let d := { d with jobs.deadMeres := d.jobs.deadMeres ++ [m] }
    let d := logEvent d 0xB (pageNo .mere m) 0xFF noTag 0x1FF (hbMiss d m)
    spareOut d ((coresOn m).foldl (fun d i => declareCore d i 1 false) d) (264 * m)

/-- No context runs or is being saved on a mere. -/
def mereEmpty (d : Dev) (m : Nat) : Bool := d.jobs.ctxs.all (fun c => !(holding c && decide (c.mere = m)))

/-- SPARED (R408, R409): the mapping waits for FWP4, and for the mere's contexts to be saved. -/
def sparedOp (d : Dev) (m core grid : Nat) : Dev :=
  let i := 264 * m + core
  let auto := bitOf (liveN d .mere m 0x208) 0
  let asked := d.jobs.mapReq.contains (i, grid)
  let chosen := decide ((freeSpares d m).head? = some i ∧ (unmapped d m).head? = some grid)
  if 4 ≤ m ∨ 264 ≤ core ∨ !fwpRuns d 4 ∨ !((auto && chosen) || asked) ∨ !(freeSpares d m).contains i ∨ !(unmapped d m).contains grid then d
  else if !mereEmpty d m then emptyMere d m
  else
    let d0 := d
    let d := setMap d i true grid
    let d := { d with jobs.mapReq := d.jobs.mapReq.filter (fun r => !decide (r.1 = i ∨ (r.1 / 264 = m ∧ r.2 = grid))) }
    spareOut d0 (logEvent d 0xE (pageNo .mere m) 0xFF noTag grid core) i

/-- MERE_MAP (R409). -/
def mereMapOp (d : Dev) (fn m : Nat) (v : W32) : Dev :=
  let core := v.toNat % 512
  let grid := bitsOf v.toNat 23 16
  let i := 264 * m + core
  if fn ≠ 0 ∨ !bitOf v.toNat 31 ∨ 4 ≤ m then d
  else if core < 264 ∧ (freeSpares d m).contains i ∧ (unmapped d m).contains grid then
    wantSpare { d with jobs.mapReq := d.jobs.mapReq ++ [(i, grid)] } m
  else setStat d .mere m 2 0 noTag 0 0

/-- MERE_READMIT (R407): a quarantined core that has been reset returns as a free spare. -/
def mereReadmitOp (d : Dev) (m : Nat) (v : W32) : Dev :=
  let i := 264 * m + v.toNat % 512
  if !bitOf v.toNat 31 ∨ 4 ≤ m ∨ 264 ≤ v.toNat % 512 ∨ !isQuarantined d i ∨ !d.jobs.coreReset.contains i ∨ d.jobs.deadMeres.contains m then d
  else
    let d := { d with jobs.quarantined := d.jobs.quarantined.filter (fun j => !decide (j = i)), jobs.coreReset := d.jobs.coreReset.filter (fun j => !decide (j = i)) }
    let d := logEvent d 0xF (pageNo .core i) 0xFF noTag (i % 264) 0 (liveN d .core i 0x108)
    wantSpare d m

/-- RST_CORE (R428): registers, tarn and accumulators of one core. DESIGN CHOICE (log 63): a context that holds the core
goes on with the cleared core, since no rule ends it. -/
def rstCoreOp (d : Dev) (v : W32) : Dev :=
  let i := 264 * bitsOf v.toNat 10 9 + v.toNat % 512
  if !bitOf v.toNat 31 ∨ 264 ≤ v.toNat % 512 then d
  else
    let d := { d with jobs.coreReset := if isQuarantined d i ∧ !d.jobs.coreReset.contains i then d.jobs.coreReset ++ [i] else d.jobs.coreReset }
    { d with jobs.debugged := modWhere (fun x => decide (x.1 = i)) (fun x => (x.1, freshCore 0, false)) d.jobs.debugged,
             jobs.ctxs := d.jobs.ctxs.map (fun c =>
        if holding c then { c with cores := (c.cores.zip c.place).map (fun x => if x.2 = i then freshCore 0 else x.1) } else c) }

/-- STALE (R404): what carries an epoch other than the sender's current one is discarded, counted and logged. -/
def staleOp (d : Dev) (u : UnitId) (epoch : Nat) : Dev :=
  match u with
  | .core m c =>
    let i := 264 * m + c
    if 4 ≤ m ∨ 264 ≤ c ∨ noMajority d (regA .core i 0x108) ∨ liveN d .core i 0x108 = epoch then d
    else logEvent (count d .mere m 0x210 1) 0xD (pageNo .core i) 0xFF noTag c epoch
  | .die n =>
    if 256 ≤ n ∨ dieEpoch d n = none ∨ (dieAt d n).epoch = epoch then d
    else logEvent d 0xD (pageNo .flch (n % 32)) 0xFF noTag n epoch
  | .fwp n =>
    if 6 ≤ n ∨ noMajority d (regA .fwp n 0x104) ∨ liveN d .fwp n 0x104 = epoch then d
    else logEvent d 0xD (pageNo .fwp n) 0xFF noTag n epoch
  | .link p =>
    if 8 ≤ p then d
    else if epochLost d p then lostMark d (regA .ndl p 0x104)
    else if portEpoch d p = epoch then d
    else logEvent (count (setStat d .ndl p 3 0 noTag (BitVec.ofNat 32 (portPeer d p + (portAt d p).system * 65536)) 0) .ndl p 0x124 1)
      0xD (pageNo .ndl p) 0xFF noTag p epoch

def execHeartbeat (m : Nat) (b : Beat) (s : State) : Host.Outcome State Fault Refusal := ok s (heartbeatOp s.dev m b.core b.came)
def execHbLost (m core : Nat) (s : State) : Host.Outcome State Fault Refusal := ok s (hbLostOp s.dev m core)
def execPreemptStopTimeout (m core : Nat) (s : State) : Host.Outcome State Fault Refusal := ok s (stopTimeoutOp s.dev m core)
def execStale (unit : UnitId) (epoch : Nat) (s : State) : Host.Outcome State Fault Refusal := ok s (staleOp s.dev unit epoch)
def execMereHeartbeatLoss (m : Nat) (s : State) : Host.Outcome State Fault Refusal := ok s (mereLossOp s.dev m)
def execSpared (m core grid : Nat) (s : State) : Host.Outcome State Fault Refusal := ok s (sparedOp s.dev m core grid)

end Sys2Proof.Machine
end

