-- ==== Sys2Proof/Machine/Power.lean ====
section
/-! DEFINITION. Power domains, the wake table, clocks and the thermal sweep (chapters 18 and 21). -/

namespace Sys2Proof.Machine

/-! ### Domain states: meres 0 to 3, the shore 4 -/

/-- A stack's HBM_STATE.MODE: self-refresh while its mere is in S2 or S3 (Table 18-1). -/
def setHbmMode (d : Dev) (i mode : Nat) : Dev :=
  let v := liveN d .hbm i 0x100
  setLiveN d .hbm i 0x100 (v / 4 * 4 + mode)

def setDom (d : Dev) (dom st : Nat) : Dev :=
  let v := liveN d .pwr 0 0x118
  let d := setLiveN d .pwr 0 0x118 (v - domState d dom * 2 ^ (2 * dom) + st * 2 ^ (2 * dom))
  if 4 ≤ dom then d else [3 * dom, 3 * dom + 1, 3 * dom + 2].foldl (fun d i => setHbmMode d i (if st < 2 then 0 else 1)) d

def setMoving (d : Dev) (dom : Nat) (on : Bool) : Dev := setLiveBit d (regA .pwr 0 0x118) (16 + dom) on

/-- The shore and mere rails are up and the module is out of reset. -/
def running (d : Dev) : Bool := decide (d.power.rails = .good) && d.power.pwrGood && !d.power.tripped

/-- A wake raises a domain to a state (R416, R418, R422): a domain that enters S3 abandons the entry; one that resumes
goes to the shallower of the two states. -/
def wakeNow (d : Dev) (dom st : Nat) : Dev :=
  if !running d then d
  else if d.power.s3.contains dom then
    let d := { d with power.s3 := d.power.s3.filter (fun m => !decide (m = dom)), power.resuming := d.power.resuming ++ [(dom, 0)] }
    setStat d .pwr 0 1 0 noTag (BitVec.ofNat 32 dom) 0
  else match d.power.resuming.find? (fun r => decide (r.1 = dom)) with
    | some _ => { d with power.resuming := modWhere (fun r => decide (r.1 = dom)) (fun r => (r.1, min r.2 st)) d.power.resuming }
    | none =>
      if domState d dom ≤ st then d
      else setMoving { d with power.resuming := d.power.resuming ++ [(dom, st)] } dom true

/-- No power-state transition, and no start or stop of a PLL, begins while the PWR or the CLK page is armed (R112). -/
def transHeld (d : Dev) : Bool := isArmed d .pwr 0 || isArmed d .clk 0

/-- A wake, or one that waits for the apply. A domain already in transition starts no new one. -/
def wakeDom (d : Dev) (dom st : Nat) : Dev :=
  if transHeld d && !domMoving d dom && decide (st < domState d dom) && running d then
    { d with power.wakeWaits := d.power.wakeWaits ++ [(dom, st)] }
  else wakeNow d dom st

/-- The wakes that waited start. -/
def releaseWakes (d : Dev) : Dev :=
  if transHeld d then d
  else d.power.wakeWaits.foldl (fun d w => wakeNow d w.1 w.2) { d with power.wakeWaits := [] }

def wakeAll (d : Dev) (doms : List Nat) : Dev := doms.foldl (fun d m => wakeDom d m 0) d

/-- DOMAIN_RESUMED (R416). -/
def resumedOp (d : Dev) (dom : Nat) : Dev :=
  match d.power.resuming.find? (fun r => decide (r.1 = dom)) with
  | none => d
  | some r =>
    let d := { d with power.resuming := d.power.resuming.filter (fun r => !decide (r.1 = dom)) }
    count (setMoving (setDom d dom r.2) dom false) .pwr 0 0x124 1

/-- A host access or a message reaches a sleeping shore: it is served once the shore has resumed, and the wait is time
only (R33, R416). -/
def shoreAwake (d : Dev) : Dev :=
  if domState d 4 = 0 ∧ !domMoving d 4 then d else resumedOp (wakeNow d 4 0) 4

/-- DEMAND_WAKE (R416): a job that is issued, or one whose records the mere holds, raises it to S0, an HBM access raises it from S2 or S3 to S1. -/
def demandWakeOp (d : Dev) (dom : Nat) : Dev :=
  if 4 < dom then d
  else if dom = 4 then wakeDom d 4 0
  else wakeDom d dom (if d.jobs.ctxs.any (fun c => !stopping d c && (decide (c.phase = .queued) || decide (c.phase = .saved ∧ c.mere = dom))) then 0 else 1)

/-! ### Entry (R415, R418) -/

def floorOf (d : Dev) (dom : Nat) : Nat :=
  if dom = 4 then min 2 (liveN d .pwr 0 0x110 % 4) else liveN d .pwr 0 (0x100 + 4 * dom) % 4

/-- A mere runs no context, and no GATH, MSORT or weir work is in progress on it; the shore serves no request. -/
def domIdle (d : Dev) (dom : Nat) : Bool :=
  if dom = 4 then decide (d.reqs = []) && decide (d.host.comps = []) && d.flash.load.isNone
  else mereEmpty d dom && !d.eng.sorts.any (fun c => decide (c.unit = 1 + dom)) && !d.eng.gaths.any (fun g => decide (g.unit = dom)) &&
    decide (d.eng.passes = []) && !d.txn.versions.any (·.loading) && !d.power.relock.contains dom

/-- Work in progress whose accesses reach HBM: transfers, walks, gathers, a load command. DESIGN CHOICE (log 103): stacks hold words of
every basin and table, so none is known to be spared. -/
def hbmUsed (d : Dev) : Bool :=
  d.jobs.ctxs.any (fun c => c.cores.any (fun k => k.xfers.any (fun x => !x.cancelled))) || d.reqs.any (fun r => r.live && decide (r.stage = .walk)) ||
  decide (d.eng.gaths ≠ []) || d.flash.load.isSome

/-- A wake-table hold keeps the domain in S1 or above (R424). -/
def heldUp (d : Dev) (dom : Nat) : Bool := d.power.holds.any (fun h => decide (dom = 4) || h.2.2.contains dom)

/-- AUTO_POWER_ENTRY (R415): the next deeper state, down to the FLOOR; into S3 the entry of R418 begins, which waits for
FWP3. -/
def autoEntryOp (d : Dev) (dom : Nat) : Dev :=
  let st := domState d dom
  if 4 < dom || !running d || d.power.booting || domMoving d dom || !domIdle d dom || transHeld d ||
     noMajority d (regA .pwr 0 (if dom = 4 then 0x110 else 0x100 + 4 * dom)) then d
  else if floorOf d dom ≤ st ∨ (heldUp d dom ∧ 1 ≤ st) ∨ (dom = 4 ∧ st = 1 ∧ !d.power.linkL1) ∨ (dom < 4 ∧ 1 ≤ st ∧ hbmUsed d) then d
  else if st = 2 then (if fwpRuns d 3 then setMoving { d with power.s3 := d.power.s3 ++ [dom] } dom true else d)
  else setDom d dom (st + 1)

/-- A dirty hot row whose write-back has failed, or cannot reach the pool (R450). -/
def rowHeld (d : Dev) (e : Nat × Nat × Bool) : Bool := e.2.2 && (d.eng.rowsHeld.contains (e.1, e.2.1) || !rowPortsUp d e.1)

def rowsHeld (d : Dev) : Bool := d.eng.rowCache.any (rowHeld d)

/-- Every dirty frame goes to its lower tier (Table 16-8). -/
def flushFrames (d : Dev) : Dev := cleanRows (flushWhere d (fun _ => true)) (fun _ => true)

/-- S3_ENTRY (R418): steps 2 to 5. FWP1 moves save records and windows at FWP3's request; frames are flushed, which needs
FWP2; a write-back that is held keeps the domain in S2. Prefetched layers are discarded. -/
def s3EntryOp (d : Dev) (m : Nat) : Dev :=
  if !d.power.s3.contains m ∨ !fwpRuns d 1 ∨ !fwpRuns d 2 ∨ !fwpRuns d 3 then d
  else
    let d := setMoving { d with power.s3 := d.power.s3.filter (fun x => !decide (x = m)) } m false
    if rowsHeld d then d
    else
      let d := ((ctxsHeld d m).filter (fun c => decide (c.phase = .saved))).foldl moveAway d
      let d := { flushFrames d with eng.prefetch := d.eng.prefetch.filter (fun p => !decide (p.1 = m)) }
      let t := regA .therm 0 (0x100 + 4 * m)
      count (setLiveBit (setDom d m 3) t 31 false) .pwr 0 0x128 1

/-! ### The link's L1 substates (R415, R422) -/

def entersL1Op (d : Dev) : Dev := if running d && !d.power.booting then { d with power.linkL1 := true } else d
def exitL1Op (d : Dev) : Dev := if d.power.linkL1 then wakeDom { d with power.linkL1 := false } 4 0 else d
/-- The module stops driving WAKE# (R421). -/
def linkL0Op (d : Dev) : Dev := { d with power.wakeResume := false }

/-! ### The wake table (R423, R424) -/

structure Wake where
  phase : Nat
  period : Nat
  lead : Nat
  en : Bool
  meres : List Nat
  deep : Bool
  pin : Bool

def wakeEntry (d : Dev) (e : Nat) : Wake :=
  let a := 0x10 * e
  let c := liveN d .spr 0 (0x20C + a)
  { phase := liveN d .spr 0 (0x200 + a) + liveN d .spr 0 (0x204 + a) % 65536 * 2 ^ 32, period := liveN d .spr 0 (0x208 + a),
    lead := c % 2 ^ 24, en := bitOf c 24, meres := (List.range 4).filter (fun m => bitOf c (25 + m)), deep := bitOf c 29, pin := bitOf c 30 }

/-- A field that the entry's firing uses has no majority, so that it does not fire (R117). -/
def wakeLost (d : Dev) (e : Nat) : Bool :=
  noMajority d (regA .spr 0 0x110) || [0x200, 0x204, 0x208, 0x20C].any (fun o => noMajority d (regA .spr 0 (o + 0x10 * e)))

/-- First shore cycle of a slow tick (R4). -/
def tickCycle (t : Nat) : Nat := ceilDiv (t * 390625) 16

/-- The next tick, from `t` on, at which an entry fires: SPR_NOW + LEAD is PHASE + n × PERIOD. -/
def nextFire (w : Wake) (t : Nat) : Option Nat :=
  if !w.en then none
  else if w.period = 0 then (if t + w.lead ≤ w.phase then some (w.phase - w.lead) else none)
  else if w.period ≤ w.lead then none
  else
    let n := if t + w.lead ≤ w.phase then 0 else ceilDiv (t + w.lead - w.phase) w.period
    let x := w.phase + n * w.period
    if w.lead ≤ x then some (x - w.lead) else some (x + w.period * ceilDiv (w.lead - x) w.period - w.lead)

/-- Slow ticks since the Spring domain powered up, of which SPR_NOW keeps 48 bits. -/
def tickNow (d : Dev) : Nat := d.now * 16 / 390625

/-- The same in ticks that do not wrap; an entry with a period fires on after SPR_NOW has wrapped. -/
def nextTick (w : Wake) (t : Nat) : Option Nat :=
  let base := t / 2 ^ 48 * 2 ^ 48
  match nextFire w (t % 2 ^ 48) with
  | some x => if x < 2 ^ 48 then some (base + x) else none
  | none => none

/-- The first firing from tick t on, before or after the next wrap. -/
def firing (w : Wake) (t : Nat) : Option Nat :=
  match nextTick w t with
  | some x => some x
  | none => if w.period = 0 then none else nextTick w ((t / 2 ^ 48 + 1) * 2 ^ 48)

/-- WAKE_FIRE: the entry's next firing. Staged values that are armed apply first at the next tick (R423). -/
def wakeFireOp (d : Dev) (e : Nat) : Dev :=
  let w := wakeEntry d e
  let from' := max (tickNow d) (SMap.get (fun _ => 0) d.power.wakeFired e)
  if 32 ≤ e ∨ !d.power.vin then d
  else if wakeLost d e then [0x110, 0x200 + 0x10 * e, 0x204 + 0x10 * e, 0x208 + 0x10 * e, 0x20C + 0x10 * e].foldl (fun d o => lostMark d (regA .spr 0 o)) d
  else match firing w from' with
    | none => d
    | some t =>
    if isArmed d .spr 0 && decide (tickNow d < t) then d
    else
      let d := advanceTo d (tickCycle t)
      let d := { d with power.wakeFired := SMap.set (fun _ => 0) d.power.wakeFired e (t + 1) }
      let d := setLiveBit (noteSet d .spr 0 0x108 ⟨e, 0, noTag, 0, 0⟩) (regA .spr 0 0x108) e true
      let d := setStat (count d .spr 0 0x10C 1) .spr 0 0 0 noTag (BitVec.ofNat 32 e) 0
      let d := if w.pin then { d with power.wakePins := d.power.wakePins.filter (fun x => !decide (x = e)) ++ [e] } else d
      let until' := tickCycle (t + w.lead) + msCycles (liveN d .spr 0 0x110 % 65536)
      let d := { d with power.holds := d.power.holds.filter (fun h => !decide (h.1 = e)) ++ [(e, until', w.meres)] }
      if running d then wakeAll d (4 :: (if w.deep then List.range 4 else w.meres)) else d

/-- WAKE_HOLD_EXPIRY: the hold that ends first ends. -/
def holdExpiryOp (d : Dev) : Dev :=
  match d.power.holds with
  | [] => d
  | h :: hs =>
    let t := hs.foldl (fun t x => min t x.2.1) h.2.1
    let d := advanceTo d t
    { d with power.holds := d.power.holds.filter (fun x => decide (t < x.2.1)) }

def wakePinEndOp (d : Dev) (e : Nat) : Dev := { d with power.wakePins := d.power.wakePins.filter (fun x => !decide (x = e)) }

/-- PIN_IN (R469): WAKE# is sensed while the module does not drive it. -/
def pinInOp (d : Dev) : Dev :=
  if !d.power.vin ∨ d.power.tripped ∨ d.power.wakePins ≠ [] ∨ d.power.wakeResume then d
  else wakeAll (setStat d .spr 0 3 0 noTag 0 0) (List.range 5)

def xtalFailOp (d : Dev) : Dev := if d.power.vin then setStat d .spr 0 2 0 noTag 0 0 else d

/-! ### Clocks (R426) -/

/-- PLL_RELOCK: 40 µs after the apply of a new frequency. -/
def pllRelockOp (d : Dev) (m : Nat) : Dev :=
  if d.power.relock.contains m then count { d with power.relock := d.power.relock.filter (fun x => !decide (x = m)) } .clk 0 0x114 1 else d

/-- LOCK_LOST: a PLL, in the bit order of CLK_STATUS, loses lock and relocks. -/
def lockLostOp (d : Dev) (clk : Nat) : Dev :=
  if 11 < clk ∨ !running d then d
  else count (setStat d .clk 0 1 0 noTag (BitVec.ofNat 32 clk) 0) .clk 0 0x114 1

/-! ### The sensor sweep (R478) -/

def alertC (d : Dev) : Nat := let v := liveN d .therm 0 0x10 % 256; if 60 ≤ v ∧ v ≤ 110 then v else 100
def inletC (d : Dev) : Nat := bitsOf (liveN d .therm 0 0x10) 15 8

/-- The hottest of some readings, none where every sensor fails. -/
def hottest (xs : List (Option Nat)) : Option Nat :=
  xs.foldl (fun a x => match a, x with | some a, some x => some (max a x) | none, x => x | a, none => a) none

def setReading (d : Dev) (off : Nat) (r : Option Nat) : Dev :=
  setLiveN d .therm 0 off (match r with | some v => v % 256 + 2 ^ 31 | none => 0)

/-- Status of one sensor: number and reading; a missing reading is SENSOR_FAIL. -/
def sense (bit sensor limit : Nat) (d : Dev) (r : Option Nat) : Dev × Bool :=
  match r with
  | none => (setStat d .therm 0 3 0 noTag (BitVec.ofNat 32 sensor) 0, false)
  | some v => if limit ≤ v then (setStat d .therm 0 bit 0 noTag (BitVec.ofNat 32 (sensor + v % 256 * 256)) 0, true) else (d, false)

/-- A sweep of some sensors. -/
def senseAll (bit base limit : Nat) : Nat → List (Option Nat) → Dev → Bool → Dev × Bool
  | _, [], d, hot => (d, hot)
  | i, r :: rs, d, hot =>
    let x := sense bit (base + i) limit d r
    senseAll bit base limit (i + 1) rs x.1 (hot || x.2)

/-- Readings of the sensors that have power: a mere in S3 gives none, which is no failure. -/
def dieReadings (d : Dev) (r : Sweep) : List (Option Nat) :=
  (List.range 72).map (fun i => if i < 64 ∧ domState d (i / 16) = 3 then some 0 else r.die.getD i none)

def sweepOp (d : Dev) (r : Sweep) : Dev :=
  if !running d then d
  else
    let dies := dieReadings d r
    let d := (List.range 4).foldl (fun d m => if domState d m = 3 then setReading d (0x100 + 4 * m) none
      else setReading d (0x100 + 4 * m) (hottest ((r.die.drop (16 * m)).take 16))) d
    let d := setReading d 0x110 (hottest ((r.die.drop 64).take 8))
    let d := setReading (setReading d 0x114 r.inlet) 0x118 r.outlet
    let top := match hottest dies with | some v => v % 256 | none => 0
    let d := if liveN d .therm 0 0x11C % 256 < top then setLiveN d .therm 0 0x11C top else d
    let (d, a) := senseAll 0 0 (alertC d) 0 dies d false
    let (d, b) := sense 1 0xFE (inletC d + 1) d r.inlet
    let d := (sense 1 0xFF 256 d r.outlet).1
    let (d, c) := senseAll 2 0x80 95 0 ((List.range 12).map (fun i => r.stack.getD i none)) d false
    let d := (List.range 12).foldl (fun d i => match r.stack.getD i none with
      | some v => setLiveN d .hbm i 0x100 (liveN d .hbm i 0x100 - bitsOf (liveN d .hbm i 0x100) 15 8 * 256 + v % 256 * 256)
      | none => d) d
    if a || b || c then count d .therm 0 0x120 1 else d

def execAutoPowerEntry (dom : Nat) (s : State) : Host.Outcome State Fault Refusal := ok s (autoEntryOp s.dev dom)
def execS3Entry (m : Nat) (s : State) : Host.Outcome State Fault Refusal := ok s (s3EntryOp s.dev m)
def execDemandWake (dom : Nat) (s : State) : Host.Outcome State Fault Refusal := ok s (demandWakeOp s.dev dom)
def execDomainResumed (dom : Nat) (s : State) : Host.Outcome State Fault Refusal := ok s (resumedOp s.dev dom)
def execLinkEntersL1 (s : State) : Host.Outcome State Fault Refusal := ok s (entersL1Op s.dev)
def execLinkExitFromL1 (s : State) : Host.Outcome State Fault Refusal := ok s (exitL1Op s.dev)
def execLinkReachesL0 (s : State) : Host.Outcome State Fault Refusal := ok s (linkL0Op s.dev)
def execWakeFire (e : Nat) (s : State) : Host.Outcome State Fault Refusal := ok s (wakeFireOp s.dev e)
def execWakeHoldExpiry (s : State) : Host.Outcome State Fault Refusal := ok s (holdExpiryOp s.dev)
def execWakePinEnd (e : Nat) (s : State) : Host.Outcome State Fault Refusal := ok s (wakePinEndOp s.dev e)
def execPinIn (s : State) : Host.Outcome State Fault Refusal := ok s (pinInOp s.dev)
def execXtalFail (s : State) : Host.Outcome State Fault Refusal := ok s (xtalFailOp s.dev)
def execPllRelock (m : Nat) (s : State) : Host.Outcome State Fault Refusal := ok s (pllRelockOp s.dev m)
def execLockLost (clk : Nat) (s : State) : Host.Outcome State Fault Refusal := ok s (lockLostOp s.dev clk)
def execSensorSweep (r : Sweep) (s : State) : Host.Outcome State Fault Refusal := ok s (sweepOp s.dev r)

end Sys2Proof.Machine
end

