-- ==== Sys2Proof/Machine/Fabric.lean ====
section
/-! DEFINITION. The pool ports and the Ndelar links (chapter 20): failed accesses, training, frames, declarations. -/

namespace Sys2Proof.Machine

/-! ### Pool accesses (R449, R450) -/

/-- A failed access ends the request or context that made it (R61), but a transaction's is its own matter (R490); a read that returns poison is taken as poisoned
words by its consumer. A handle whose store is read back is freed, and the requests that wait for the store end (R277). -/
def poolHit (d : Dev) (addr slot : Nat) (pois : Bool) : Dev :=
  match findReq d slot with
  | none => d
  | some r =>
    if !r.live ∨ r.stage = .txnWait ∨ r.stage = .txnRun then d
    else match d.eng.gaths.find? (fun g => gathReady d g && gathMeets d g addr && (decide (g.slot = some slot) || (match g.ctx with
        | some id => (match findCtx d id with | some c => decide (c.slot = slot) | none => false)
        | none => false))) with
      | some g => gathPoolFail d g addr pois
      | none =>
        match d.eng.handles.find? (fun h => h.moving && h.inPool && h.holds.contains slot) with
        | some h =>
          let ver := match findVer d h.model with | some v => v.slot | none => 0
          let d := if pois then poisonUsed d .gen 0 0 r (addr / 8 * 8) (BitVec.ofNat 32 h.value) (BitVec.ofNat 32 ver) else genStat d 1 h.basin r.tag h.value ver
          let waiting := h.holds.filter (fun s => decide (s ≠ slot) && (match findReq d s with | some x => x.live && decide (x.stage = .prefill) | none => false))
          (waiting ++ [slot]).foldl (fun d s => settle (addDue d s (if pois then 0x40 else 0x42))) (loseStore d h.idx)
        | none =>
          if pois then d
          else match d.jobs.ctxs.find? (fun c => decide (c.slot = slot) && !c.pipe && holding c) with
            | some c =>
              let meets := fun (x : Xfer) => decide (x.space = 0) && x.pieces.any (fun p => hitsPool d c.basin p.1 p.2.2 addr)
              let core := match findIdx (fun (k : CoreSt) => k.xfers.any meets) c.cores 0 with | some (i, _) => i | none => 0
              ctxFault (modCtx d c.id (fun c => { c with cores := c.cores.map (fun k => { k with xfers := k.xfers.filter (fun x => !meets x) }) })) c.id core 0x12 3 0 false 0 ((coreAt c core).bind (fun k => (k.xfers.find? meets).map (·.pc)))
            | none => settle (addDue d slot 0x42)

/-- The dirty hot row that lies at a pool address. -/
def rowAt (d : Dev) (addr : Nat) : Option (Nat × Nat) :=
  (d.eng.rowCache.find? (fun e => e.2.2 && (match findVer d e.1 with
    | some v => hitsPool d v.basin (Tbl.rowAddr v.desc e.2.1) (Tbl.rowBytes v.desc) addr
    | none => false))).map (fun e => (e.1, e.2.1))

/-- The write-back of a dirty row fails with an event of Table 20-2: the row stays dirty, and is tried again (R450). -/
def wbFail (d : Dev) (e : Nat × Nat) (addr event : Nat) : Dev :=
  let d := fabFail d addr event
  let d := setStat d .fab (poolPort d addr) 2 0 noTag (BitVec.ofNat 32 (addr / 65536)) (BitVec.ofNat 32 event)
  { d with eng.rowsHeld := if d.eng.rowsHeld.contains e then d.eng.rowsHeld else d.eng.rowsHeld ++ [e] }

/-- An event of Table 20-2 can fall on an address. -/
def poolEvent (d : Dev) (addr event : Nat) : Bool :=
  (decide (event = 2) && !poolMapped d addr) || (decide (event = 1 ∨ event = 5) && poolMapped d addr)

/-- POOL_ACCESS_FAIL (Table 20-2): event 1 poison, 2 unmapped, 5 abort. Poison comes with every word of the 64 bytes. An
abort that no request made is the write-back's of the dirty row there (R450). -/
def poolFailOp (d : Dev) (addr event slot : Nat) : Dev :=
  let (b, t) := match findReq d slot with | some r => (r.basin, r.tag) | none => (0, noTag)
  if !poolEvent d addr event then d
  else
    let d0 := d
    let d := fabFail d addr event b t
    if event = 5 ∧ (findReq d slot).isNone = true ∧ (rowAt d addr).isSome = true then
      ((rowAt d addr).map (fun e => wbFail d0 e addr 5)).getD d
    else if event = 1 then
      let words := (List.range 8).map (fun i => pageWord d true (addr / 64 * 64 + 8 * i))
      poolHit { d with mem.poison := d.mem.poison ++ words.filter (fun w => !d.mem.poison.contains w) } addr slot true
    else poolHit d addr slot false

/-- FAB_TMO (R449): no completion in time; the event names the link when it is down. -/
def fabTmoOp (d : Dev) (addr slot : Nat) : Dev :=
  let (b, t) := match findReq d slot with | some r => (r.basin, r.tag) | none => (0, noTag)
  if !poolMapped d addr then d
  else poolHit (fabFail d addr (if bitOf (liveN d .fab (poolPort d addr) 0x100) 0 then 3 else 4) b t) addr slot false

/-- WB_HELD (R450): a write-back of a hot row finds no completion in time, or a retry succeeds. -/
def wbHeldOp (d : Dev) (addr : Nat) (ok' : Bool) : Dev :=
  match rowAt d addr with
  | none => d
  | some e =>
    let down := poolDown d addr
    if !ok' then wbFail d e addr (if down then 4 else 3)
    else if down then d
    else cleanRows d (fun x => decide (x = e))

/-- A port loses link. FWP5 retrains it, and a retraining that needs a device reset lowers CXLq_PERST# (R469). -/
def fabDownOp (d : Dev) (q : Nat) : Dev :=
  if q < 2 ∧ bitOf (liveN d .fab q 0x100) 0 then
    let (n, d) := draw d
    let d := if fwpRuns d 5 && Config.retrainResets n then { d with power.cxlReleased := d.power.cxlReleased.filter (fun x => !decide (x = q)) } else d
    wakeDom (setStat (setLiveBit d (regA .fab q 0x100) 0 false) .fab q 0 0 noTag 0 4) 4 0
  else d

/-- A port that lost link has been retrained: its device was enumerated at the boot. -/
def fabUpOp (d : Dev) (q : Nat) : Dev :=
  if q < 2 ∧ 256 ≤ liveN d .fab q 0x100 ∧ fwpRuns d 5 then
    let d := { d with power.cxlReleased := if d.power.cxlReleased.contains q then d.power.cxlReleased else d.power.cxlReleased ++ [q] }
    wakeDom (setLiveBit d (regA .fab q 0x100) 0 true) 4 0
  else d

def devEventOp (d : Dev) (q : Nat) : Dev :=
  if q < 2 ∧ bitOf (liveN d .fab q 0x100) 0 ∧ fwpRuns d 5 then count d .fab q 0x124 1 else d

/-! ### Route notices (R453) -/

/-- Ports that a notice goes out on. -/
def noticePorts (d : Dev) : List Nat := (List.range 8).filter (fun p => decide (portState d p = 1) && (portAt d p).admitted)

/-- Send a node's list of links that are up through some ports. -/
def notice (d : Dev) (ports : List Nat) (src : Nat) (peers : List Nat) : Dev :=
  ports.foldl (fun d p => sendFrame d p 6 src (portPeer d p) 0 0 (natLe 1 peers.length ++ peers.flatMap (natLe 1))) d

/-- FWP5 floods this module's list of links that are up, and with it the lists that it has of the other modules, so that a
module that joins learns of every link. -/
def flood (d : Dev) : Dev :=
  let d := notice d (noticePorts d) (ownNode d) ((nodeLinks d (ownNode d)).getD [])
  d.links.topo.foldl (fun d t => notice d (noticePorts d) t.1 t.2) d

/-- Routes are computed again: held messages take their new routes, unreachable members end their sets (R461). -/
def newRoutes (d : Dev) (p : Nat) : Dev :=
  if !fwpRuns d 5 then d
  else
    let held := d.links.waiting
    let d := fenceSets (flood { d with links.down := [], links.waiting := [] }) p
    held.foldl (fun d m => sendFrom d m.1 m.2) d

/-! ### Training (R451, R452, R462) -/

def peerWord (d : Dev) (p : Nat) : W32 := BitVec.ofNat 32 (portPeer d p + (portAt d p).system * 65536)

/-- Frames that were sent and not acknowledged are replayed; those that waited for the link go out. -/
def replayHeld (d : Dev) (p : Nat) (frames : List (List Byte)) : Dev :=
  let again := frames.filter (fun f => d.links.tx.contains (p, f))
  let d := if again = [] then d else setStat (count d .ndl p 0x120 again.length) .ndl p 4 0 noTag (peerWord d p) 0
  let d := countTx d p frames.length
  { d with links.tx := d.links.tx ++ frames.map (fun f => (p, f)) }

/-- TRAINING: the peer's NODE, SYSTEM and the epoch that it holds for this module arrive. A fenced peer stays so until
READMIT. -/
def trainingOp (d : Dev) (p : Nat) (t : Training) : Dev :=
  let st := portState d p
  let down := decide (st = 0) || (decide (st = 2) && decide (bitsOf (liveN d .ndl p 0x104) 5 2 = 0))
  if 8 ≤ p ∨ !running d ∨ d.power.booting ∨ !fwpRuns d 5 ∨ nodeLost d ∨ ownSystem d = 0 ∨ !down then d
  else
    let d := wakeDom d 4 0
    if t.system ≠ ownSystem d ∨ t.node % 256 = ownNode d then
      setStat d .ndl p 2 0 noTag (BitVec.ofNat 32 (t.node % 256 + t.system % 65536 * 65536)) 0
    else
      let lanes := if t.x4 then 4 else 8
      let d := setLink d p st lanes (t.node % 256)
      let d := modPort d p (fun x => { x with system := t.system, downAt := none, lastRx := d.now, lastTx := d.now, epoch := t.epoch % 65536 })
      let d := countRx (countTx d p 1) p
      if st = 2 then d
      else
        let d := setLink d p 1 lanes (t.node % 256)
        newRoutes (replayHeld d p ((portAt d p).held.map (·.2))) p

/-- The link is down from now on. -/
def lowerLink (d : Dev) (p : Nat) : Dev :=
  let d := countTx d p 0
  modPort (setLink d p (if portState d p = 2 then 2 else 0) 0 (portPeer d p)) p (fun x => { x with downAt := some d.now })

/-- NDL_CTL.RETRAIN (R451): the link goes down for its training. While FWP5 restarts it waits (Table 19-6). -/
def retrainOp (d : Dev) (p : Nat) : Dev :=
  if 8 ≤ p then d
  else if !fwpRuns d 5 then { d with links.asked := d.links.asked ++ [(p, 1)] }
  else if nodeLost d ∨ ownSystem d = 0 ∨ portState d p = 0 then d
  else lowerLink d p

/-- NDL_CTL.READMIT (R462), after the link has retrained. While FWP5 restarts it waits. -/
def readmitOp (d : Dev) (p : Nat) : Dev :=
  let w := bitsOf (liveN d .ndl p 0x104) 5 2
  if 8 ≤ p then d
  else if !fwpRuns d 5 then { d with links.asked := d.links.asked ++ [(p, 2)] }
  else if portState d p ≠ 2 ∨ w = 0 then d
  else
    let d := setLink d p 1 w (portPeer d p)
    let d := modPort d p (fun x => { x with admitted := true, lastRx := d.now, lastTx := d.now })
    newRoutes (logEvent d 0xF (pageNo .ndl p) 0xFF noTag p 0 (portEpoch d p)) p

/-- NDL_LINK_DOWN. -/
def linkDownOp (d : Dev) (p : Nat) : Dev :=
  let st := portState d p
  if 8 ≤ p ∨ st = 0 ∨ (st = 2 ∧ bitsOf (liveN d .ndl p 0x104) 5 2 = 0) then d
  else
    let w := peerWord d p
    wakeDom (setStat (lowerLink d p) .ndl p 0 0 noTag w 0) 4 0

/-! ### Declarations (R460, R461) -/

/-- The domain and key of a frame that this node sent for a set. -/
def frameSet (own : Nat) (f : List Byte) : Option (Nat × Nat) :=
  let t := byteAt f 0
  if byteAt f 1 = own ∧ 2 ≤ t ∧ t ≤ 5 then some (fieldN f 16 2, fieldN f 18 8) else none

/-- This node ends its part of a set with FENCED: from the home for all members, else for its own. -/
def fenceSet (d : Dev) (p dom key : Nat) : Dev :=
  if (findSet d dom key).isSome then startNext (endSet (count d .ndl p 0x128 1) dom key 0x61 256) dom key
  else match linkCtx d dom key with
    | some _ => endMember (count d .ndl p 0x128 1) dom key 0x61
    | none => d

/-- A port declares its peer dead: cause 1 heartbeat, 2 timeout. Frames still in its buffer are lost, and their sets end.
The SEQ of both directions starts again. An epoch without a majority holds the declaration back (R117). -/
def declarePeer (d : Dev) (p cause : Nat) : Dev :=
  if epochLost d p then lostMark d (regA .ndl p 0x104) else
  let epoch := (portEpoch d p + 1) % 65536
  let lost := dedup ((portAt d p).held.filterMap (fun h => frameSet (ownNode d) h.2))
  let d := setEpoch (setLink (countTx d p 0) p 2 0 (portPeer d p)) p epoch
  let d := modPort d p (fun x => { x with admitted := false, held := [], downAt := none, seqTx := 0, seqRx := 0 })
  let d := setStat d .ndl p 1 0 noTag (peerWord d p) 0
  let d := logEvent d 0xC (pageNo .ndl p) 0xFF noTag p cause epoch
  let d := if fwpRuns d 5 then d else { d with links.down := d.links.down ++ [p] }
  newRoutes (lost.foldl (fun d x => fenceSet d p x.1 x.2) d) p

/-- NDL_HB_MISS: MISS periods of 1 µs with no frame from the peer. -/
def hbMissOp (d : Dev) (p : Nat) : Dev :=
  if 8 ≤ p ∨ portState d p ≠ 1 then d
  else declarePeer (advanceTo d ((portAt d p).lastRx + usCycles (max 2 (liveN d .ndl p 0x108 % 256)))) p 1

/-- LINK_DOWN_TIMEOUT: the link has been down for DOWN_MS. -/
def downTimeoutOp (d : Dev) (p : Nat) : Dev :=
  match (portAt d p).downAt with
  | none => d
  | some t =>
    if 8 ≤ p ∨ portState d p ≠ 0 then d
    else declarePeer (advanceTo d (t + msCycles (max 1 (bitsOf (liveN d .ndl p 0x108) 31 16)))) p 2

/-! ### Frames (R454) -/

def frameOk (f : List Byte) : Bool := decide (f.length = 256) && decide (fieldN f 252 4 = crc32 (f.take 252))

/-- The sending port drops what the peer acknowledges. -/
def takeAck (d : Dev) (p ack : Nat) : Dev :=
  let h := (portAt d p).held
  match findIdx (fun x => decide (x.1 = ack)) h 0 with
  | some (i, _) => modPort d p (fun x => { x with held := h.drop (i + 1) })
  | none => d

/-- What a frame that this node accepts does; `work` is the effect of its type. After a frame whose CRC fails, the port takes
nothing until the replay from its SEQ (R454), so only the frame next in SEQ is taken. A frame other than a heartbeat raises the
shore (Table 18-6). -/
def recvFrame (d : Dev) (p typ : Nat) (f : List Byte) (work : Dev → Nat → Nat → Nat → List Byte → Dev) : Dev :=
  if 8 ≤ p ∨ portState d p ≠ 1 ∨ byteAt f 0 ≠ typ then d
  else
    let x := portAt d p
    let d := countRx (if typ = 0 then d else shoreAwake d) p
    if !frameOk f then d
    else if epochLost d p ∨ nodeLost d then lostMark (lostMark d (regA .ndl p 0x104)) (regA .ndl 0 0x100)
    else if fieldN f 4 2 ≠ portEpoch d p then
      let d := count (setStat d .ndl p 3 0 noTag (peerWord d p) (BitVec.ofNat 32 typ)) .ndl p 0x124 1
      logEvent d 0xD (pageNo .ndl p) 0xFF noTag p (fieldN f 4 2)
    else
      let d := takeAck (modPort d p (fun x => { x with lastRx := d.now })) p (fieldN f 8 2)
      let seq := fieldN f 6 2
      if seq ≠ (x.seqRx + 1) % 65536 then d
      else
        let d := modPort d p (fun x => { x with seqRx := seq })
        let body := (f.drop 26).take 226
        if 2 ≤ typ ∧ typ ≤ 5 ∧ byteAt f 2 ≠ ownNode d then sendFrom d (byteAt f 1) ⟨byteAt f 2, typ, fieldN f 16 2, fieldN f 18 8, body⟩
        else work d (byteAt f 1) (fieldN f 16 2) (fieldN f 18 8) body

/-- WRITE (R459): into the window of this node's job, which may not have started here yet: what came before stands in it. -/
def writeWork (d : Dev) (_src dom key : Nat) (b : List Byte) : Dev :=
  match linkCtx d dom key with
  | none => d
  | some c =>
    let o := fieldN b 0 4
    let n := if fieldN b 4 2 = 0 then 192 else min 192 (fieldN b 4 2)
    if (if c.phase = .queued then 2 ^ 24 else c.dbufBytes) < o + n then d
    else clearPoison (modCtx d c.id (fun c => { c with dbuf := Mem.writeL c.dbuf o ((b.drop 6).take n) })) (.dbuf c.id) o (o + n)

/-- SEM (R457): a wait or a signal at the home, a grant at a member. -/
def semWork (d : Dev) (src dom key : Nat) (b : List Byte) : Dev :=
  let op := byteAt b 4
  let core := fieldN b 5 2
  if op = 1 ∨ op = 2 then semHome d dom key src (fieldN b 0 2) (fieldN b 2 2) core (op = 2)
  else if op = 3 then (match linkCtx d dom key with | some c => modCtx d c.id (fun c => grantCore c core) | none => d)
  else d

/-- BAR (R458): an arrival at the home, a release at a member. -/
def barWork (d : Dev) (src dom key : Nat) (b : List Byte) : Dev :=
  if byteAt b 1 = 0 then barHome d dom key (byteAt b 0) src
  else match linkCtx d dom key with | some c => releaseCtx d c.id (byteAt b 0) | none => d

/-- The completion classes of Table 3-7. -/
def completionClasses : List Nat :=
  [0, 0x10, 0x11, 0x12, 0x20, 0x21, 0x22, 0x23, 0x30, 0x31, 0x40, 0x41, 0x42, 0x50, 0x51, 0x60, 0x61, 0x70, 0x7F]

/-- SET (R455): join, start, pre-empt, resume, end. The home relays a member's pre-emption to the rest. A member may resume
once the home's own job does, whose resumption the home tells; a home without a job of the set lets it at once. An end with a
class outside Table 3-7 is no message (R92). -/
def setWork (d : Dev) (src dom key : Nat) (b : List Byte) : Dev :=
  let op := byteAt b 0
  let cls := byteAt b 1
  let relay := fun (d : Dev) => match findSet d dom key with
    | some s => (s.members.filter (fun m => !decide (m.1 = src ∨ m.1 = ownNode d) && !s.gone.contains m.1)).foldl
        (fun d m => sendMsg d ⟨m.1, 5, dom, key, setBody op 0 0⟩) d
    | none => d
  match op with
  | 0 => joinHome d dom key src (fieldN b 2 4)
  | 1 => (match linkCtx d dom key with | some c => modCtx d c.id (fun c => { c with joined := true }) | none => d)
  | 2 => match linkCtx d dom key with
    | some c => relay (preemptSet d c.set false)
    | none => if (findSet d dom key).isSome then tellAll (relay d) dom key 3 else d
  | 3 => (match linkCtx d dom key with | some c => modCtx d c.id (fun c => { c with joined := true }) | none => d)
  | 4 => if !completionClasses.contains cls then d
    else if (findSet d dom key).isSome then goneHome d dom key src cls (fieldN b 2 4) else endMember d dom key cls
  | _ => d

/-- ROUTE (R453): the links of a module. A notice that brings news goes on through the other ports. -/
def takeNotice (d : Dev) (p src : Nat) (peers : List Nat) : Dev :=
  if src = ownNode d ∨ d.links.topo.contains (src, peers) then d
  else
    let d := { d with links.topo := d.links.topo.filter (fun t => !decide (t.1 = src)) ++ [(src, peers)] }
    fenceSets (notice d ((noticePorts d).filter (fun q => !decide (q = p))) src peers) p

/-- While FWP5 restarts, a notice waits (Table 19-6). -/
def routeWork (p : Nat) (d : Dev) (src _dom _key : Nat) (b : List Byte) : Dev :=
  let peers := ((b.drop 1).take (byteAt b 0)).map (·.toNat)
  if fwpRuns d 5 then takeNotice d p src peers
  else { d with links.notices := d.links.notices ++ [(p, src, ((b.drop 1).take (byteAt b 0)))] }

/-- FWP5 runs again: held frames take their routes, and what waited for it follows in order (Table 19-6). -/
def linksResume (d : Dev) : Dev :=
  let asked := d.links.asked
  let notices := d.links.notices
  let d := newRoutes { d with links.asked := [], links.notices := [] } (d.links.down.headD 0)
  let d := notices.foldl (fun d n => takeNotice d n.1 n.2.1 (n.2.2.map (·.toNat))) d
  asked.foldl (fun d a => if a.2 = 1 then retrainOp d a.1 else readmitOp d a.1) d

/-- CRC_REPLAY: the frames that the port still holds are sent again from SEQ on. -/
def crcReplayOp (d : Dev) (p seq : Nat) : Dev :=
  match findIdx (fun x => decide (x.1 = seq)) (portAt d p).held 0 with
  | none => d
  | some (i, _) => if 8 ≤ p ∨ portState d p ≠ 1 then d else replayHeld d p (((portAt d p).held.drop i).map (·.2))

def execWbHeld (addr : Nat) (ok' : Bool) (s : State) : Host.Outcome State Fault Refusal := ok s (wbHeldOp s.dev addr ok')
def execFabLinkDown (q : Nat) (s : State) : Host.Outcome State Fault Refusal := ok s (fabDownOp s.dev q)
def execFabLinkRetrained (q : Nat) (s : State) : Host.Outcome State Fault Refusal := ok s (fabUpOp s.dev q)
def execDeviceEventRecord (q : Nat) (s : State) : Host.Outcome State Fault Refusal := ok s (devEventOp s.dev q)
def execTraining (port : Nat) (t : Training) (s : State) : Host.Outcome State Fault Refusal := ok s (trainingOp s.dev port t)
def execNdlLinkDown (port : Nat) (s : State) : Host.Outcome State Fault Refusal := ok s (linkDownOp s.dev port)
def execNdlHbMiss (port : Nat) (s : State) : Host.Outcome State Fault Refusal := ok s (hbMissOp s.dev port)
def execLinkDownTimeout (port : Nat) (s : State) : Host.Outcome State Fault Refusal := ok s (downTimeoutOp s.dev port)
def execCrcReplay (port seq : Nat) (s : State) : Host.Outcome State Fault Refusal := ok s (crcReplayOp s.dev port seq)
def execNdlHeartbeat (port : Nat) (fr : Frame) (s : State) : Host.Outcome State Fault Refusal := ok s (recvFrame s.dev port 0 fr.bytes (fun d _ _ _ _ => d))
def execNdlWrite (port : Nat) (fr : Frame) (s : State) : Host.Outcome State Fault Refusal := ok s (recvFrame s.dev port 2 fr.bytes writeWork)
def execSem (port : Nat) (fr : Frame) (s : State) : Host.Outcome State Fault Refusal := ok s (recvFrame s.dev port 3 fr.bytes semWork)
def execNdlBar (port : Nat) (fr : Frame) (s : State) : Host.Outcome State Fault Refusal := ok s (recvFrame s.dev port 4 fr.bytes barWork)
def execNdlSet (port : Nat) (fr : Frame) (s : State) : Host.Outcome State Fault Refusal := ok s (recvFrame s.dev port 5 fr.bytes setWork)
def execRoute (port : Nat) (fr : Frame) (s : State) : Host.Outcome State Fault Refusal := ok s (recvFrame s.dev port 6 fr.bytes (routeWork port))

end Sys2Proof.Machine
end

