-- ==== Sys2Proof/Machine/Measure.lean ====
section
/-! DEFINITION. Measurement slots and their log, SPDM, the management bus (chapters 19 and 21). -/

namespace Sys2Proof.Machine

/-- The next state of a command that reaches measurement. -/
def okS (s : State) : Host.Outcome State Fault Refusal := .next s

def onDev (s : State) (f : Dev → Dev) : State := { s with dev := f s.dev }

/-! ### Slots and log (R438, R439) -/

def slotOf (s : State) (n : Nat) : BitVec 384 := SMap.get (fun _ => 0) s.meas.slots n

/-- The 48 bytes of a slot or digest. -/
def slotBytes48 (v : BitVec 384) : List Byte := natLe 48 v.toNat

/-- A log entry (Table 19-8). -/
def logEntry (seq slot etype target bank time version : Nat) (d : BitVec 384) : List Byte :=
  natLe 4 seq ++ natLe 1 slot ++ natLe 1 etype ++ natLe 1 target ++ natLe 1 bank ++ natLe 8 time ++ natLe 4 version ++
  List.replicate 12 0 ++ slotBytes48 d ++ List.replicate 48 0

/-- Extend a slot by a digest. -/
def extend (s : State) (slot etype target bank version : Nat) (d : BitVec 384) : State :=
  let v := Sha.digest (slotBytes48 (slotOf s slot) ++ slotBytes48 d)
  let s := { s with meas.slots := SMap.set (fun _ => 0) s.meas.slots slot v }
  let s := onDev s (fun d => count d .meas 0 0x114 1)
  if 4096 ≤ s.meas.log.length then onDev s (fun d => setStat (count d .meas 0 0x110 1) .meas 0 0)
  else
    let e := logEntry (s.meas.log.length + 1) slot etype target bank (sprNow s.dev) version d
    onDev { s with meas.log := s.meas.log ++ [e] } (fun d => count d .meas 0 0x10C 1)

/-- Latch a byte list into RO registers of the MEAS page, four bytes each. -/
def latch (d : Dev) (off : Nat) (bs : List Byte) : Dev :=
  (List.range (bs.length / 4)).foldl (fun d i => setLiveN d .meas 0 (off + 4 * i) (fieldN bs (4 * i) 4)) d

/-- MEAS_SEL (R440): every report reflects the slots at one instant. -/
def measSelOp (s : State) (v : W32) : State :=
  onDev s (fun d => latch (setLiveN d .meas 0 0x100 (v.toNat % 16)) 0x140 (slotBytes48 (slotOf s (v.toNat % 16))))

/-- MEAS_LOG_SEL: an index that holds no entry latches zeros. -/
def measLogSelOp (s : State) (v : W32) : State :=
  onDev s (fun d => latch (setLiveN d .meas 0 0x104 (v.toNat % 4096)) 0x200 (s.meas.log.getD (v.toNat % 4096) (List.replicate 128 0)))

/-- The digest in MEAS_EXT_DATA. -/
def extData (d : Dev) : BitVec 384 :=
  BitVec.ofNat 384 (leNat ((List.range 12).flatMap (fun i => natLe 4 (liveN d .meas 0 (0x180 + 4 * i)))))

/-- MEAS_EXT_GO (R438): it waits while FWP0 does not run (Table 19-6). -/
def measExtOp (s : State) (fn : Nat) (v : W32) : State :=
  let slot := v.toNat % 16
  if fn ≠ 0 ∨ !bitOf v.toNat 31 then s
  else if slot < 10 then onDev s (fun d => setStat d .meas 0 1)
  else if fwpRuns s.dev 0 then extend s slot 5 0xFF 0xFF 0 (extData s.dev)
  else { s with meas.waiting := s.meas.waiting ++ [(slot, extData s.dev)] }

/-- Extensions that waited for FWP0 are applied in the order of their requests. -/
def extWaiting (s : State) : State :=
  s.meas.waiting.foldl (fun s w => extend s w.1 5 0xFF 0xFF 0 w.2) { s with meas.waiting := [] }

/-! ### SPDM 1.2 (R441–R443). Message layouts: PRESUMED from the DMTF standard that the rules name (log 70) -/

/-- An ERROR response. -/
def spdmError (code data : Nat) : List Byte := [0x12, 0x7F] ++ natLe 1 code ++ natLe 1 data

/-- DMTF value type of a slot: immutable ROM, mutable firmware, hardware and firmware configuration. -/
def slotType (k : Nat) : Nat := if k = 0 then 0 else if k ≤ 6 then 1 else if k = 7 then 2 else 3

/-- Measurement block of slot k, at index k + 1. -/
def measBlock (s : State) (k : Nat) : List Byte :=
  natLe 1 (k + 1) ++ [1] ++ natLe 2 51 ++ natLe 1 (slotType k) ++ natLe 2 48 ++ slotBytes48 (slotOf s k)

def measBlocks (s : State) (ks : List Nat) : List Byte := ks.flatMap (measBlock s)

/-- The device certificate, of stepping B0 (R442). -/
def certDevice : List Byte := Config.certDevice Config.identityKey Config.serialNumber [0x42, 0x30]

/-- Slot 0's chain of three certificates, with the header of the SPDM layout: length and digest of the root. -/
def certChain : List Byte :=
  let certs := Config.certRoot ++ Config.certCa ++ certDevice
  natLe 2 (52 + certs.length) ++ [0, 0] ++ Sha.sha384 Config.certRoot ++ certs

def certDigest : List Byte := Sha.sha384 certChain

/-- GET_CAPABILITIES: CERT_CAP, CHAL_CAP and MEAS_CAP with signatures. -/
def capabilities : List Byte :=
  [0x12, 0x61, 0, 0, 0, Config.spdmCt, 0, 0] ++ natLe 4 0x16 ++ natLe 4 Config.spdmSize ++ natLe 4 Config.spdmSize

/-- NEGOTIATE_ALGORITHMS: ECDSA P-384 and SHA-384 where the requester offers them. -/
def algorithms (req : List Byte) : List Byte :=
  [0x12, 0x63, 0, 0] ++ natLe 2 36 ++ natLe 1 (byteAt req 6 % 2) ++ [0] ++ natLe 4 4 ++
  natLe 4 (if bitOf (fieldN req 8 4) 7 then 0x80 else 0) ++ natLe 4 (if bitOf (fieldN req 12 4) 1 then 2 else 0) ++ List.replicate 16 0

/-- GET_CERTIFICATE: a portion of the chain of slot 0. -/
def certificate (req : List Byte) : List Byte :=
  let off := fieldN req 4 2
  let all := certChain
  if byteAt req 2 % 16 ≠ 0 ∨ all.length ≤ off then spdmError 1 0
  else
    let part := (all.drop off).take (fieldN req 6 2)
    [0x12, 0x02, 0, 0] ++ natLe 2 part.length ++ natLe 2 (all.length - off - part.length) ++ part

def challengeBody (s : State) (req : List Byte) : List Byte :=
  let sum := match byteAt req 3 with
    | 0 => []
    | 1 => Sha.sha384 (measBlocks s (List.range 9))
    | _ => Sha.sha384 (measBlocks s (List.range 16))
  [0x12, 0x03, 0, 1] ++ certDigest ++ (req.drop 4).take 32 ++ sum ++ natLe 2 0

/-- GET_MEASUREMENTS without its signature; `nonce` is the responder's own when the request carries none. -/
def measurementsBody (s : State) (req nonce : List Byte) : List Byte :=
  let ix := byteAt req 3
  let ks := if ix = 0xFF then List.range 16 else if ix = 0 then [] else [ix - 1]
  let rec' := measBlocks s ks
  [0x12, 0x60] ++ natLe 1 (if ix = 0 then 16 else 0) ++ [0] ++ natLe 1 ks.length ++ natLe 3 rec'.length ++ rec' ++ nonce ++ natLe 2 0

/-- A response leaves on the transport of its request. -/
def sendSpdm (s : State) (via : Via) (resp : List Byte) : State :=
  onDev s (fun d => match via with
    | .smbus => { d with power.mctp := d.power.mctp ++ [(5 : Byte) :: resp] }
    | .vdm => { d with power.vdm := d.power.vdm ++ [(5 : Byte) :: resp] }
    | .doe => { d with power.doe := d.power.doe ++ [resp] })

def setSpdm (s : State) (step : Nat) (vca b l : List Byte) : State :=
  onDev s (fun d => { d with power.spdmStep := step, power.spdmVca := vca, power.spdmB := b, power.spdmL := l })

/-- The responder's answer to a request; requests out of order are unexpected. -/
def spdmAnswer (s : State) (via : Via) (req : List Byte) : State :=
  let p := s.dev.power
  let code := byteAt req 1
  let known := [0x84, 0xE1, 0xE3, 0x81, 0x82, 0x83, 0xE0].contains code
  if !known then sendSpdm s via (spdmError 7 code)
  else if code = 0x84 then
    let r : List Byte := [0x10, 0x04, 0, 0, 0, 1, 0, 0x12]
    sendSpdm (setSpdm s 1 (req ++ r) [] []) via r
  else if byteAt req 0 ≠ 0x12 then sendSpdm s via (spdmError 0x41 0)
  else if code = 0xE1 then
    if p.spdmStep ≠ 1 then sendSpdm s via (spdmError 4 0)
    else sendSpdm (setSpdm s 2 (p.spdmVca ++ req ++ capabilities) [] []) via capabilities
  else if code = 0xE3 then
    if p.spdmStep ≠ 2 then sendSpdm s via (spdmError 4 0)
    else sendSpdm (setSpdm s 3 (p.spdmVca ++ req ++ algorithms req) [] []) via (algorithms req)
  else if p.spdmStep ≠ 3 then sendSpdm s via (spdmError 4 0)
  else if code = 0x81 then
    let r := [0x12, 0x01, 0, 1] ++ certDigest
    sendSpdm (setSpdm s 3 p.spdmVca (p.spdmB ++ req ++ r) p.spdmL) via r
  else if code = 0x82 then
    sendSpdm (setSpdm s 3 p.spdmVca (p.spdmB ++ req ++ certificate req) p.spdmL) via (certificate req)
  else if code = 0x83 then
    if byteAt req 2 % 16 ≠ 0 ∨ !([0, 1, 0xFF].contains (byteAt req 3)) then sendSpdm s via (spdmError 1 0)
    else
      let r := challengeBody s req
      sendSpdm (setSpdm s 3 p.spdmVca [] p.spdmL) via (r ++ Config.sign (p.spdmVca ++ p.spdmB ++ req ++ r))
  else
    let ix := byteAt req 3
    let signed := bitOf (byteAt req 2) 0
    if (16 < ix ∧ ix ≠ 0xFF) ∨ (signed ∧ byteAt req 36 % 16 ≠ 0) then sendSpdm s via (spdmError 1 0)
    else
      let (n, d) := draw s.dev
      let own := natLe 32 (Config.rng n).toNat
      let r := measurementsBody s req (if signed then (req.drop 4).take 32 else own)
      let s := if signed then s else { s with dev := d }
      if signed then sendSpdm (setSpdm s 3 p.spdmVca p.spdmB []) via (r ++ Config.sign (p.spdmVca ++ p.spdmL ++ req ++ r))
      else sendSpdm (setSpdm s 3 p.spdmVca p.spdmB (p.spdmL ++ req ++ r)) via r

/-- An MCTP control response leaves: instance, command, and what follows the command. -/
def sendControl (s : State) (req rest : List Byte) : State :=
  onDev s (fun d => { d with power.mctp := d.power.mctp ++ [[0] ++ natLe 1 (byteAt req 0 % 32) ++ natLe 1 (byteAt req 1) ++ rest] })

/-- Set Endpoint ID, of the bus owner (R480): operation in byte 2, endpoint ID in byte 3. -/
def setEidAnswer (s : State) (req : List Byte) : State :=
  let e := byteAt req 3
  if byteAt req 2 % 4 ≤ 1 ∧ 8 ≤ e ∧ e ≤ 254 then sendControl (onDev s (fun d => { d with power.eid := e })) req ([0, 0] ++ natLe 1 e ++ [0])
  else sendControl s req [2]

/-- The answer to an MCTP control message (R480): Set Endpoint ID 1, Get Endpoint ID 2, Get Version Support 4, Get Message Type
Support 5; any other is answered as unsupported. Layouts: PRESUMED from the DMTF standard that the rule names (log 70). -/
def controlAnswer (s : State) (req : List Byte) : State :=
  match byteAt req 1 with
  | 1 => setEidAnswer s req
  | 2 => sendControl s req ([0] ++ natLe 1 s.dev.power.eid ++ [0, 0])
  | 4 => sendControl s req (0 :: Config.mctpVersions (byteAt req 2))
  | 5 => sendControl s req [0, 1, 5]
  | _ => sendControl s req [5]

/-- While FWP0 restarts SPDM is answered with Busy; while it is stopped nothing answers (Table 19-6). -/
def spdmServe (s : State) (via : Via) (req : List Byte) : State :=
  match liveN s.dev .fwp 0 0x100 % 4 with
  | 0 => spdmAnswer s via req
  | 1 => sendSpdm s via (spdmError 3 0)
  | _ => s

/-- A message on SMBus once the module is READY: its MCTP type, then the message. Types other than control and SPDM are discarded
(R480). -/
def mctpServe (s : State) (m : List Byte) : State :=
  if byteAt m 0 = 0 then controlAnswer s (m.drop 1)
  else if byteAt m 0 = 5 then spdmServe s .smbus (m.drop 1)
  else s

/-- A message arrives on SMBus (R421, R422, R473): before READY and in S4 it is acknowledged, and answered after READY; in S5 it
is not acknowledged. It wakes the shore. -/
def mctpIn (s : State) (m : List Byte) : State :=
  let d := s.dev
  if !d.power.vin ∨ d.power.rails = .off ∨ d.power.tripped then s
  else if d.power.booting ∨ d.power.rails ≠ .good then onDev s (fun d => { d with power.mctpWait := d.power.mctpWait ++ [m] })
  else mctpServe (onDev s shoreAwake) m

/-- An SPDM request of a row, `mine` saying which codes the row has. One through PCIe needs the link and a module that is READY,
and wakes the shore (R422, R430). -/
def spdmIn (s : State) (via : Via) (req : List Byte) (mine : Nat → Bool) : State :=
  if !mine (byteAt req 1) then s
  else if via = .smbus then mctpIn s ((5 : Byte) :: req)
  else if running s.dev && !s.dev.power.perst && isReady s.dev then spdmServe (onDev s shoreAwake) via req
  else s

/-- ALERT# is low (R478). -/
def alertLow (d : Dev) : Bool := running d && ctlBit d .therm 0 16 && decide (liveN d .therm 0 0x20 % 8 ≠ 0)

/-- The module's SMBus address (R480). -/
def smbAddr (d : Dev) : Nat := 0x34 + d.power.straps % 4

/-- ALERT_RESPONSE (R478): the address in bits [7:1] of the byte. -/
def alertOp (d : Dev) : Dev := if alertLow d then { d with power.alerts := d.power.alerts ++ natLe 1 (2 * smbAddr d) } else d

def execGetVersion (via : Via) (req : List Byte) (s : State) : Host.Outcome State Fault Refusal := okS (spdmIn s via req (· == 0x84))
def execGetCapabilities (via : Via) (req : List Byte) (s : State) : Host.Outcome State Fault Refusal := okS (spdmIn s via req (· == 0xE1))
def execNegotiateAlgorithms (via : Via) (req : List Byte) (s : State) : Host.Outcome State Fault Refusal := okS (spdmIn s via req (· == 0xE3))
def execGetDigests (via : Via) (req : List Byte) (s : State) : Host.Outcome State Fault Refusal := okS (spdmIn s via req (· == 0x81))
def execGetCertificate (via : Via) (req : List Byte) (s : State) : Host.Outcome State Fault Refusal := okS (spdmIn s via req (· == 0x82))
def execChallenge (via : Via) (req : List Byte) (s : State) : Host.Outcome State Fault Refusal := okS (spdmIn s via req (· == 0x83))
def execGetMeasurements (via : Via) (req : List Byte) (s : State) : Host.Outcome State Fault Refusal := okS (spdmIn s via req (· == 0xE0))
def execSpdmUnsupported (via : Via) (req : List Byte) (s : State) : Host.Outcome State Fault Refusal :=
  okS (spdmIn s via req (fun c => !([0x84, 0xE1, 0xE3, 0x81, 0x82, 0x83, 0xE0].contains c)))
def execSetEndpointId (req : List Byte) (s : State) : Host.Outcome State Fault Refusal :=
  okS (mctpIn s ((0 : Byte) :: req))
/-- MCTP_OTHER (R480), of a type that is neither control nor SPDM: acknowledged and discarded; the message wakes the shore. -/
def execMctpOther (req : List Byte) (s : State) : Host.Outcome State Fault Refusal :=
  okS (if byteAt req 0 % 128 = 0 ∨ byteAt req 0 % 128 = 5 then s else mctpIn s req)
/-- SMBUS_TIMEOUT (R481): the packet is abandoned; only whole messages reach State. -/
def execSmbusTimeout (s : State) : Host.Outcome State Fault Refusal := ok s s.dev
def execAlertResponse (s : State) : Host.Outcome State Fault Refusal := ok s (alertOp s.dev)

end Sys2Proof.Machine
end

