-- ==== Sys2Proof/Machine/Boot.lean ====
section
/-! DEFINITION. Resets, rails, boot, firmware processors (chapters 19 and 21). -/

namespace Sys2Proof.Machine

/-! ### What a reset keeps (Table 19-1) -/

/-- The page of a register, for SPR and the Spring-held RST registers. -/
def springHeld (a : Nat) : Bool := decide (a / 0x1000 = 3) || [regA .rst 0 0x104, regA .rst 0 0x10C, regA .rst 0 0x114].contains a

def keepRegs (r : Regs) : Regs :=
  { live := SMap.drop (fun a => !springHeld a) r.live, staged := SMap.drop (fun a => !springHeld a) r.staged,
    pendingPages := r.pendingPages.filter (fun p => decide (p = 3)),
    armed := (r.armed.filter (fun a => decide (a.page = 3))).map (fun a => { a with groups := [] }),
    waiting := [], fires := [], queued := [], tmr := r.tmr.filter (fun t => springHeld t.off),
    sprTick := r.sprTick, sprSets := r.sprSets }

def noRegs : Regs := Dev.reset.regs

/-- Basin records in flash with the operations of R429 decided whose completion was not written: newest first, one that is
kept ends the search for its basin. -/
def settleRecords (fresh : Nat) : List (Nat × Nat × List Nat) → List Nat → List (Nat × List Nat) → List (Nat × List Nat) × Nat
  | [], _, rs => (rs, fresh)
  | u :: us, kept, rs =>
    if kept.contains u.2.1 then settleRecords fresh us kept rs
    else if Config.keepUnwritten fresh then settleRecords (fresh + 1) us (u.2.1 :: kept) rs
    else
      let others := rs.filter (fun r => !decide (r.1 = u.2.1))
      settleRecords (fresh + 1) us kept (if u.2.2 = [] then others else others ++ [(u.2.1, u.2.2)])

/-- Everything but what a device reset keeps is lost; a basin whose CREATE is undone keeps no namespace; `spring` says whether the Spring domain keeps its registers, `cfg`
whether PCIe configuration space is kept. -/
def lose (s : State) (spring cfg : Bool) : State :=
  let d := s.dev
  let (recs, n) := settleRecords d.fresh d.txn.unsure.reverse [] d.flash.records
  let named := fun (b : Nat) => decide (b = 0) || recs.any (fun r => decide (r.1 = b))
  let z := Dev.reset
  { s with
    meas := ⟨[], [], []⟩,
    dev := { z with
      now := d.now, fresh := n, regs := if spring then keepRegs d.regs else noRegs,
      host := { z.host with hostMem := d.host.hostMem, readData := d.host.readData, msix := d.host.msix, fwpSig := d.host.fwpSig,
                            numVFs := if cfg then d.host.numVFs else 0,
                            masked := if cfg then d.host.masked else [], waitVec := if cfg then d.host.waitVec else [],
                            ari := if cfg then d.host.ari else z.host.ari },
      mem := { z.mem with flash := SMap.drop (fun a => !named (a / 2 ^ 50)) d.mem.flash, unreadable := d.mem.unreadable.filter (fun x => named x.1),
                          alloc := d.mem.alloc.filter (fun x => named x.1), place := d.mem.place.filter (fun x => named x.1), spare := d.mem.spare,
                          poison := d.mem.poison.filter (fun w => decide (w.1 = .ns) && named (8 * w.2 / 2 ^ 50) &&
                            !d.mem.dirty.contains (8 * w.2 / 2 ^ 50, 8 * w.2 % 2 ^ 50 / 4096)) },
      links := { z.links with tx := d.links.tx },
      flash := { z.flash with wrapped := d.flash.wrapped.filter (fun k => named k.1),
                              erased := d.flash.erased.filter (fun x => named x.1), images := d.flash.images, badImage := d.flash.badImage, records := recs },
      power := { d.power with booting := true, deepAsked := false, holds := if spring then d.power.holds else [], s3 := [], resuming := [], linkL1 := false, relock := [],
                              eid := 0, cxlReleased := [], mctpWait := d.power.mctpWait, spdmStep := 0, spdmVca := [], spdmB := [], spdmL := [] } } }

/-- A device reset (R428): CAUSE 2 cold, 3 fundamental, 4 device, 5 deep exit. One that falls while a reset of the same kind
is in progress is absorbed (R430); none is in progress while the rails are off. -/
def deviceResetOp (s : State) (cause : Nat) : State :=
  if s.dev.power.booting && decide (s.dev.power.rails = .good) && decide (liveN s.dev .rst 0 0x104 % 16 = cause ∧ liveN s.dev .rst 0 0x108 = 0) then s
  else
    onDev (lose s true (cause = 4)) (fun d =>
      let c := liveN d .rst 0 0x104
      count (setLiveN d .rst 0 0x104 (c / 16 * 16 + cause)) .rst 0 0x114 1)

/-- The rails go off: the TAP loses its power (R482). -/
def railsOff (s : State) : State :=
  { onDev s (fun d => { d with power.rails := .off, power.pwrGood := false }) with tap := Tap.reset }

/-! ### Power-up and power-down (R473–R475) -/

/-- What the management side keeps while the Spring domain loses power: what it has sent. -/
def sentKept (p q : Power) : Power := { q with mctp := p.mctp, vdm := p.vdm, doe := p.doe, alerts := p.alerts }

/-- PWR_EN acts (Table 21-13 step 3): a cold reset. -/
def enActs (s : State) : State :=
  onDev (deviceResetOp s 2) (fun d => { d with power.pwrEn := true, power.riseWaits := false, power.rails := .starting })

/-- POWER_ON_RESET: every block resets, SPR_NOW counts from 0 and the address straps are sampled; flash contents are kept. A PWR_EN
that is already high acts (Table 21-13 step 2). -/
def powerOnOp (s : State) : State :=
  let high := s.dev.power.pwrEn || s.dev.power.riseWaits
  let s := railsOff (lose s false false)
  let n := s.dev.fresh
  let straps := (if Config.contact n then 1 else 0) + (if Config.contact (n + 1) then 2 else 0)
  let s := onDev s (fun d => { d with now := 0, fresh := n + 2, power := { sentKept d.power Dev.reset.power with perst := d.power.perst, straps := straps } })
  if high then enActs s else s
/-- PWR_EN_RISE: less than 50 ms after a fall it waits (R475). Without VIN the level alone counts. A pulse shorter than 100 µs gives
no command (log 198). -/
def enRiseOp (s : State) : State :=
  let p := s.dev.power
  if p.pwrEn ∨ p.riseWaits then s
  else if !p.vin then onDev s (fun d => { d with power.pwrEn := true })
  else match p.enFall with
    | some t => if s.dev.now < t + msCycles 50 then onDev s (fun d => { d with power.riseWaits := true }) else enActs s
    | none => enActs s

def enRiseActsOp (s : State) : State :=
  if !s.dev.power.riseWaits then s
  else
    let t := match s.dev.power.enFall with | some t => t | none => 0
    enActs (onDev s (fun d => advanceTo d (t + msCycles 50)))

/-- RAILS_GOOD: every rail is in regulation; the module releases PWR_GOOD. -/
def railsGoodOp (d : Dev) : Dev := if d.power.rails = .starting then { d with power.rails := .good } else d

/-- PWR_GOOD_RISE: the cold reset is released. -/
def goodRiseOp (d : Dev) : Dev :=
  if d.power.rails = .good ∧ !d.power.tripped then { d with power.pwrGood := true } else d

/-- PWR_GOOD_LOW: the module is held in cold reset. -/
def goodLowOp (s : State) : State :=
  if s.dev.power.rails = .good ∧ s.dev.power.pwrGood then onDev (deviceResetOp s 2) (fun d => { d with power.pwrGood := false }) else s

/-- PWR_EN_FALL (R474): every request and job is lost, the rails go off, THERMTRIP# and WAKE# are released. -/
def enFallOp (s : State) : State :=
  let p := s.dev.power
  if p.riseWaits then onDev s (fun d => { d with power.riseWaits := false, power.enFall := some d.now })
  else if !p.pwrEn then s
  else if !p.vin then onDev s (fun d => { d with power.pwrEn := false })
  else
    onDev (railsOff (lose s true false)) (fun d =>
      { d with power.pwrEn := false, power.enFall := some d.now, power.tripped := false, power.wakePins := [], power.wakeResume := false, power.mctpWait := [] })

/-- VIN_REMOVED: the SPR registers, SPR_NOW and the Spring-held RST registers are lost too. -/
def vinOffOp (s : State) : State :=
  onDev (railsOff (lose s false false)) (fun d => { d with power := { sentKept d.power Dev.reset.power with vin := false, perst := d.power.perst, pwrEn := d.power.pwrEn || d.power.riseWaits } })

/-- PERST_ASSERT: a fundamental reset once the module runs; while it is tripped, off or starting the level alone counts. -/
def perstOnOp (s : State) : State :=
  if s.dev.power.perst then s
  else
    let s := if running s.dev then deviceResetOp s 3 else s
    onDev s (fun d => { d with power.perst := true })

def perstOffOp (d : Dev) : Dev := { d with power.perst := false }

/-- THERMAL_TRIP (R476), of mere 0 to 3 or the shore 4. -/
def thermTripOp (s : State) (die : Nat) : State :=
  let p := s.dev.power
  if 4 < die ∨ p.tripped ∨ p.rails = .off ∨ p.rails = .deep then s
  else onDev (railsOff (lose s true false)) (fun d => setLiveN { d with power.tripped := true } .rst 0 0x104 (liveN d .rst 0 0x104 ||| 256))

/-! ### S4 (R419–R421) -/

/-- PWR_DEEP from PF0. FWP1 or FWP3 in a restart refuses it (Table 19-6). -/
def pwrDeepOp (d : Dev) (fn : Nat) (v : W32) : Dev :=
  if fn ≠ 0 ∨ !bitOf v.toNat 0 then d
  else if (List.range 64).all (fun b => decide (b = 0 ∨ basinState d b = 0 ∨ basinState d b = 2)) && decide (d.reqs = []) && fwpRuns d 1 && fwpRuns d 3 then
    { d with power.deepAsked := true }
  else setStat d .pwr 0 0 0 noTag 4 0

/-- DEEP_ENTRY: the flush, which needs FWP2 and waits for a held write-back (R450), then only Spring and flash keep their rails. A
resume completes first (R418). -/
def deepEntryOp (s : State) : State :=
  if !s.dev.power.deepAsked ∨ !fwpRuns s.dev 2 ∨ !fwpRuns s.dev 3 ∨ s.dev.power.resuming ≠ [] ∨ rowsHeld s.dev then s
  else
    let s := lose (onDev s flushFrames) true false
    { onDev s (fun d => { d with power.rails := .deep, power.pwrGood := false }) with tap := Tap.reset }

/-- The source has woken the module in S4 (Table 18-6). -/
def deepWoken (d : Dev) : WakeSource → Bool
  | .entry e => (wakeEntry d e).deep && decide (e < 32) && bitOf (liveN d .spr 0 0x108) e && decide (0 < SMap.get (fun _ => 0) d.power.wakeFired e)
  | .pin => bitOf (liveN d .spr 0 0x20) 3
  | .mctp => decide (d.power.mctpWait ≠ [])

/-- DEEP_EXIT: a device reset; WAKE# is driven low until the link reaches L0. -/
def deepExitOp (s : State) (src : WakeSource) : State :=
  if s.dev.power.rails ≠ .deep ∨ !deepWoken s.dev src then s
  else onDev (deviceResetOp s 5) (fun d => { d with power.rails := .good, power.pwrGood := true, power.wakeResume := true })

/-! ### Firmware images (R433, R434) -/

def memKib (n : Nat) : Nat := if n = 0 then 1024 else 512
def imageBase (bank n : Nat) : Nat := (6 * bank + n) * 2 ^ 20

/-- What the firmware area holds where nothing has been written since manufacture: in each place the header of an image that
is in order. DESIGN CHOICE (log 71). -/
def shipped (a : Nat) : Byte :=
  let n := a / 2 ^ 20 % 6
  (([0x4C, 0x52, 0x46, 0x57, 1, 0] ++ natLe 1 n ++ [0, 64] : List Byte).getD (a % 2 ^ 20) 0)

/-- A byte as a read of the area gives it: zero in a sector that cannot be read (R434). -/
def imageByte (d : Dev) (a : Nat) : Byte := if d.flash.badImage.contains (a / 4096) then 0 else SMap.get shipped d.flash.images a
def imageBytes (d : Dev) (bank n len : Nat) : List Byte := (List.range len).map (fun i => imageByte d (imageBase bank n + i))

/-- The header keeps Table 19-3 for a processor. -/
def fwImageOk (n : Nat) (h : List Byte) : Bool :=
  decide (fieldN h 0 4 = 0x5746524C ∧ fieldN h 4 2 = 1 ∧ byteAt h 6 = n ∧ 64 ≤ fieldN h 8 4 ∧ fieldN h 8 4 ≤ memKib n * 1024)

/-- The header keeps the whole of Table 19-3: ENTRY lies within the memory, and the reserved bytes are zero (R433, R444). -/
def headerKeeps (n : Nat) (h : List Byte) : Bool :=
  fwImageOk n h && decide (fieldN h 16 4 < memKib n * 1024 ∧ byteAt h 7 = 0) && ((h.drop 20).take 44).all (· == 0)

/-- Bytes of an image that are measured. -/
def measuredLen (n : Nat) (h : List Byte) : Nat := if fieldN h 8 4 < 64 then 64 else min (fieldN h 8 4) (memKib n * 1024)

/-- The image of a processor in a bank can be started: its header is in order, and each of its sectors can be read (R434). -/
def imageSound (d : Dev) (bank n : Nat) : Bool :=
  let h := imageBytes d bank n 64
  fwImageOk n h && (List.range (ceilDiv (measuredLen n h) 4096)).all (fun i => !d.flash.badImage.contains (imageBase bank n / 4096 + i))

/-- Measure an image into its slot and start it, or leave the processor stopped. -/
def startImage (s : State) (n bank etype : Nat) : State × Bool :=
  let h := imageBytes s.dev bank n 64
  let sound := imageSound s.dev bank n
  let s := extend s (n + 1) etype n bank (fieldN h 12 4) (Sha.digest (imageBytes s.dev bank n (measuredLen n h)))
  if sound then (onDev s (fun d => setLiveN (setLiveN d .fwp n 0x110 (fieldN h 12 4)) .fwp n 0x100 0), true)
  else (onDev s (fun d => setStat (setLiveN d .fwp n 0x100 2) .fwp n 1), false)

/-! ### Boot (R432) -/

/-- Step 7: a recorded basin returns HALTED with an empty translation; basin 0 has its fixed quotas and its flash quota. -/
def restoreBasin (d : Dev) (r : Nat × List Nat) : Dev :=
  let b := r.1
  let f := fun i => r.2.getD i 0
  if b = 0 then setLiveN d .bsn 0 0x128 (f 6)
  else
    let d := [(0x104, 0), (0x108, 1), (0x110, 2), (0x114, 3), (0x120, 4), (0x124, 5), (0x128, 6), (0x12C, 7), (0x130, 8)].foldl
      (fun d x => setLiveN d .bsn b x.1 (f x.2)) d
    setBasin (setLiveN d .bsn b 0x118 (2 ^ 31 + b)) b 2 4

/-- Basin 0 at the end of boot (R49, R55). -/
def bootBasins (d : Dev) : Dev :=
  let d := if d.flash.wrapped.any (fun k => decide (k.1 = 0)) then d else newKey d 0
  let d := { d with flash.slots := d.flash.wrapped.map (fun k => (k.1, k.2.key)) }
  let d := setLiveN (setLiveN (setLiveN d .bsn 0 0x12C 16384) .bsn 0 0x130 32) .bsn 0 0x108 64
  d.flash.records.foldl restoreBasin (setLiveN d .bsn 0 0x118 (2 ^ 31))

/-- WIDTH and RATE of a pool port as it trained: one of x4, x8 and x16, one of the three rates (Table 20-1). -/
def poolLinkBits (n : Nat) : Nat := [4, 8, 16].getD (n % 3) 16 * 2 + n / 3 % 3 * 64

/-- Step 8: FWP5 trains the pool ports. -/
def bootPorts (d : Dev) : Dev :=
  if !fwpRuns d 5 then d
  else (List.range 2).foldl (fun d q =>
    if Config.poolGib q = 0 then d
    else setLiveN { d with power.cxlReleased := d.power.cxlReleased ++ [q] } .fab q 0x100
      (1 + poolLinkBits (Config.poolLink q) + (Config.poolGib q).toNat * 256)) d

/-- BOOT: steps 1 to 8. An FWP0 that does not start ends the boot at step 3, since FWP0 runs the steps after it. Messages
that waited for READY are then answered in order. -/
def bootOp (s : State) : State :=
  let p := s.dev.power
  let bank := liveN s.dev .rst 0 0x10C % 2
  if !p.booting ∨ !running s.dev ∨ p.perst ∨ liveN s.dev .rst 0 0x108 ≠ 0 then s
  else if noMajority s.dev (regA .rst 0 0x10C) = true then onDev s (lostMark · (regA .rst 0 0x10C))
  else
    let s := extend s 0 1 0xFF 0xFF 0 Config.romDigest
    let s := extend s 7 4 0xFF 0xFF 0 Config.fuseDigest
    let s := extend s 8 4 0xFF 0xFF 0 (Config.bootConfigDigest bank)
    let (s, good) := startImage s 0 bank 2
    if !good then onDev s (fun d => setLiveN d .rst 0 0x108 (3 * 2 + bank * 32))
    else
      let s := [1, 2, 3, 4, 5].foldl (fun s n => (startImage s n bank 2).1) s
      let s := onDev s (fun d =>
        let d := if fwpRuns d 1 then bootBasins d else d
        let d := setLiveN (bootPorts d) .rst 0 0x108 (1 + 8 * 2 + bank * 32)
        { d with power.booting := false })
      let waits := s.dev.power.mctpWait
      waits.foldl mctpServe (onDev s (fun d => { d with power.mctpWait := [] }))

/-- R93: every live request ends with DEVICE_RESET, and every completion whose outlet ring takes it, and whose blocks have their
flags, is written, in order. -/
def endForReset (d : Dev) : Dev :=
  let d := (d.reqs.filter (·.live)).foldl (fun d r => match findReq d r.slot with
    | some q => if q.live then finish d q 0x7F else d
    | none => d) d
  d.host.comps.foldl (fun d c => if outReady d c.basin c.ring && !(match c.slot with | some s => awaitsRemap d s | none => false) then writeComp { d with host.comps := d.host.comps.erase c } c else d) d

/-- RST_CTL.DEVICE with KEY, from PF0. -/
def rstCtlOp (s : State) (fn : Nat) (v : W32) : State :=
  if fn = 0 ∧ bitOf v.toNat 0 ∧ bitsOf v.toNat 15 8 = 0xA5 ∧ running s.dev ∧ !s.dev.power.perst then
    deviceResetOp (if isReady s.dev then onDev s endForReset else s) 4
  else s

/-! ### Restarts of firmware processors (R435–R437) -/

/-- Vector 18 of PF0 (Table 19-5). -/
def fwpSignal (d : Dev) : Dev := addMsix d 0 18

/-- Its watchdog expires: a processor is declared dead, unless it restarts already. -/
def wdtOp (d : Dev) (n : Nat) : Dev :=
  if 6 ≤ n ∨ !isReady d ∨ liveN d .fwp n 0x100 % 4 = 1 then d
  else if noMajority d (regA .fwp n 0x104) then lostMark d (regA .fwp n 0x104)
  else
    let epoch := (liveN d .fwp n 0x104 + 1) % 65536
    let d := setLiveN (setLiveN d .fwp n 0x104 epoch) .fwp n 0x100 1
    let d := { d with flash.restarts := d.flash.restarts ++ [n] }
    let d := if n = 0 then { d with power.spdmStep := 0, power.spdmVca := [], power.spdmB := [], power.spdmL := [] } else d
    fwpSignal (logEvent (count d .fwp n 0x114 1) 0xC (pageNo .fwp n) 0xFF noTag n 2 epoch)

/-- FWP_CTL.RESTART, PF0 only. -/
def fwpCtlOp (d : Dev) (fn n : Nat) (v : W32) : Dev := if fn = 0 ∧ bitOf v.toNat 0 then wdtOp d n else d

/-- The restart whose turn it is: FWP0's first, then in the order of declaration. -/
def nextRestart (d : Dev) : Option Nat := if d.flash.restarts.contains 0 then some 0 else d.flash.restarts.head?

/-- What a service takes up again when its processor runs: held extensions, spare mapping, routes. -/
def resumeService (s : State) (n : Nat) : State :=
  match n with
  | 0 => extWaiting s
  | 2 => onDev s releaseReadmits
  | 4 => onDev s (fun d => (List.range 4).foldl wantSpare d)
  | 5 => onDev s linksResume
  | _ => s

/-- FWP_RESTART_DONE: steps 3 to 5 of Table 19-5, for FWP1 to FWP5 by FWP0, which must run. -/
def restartDoneOp (s : State) (n : Nat) : State :=
  if 6 ≤ n ∨ nextRestart s.dev ≠ some n ∨ (n ≠ 0 ∧ !fwpRuns s.dev 0) ∨ noMajority s.dev (regA .rst 0 0x10C) = true then s
  else
    let bank := liveN s.dev .rst 0 0x10C % 2
    let s := onDev s (fun d => { d with flash.restarts := d.flash.restarts.filter (fun k => !decide (k = n)) })
    let s := if bank = bitsOf (liveN s.dev .rst 0 0x108) 5 5 then s else extend s 8 4 0xFF 0xFF 0 (Config.bootConfigDigest bank)
    let (s, good) := startImage s n bank 3
    if !good then s
    else
      let s := onDev s (fun d => logEvent d 0xF (pageNo .fwp n) 0xFF noTag n 0 (liveN d .fwp n 0x104))
      resumeService (onDev s (fun d => setStat (fwpSignal d) .fwp n 2)) n

/-- Blocks whose pages a firmware processor may write (Table 19-4). -/
def fwpPages : Nat → List Blk
  | 0 => [.meas, .rst, .fwp]
  | 1 => [.hif, .ring, .bsn, .txn]
  | 2 => [.flc, .flch]
  | 3 => [.spr, .pwr, .clk, .therm]
  | 4 => [.errlog, .hbm, .mere, .core]
  | _ => [.fab, .ndl]

/-- The accesses that a processor's protection unit admits (R435). -/
def protAdmits (n : Nat) (write : Bool) : FwPlace → Bool
  | .memory k => decide (k = n)
  | .mailbox f t => decide (f ≠ t) && (if write then decide (f = n) else decide (t = n))
  | .page p => !write || decide (p = pageNo .fwp n) || (match pageOf p with
      | some (k, _) => (fwpPages n).contains k
      | none => false)
  | .reserve => decide (n = 1 ∨ n = 4)
  | .image => decide (n = 0 ∨ n = 2)
  | .record => decide (n = 1 ∨ n = 2)
  | .flash => decide (n = 2)
  | .other => false

/-- PROT (R435): an access that the list does not admit is not performed, and the processor stops. -/
def protOp (d : Dev) (n : Nat) (write : Bool) (place : FwPlace) (addr : Nat) : Dev :=
  if 6 ≤ n ∨ !isReady d ∨ !fwpRuns d n ∨ protAdmits n write place then d
  else setStat (setLiveN d .fwp n 0x100 2) .fwp n 0 0 noTag (BitVec.ofNat 32 addr)

/-! ### Firmware update (R444) -/

/-- The first result that applies before anything is written; 0 when none does. -/
def updCheck (d : Dev) (flags : List W64) : Nat :=
  let t := liveN d .fwp 0 0x208
  let n := t % 8
  let bank := bitsOf t 4 4
  let len := liveN d .fwp 0 0x204
  let block := liveN d .fwp 0 0x200 % 1024
  let k := ceilDiv len 65536
  if 5 < n ∨ len < 64 ∨ memKib n * 1024 < len then 1
  else if 1024 < block + k ∨ (List.range k).any (fun i => isHeld d 0 (block + i) || logHolds d 0 (block + i) || decide ((flags.getD i 0).toNat % 4 ≠ 0)) then 2
  else if bank = bitsOf (liveN d .rst 0 0x108) 5 5 then 3
  else if !headerKeeps n (shoreRead d 0 block 0 64) then 4
  else 0

/-- FWP_UPD_GO: one write at a time. -/
def updGoOp (d : Dev) (fn : Nat) (v : W32) (flags : List W64) : Dev :=
  if fn ≠ 0 ∨ !bitOf v.toNat 0 ∨ d.flash.update.isSome then d
  else
    let t := liveN d .fwp 0 0x208
    setLiveN { d with flash.update := some (t % 8, bitsOf t 4 4, liveN d .fwp 0 0x204, liveN d .fwp 0 0x200 % 1024, updCheck d flags) } .fwp 0 0x210 1

/-- FWP_UPD_DONE: it waits while FWP0 does not run. -/
def updDoneOp (d : Dev) : Dev :=
  match d.flash.update with
  | none => d
  | some (n, bank, len, block, result) =>
    if !fwpRuns d 0 then d
    else
      let bs := Mem.readN d.mem.shore (shoreAddr 0 block 0) len
      let put := fun (m : Mem) (x : Nat × Byte) => SMap.set shipped m x.1 x.2
      let images := if result = 0 then ((List.range len).map (imageBase bank n + ·)).zip bs |>.foldl put d.flash.images else d.flash.images
      let written := fun (s : Nat) => decide (result = 0 ∧ imageBase bank n ≤ 4096 * s ∧ 4096 * s < imageBase bank n + len)
      setLiveN { d with flash.update := none, flash.images := images, flash.badImage := d.flash.badImage.filter (!written ·) } .fwp 0 0x210 (result * 16)

def execDeepEntry (s : State) : Host.Outcome State Fault Refusal := okS (deepEntryOp s)
def execDeepExit (src : WakeSource) (s : State) : Host.Outcome State Fault Refusal := okS (deepExitOp s src)
def execPowerOnReset (s : State) : Host.Outcome State Fault Refusal := okS (powerOnOp s)
def execPwrEnRise (s : State) : Host.Outcome State Fault Refusal := okS (enRiseOp s)
def execPwrEnRiseActs (s : State) : Host.Outcome State Fault Refusal := okS (enRiseActsOp s)
def execRailsGood (s : State) : Host.Outcome State Fault Refusal := ok s (railsGoodOp s.dev)
def execPwrGoodRise (s : State) : Host.Outcome State Fault Refusal := ok s (goodRiseOp s.dev)
def execPwrGoodLow (s : State) : Host.Outcome State Fault Refusal := okS (goodLowOp s)
def execPwrEnFall (s : State) : Host.Outcome State Fault Refusal := okS (enFallOp s)
def execVinRemoved (s : State) : Host.Outcome State Fault Refusal := okS (vinOffOp s)
def execPerstAssert (s : State) : Host.Outcome State Fault Refusal := okS (perstOnOp s)
def execPerstDeassert (s : State) : Host.Outcome State Fault Refusal := ok s (perstOffOp s.dev)
def execThermalTrip (die : Nat) (s : State) : Host.Outcome State Fault Refusal := okS (thermTripOp s die)
def execBoot (s : State) : Host.Outcome State Fault Refusal := okS (bootOp s)
def execWatchdogExpiry (n : Nat) (s : State) : Host.Outcome State Fault Refusal := ok s (wdtOp s.dev n)
def execFwpRestartDone (n : Nat) (s : State) : Host.Outcome State Fault Refusal := okS (restartDoneOp s n)
def execProt (n : Nat) (write : Bool) (place : FwPlace) (addr : Nat) (s : State) : Host.Outcome State Fault Refusal :=
  ok s (protOp s.dev n write place addr)
def execFwpUpdDone (s : State) : Host.Outcome State Fault Refusal := ok s (updDoneOp s.dev)

end Sys2Proof.Machine
end

