-- ==== Sys2Proof/Machine/Readings.lean ====
section
/-! DEFINITION. What a register reads as: words that the block computes at the read, live copies, status and membership
fields; reads with an effect (R9, R104, R120, R133, R423). -/

namespace Sys2Proof.Machine

/-- A number with bit g set for each g below n that satisfies p. -/
def maskOf (n : Nat) (p : Nat → Bool) : Nat := (((List.range n).filter p).map (fun g => 2 ^ g)).sum

/-- Groups with neither a fire in progress nor one queued (R110). -/
def fireDone (d : Dev) (g : Nat) : Bool := !d.regs.fires.any (fun f => decide (f.group = g)) && !d.regs.queued.contains g

/-- The slow fire of the lowest-numbered group. -/
def slowFire (d : Dev) : Option Fire :=
  ((List.range 16).filterMap (fun g => d.regs.fires.find? (fun f => decide (f.group = g) && f.slow))).head?

/-- RIPPLE_LAGGARD: the member named when the fire became slow, while it has not applied; else another one. -/
def laggardWord (d : Dev) : Nat :=
  match slowFire d with
  | none => 0
  | some f =>
    let p := if f.members.contains f.laggard then f.laggard else f.members.getD (Config.laggardPick d.fresh % f.members.length) 0
    2 ^ 31 + f.group * 65536 + p % 32768

/-- A free reading of at most `hi`. -/
def meterTo (d : Dev) (a hi : Nat) : Nat := (Config.meter a d.fresh).toNat % (hi + 1)

/-- CLK_STATUS: oscillator and PLLs that run (Table 18-8). -/
def clkStatus (d : Dev) : Nat :=
  if !decide (d.power.rails = .good ∨ d.power.rails = .starting) then 0
  else
    let mere := fun m => decide (domState d m < 2) && !d.power.relock.contains m
    1 + 2 * maskOf 4 mere + (if domState d 4 < 2 then 32 else 0) + 64 + 128 + (if d.power.linkL1 ∨ d.power.perst then 0 else 256) +
    512 * maskOf 2 (fun q => bitOf (liveN d .fab q 0x100) 0) + (if (List.range 8).any (fun p => decide (portState d p ≠ 0)) then 2048 else 0)

/-- The context that holds a core, and the core's logical index. -/
def heldBy (d : Dev) (i : Nat) : Option (Ctx × Nat) :=
  (d.jobs.ctxs.find? (fun c => holding c && c.place.contains i)).map (fun c => (c, c.place.idxOf i))

/-- CORE_STATE. -/
def coreStateWord (d : Dev) (i : Nat) : Nat :=
  if isQuarantined d i then 6
  else match heldBy d i with
    | none => if isOffline d i then 5 else 0
    | some (c, j) =>
      let st := if c.phase = .saving then 3 else match coreAt c j with
        | some k => if k.wait = .ending ∨ k.ended then 4 else 2
        | none => 2
      st + 256 * j

def coreCount (d : Dev) (i : Nat) (f : CoreSt → Nat) : Nat :=
  match heldBy d i with
  | some (c, j) => (match coreAt c j with | some k => f k | none => 0)
  | none => 0

/-- The GANG context that holds a mere. -/
def gangOn (d : Dev) (m : Nat) : Option Ctx := d.jobs.ctxs.find? (fun c => holding c && c.gang && decide (c.mere = m))

/-- MERE_SEQ. -/
def mereSeq (d : Dev) (m : Nat) : Nat :=
  match gangOn d m with
  | none => 0
  | some c =>
    let ts := match coreAt c 0 with | some k => k.tiles | none => []
    let drain := decide (c.phase = .saving) || c.cores.any (fun k => decide (k.wait = .ending))
    (if ts = [] then 0 else if drain then 2 else 1) + c.basin * 256 + 32768 + 65536 * min 2 ((ts.filter (fun o => !o.started)).length)

def mereSpares (d : Dev) (m : Nat) : Nat :=
  min 8 (freeSpares d m).length + 256 * min 255 (unmapped d m).length + (if gangCapable d m then 2 ^ 31 else 0)

/-- WEIR_STATE: passes, slots that hold a landed layer, loads. -/
def weirState (d : Dev) (m : Nat) : Nat :=
  let slots := fun (p : Pass) => match findVer d p.model with
    | some v => p.landed - (p.written - Mdl.window v.desc)
    | none => 0
  min 255 d.eng.passes.length + 256 * min 255 ((d.eng.passes.map slots).sum + ((d.eng.prefetch.filter (fun p => decide (p.1 = m))).map (fun p => p.2.2.2.2)).sum) + 65536 * min 255 (d.txn.versions.filter (·.loading)).length

/-- Sectors of the claimed extents that lie in a namespace (R487). -/
def nsExtents (d : Dev) (b : Nat) : List (Nat × Nat) := (keptOf d b).flatMap (fun v => sectorsClaimed v.cls v.desc)

/-- Bytes that a namespace has allocated. DEDUCED (log 66): the end of its last written or claimed sector, since R49
concludes that a namespace never shrinks below a claimed extent. -/
def nsEnd (d : Dev) (b : Nat) : Nat :=
  let claimed := (nsExtents d b).map (fun (e : Nat × Nat) => e.1 + e.2)
  let written := (d.mem.alloc.filter (fun (x : Nat × Nat) => decide (x.1 = b))).map (fun (x : Nat × Nat) => x.2 + 1)
  4096 * (claimed ++ written).foldl max 0

def sortsOf (d : Dev) (unit : Nat) : Nat := (d.eng.sorts.filter (fun c => decide (c.unit = unit))).length
def sortActive (d : Dev) (unit : Nat) : Nat :=
  let running := (d.eng.sorts.filter (fun c => decide (c.unit = unit) && c.running)).length
  running + 65536 * min 65535 (sortsOf d unit - running)

/-- Requests that decode. -/
def decoding (d : Dev) : List Req := d.reqs.filter (fun r => r.live && decide (r.stage = .decode))

def carried (r : Req) : Bool := r.live && r.awaiting && r.cuts.any (fun c => decide (c.rest ≠ []))

/-- Words that the block computes when they are read. A count of raw traffic whose grain no rule gives is free. -/
def computed (d : Dev) (k : Blk) (i off : Nat) : Option Nat :=
  let a := regA k i off
  match k, off with
  | .ripple, 0x104 => some (maskOf 16 (fireDone d))
  | .ripple, 0x108 => some (maskOf 16 (fun g => d.regs.fires.any (fun f => decide (f.group = g))))
  | .ripple, 0x10C => some (maskOf 16 (fun g => d.regs.queued.contains g))
  | .ripple, 0x114 => some (laggardWord d)
  | .ripple, o => if 0x180 ≤ o ∧ o < 0x1C0 then some (membersOf d ((o - 0x180) / 4)).length else none
  | .txn, 0x100 => some d.txn.last
  | .txn, 0x108 => some d.txn.active.length
  | .spr, 0x100 => some (sprNow d)
  | .pwr, 0x11C => some (Config.meter a d.fresh).toNat
  | .pwr, 0x120 => some (Config.meter a d.fresh).toNat
  | .clk, 0x110 => some (clkStatus d)
  | .errlog, 0x114 => some (min 1024 d.log.events.length)
  | .bsn, 0x140 => some (useHbm d i)
  | .bsn, 0x144 => some (usePool d i)
  | .bsn, 0x148 => some (ceilDiv (nsEnd d i) (2 ^ 30))
  | .bsn, 0x14C => some (useTags d i)
  | .bsn, 0x150 => some (useWalk d i)
  | .walk, 0x100 => some (walkContexts d + 65536 * walkSlots d)
  | .walk, 0x104 => some d.eng.walkWait.length
  | .walk, 0x130 => some (((d.txn.versions.filter (fun v => decide (v.cls = 0) && v.superseded.isNone)).map (fun v => Idx.cachePages v.desc)).sum)
  | .sort, 0x100 => some (sortActive d 0)
  | .msort, 0x100 => some (sortActive d (1 + i))
  | .gath, 0x100 =>
    let n := (d.eng.gaths.filter (fun g => decide (g.unit = i))).length
    some (meterTo d a (if n = 0 then 0 else 4096) + 65536 * min 8 n + 2 ^ 24 * min 255 (n - 8))
  | .tok, 0x114 => some (d.reqs.filter carried).length
  | .tok, 0x118 => some (Config.meter a d.fresh).toNat
  | .gen, 0x100 => some ((decoding d).length % 16384 + 65536 * min 65535 (d.reqs.filter (fun r => r.live && decide (r.stage = .model))).length)
  | .gen, 0x118 => some d.eng.handles.length
  | .gen, 0x11C => some (d.eng.handles.filter (fun h => h.inPool && !h.moving)).length
  | .gram, 0x100 =>
    let n := (d.reqs.filter (fun r => match r.stream with | some s => s.gram.isSome | none => false)).length
    some (n % 16384 + 65536 * meterTo d a (if n = 0 then 0 else 16))
  | .gram, 0x118 => some (d.txn.versions.filter (fun v => decide (v.cls = 2) && v.kept)).length
  | .core, 0x48 => some (match heldBy d i with | some (c, _) => c.basin | none => 2 ^ 30)
  | .core, 0x100 => some (coreStateWord d i)
  | .core, 0x120 => some (coreCount d i (fun k => (k.frames.filter (fun f => f.2.dirty)).length))
  | .core, 0x124 => some (coreCount d i (fun k => min 32 k.xfers.length))
  | .mere, 0x100 => some (mereSeq d i)
  | .mere, 0x200 => some (mereSpares d i)
  | .sync, 0x108 => some (boundOn d i false + 65536 * boundOn d i true)
  | .sync, 0x10C => some (d.jobs.ctxs.filter (fun c => decide (c.phase = .saved ∧ c.mere = i))).length
  | .weir, 0x100 => some (weirState d i)
  | .weir, 0x104 => some (SMap.get (fun _ => 0) d.eng.weirBytes i / 1024)
  | .dbuf, 0x104 => some (ceilDiv (windowsHeld d i) 1024)
  | .dbuf, 0x108 => some (ceilDiv (recordsHeld d i) 1024)
  | .hbm, 0x104 => some (Config.meter a d.fresh).toNat
  | .hbm, 0x108 => some (Config.meter a d.fresh).toNat
  | .flc, 0x120 => some (Config.meter a d.fresh).toNat
  | .flc, 0x124 => some (Config.meter a d.fresh).toNat
  | .flc, 0x128 => some ((Config.meter (regA .flc 0 0x120) d.fresh).toNat * 10000 / 3000)
  | .flc, 0x12C => some d.mem.spare
  | .flc, 0x134 => some (d.flash.hostBytes / 2 ^ 30)
  | .flc, 0x138 => some (Config.meter a d.fresh).toNat
  | .flc, 0x13C => some ((List.range 256).filter (fun n => decide ((dieAt d n).state ≠ 0))).length
  | .flc, 0x144 => let v := dieAt d (liveN d .flc 0 0x140 % 256); some (v.state + 65536 * v.epoch)
  | .flch, o => if [0x100, 0x108, 0x10C, 0x11C].contains o then some (Config.meter a d.fresh).toNat else none
  | .fab, 0x10C => some (if d.links.poolMapped then (Config.meter a d.fresh).toNat else 0)
  | .fab, 0x110 => some (if d.links.poolMapped then (Config.meter a d.fresh).toNat else 0)
  | .ndl, 0x118 => some (liveN d .ndl i 0x118 + txBytes d i / 1024)
  | .ndl, 0x110 => if i ≠ 0 then none else
    let n := liveN d .ndl 0 0x114 % 256
    some (match routePort d n with | some p => p | none => 2 ^ 31)
  | _, _ => none

/-- NDL_NODE of ports 1 to 7 reads port 0's value (Table 20-7). -/
def mirrorOf (k : Blk) (i off : Nat) : Nat := if k = .ndl ∧ off % 0x800 = 0x100 then 0 else i

/-- The word at an offset of a page below 0x800: the staged copy of RWS bits, the live value of the others. -/
def pageRead (d : Dev) (k : Blk) (i off : Nat) : W32 :=
  let i' := mirrorOf k i off
  let a := regA k i' off
  match regAt k i' off with
  | none => 0
  | some r =>
    if off = 0x24 then live d (regA k i 0x20)
    else match computed d k i' off with
      | some n => BitVec.ofNat 32 n
      | none =>
        if off = 0x14 then live d a ||| (if d.regs.pendingPages.contains (pageNo k i) then 0x80000000 else 0)
        else if r.rws ≠ 0 then staged d a
        else live d a

/-- What a read of BAR0 by PF0 returns, with no effect: live copies lie at + 0x800 (R104), and an unmapped offset reads
zero (R101). -/
def regRead (d : Dev) (a : Nat) : W32 :=
  match pageOf (a / 0x1000) with
  | none => 0
  | some (k, i) =>
    let off := a % 0x1000
    if off < 0x800 then pageRead d k i off
    else
      let i' := mirrorOf k i off
      match regAt k i' (off - 0x800) with
      | some r => if r.rws ≠ 0 then live d (regA k i' (off - 0x800)) else 0
      | none => 0

/-- The same by a function: a VF reaches the RING and BSN pages of its basin alone (R39, R66). -/
def regReadBy (d : Dev) (fn a : Nat) : W32 :=
  match pageOf (a / 0x1000) with
  | some (k, i) => if reaches fn k i then regRead d a else 0
  | none => 0

/-! ### Reads with an effect -/

/-- A function reaches the module: the link is up and a VF is enabled; before READY only the RST page answers (R430). -/
def linkUp (d : Dev) (fn : Nat) : Bool := running d && !d.power.perst && decide (fn ≤ d.host.numVFs)

def answers (d : Dev) (fn page : Nat) : Bool := linkUp d fn && (isReady d || decide (page = 6))

def giveData (d : Dev) (v : W32) : Dev := { d with host.readData := d.host.readData ++ [v] }

/-- Status events of hardware in the same cycle (R9): the bits that the page has. -/
def hwOn (d : Dev) (k : Blk) (i : Nat) (hw : List HwSet) : Dev :=
  (k.events hw).foldl (fun d h => setStat d k i h.bit h.basin h.tag h.d2 h.d3) d

def hwPage (d : Dev) (page : Nat) (hw : List HwSet) : Dev :=
  match pageOf page with
  | some (k, i) => hwOn d k i hw
  | none => d

/-- BLK_STAT_RC (R9, R120): it returns the value before the cycle, and the bits returned as 1 are cleared, but for those
that hardware sets in the same cycle. -/
def readStatRc (d : Dev) (k : Blk) (i : Nat) (hw : List HwSet) : Dev :=
  let v := live d (regA k i 0x20) &&& ~~~ freshNow d k 0x20
  giveData (clearStat d k i v (k.events hw)) v

/-- TXN_LAST_LO (Table 5-8) latches the upper half. -/
def readTxnLast (d : Dev) : Dev := giveData (setLiveN d .txn 0 0x104 (d.txn.last / 2 ^ 32)) (BitVec.ofNat 32 d.txn.last)

/-- SPR_NOW_LO (Table 18-9) latches bits [47:32]. -/
def readSprNow (d : Dev) : Dev :=
  giveData (setLiveN d .spr 0 0x104 (sprNow d / 2 ^ 32 % 65536)) (BitVec.ofNat 32 (sprNow d))

/-- A read of a TMR register votes it (R8, R116, R117): the staged copy, or the live one at + 0x800. -/
def readVotes (d : Dev) (k : Blk) (i off : Nat) : Dev :=
  let i := mirrorOf k i off
  let a := regA k i (off % 0x800)
  if k = .flc ∧ off = 0x144 then
    if (dieEpoch d (liveN d .flc 0 0x140 % 256)).isNone then voteLost d a true else d
  else if off < 0x800 ∧ (match regAt k i off with | some r => decide (r.rws ≠ 0) | none => false) = true then
    ((tmrFields a).filter (fieldLost d true a)).foldl (fun d _ => voteLost d a true) d
  else lostMark d a

/-- One word of a read by a function, with the register's effect. -/
def readOne (d : Dev) (fn a : Nat) (hw : List HwSet) : Dev :=
  match pageOf (a / 0x1000) with
  | none => giveData d 0
  | some (k, i) =>
    if !reaches fn k i || !answers d fn (a / 0x1000) then giveData (hwOn d k i hw) 0
    else
      let d := shoreAwake d
      if a % 0x1000 = 0x24 then readStatRc d k i hw
      else if a = regA .txn 0 0x100 then readTxnLast (hwOn d k i hw)
      else if a = regA .spr 0 0x100 then readSprNow (hwOn d k i hw)
      else giveData (hwOn (readVotes d k i (a % 0x1000)) k i hw) (regRead d a)

/-- A read of BAR0 (R102): an aligned 4-byte access, or an aligned 8-byte one as two, lower offset first; any other returns
zero, clears nothing and counts in GLB_BADACC. -/
def regReadOp (d : Dev) (fn a size : Nat) (hw : List HwSet) : Dev :=
  if size = 4 ∧ a % 4 = 0 then readOne d fn a hw
  else if size = 8 ∧ a % 8 = 0 then readOne (readOne d fn a []) fn (a + 4) hw
  else giveData (hwPage (if answers d fn (a / 0x1000) then badAccess d else d) (a / 0x1000) hw) 0

def execBlkStatRc (fn : Nat) (r : PageRead) (hw : List HwSet) (s : State) : Host.Outcome State Fault Refusal :=
  ok s (regReadOp s.dev fn (r.page * 0x1000 + r.off % 0x1000) r.size hw)
def execTxnLastLo (r : FnRead) (s : State) : Host.Outcome State Fault Refusal := ok s (regReadOp s.dev r.fn (regA .txn 0 (r.off % 0x1000)) r.size [])
def execSprNowLo (r : FnRead) (s : State) : Host.Outcome State Fault Refusal := ok s (regReadOp s.dev r.fn (regA .spr 0 (r.off % 0x1000)) r.size [])

end Sys2Proof.Machine
end

