-- ==== Sys2Proof/Machine/Access.lean ====
section
/-! DEFINITION. Host writes through BAR0 and BAR2 (R8, R39, R67, R101–R106, R114, R119, R131, R430), and every register
whose write acts at once. -/

namespace Sys2Proof.Machine

/-- A fire has been in progress for the threshold (R111). -/
def overdue (d : Dev) (f : Fire) : Bool :=
  let tmo := liveN d .ripple 0 0x110 % 2 ^ 24
  decide (tmo ≠ 0 ∧ f.start + usCycles tmo ≤ d.now ∧ f.members ≠ [])

/-- RIPPLE_TMO (R111): the new threshold applies to every fire in progress at once. -/
def tmoOp (d : Dev) (v : W32) : Dev :=
  let d := setLiveN d .ripple 0 0x110 (v.toNat % 2 ^ 24)
  d.regs.fires.foldl (fun d f =>
    if overdue d f then
      let (n, d) := draw d
      setSlow d f.group (f.members.getD (Config.laggardPick n % f.members.length) 0)
    else { d with regs.fires := modWhere (fun g => decide (g.group = f.group)) (fun g => { g with slow := false }) d.regs.fires }) d

/-- NDL_CTL: RETRAIN and READMIT (R451, R462). -/
def ndlCtlOp (d : Dev) (p : Nat) (v : W32) : Dev :=
  let d := if bitOf v.toNat 0 then retrainOp d p else d
  if bitOf v.toNat 1 then readmitOp d p else d

/-- Ring number of a register at `base` + 0x20 × n of a RING page. -/
def ringOf (base off : Nat) : Option Nat :=
  if base ≤ off ∧ off < base + 0x200 ∧ (off - base) % 0x20 = 0 then some ((off - base) / 0x20) else none

/-- Registers of a RING page whose write acts at once. -/
def ringWrite (d : Dev) (b off : Nat) (v : W32) : Option Dev :=
  if off = 0x100 then some (ringCtlOp d b v)
  else if off = 0x104 then some (ringEnableOp d b v)
  else match ringOf 0x20C off, ringOf 0x40C off with
    | some i, _ => some (inTailOp d b i v)
    | none, some j => some (outHeadOp d b j v)
    | none, none => none

/-- The effect of a write to a register that acts at once; none for every other register. `flags` are the ownership flags
that the command which it starts reads (R384, R444). -/
def actWrite (s : State) (fn : Nat) (k : Blk) (i off : Nat) (v : W32) (flags : List W64) : Option State :=
  let act := fun (f : Dev → Dev) => some (onDev s f)
  match k, off with
  | .ripple, 0x100 => act (fun d => if fn = 0 then fireMask d v.toNat else d)
  | .ripple, 0x110 => act (tmoOp · v)
  | .pwr, 0x114 => act (pwrDeepOp · fn v)
  | .rst, 0x100 => some (rstCtlOp s fn v)
  | .rst, 0x110 => act (rstCoreOp · v)
  | .meas, 0x100 => some (measSelOp s v)
  | .meas, 0x104 => some (measLogSelOp s v)
  | .meas, 0x108 => some (measExtOp s fn v)
  | .fwp, 0x108 => act (fwpCtlOp · fn i v)
  | .fwp, 0x20C => act (updGoOp · fn v flags)
  | .ring, _ => (ringWrite s.dev i off v).map (fun d => { s with dev := d })
  | .mere, 0x204 => act (mereReadmitOp · i v)
  | .mere, 0x214 => act (mereMapOp · fn i v)
  | .flc, 0x114 => act (ldGo · ⟨flags, []⟩ v)
  | .flc, 0x148 => act (dieReadmitOp · v)
  | .ndl, 0x10C => act (ndlCtlOp · i v)
  | _, _ => none

/-- A write that is neither refused nor held lands. The same-cycle events of a W1C register are its own bits. -/
def writeReg (s : State) (fn : Nat) (k : Blk) (i off : Nat) (r : RegDef) (v : W32) (hw : List HwSet) (flags : List W64) : State :=
  match actWrite s fn k i off v flags with
  | some t => onDev t (hwOn · k i hw)
  | none =>
    if r.w1c ≠ 0 then onDev s (fun d => landWrite d k i off r v (hw.filter (fun h => bitOf r.w1c h.bit)))
    else onDev s (fun d => hwOn (landWrite d k i off r v []) k i hw)

/-- A 4-byte write through BAR0. -/
def hostWrite4 (s : State) (fn a : Nat) (v : W32) (hw : List HwSet) (flags : List W64) : State :=
  let page := a / 0x1000
  if !answers s.dev fn page then onDev s (hwPage · page hw)
  else
    let s := onDev s shoreAwake
    match writeTarget s.dev fn a with
    | .discard => onDev s (hwPage · page hw)
    | .bad => onDev s (fun d => hwPage (badAccess d) page hw)
    | .lockedOut => onDev s (fun d => hwPage (lockRefused d) page hw)
    | .reg k i off r =>
      if regLocked s.dev a then onDev s (fun d => hwOn { d with txn.held := d.txn.held ++ [⟨fn, a, v, flags⟩] } k i hw)
      else writeReg s fn k i off r v hw flags

/-- REG_WRITE (R102): an aligned 4-byte access, or an aligned 8-byte one as two, lower offset first. -/
def regWriteOp (s : State) (fn off size : Nat) (v : W64) (hw : List HwSet) : State :=
  if size = 4 ∧ off % 4 = 0 then hostWrite4 s fn off (v.setWidth 32) hw []
  else if size = 8 ∧ off % 8 = 0 then
    hostWrite4 (hostWrite4 s fn off (v.setWidth 32) hw []) fn (off + 4) ((v >>> 32).setWidth 32) [] []
  else onDev s (fun d => if answers d fn (off / 0x1000) then hwPage (badAccess d) (off / 0x1000) hw else hwPage d (off / 0x1000) hw)

/-- BAR2_WRITE (R66, R80): a PCIe write request lies within 4 KiB. -/
def bar2WriteOp (d : Dev) (fn off : Nat) (bs : List Byte) : Dev :=
  if !linkUp d fn || !isReady d || decide (bs = []) || decide (2 ^ 26 < off + bs.length) || decide (4096 < off % 4096 + bs.length) then d
  else bar2Op (shoreAwake d) fn off bs

/-- What a read through BAR2 returns (R66, R80): the block's content, which has no defined value while the module holds the
block; a window that the function does not reach reads zero. -/
def bar2Byte (d : Dev) (fn a : Nat) : Byte :=
  if !linkUp d fn || !isReady d || decide (2 ^ 26 ≤ a) || (decide (fn ≠ 0) && decide (basinState d fn = 0 ∨ basinState d fn = 3)) then 0
  else if isHeld d fn (a / 65536) then Config.heldByte (d.fresh + a)
  else Mem.read d.mem.shore (shoreAddr fn 0 a)

def bar2Read (d : Dev) (fn off n : Nat) : List Byte := (List.range n).map (fun i => bar2Byte d fn (off + i))

def put (s : State) (fn : Nat) (k : Blk) (i off : Nat) (v : W32) (flags : List W64 := []) : Host.Outcome State Fault Refusal :=
  okS (hostWrite4 s fn (regA k i off) v [] flags)

/-- The row's write, where its instance exists. -/
def putIf (c : Bool) (s : State) (fn : Nat) (k : Blk) (i off : Nat) (v : W32) : Host.Outcome State Fault Refusal :=
  if c then put s fn k i off v else okS s

/-- The words in error that the command of a write to FLC_LD_GO meets stay with it: with a command that has begun, or with a
write that waits. -/
def metByLoad (errs : List ReadError) (s t : State) : State :=
  if s.dev.flash.goWaits.length < t.dev.flash.goWaits.length then
    { t with dev.flash.goWaits := t.dev.flash.goWaits.dropLast ++ (t.dev.flash.goWaits.getLast?.map (fun w => (w.1, { w.2 with errs := errs }))).toList }
  else if s.dev.flash.load.isNone then { t with dev.flash.load := t.dev.flash.load.map (fun c => { c with errs := errs }) }
  else t

/-- A write of 1 to FLC_LD_GO while FLC_LD_OP names the row's operation. -/
def ldGoRow (op fn : Nat) (r : LoadReads) (s : State) : Host.Outcome State Fault Refusal :=
  if ldOp s.dev = op then okS (metByLoad r.errs s (hostWrite4 s fn (regA .flc 0 0x114) 1 [] r.flags)) else okS s

def execInTail (fn basin ring : Nat) (v : W32) (s : State) : Host.Outcome State Fault Refusal :=
  putIf (decide (basin < 64 ∧ ring < 16)) s fn .ring basin (0x20C + 0x20 * ring) v
def execOutHead (fn basin ring : Nat) (v : W32) (s : State) : Host.Outcome State Fault Refusal :=
  putIf (decide (basin < 64 ∧ ring < 16)) s fn .ring basin (0x40C + 0x20 * ring) v
def execRingEnable (fn basin : Nat) (v : W32) (s : State) : Host.Outcome State Fault Refusal := putIf (decide (basin < 64)) s fn .ring basin 0x104 v
def execApply (fn basin : Nat) (v : W32) (s : State) : Host.Outcome State Fault Refusal := putIf (decide (basin < 64)) s fn .ring basin 0x100 v
def execBar2Write (fn off : Nat) (bytes : List Byte) (s : State) : Host.Outcome State Fault Refusal := ok s (bar2WriteOp s.dev fn off bytes)
def execRegWrite (fn off size : Nat) (v : W64) (hw : List HwSet) (s : State) : Host.Outcome State Fault Refusal := okS (regWriteOp s fn off size v hw)
def execMeasSel (fn : Nat) (v : W32) (s : State) : Host.Outcome State Fault Refusal := put s fn .meas 0 0x100 v
def execMeasLogSel (fn : Nat) (v : W32) (s : State) : Host.Outcome State Fault Refusal := put s fn .meas 0 0x104 v
def execThermPeak (fn : Nat) (v : W32) (s : State) : Host.Outcome State Fault Refusal := put s fn .therm 0 0x11C v
def execRippleTmo (fn : Nat) (v : W32) (s : State) : Host.Outcome State Fault Refusal := put s fn .ripple 0 0x110 v
def execRippleFire (fn : Nat) (v : W32) (s : State) : Host.Outcome State Fault Refusal := put s fn .ripple 0 0x100 v
def execMereMap (fn m : Nat) (v : W32) (s : State) : Host.Outcome State Fault Refusal := putIf (decide (m < 4)) s fn .mere m 0x214 v
def execMereReadmit (fn m : Nat) (v : W32) (s : State) : Host.Outcome State Fault Refusal := putIf (decide (m < 4)) s fn .mere m 0x204 v
def execRstCore (fn : Nat) (v : W32) (s : State) : Host.Outcome State Fault Refusal := put s fn .rst 0 0x110 v
def execErrlogHead (fn : Nat) (v : W32) (s : State) : Host.Outcome State Fault Refusal := put s fn .errlog 0 0x104 v
def execMeasExtGo (fn : Nat) (v : W32) (s : State) : Host.Outcome State Fault Refusal := put s fn .meas 0 0x108 v
def execFwpUpdGo (fn : Nat) (v : W32) (flags : List W64) (s : State) : Host.Outcome State Fault Refusal := put s fn .fwp 0 0x20C v flags
def execRestart (fn n : Nat) (v : W32) (s : State) : Host.Outcome State Fault Refusal := putIf (decide (n < 6)) s fn .fwp n 0x108 v
def execPwrDeep (fn : Nat) (v : W32) (s : State) : Host.Outcome State Fault Refusal := put s fn .pwr 0 0x114 v
def execDeviceReset (fn : Nat) (v : W32) (s : State) : Host.Outcome State Fault Refusal := put s fn .rst 0 0x100 v
def execRetrain (fn port : Nat) (v : W32) (s : State) : Host.Outcome State Fault Refusal := putIf (decide (port < 8)) s fn .ndl port 0x10C v
def execReadmit (fn port : Nat) (v : W32) (s : State) : Host.Outcome State Fault Refusal := putIf (decide (port < 8)) s fn .ndl port 0x10C v
def execFlcDieReadmit (fn : Nat) (v : W32) (s : State) : Host.Outcome State Fault Refusal := put s fn .flc 0 0x148 v
def execFlashWrite (fn : Nat) (r : LoadReads) (s : State) : Host.Outcome State Fault Refusal := ldGoRow 1 fn r s
def execFlashRead (fn : Nat) (flags : List W64) (s : State) : Host.Outcome State Fault Refusal := ldGoRow 2 fn ⟨flags, []⟩ s
def execCopyIn (fn : Nat) (r : LoadReads) (s : State) : Host.Outcome State Fault Refusal := ldGoRow 3 fn r s
def execCopyOut (fn : Nat) (r : LoadReads) (s : State) : Host.Outcome State Fault Refusal := ldGoRow 4 fn r s
def execTrim (fn : Nat) (s : State) : Host.Outcome State Fault Refusal := ldGoRow 5 fn ⟨[], []⟩ s
def execFlush (fn : Nat) (s : State) : Host.Outcome State Fault Refusal := ldGoRow 6 fn ⟨[], []⟩ s

end Sys2Proof.Machine
end

