-- ==== Sys2Proof/Machine/Apply.lean ====
section
/-! DEFINITION. Safe boundaries and the apply of staged values (R105, R110–R113), the slow threshold (R111), the scrub of
TMR fields (R116–R118). -/

namespace Sys2Proof.Machine

/-- The page's power domain sleeps, so the page is at its safe boundary (R113). -/
def asleep (d : Dev) (k : Blk) (i : Nat) : Bool :=
  match k with
  | .spr => false
  | .mere | .hbm | .gath | .msort | .sync | .weir | .dbuf | .core => decide (1 ≤ domState d (k.mereOf i))
  | _ => decide (1 ≤ domState d 4)

/-- The value that an arming holds for a register, or its live value. -/
def valueIn (d : Dev) (vals : List (Nat × W32)) (a : Nat) : W32 :=
  match vals.find? (fun v => decide (v.1 = a)) with
  | some v => v.2
  | none => live d a

/-- GATH BLK_CTL.CACHE_EN goes from 1 to 0. -/
def cacheOff (d : Dev) (i : Nat) (vals : List (Nat × W32)) : Bool :=
  ctlBit d .gath i 1 && !bitOf (valueIn d vals (regA .gath i 0x10)).toNat 1

/-- The safe boundary of a page (Table 4-1): no unit of its work is in progress. -/
def atBoundary (d : Dev) (k : Blk) (i : Nat) (vals : List (Nat × W32)) : Bool :=
  asleep d k i ||
  match k with
  | .ring => ringBoundary d i vals
  | .pwr => (List.range 5).all (fun m => !domMoving d m)
  | .clk => decide (d.power.relock = []) && (List.range 5).all (fun m => !domMoving d m)
  | .walk => !d.reqs.any (fun r => r.walk.isSome)
  | .gen => decide (d.eng.passes = [])
  | .flc => d.flash.load.isNone
  | .weir => d.eng.passes.all (fun p => decide (p.written ≤ p.landed))
  | .gath => !d.eng.gaths.any (fun g => decide (g.unit = i ∧ (g.phase = .summed ∨ g.phase = .applyHeld))) && !(cacheOff d i vals && rowsHeld d)
  | .mere => match gangOn d i with
    | some c => c.cores.all (fun k => k.tiles.all (fun o => !o.started))
    | none => true
  | .core => !coreBusy d i
  | .sort => !d.eng.sorts.any (fun c => c.running && decide (c.unit = 0))
  | .msort => !d.eng.sorts.any (fun c => c.running && decide (c.unit = 1 + i))
  | _ => true

/-! ### What an apply does beside writing the live copies -/

/-- CLK (R426): a new frequency relocks the PLL; a bad one is not applied. -/
def applyClk (d : Dev) (vals : List (Nat × W32)) : Dev :=
  (List.range 4).foldl (fun d m =>
    let a := regA .clk 0 (0x100 + 4 * m)
    let v := (valueIn d vals a).toNat
    if v = (live d a).toNat then d
    else if 250 ≤ v ∧ v ≤ 1000 ∧ v % 25 = 0 then
      let d := setLiveN d .clk 0 (0x100 + 4 * m) v
      if domState d m < 2 then { d with power.relock := d.power.relock.filter (fun x => !decide (x = m)) ++ [m] } else d
    else setStat d .clk 0 0 0 noTag (BitVec.ofNat 32 (1 + m))) d

/-- SPR (R423): an entry that can never fire. -/
def applySpr (d : Dev) (vals : List (Nat × W32)) : Dev :=
  let d := landValues d vals
  (List.range 32).foldl (fun d e =>
    let w := wakeEntry d e
    if w.period ≠ 0 ∧ w.period ≤ w.lead then setStat d .spr 0 1 0 noTag (BitVec.ofNat 32 e) else d) d

/-- ERRLOG_CFG (R400): EN is not applied where the blocks go past the window. -/
def applyErrlog (d : Dev) (vals : List (Nat × W32)) : Dev :=
  let a := regA .errlog 0 0x100
  let v := (valueIn d vals a).toNat
  let n := bitsOf v 20 16
  let fits := decide (1 ≤ n ∧ n ≤ 16 ∧ v % 1024 + n ≤ 1024)
  let old := (live d a).toNat
  let new := if !bitOf v 31 ∨ fits then v else if bitOf old 31 then old else v % 2 ^ 31
  if new = old then d
  else setLiveN (setLiveN (setLiveN d .errlog 0 0x100 new) .errlog 0 0x104 0) .errlog 0 0x108 0x10000

/-- DBUF_PART (R377). -/
def applyDbuf (d : Dev) (i : Nat) (vals : List (Nat × W32)) : Dev :=
  let v := (valueIn d vals (regA .dbuf i 0x100)).toNat
  if v % 32 + bitsOf v 12 8 ≤ 30 then landValues d vals else setStat d .dbuf i 0 0 noTag (BitVec.ofNat 32 v)

/-- A valid level-2 entry of some basin has TIER 1. -/
def poolInUse (d : Dev) : Bool := (List.range 64).any (fun b => decide (mappedPages d b true ≠ []))

def devGib (d : Dev) (q : Nat) : Nat := liveN d .fab q 0x100 / 256

/-- A FAB_MAP value that R447 or R448 refuses. -/
def mapBad (d : Dev) (v : Nat) : Bool :=
  let s0 := bitsOf v 14 0
  let s1 := bitsOf v 30 16
  decide (devGib d 0 < s0 ∨ devGib d 1 < s1 ∨ 16384 < s0 + s1) || (bitOf v 15 && decide (s0 ≠ s1)) ||
  decide ((s0 + s1) * 16384 < ((List.range 64).map (qPool d)).sum)

/-- FAB (R448). -/
def applyFab (d : Dev) (i : Nat) (vals : List (Nat × W32)) : Dev :=
  let a := regA .fab 0 0x104
  let v := (valueIn d vals a).toNat
  let rest := vals.filter (fun x => !decide (x.1 = a))
  if i ≠ 0 ∨ v = (live d a).toNat then landValues d rest
  else if poolInUse d then setStat (landValues d rest) .fab 0 3
  else if mapBad d v then setStat (landValues d rest) .fab 0 4
  else landValues { d with links.poolMapped := d.links.poolMapped || decide (bitsOf v 14 0 + bitsOf v 30 16 ≠ 0) } vals

/-- CORE: OFFLINE gives up the grid position; a core that leaves it becomes a free spare (R408, R409), and keeps nothing of what a
debugger left in it (R483). -/
def applyCore (d : Dev) (i : Nat) (vals : List (Nat × W32)) : Dev :=
  let was := isOffline d i
  let d0 := d
  let d := landValues d vals
  if isOffline d i && !was then spareOut d0 (vacate d i) i
  else if was && !isOffline d i then wantSpare { d with jobs.debugged := d.jobs.debugged.filter (fun x => !decide (x.1 = i)) } (i / 264)
  else d

def applyVals (d : Dev) (k : Blk) (i : Nat) (vals : List (Nat × W32)) : Dev :=
  match k with
  | .clk => applyClk d vals
  | .spr => applySpr d vals
  | .errlog => applyErrlog d vals
  | .dbuf => applyDbuf d i vals
  | .fab => applyFab d i vals
  | .core => applyCore d i vals
  | .mere => wantSpare (landValues d vals) i
  | .ring => ringRestart (landValues d vals) d i vals
  | .gath => if cacheOff d i vals then landValues (cleanRows d (fun _ => true)) vals else landValues d vals
  | _ => landValues d vals

/-- The page's arming has been applied or withdrawn: waiting armings capture, and its fires count it. -/
def armingDone (d : Dev) (a : Arming) : Dev :=
  let d := { d with regs.armed := d.regs.armed.filter (fun x => !decide (x.page = a.page)) }
  a.groups.foldl (fun d g => memberDone d a.page g) (releaseWaiting d a.page)

/-- Work that an armed page held starts under the new values (R112): wakes at PWR and CLK, load commands at FLC,
sorts. -/
def startHeld (d : Dev) (k : Blk) : Dev :=
  match k with
  | .pwr | .clk => releaseWakes d
  | .flc => releaseGo d
  | .sort | .msort => startSorts 40 d
  | _ => d

/-- An armed page reaches its safe boundary and applies. SPR does so at the next slow tick. -/
def blockApplyOp (d : Dev) (page : Nat) : Dev :=
  match pageOf page, d.regs.armed.find? (fun a => decide (a.page = page)) with
  | some (k, i), some a =>
    if !atBoundary d k i a.values then d
    else
      let d := if k = .spr then advanceTo d (tickCycle (d.now * 16 / 390625 + 1)) else d
      startHeld (armingDone (applyVals d k i a.values) a) k
  | _, _ => d

/-- RING_APPLY (R76). -/
def ringApplyOp (d : Dev) (b : Nat) : Dev := if b < 64 then blockApplyOp d (pageNo .ring b) else d

/-- A page's waiting armings are withdrawn and count as applied (R99). -/
def withdrawArming (d : Dev) (page : Nat) : Dev :=
  let mine := d.regs.waiting.filterMap (fun w => if w.1 = page then w.2 else none)
  let armed := d.regs.armed.find? (fun a => decide (a.page = page))
  let d := { d with regs.armed := d.regs.armed.filter (fun x => !decide (x.page = page)),
                    regs.waiting := d.regs.waiting.filter (fun w => !decide (w.1 = page)) }
  ((match armed with | some a => a.groups | none => []) ++ mine).foldl (fun d g => memberDone d page g) d

/-- RIPPLE_SLOW (R111): the fire reaches the threshold. -/
def rippleSlowOp (d : Dev) (g laggard : Nat) : Dev :=
  let tmo := liveN d .ripple 0 0x110 % 2 ^ 24
  match d.regs.fires.find? (fun f => decide (f.group = g)) with
  | none => d
  | some f =>
    if tmo = 0 ∨ f.slow ∨ !f.members.contains laggard then d
    else setSlow (advanceTo d (f.start + usCycles tmo)) g laggard

/-- Bits of one stored copy of a TMR register change. -/
def flipReg (d : Dev) (f : TmrFlip) : Dev :=
  let m := (tmrFields f.off).foldl (fun m x => m ||| BitVec.ofNat 32 (fieldMask x.1 x.2)) (0 : W32)
  let x := f.bits &&& m
  let a := if f.staged then SMap.get regReset d.regs.staged f.off else SMap.get regReset d.regs.live f.off
  let t := match copiesOf d f.staged f.off with | some t => t | none => ⟨f.off, f.staged, a, a⟩
  let t := match f.copy with | 1 => { t with b := t.b ^^^ x } | 2 => { t with c := t.c ^^^ x } | _ => t
  let others := d.regs.tmr.filter (fun y => !(decide (y.off = f.off) && y.staged == f.staged))
  let d := { d with regs.tmr := others ++ [t] }
  if f.copy ≠ 0 then d
  else if f.staged then { d with regs.staged := SMap.set regReset d.regs.staged f.off (a ^^^ x) }
  else { d with regs.live := SMap.set regReset d.regs.live f.off (a ^^^ x) }

/-- FLC_DIE_STATE, whose EPOCH is a TMR field of each die (Table 17-8). -/
def dieReg : Nat := regA .flc 0 0x144

/-- Bits [31:16] of one stored copy of a die's epoch change. -/
def flipDie (d : Dev) (f : TmrFlip) : Dev :=
  let x := f.bits.toNat / 65536
  let a := (dieRaw d f.die).epoch
  let (b, c) := (dieCopies d f.die).getD (a, a)
  match f.copy with
  | 0 => putDie d f.die { (dieRaw d f.die) with epoch := a ^^^ x } (some (b, c))
  | 1 => putDie d f.die (dieRaw d f.die) (some (b ^^^ x, c))
  | _ => putDie d f.die (dieRaw d f.die) (some (b, c ^^^ x))

/-- Bits of one stored copy of a TMR field change. -/
def flipCopy (d : Dev) (f : TmrFlip) : Dev := if f.off = dieReg then flipDie d f else flipReg d f

/-- A flip names a stored copy of a TMR field. -/
def flipOk (f : TmrFlip) : Bool :=
  if f.off = dieReg then decide (f.copy < 3 ∧ f.die < 256) && !f.staged else
  decide (f.copy < 3) && decide (tmrFields f.off ≠ []) && (match regDef f.off with | some r => !f.staged || decide (r.rws ≠ 0) | none => false)

/-- TMR_SCRUB (R118): what changed since the last vote, then a vote of every field whose copies differ. -/
def tmrScrubOp (d : Dev) (flips : List TmrFlip) : Dev :=
  let e := (flips.filter flipOk).foldl flipCopy d
  let e := e.regs.tmr.foldl (voteCopies d) e
  (e.flash.dieTmr.map (·.1)).foldl (voteDie d) e

def execBlockApply (page : Nat) (s : State) : Host.Outcome State Fault Refusal := ok s (blockApplyOp s.dev page)
def execRingApply (basin : Nat) (s : State) : Host.Outcome State Fault Refusal := ok s (ringApplyOp s.dev basin)
def execRippleSlow (group laggard : Nat) (s : State) : Host.Outcome State Fault Refusal := ok s (rippleSlowOp s.dev group laggard)
def execTmrScrub (flips : List TmrFlip) (s : State) : Host.Outcome State Fault Refusal := ok s (tmrScrubOp s.dev flips)

end Sys2Proof.Machine
end

