-- ==== Sys2Proof/Machine/Basins.lean ====
section
/-! DEFINITION. Basin operations (R42–R46, R49, R55, R57, R126), function-level resets (R99, R100), NumVFs and VF Enable
(R42, R43). -/

namespace Sys2Proof.Machine

/-! ### Words that leave no trace -/

/-- Zero a translation table (R126). -/
def zeroTable (d : Dev) (base : Nat) : Dev :=
  let here := fun (a : Nat) => decide (base ≤ a ∧ a < base + 0x40000)
  { d with mem.xlat := SMap.drop here d.mem.xlat, mem.poison := d.mem.poison.filter (fun p => !(decide (p.1 = .hbm) && here (p.2 * 8))) }

/-- Zero a page, of the pool or of HBM (R45); no basin owns it. -/
def zeroPage (d : Dev) (pool : Bool) (page : Nat) : Dev :=
  let lo := page * 65536
  let hi := lo + 65536
  let at' := if pool then poolDev d lo else lo
  let d := clearPoison d (if pool then .pool else .hbm) at' (at' + 65536)
  let d := { d with mem.owner := SMap.set (fun _ => 0) d.mem.owner (if pool then 2 ^ 32 + page else page) 0 }
  if pool then { d with mem.pool := Mem.clear d.mem.pool at' (at' + 65536) } else { d with mem.hbm := Mem.clear d.mem.hbm lo hi }

/-- Forget what the engines cache of versions (R158, R208, R375). -/
def dropCaches (d : Dev) (p : Nat → Bool) : Dev :=
  { d with eng.nodeCache := d.eng.nodeCache.filter (fun c => !p c.1),
           eng.rowCache := d.eng.rowCache.filter (fun c => !p c.1), eng.rowWrites := d.eng.rowWrites.filter (fun c => !p c.1),
           eng.rowsHeld := d.eng.rowsHeld.filter (fun c => !p c.1),
           eng.prefetch := d.eng.prefetch.filter (fun c => !p c.2.1) }

/-! ### Halting (R43) -/

/-- The requests of a basin are due to end with BASIN_HALTED. -/
def dueHalted (d : Dev) (b : Nat) (silent : Bool) : Dev :=
  { d with reqs := modWhere (fun r => decide (r.basin = b) && r.live)
                     (fun r => { r with due := r.due ++ [0x51], silent := r.silent || silent }) d.reqs }

/-- Neither completion nor flag is written any more: every block is host-owned, and the tag of a request that has ended is
released. -/
def silenceBasin (d : Dev) (b : Nat) : Dev :=
  let d := { d with
    host.held := d.host.held.filter (fun h => !decide (h.basin = b)),
    host.comps := d.host.comps.filter (fun c => !decide (c.basin = b)),
    host.coal := d.host.coal.filter (fun c => !decide (c.basin = b)),
    reqs := d.reqs.filter (fun r => !(decide (r.basin = b) && !r.live)) }
  settle (dueHalted d b true)

/-- Halt without a word, by a function-level reset (2) or by NumVFs (3), an ACTIVE or HALTED basin. -/
def haltSilent (d : Dev) (b cause : Nat) : Dev :=
  if b ≠ 0 ∧ (basinState d b = 1 ∨ basinState d b = 2) then silenceBasin (setBasin d b 2 cause) b else d

/-- A basin's RING page returns to its reset values, its arming is withdrawn (R99, R100). -/
def resetRing (d : Dev) (b : Nat) : Dev :=
  let p := pageNo .ring b
  let here := fun (a : Nat) => decide (a / 0x1000 = p)
  let d := withdrawArming d p
  { d with regs.live := SMap.drop here d.regs.live, regs.staged := SMap.drop here d.regs.staged,
           regs.tmr := d.regs.tmr.filter (fun t => !here t.off), regs.pendingPages := d.regs.pendingPages.filter (fun x => !decide (x = p)),
           host.lastRing := SMap.erase d.host.lastRing b,
           host.failed := d.host.failed.filter (fun x => !decide (x.1 = b)) }

/-- FLR_VF (R99). -/
def flrVfOp (d : Dev) (n : Nat) : Dev :=
  if !configAnswers d ∨ n = 0 ∨ d.host.numVFs < n then d
  else
    let d := resetRing (haltSilent d n 2) n
    { d with host.held := d.host.held.filter (fun h => !decide (h.basin = n)),
             host.comps := d.host.comps.filter (fun c => !decide (c.basin = n)),
             host.coal := d.host.coal.filter (fun c => !decide (c.basin = n)),
             host.waitVec := d.host.waitVec.filter (fun v => !decide (v.1 = n)) }

/-- The host disables VF n and every VF above it (R43). -/
def numVfsOp (d : Dev) (n : Nat) : Dev :=
  if !configAnswers d ∨ n = 0 ∨ d.host.numVFs < n then d
  else ((List.range 64).filter (fun b => decide (n ≤ b ∧ b ≤ d.host.numVFs))).foldl (fun d b => haltSilent d b 3)
    { d with host.numVFs := n - 1 }

/-- A vector is masked, or unmasked, whose pending message is then sent (R68). -/
def maskVector (d : Dev) (fn vec : Nat) (on : Bool) : Dev :=
  let others := d.host.masked.filter (fun x => !decide (x = (fn, vec)))
  if on then { d with host.masked := others ++ [(fn, vec)] }
  else
    let waits := d.host.waitVec.contains (fn, vec)
    { d with host.masked := others, host.waitVec := d.host.waitVec.filter (fun x => !decide (x = (fn, vec))),
             host.msix := if waits then d.host.msix ++ [(fn, vec)] else d.host.msix }

/-- VF_ENABLE: VF n, and every VF below it, is enabled; SR-IOV needs ARI (Table 3-1). The host's other settings of configuration
space come with it: ARI, and mask bits of vectors. DESIGN CHOICE (log 179). -/
def vfEnableOp (d : Dev) (n : Nat) (ari : Bool) (masks : List (Nat × Nat × Bool)) : Dev :=
  if !configAnswers d ∨ 64 ≤ n then d
  else
    let d := masks.foldl (fun d m => maskVector d m.1 m.2.1 m.2.2) { d with host.ari := ari }
    if ari then { d with host.numVFs := max d.host.numVFs n } else d

def vfEnabled (d : Dev) (n : Nat) : Bool := decide (n ≤ d.host.numVFs)

/-- The part of FLR_PF0 that is not the TXN engine's (R100). -/
def flrPf0Op (d : Dev) : Dev :=
  let d := ((List.range 64).filter (fun b => decide (b ≠ 0 ∧ basinState d b = 1))).foldl (fun d b => haltSilent d b 3)
    { d with host.numVFs := 0, host.masked := [], host.waitVec := [] }
  let a := regA .errlog 0 0x100
  resetRing (setStaged (setLive (silenceBasin d 0) a (regReset a)) a (regReset a)) 0

/-! ### Basin parameter records (Table 5-4) -/

structure Params where
  /-- Quotas in the order of their registers. -/
  q : List Nat
  weight : Nat
  attr : Nat
  root : Nat
  /-- Reserved bytes are zero and WEIGHT and ATTR are in range. -/
  ok : Bool

def parseParams (x : List Byte) : Params :=
  { q := (List.range 5).map (fun i => fieldN x (4 * i) 4), weight := fieldN x 20 2, attr := byteAt x 22, root := fieldN x 24 8,
    ok := decide (1 ≤ fieldN x 20 2 ∧ fieldN x 20 2 ≤ 4096 ∧ byteAt x 22 < 16) && zeroAt x 23 1 && zeroAt x 32 32 }

def quotaOffs : List Nat := [0x120, 0x124, 0x128, 0x12C, 0x130]

/-- Write quotas, weight and attributes. -/
def setParams (d : Dev) (b : Nat) (p : Params) : Dev :=
  let d := (quotaOffs.zip p.q).foldl (fun d x => setLiveN d .bsn b x.1 x.2) d
  setLiveN (setLiveN d .bsn b 0x108 p.weight) .bsn b 0x104 p.attr

/-- What FWP1 records of a basin (R46). -/
def basinRecord (d : Dev) (b : Nat) : List Nat :=
  [0x104, 0x108, 0x110, 0x114, 0x120, 0x124, 0x128, 0x12C, 0x130].map (liveN d .bsn b)

/-- Record a basin for a TXN request; until its completion is written a device reset may lose it (R429). -/
def recordBasin (d : Dev) (b slot : Nat) : Dev :=
  let old := match d.flash.records.find? (fun r => decide (r.1 = b)) with | some r => r.2 | none => []
  { d with flash.records := d.flash.records.filter (fun r => !decide (r.1 = b)) ++ [(b, basinRecord d b)],
           txn.unsure := d.txn.unsure ++ [(slot, b, old)] }

/-! ### The operations (Table 2-3): the state after, or the abort code -/

/-- A table place of the translation area (R485). -/
def tablePlace (a : Nat) : Bool := decide (a % 0x40000 = 0 ∧ 0x4010000000 ≤ a ∧ a < 0x4060000000)

/-- Level-1 tables of the basins. -/
def roots (d : Dev) : List Nat := ((List.range 64).map (xlatRoot d)).filter (fun r => decide (r ≠ 0))

/-- A valid level-1 entry of any basin, other than the one at `skip`, names the table. -/
def tableNamed (d : Dev) (t skip : Nat) : Bool :=
  (roots d).any (fun r => (validEntries d r).any (fun e => decide (e.1 ≠ skip ∧ e.2 / 0x40000 * 0x40000 = t)))

def opCreate (d : Dev) (b slot : Nat) (p : Params) : Except Nat Dev :=
  if basinState d b ≠ 0 || !vfEnabled d b || !p.ok || decide (p.q.getD 0 0 < 1024) || !tablePlace p.root || (roots d).contains p.root ||
     tableNamed d p.root 0 then .error 1
  else
    let d := setParams (zeroTable d p.root) b p
    let d := setLiveN (setLiveN d .bsn b 0x110 (p.root % 2 ^ 32)) .bsn b 0x114 (p.root / 2 ^ 32)
    let d := newKey d b
    .ok (recordBasin (setBasin (setLiveN d .bsn b 0x118 (2 ^ 31 + b)) b 1 0) b slot)

def opSet (d : Dev) (b slot : Nat) (p : Params) : Except Nat Dev :=
  if !decide (basinState d b = 1 ∨ basinState d b = 2) || !p.ok || decide (p.root ≠ 0) then .error 1
  else if basinAttr d b 0 && !bitOf p.attr 0 && (installedProfiles d b).any (fun x => decide (Prof.spec x = 2)) then .error 1
  else if p.q.getD 2 0 < qFlash d b ∧ p.q.getD 2 0 * 2 ^ 30 < nsEnd d b then .error 4
  else .ok (recordBasin (setParams d b p) b slot)

def opHalt (d : Dev) (b : Nat) : Except Nat Dev :=
  if basinState d b ≠ 1 then .error 1 else .ok (settle (dueHalted (setBasin d b 2 1) b false))

def opResume (d : Dev) (b : Nat) : Except Nat Dev :=
  if basinState d b ≠ 2 || !vfEnabled d b then .error 1 else .ok (setBasin d b 1 0)

/-- What a destroyed basin held on flash is gone with its key. -/
def dropNamespace (d : Dev) (b : Nat) : Dev :=
  let here := fun (a : Nat) => decide (b * 2 ^ 50 ≤ a ∧ a < (b + 1) * 2 ^ 50)
  let mine := fun (s : Nat × Nat) => decide (s.1 = b)
  let d := clearPoison d .ns (nsKey b 0) (nsKey (b + 1) 0)
  { d with mem.flash := SMap.drop here d.mem.flash, mem.wcache := SMap.drop here d.mem.wcache,
           mem.dirty := d.mem.dirty.filter (!mine ·), mem.unreadable := d.mem.unreadable.filter (!mine ·),
           mem.alloc := d.mem.alloc.filter (!mine ·), mem.place := d.mem.place.filter (fun s => !decide (s.1 = b)),
           flash.wrapped := d.flash.wrapped.filter (fun k => !decide (k.1 = b)), flash.slots := d.flash.slots.filter (fun k => !decide (k.1 = b)),
           flash.records := d.flash.records.filter (fun r => !decide (r.1 = b)),
           txn.unsure := d.txn.unsure.filter (fun u => !decide (u.2.1 = b)) }

def opDestroy (d : Dev) (b : Nat) : Except Nat Dev :=
  if basinState d b ≠ 2 || decide (useTags d b ≠ 0) then .error 1
  else
    let hbm := useHbm d b - 1024
    let pool := usePool d b
    let d := (mappedPages d b true).foldl (fun d p => zeroPage d true p) ((mappedPages d b false).foldl (fun d p => zeroPage d false p) d)
    let d := dropCaches d (fun u => match findVer d u with | some v => decide (v.basin = b) | none => false)
    let w := shoreAddr b 0 0
    let d := clearPoison { d with mem.shore := Mem.clear d.mem.shore w (w + 2 ^ 26) } .shore w (w + 2 ^ 26)
    let d := { d with txn.versions := d.txn.versions.filter (fun v => !decide (v.basin = b)),
                      eng.handles := d.eng.handles.filter (fun h => !decide (h.basin = b)),
                      mem.zeroing := d.mem.zeroing ++ [(b, hbm, pool)] }
    let d := setLiveN (setLiveN (setLiveN (dropNamespace d b) .bsn b 0x110 0) .bsn b 0x114 0) .bsn b 0x118 0
    .ok (setBasin d b 3 0)

/-- BASIN_ZERO_DONE (R45): the basin holds nothing more. -/
def zeroDoneOp (d : Dev) (b : Nat) : Dev :=
  if b = 0 ∨ 64 ≤ b ∨ basinState d b ≠ 3 then d
  else
    let d := { d with mem.zeroing := d.mem.zeroing.filter (fun z => !decide (z.1 = b)) }
    setBasin (setParams d b ⟨[0, 0, 0, 0, 0], 0, 0, 0, true⟩) b 0 0

def execBasinZeroDone (n : Nat) (s : State) : Host.Outcome State Fault Refusal := ok s (zeroDoneOp s.dev n)
def execFlrVf (n : Nat) (s : State) : Host.Outcome State Fault Refusal := ok s (flrVfOp s.dev n)
def execNumvfsLower (n : Nat) (s : State) : Host.Outcome State Fault Refusal := ok s (numVfsOp s.dev n)
def execVfEnable (n : Nat) (ari : Bool) (masks : List (Nat × Nat × Bool)) (s : State) : Host.Outcome State Fault Refusal :=
  ok s (vfEnableOp s.dev n ari masks)

/-! ### Retirement (R138, R152, R160) -/

/-- A request that holds its tag pins the version. -/
def pinsVersion (r : Req) (uid : Nat) : Bool :=
  let p := r.pins
  ([p.profile, p.index, p.tmpl, p.grammar, p.enc, p.rr, p.gen, p.fb].filterMap id ++ p.tables).contains uid

/-- VERSION_RETIRE: the version, or with `state` not 0 the bitmap state that commit made. Dirty rows of a table go to the
pool first (Table 16-8). -/
def retireOp (d : Dev) (uid state : Nat) : Dev :=
  match findVer d uid with
  | none => d
  | some v =>
    if state = 0 then
      if v.superseded.isNone || v.retired || d.reqs.any (pinsVersion · uid) ||
         (decide (v.cls = 1) && d.eng.rowCache.any (fun e => decide (e.1 = uid) && rowHeld d e)) then d
      else
        let d := dropCaches (advanceTo d v.keepUntil) (fun u => decide (u = uid))
        modVer (dropModel d uid) uid (fun v => { v with retired := true, resident := false, loading := false, bits := v.bits.map (fun s => { s with retired := true }) })
    else
      match v.bits.find? (fun s => decide (s.commit = state)) with
      | none => d
      | some s =>
        if s.superseded.isNone || s.retired || d.reqs.any (fun r => r.bits.contains (uid, state)) then d
        else modVer (advanceTo d s.keepUntil) uid (fun v => { v with bits := modWhere (fun s => decide (s.commit = state)) (fun s => { s with retired := true }) v.bits })

def execVersionRetire (uid state : Nat) (s : State) : Host.Outcome State Fault Refusal := ok s (retireOp s.dev uid state)

end Sys2Proof.Machine
end

