-- ==== Sys2Proof/Machine/Tap.lean ====
section
/-! DEFINITION. The TAP: identity, boundary scan and core debug (R482, R483). -/

namespace Sys2Proof.Machine

/-! ### Scans -/

/-- The shore is powered, in S0 to S2 (R482). -/
def tapOn (d : Dev) : Bool := decide (d.power.rails = .good)

/-- The low n bits of a number, the lowest first, as a scan shifts them out. -/
def scanBits (n v : Nat) : List Bool := (List.range n).map (bitOf v)

/-- The capture value of the instruction register (R482). -/
def irCapture : List Bool := scanBits 8 1

/-- The 32 bits of IDCODE (Table 21-18). -/
def idcodeWord : W32 := 0x11024347

/-- The single-ended contacts in the boundary-scan register, in the order of Table 21-6. -/
def scanCells : Nat := 15

/-- The levels of those contacts: PWR_EN, PWR_GOOD, PERST#, WAKE#, ALERT#, THERMTRIP#, SMB_CLK, SMB_DAT, SMB_ADDR0, SMB_ADDR1,
CLKREQ#, CXL0_PERST#, CXL1_PERST#, CXL0_PRSNT#, CXL1_PRSNT#. Those that nothing in the state gives are free. -/
def contacts (d : Dev) : List Bool :=
  let p := d.power
  let free := fun (i : Nat) => Config.contact (d.fresh + i)
  [p.pwrEn || p.riseWaits, p.pwrGood, !p.perst, decide (p.wakePins = []) && !p.wakeResume, !alertLow d, !p.tripped, free 0, free 1, free 2, free 3,
   free 4, p.cxlReleased.contains 0, p.cxlReleased.contains 1, decide (Config.poolGib 0 = 0), decide (Config.poolGib 1 = 0)]

/-- EXTEST, HIGHZ and CLAMP act only while PERST# is asserted, else as BYPASS (R483). -/
def tapActs (s : State) : Nat := if [3, 4, 5].contains s.tap.ir && !s.dev.power.perst then 0xFF else s.tap.ir

/-- What the register that the instruction selects captures: the identity, the contacts, or the bypass bit, which captures 0. -/
def drCapture (s : State) : List Bool :=
  match tapActs s with
  | 1 => scanBits 32 idcodeWord.toNat
  | 2 | 3 => contacts s.dev
  | _ => [false]

/-- An instruction is scanned in, and the register that it selects is scanned out. -/
def setIr (s : State) (ir : Nat) : State :=
  if !tapOn s.dev then s
  else
    let s := { s with tap := { s.tap with ir := ir, irOut := irCapture } }
    onDev { s with tap.drOut := drCapture s } (fun d => if [2, 3].contains (tapActs s) then { d with fresh := d.fresh + 5 } else d)

/-- TRST# or five cycles of TMS: IDCODE is selected. -/
def trstOp (s : State) : State := if tapOn s.dev then { s with tap := { s.tap with ir := 1, debug := none } } else s

/-- SAMPLE/PRELOAD: the contacts are captured, and the cells are loaded. -/
def sampleOp (s : State) (bits : List Bool) : State :=
  if tapOn s.dev then { setIr s 2 with tap := { (setIr s 2).tap with boundary := (List.range scanCells).map (fun i => bits.getD i false) } } else s

/-! ### Core debug (R483) -/

/-- An OFFLINE core as a debugger left it, and whether it runs: at first in the state of R316, halted. DESIGN CHOICE (log 199). -/
def debugCore (d : Dev) (i : Nat) : CoreSt × Bool :=
  match d.jobs.debugged.find? (fun x => decide (x.1 = i)) with
  | some x => x.2
  | none => (freshCore 0, false)

def setDebug (d : Dev) (i : Nat) (k : CoreSt) (runs : Bool) : Dev :=
  { d with jobs.debugged := d.jobs.debugged.filter (fun x => !decide (x.1 = i)) ++ [(i, k, runs)] }

/-- The context in which a core under debug executes: no basin, no memory, no other core. -/
def debugCtx (d : Dev) (i : Nat) (k : CoreSt) : Ctx :=
  { id := d.eng.nextId, slot := 2 ^ 20, basin := 64, set := d.eng.nextId, prio := 0, pipe := false, gang := false, image := 0, phase := .running,
    mere := i / 264, place := [i], started := d.now, nCores := 1, dbufBytes := 0, inLen := 0, outCap := 0, dbuf := [], sems := [], semWait := [],
    arrived := [], bound := [], spilled := [], mbox := [], cores := [k], fault := none, link := none, joined := true, moved := false, away := false }

/-- The core after one bundle: of all that the bundle does, only what it does to the core remains; one that would fault does
nothing. -/
def debugStep (d : Dev) (i : Nat) (k : CoreSt) : CoreSt :=
  let c := debugCtx d i k
  if k.ended then k
  else match findCtx (bundleAt ⟨{ d with jobs.ctxs := d.jobs.ctxs ++ [c] }, c, 0, k⟩) c.id with
    | some c' => if c'.fault.isSome then k else (coreAt c' 0).getD k
    | none => k

/-- Bytes of a register, the lowest first. -/
def debugRead (k : CoreSt) : DebugReg → List Byte
  | .x n => natLe 8 (xr k n).toNat
  | .v n => natLe 128 (vr k n).toNat
  | .p n => natLe 4 (pr k n).toNat
  | .t n => natLe 16 (SMap.get (fun _ => 0) k.t n).toNat
  | .acc a n => natLe 4 (SMap.get (fun _ => 0) k.acc (1024 * a + n)).toNat
  | .pc => natLe 4 k.pc

def debugWrite (k : CoreSt) (r : DebugReg) (bs : List Byte) : CoreSt :=
  let v := leNat bs
  match r with
  | .x n => setX k n (BitVec.ofNat 64 v)
  | .v n => { k with v := SMap.set (fun _ => 0) k.v n (BitVec.ofNat 1024 v) }
  | .p n => { k with p := SMap.set (fun _ => 0) k.p n (BitVec.ofNat 32 v) }
  | .t n => { k with t := SMap.set (fun _ => 0) k.t n (BitVec.ofNat 128 v) }
  | .acc a n => { k with acc := SMap.set (fun _ => 0) k.acc (1024 * a + n) (BitVec.ofNat 32 v) }
  | .pc => { k with pc := v % 2 ^ 19 }

/-- A debugger's tarn bytes: their frames are then valid and may be executed. DESIGN CHOICE (log 199). -/
def debugTarn (k : CoreSt) (a : Nat) (bs : List Byte) : CoreSt :=
  ((List.range 96).filter (fun f => overlaps (4096 * f) 4096 a bs.length)).foldl (fun k f => setFrame k f { frameOf k f with valid := true, code := true })
    (storeBytes k a bs)

/-- What a debugger's access does to the core, and what it reads. A core that runs has executed some bundles by its halt. -/
def debugAct (d : Dev) (i : Nat) (op : DebugOp) : Dev × List Byte :=
  let x := debugCore d i
  match op with
  | .halt =>
    if x.2 then
      let (n, d) := draw d
      (setDebug d i ((List.range (Config.debugRan n)).foldl (fun k _ => debugStep d i k) x.1) false, [])
    else (d, [])
  | .step => (if x.2 then d else setDebug d i (debugStep d i x.1) false, [])
  | .resume => (setDebug d i x.1 true, [])
  | .start pc => (setDebug d i { x.1 with pc := pc, ended := false, wait := .none } true, [])
  | .read r => (d, debugRead x.1 r)
  | .write r v => (setDebug d i (debugWrite x.1 r v) x.2, [])
  | .readTarn a n => (d, Mem.readN x.1.tarn a n)
  | .writeTarn a v => (setDebug d i (debugTarn x.1 a v) x.2, [])

/-- Bytes that an access answers. -/
def debugLen : DebugOp → Nat
  | .read (.v _) => 128
  | .read (.t _) => 16
  | .read (.x _) => 8
  | .read _ => 4
  | .readTarn _ n => n
  | _ => 0

/-- CORE_DEBUG reaches a core whose CORE_STATE reads OFFLINE; any other access reads zero and changes nothing. -/
def coreDebugOp (s : State) (m core : Nat) (op : DebugOp) : State :=
  let i := 264 * m + core
  if !tapOn s.dev then s
  else if m < 4 ∧ core < 264 ∧ coreStateWord s.dev i = 5 then
    let r := debugAct s.dev i op
    { s with dev := r.1, tap := { s.tap with ir := 0x20, irOut := irCapture, debug := some i, read := r.2 } }
  else { s with tap := { s.tap with ir := 0x20, irOut := irCapture, debug := none, read := List.replicate (debugLen op) 0 } }

def execTrst (s : State) : Host.Outcome State Fault Refusal := okS (trstOp s)
def execIdcode (s : State) : Host.Outcome State Fault Refusal := okS (setIr s 1)
def execSamplePreload (bits : List Bool) (s : State) : Host.Outcome State Fault Refusal := okS (sampleOp s bits)
def execExtest (s : State) : Host.Outcome State Fault Refusal := okS (setIr s 3)
def execHighz (s : State) : Host.Outcome State Fault Refusal := okS (setIr s 4)
def execClamp (s : State) : Host.Outcome State Fault Refusal := okS (setIr s 5)
def execCoreDebug (m core : Nat) (op : DebugOp) (s : State) : Host.Outcome State Fault Refusal := okS (coreDebugOp s m core op)
def execBypass (s : State) : Host.Outcome State Fault Refusal := okS (setIr s 0xFF)

end Sys2Proof.Machine
end

