-- ==== Sys2Proof/Machine/Actions.lean ====
section
/-! DEFINITION. Action lists, step 1 and step 2 of a transaction, and the effect of each action kind (R123–R131, R136,
R486). -/

namespace Sys2Proof.Machine

/-! ### The list (Tables 5-1, 5-2) -/

structure Act where
  kind : Nat
  af : Nat
  basin : Nat
  r3 : Nat
  sel : Nat
  target : Nat
  value : Nat
  mask : Nat
  deriving DecidableEq, Repr

def nAct (l : List Byte) : Nat := fieldN l 0 2
def payloadLen (l : List Byte) : Nat := fieldN l 4 4
def retainS (l : List Byte) : Nat := fieldN l 8 4
def payloadAt (l : List Byte) : Nat := 32 + 32 * nAct l

def actAt (l : List Byte) (i : Nat) : Act :=
  let x := (l.drop (32 + 32 * i)).take 32
  ⟨byteAt x 0, byteAt x 1, byteAt x 2, byteAt x 3, fieldN x 4 4, fieldN x 8 8, fieldN x 16 8, fieldN x 24 8⟩

def actsOf (l : List Byte) : List (Nat × Act) := (List.range (nAct l)).map (fun i => (i, actAt l i))

def Act.src (a : Act) : Nat := a.af % 8
def Act.cls (a : Act) : Nat := a.sel % 256
def Act.slot (a : Act) : Nat := a.sel / 65536
def Act.xlat (a : Act) : Bool := decide (a.kind = 3) && bitOf a.af 0
/-- The action names a register. -/
def Act.isReg (a : Act) : Bool := decide (a.kind = 1 ∨ a.kind = 2 ∨ (a.kind = 6 ∧ a.src < 2))

/-- The register of a BAR0 offset. -/
def regTarget (a : Nat) : Option (Blk × Nat × Nat × RegDef) :=
  match pageOf (a / 0x1000) with
  | none => none
  | some (k, i) => if a % 4 = 0 ∧ a % 0x1000 < 0x800 then (regAt k i (a % 0x1000)).map (fun r => (k, i, a % 0x1000, r)) else none

def fireReg : Nat := regA .ripple 0 0x100

/-! ### Step 1 (R124, R127, R128, R136) -/

/-- A register write that a lock refuses (R119). -/
def actLocked (d : Dev) (a : Act) : Bool :=
  decide (a.kind = 1 ∨ a.kind = 2) &&
  (match regTarget a.target with
   | some (k, i, off, r) => lockRefuses d k i off r
   | none => false)

/-- R41, R58, R106, R119, R127. A register TARGET of basins 1 to 63 that is misaligned or names no register counts as one outside
the page that it may name. DESIGN CHOICE (log 207). -/
def privBad (d : Dev) (src : Nat) (a : Act) : Bool :=
  (decide (src ≠ 0) && (decide (a.basin ≠ src ∨ a.kind = 7) || a.xlat ||
    (a.isReg && (match regTarget a.target with
      | some (k, i, off, _) => !(decide (k = .ring) && decide (i = src)) || (decide (a.kind < 3) && vfReadOnly off)
      | none => true)))) ||
  (decide (a.kind = 7 ∧ a.basin = 0) && decide (a.src = 3 ∨ a.src = 5)) || actLocked d a

def Act.word32 (a : Act) : Bool := decide (a.value < 2 ^ 32 ∧ a.mask < 2 ^ 32)

/-- A basin address of an aligned word (R50). -/
def wordAddr (a : Nat) : Bool := decide (a % 8 = 0 ∧ a < 2 ^ 46)

def Act.slotOk (a : Act) (classes : Nat) : Bool := decide (bitsOf a.sel 15 8 = 0 ∧ a.cls < classes ∧ a.slot < slotCount a.cls)

/-- Fields of Table 5-3. -/
def fieldsOk (src : Nat) (last : Bool) (plen : Nat) (a : Act) : Bool :=
  match a.kind with
  | 1 => decide (a.af = 0 ∧ a.sel = 0) && a.word32 && (match regTarget a.target with | some (_, _, _, r) => decide (r.rws ≠ 0) | none => false)
  | 2 => decide (a.af = 0 ∧ a.sel = 0) && a.word32 &&
      (match regTarget a.target with | some (_, _, _, r) => decide (r.rws = 0 ∧ (r.rw ≠ 0 ∨ r.oneway ≠ 0 ∨ r.wo ≠ 0)) | none => false) &&
      (!decide (a.target = fireReg) || (decide (src = 0) && last))
  | 3 => decide (a.af < 2 ∧ a.sel = 0) && (a.xlat || wordAddr a.target)
  | 4 => decide (a.af = 0 ∧ a.value = 0 ∧ a.mask = 0) && a.slotOk 6
  | 5 => decide (a.af < 2 ∧ a.mask = 0 ∧ 1 ≤ a.value ∧ a.value ≤ 1048576) && a.slotOk 2
  | 6 => decide (a.af < 5) &&
      (match a.af with
       | 0 => decide (a.sel = 0) && a.word32 && (regTarget a.target).isSome
       | 1 => decide (a.sel = 0) && a.word32 && (match regTarget a.target with | some (_, _, _, r) => decide (r.rws ≠ 0) | none => false)
       | 2 => decide (a.sel = 0) && wordAddr a.target
       | 3 => a.slotOk 6 && decide (a.target = 0)
       | _ => decide (a.sel = 0 ∧ a.target = 0))
  | 7 => decide (1 ≤ a.af ∧ a.af ≤ 5 ∧ a.sel = 0 ∧ a.value = 0 ∧ a.mask = 0) &&
      (if a.af < 3 then decide (a.target % 8 = 0 ∧ a.target + 64 ≤ plen) else decide (a.target = 0))
  | _ => false

def listHeaderOk (l : List Byte) : Bool :=
  decide (1 ≤ nAct l ∧ l.length = payloadAt l + payloadLen l ∧ retainS l ≤ 86400) && zeroAt l 2 2 && zeroAt l 12 20

def actFail (d : Dev) (src plen n : Nat) (x : Nat × Act) : Option (Nat × Nat) :=
  if privBad d src x.2 then some (5, x.1)
  else if x.2.r3 = 0 ∧ x.2.basin < 64 ∧ fieldsOk src (x.1 + 1 = n) plen x.2 then none
  else some (1, x.1)

/-- Step 1: the abort code and index, if any. -/
def stepOne (d : Dev) (src : Nat) (l : List Byte) : Option (Nat × Nat) :=
  if 256 < nAct l ∨ 65536 < payloadLen l then some (6, 0)
  else if !listHeaderOk l then some (1, 0)
  else (actsOf l).findSome? (actFail d src (payloadLen l) (nAct l))

/-! ### Step 2 (R130) -/

/-- The lock unit of an action. -/
def lockUnit (a : Act) : Nat × Nat × Nat × Nat :=
  if a.isReg then (1, a.target, 0, 0)
  else if a.xlat then (2, a.target, 0, 0)
  else if a.kind = 3 ∨ (a.kind = 6 ∧ a.src = 2) then (3, a.basin, a.target, 0)
  else if a.kind = 4 ∨ a.kind = 5 ∨ (a.kind = 6 ∧ a.src = 3) then (4, a.basin, a.cls, a.slot)
  else (5, a.basin, 0, 0)

def heldUnits (d : Dev) : List (Nat × Nat × Nat × Nat) := d.txn.active.flatMap (fun t => (actsOf t.list).map (fun x => lockUnit x.2))

def stepTwo (d : Dev) (l : List Byte) : Option (Nat × Nat) :=
  ((actsOf l).find? (fun x => (heldUnits d).contains (lockUnit x.2))).map (fun x => (3, x.1))

/-! ### What an action does: the state after it, or an abort code -/

/-- What the actions of one transaction have in common. -/
structure TxnCx where
  src : Nat
  slot : Nat
  /-- The commit number that it will take. -/
  num : Nat
  retain : Nat
  list : List Byte
  /-- Some word of a payload range (offset, length) is poisoned. -/
  badPayload : Nat → Nat → Bool
  flags : List W64

abbrev ActRes := Except Nat Dev

/-- The result of a read of step 3 (R490). -/
def accRes {α : Type} (x : Acc α) : Except Nat α :=
  match x with
  | .ok v => .ok v
  | e => .error e.code

def chkRes (c : Chk) : Except Nat Unit := match c with | none => .ok () | some n => .error n

/-- (old AND NOT MASK) OR (VALUE AND MASK) (R124). -/
def merge64 (old mask v : W64) : W64 := (old &&& ~~~ mask) ||| (v &&& mask)

/-- A register write: REG_STAGED to the staged copy, REG_IMMEDIATE as a write of the merged value by the source's function;
a device reset is left to the end of the commit. -/
def applyReg (cx : TxnCx) (s : State) (a : Act) : Except Nat State :=
  match regTarget a.target with
  | none => .error 1
  | some (k, i, off, r) =>
    if lockRefuses s.dev k i off r then .error 5
    else
      let m := BitVec.ofNat 32 a.mask
      let v := BitVec.ofNat 32 a.value
      if a.kind = 1 then .ok (onDev s (fun d => landWrite d k i off r (merge32 (staged d a.target) m v) []))
      else if a.target = regA .rst 0 0x100 then .ok s
      else if r.wo ≠ 0 then .ok (writeReg s cx.src k i off r (v &&& m) [] cx.flags)
      else .ok (writeReg s cx.src k i off r (merge32 (live s.dev a.target) m v) [] cx.flags)

/-- MEM64 without XLAT (R124, R394): a whole word clears poison, a partial merge leaves it. -/
def applyMem (d : Dev) (a : Act) : ActRes := do
  let p ← accRes (translate d a.basin a.target)
  if !p.write then .error 1
  else
    let x := p.base + a.target % 65536
    if p.pool && !poolOpen d x then .error (Acc.fabric x : Acc Unit).code
    else
      let old := BitVec.ofNat 64 (leNat (if p.pool then Mem.readN d.mem.pool (poolDev d x) 8 else Mem.readN d.mem.hbm x 8))
      let bs := natLe 8 (merge64 old (BitVec.ofNat 64 a.mask) (BitVec.ofNat 64 a.value)).toNat
      let w := pageWrite d p (a.target % 65536) bs
      .ok (if a.mask = 2 ^ 64 - 1 then w else { w with mem.poison := d.mem.poison })

/-- Write a translation entry; a whole word clears its poison. -/
def putEntry (d : Dev) (a : Nat) (w : W64) (whole : Bool) : Dev :=
  let d := if whole then clearPoison d .hbm a (a + 8) else d
  { d with mem.xlat := SMap.set (fun _ => 0) d.mem.xlat a w }

/-- A page is mapped into a basin: it is zeroed if it was last mapped into another one (R45). -/
def ownPage (d : Dev) (b page : Nat) (pool : Bool) : Dev :=
  let key := if pool then 2 ^ 32 + page else page
  let last := SMap.get (fun _ => 0) d.mem.owner key
  let d := if last ≠ 0 ∧ last ≠ b + 1 then zeroPage d pool page else d
  { d with mem.owner := SMap.set (fun _ => 0) d.mem.owner key (b + 1) }

/-- A level-1 entry with VALID (R486). -/
def entry1Ok (d : Dev) (a v : Nat) : Bool :=
  let t := v / 65536 * 65536
  decide (bitsOf v 15 1 = 0) && tablePlace t && !(roots d).contains t && !tableNamed d t a

/-- A level-2 entry with VALID (R486). -/
def entry2Ok (v : Nat) : Bool :=
  decide (bitsOf v 15 4 = 0) && (if bitOf v 2 then decide (v / 65536 * 65536 < 2 ^ 44) else decide (v / 65536 * 65536 < 0x2A00000000))

/-- MEM64 with XLAT (R126, R486). -/
def applyXlat (d : Dev) (a : Act) : ActRes :=
  let root := xlatRoot d a.basin
  let t := a.target
  let one := decide (root ≤ t ∧ t < root + 0x40000)
  let whole := decide (a.mask = 2 ^ 64 - 1)
  let old := (xget d t).toNat
  let w := merge64 (xget d t) (BitVec.ofNat 64 a.mask) (BitVec.ofNat 64 a.value)
  let v := w.toNat
  if root = 0 ∨ t % 8 ≠ 0 ∨ !(one || (level2Tables d a.basin).contains (t / 0x40000 * 0x40000)) then .error 1
  else if !whole && poisoned d .hbm (t / 8) then .error 7
  else if one then
    if bitOf v 0 && !entry1Ok d t v then .error 1
    else
      let d := putEntry d t w whole
      .ok (if bitOf v 0 ∧ (!bitOf old 0 ∨ old / 65536 ≠ v / 65536) then zeroTable d (v / 65536 * 65536) else d)
  else if bitOf v 0 && !entry2Ok v then .error 1
  else
    let d := putEntry d t w whole
    .ok (if bitOf v 0 then ownPage d a.basin (v / 65536) (bitOf v 2) else d)

/-- The current version of a slot is superseded by the transaction (R138); its node cache goes (R158). -/
def supersede (cx : TxnCx) (d : Dev) (a : Act) : Dev :=
  match currentVer d a.basin a.cls a.slot with
  | none => d
  | some v =>
    let keep := d.now + sCycles cx.retain
    let d := { d with eng.nodeCache := d.eng.nodeCache.filter (fun c => !decide (c.1 = v.uid)) }
    modVer d v.uid (fun v => { v with
      superseded := some cx.num, keepUntil := keep,
      bits := modWhere (fun s => s.superseded.isNone) (fun s => { s with superseded := some cx.num, keepUntil := keep }) v.bits })

/-- The vocabulary digest of a model (R233). -/
def modelDigest (d : Dev) (b cls : Nat) (x : List Byte) : Nat :=
  if cls ≠ 4 then 0
  else match vocabImage d b (Mdl.vocabAddr x) with
    | .ok img => (Sha.digest img).toNat
    | _ => 0

/-- A version as the commit installs it. -/
def newVersion (cx : TxnCx) (d : Dev) (a : Act) (x : List Byte) : Version :=
  { uid := d.txn.nextUid, basin := a.basin, cls := a.cls, slot := a.slot, num := cx.num, desc := x, superseded := none,
    keepUntil := 0, retired := false, bits := [⟨cx.num, [], [], [], none, 0, false⟩], edition := 0,
    digest := modelDigest d a.basin a.cls x, resident := decide (a.cls = 4) && Mdl.marked x, loading := false,
    loadWaits := false, lastUse := d.now,
    slotSizes := if a.cls = 4 then (match readWeights d a.basin x with | .ok w => (List.range 4).map (slotBytes w) | _ => []) else [] }

/-- PTR_SWITCH (R26, R129, R135, R141, R156, R205, R206, R233, R253, R254). -/
def applyPtr (cx : TxnCx) (d : Dev) (a : Act) : ActRes :=
  if a.target = 0 then do
    chkRes (emptyChk d a.basin a.cls a.slot)
    .ok (supersede cx d a)
  else if a.target % descAlign a.cls ≠ 0 ∨ 2 ^ 46 ≤ a.target then .error 1
  else do
    let x ← accRes (readDesc d a.basin a.cls a.target)
    chkRes (objectChk d a.basin a.cls a.slot a.target x)
    let v := newVersion cx d a x
    let d := supersede cx d a
    let d := { d with txn.versions := d.txn.versions ++ [v], txn.nextUid := v.uid + 1 }
    chkRes (afterChk d a.basin a.cls a.slot x)
    -- under PRELOAD a grammar's first lines are fetched as it is installed (R291)
    let d := if a.cls = 2 ∧ ctlBit d .gram 0 0 then (let (n, d) := draw d; count d .gram 0 0x114 (Config.gramMisses n)) else d
    .ok (if v.resident then (match readWeights d a.basin x with | .ok w => countWeir (holdModel d v.uid w) 0x114 1 | _ => d) else d)

/-! FLAG_FLIP (R151, R152, R207) -/

def flipBits (v : Version) : Nat := if v.cls = 0 then Idx.nPass v.desc else Tbl.rowCount v.desc
def flipBase (v : Version) : Nat := if v.cls = 0 then Idx.tomb v.desc else Tbl.absent v.desc

/-- Value that the runs give position n, the last one deciding. -/
def runValue (runs : List (Nat × Nat × Bool)) (n : Nat) : Option Bool :=
  runs.foldl (fun acc r => if r.1 ≤ n ∧ n < r.1 + r.2.1 then some r.2.2 else acc) none

/-- Some position of a range gets a value that it did not have; `old` is the version without the new state. -/
def flipsAny (d : Dev) (old : Version) (commit : Nat) (runs : List (Nat × Nat × Bool)) : Nat → Nat → Acc Bool
  | _, 0 => .ok false
  | n, c + 1 =>
    (bitmapBit d old (flipBase old) commit n).bind (fun b =>
      match runValue runs n with
      | some x => if x = b then flipsAny d old commit runs (n + 1) c else .ok true
      | none => flipsAny d old commit runs (n + 1) c)

/-- Bits in a 64 KiB page. -/
def pageBits : Nat := 524288

/-- Some bit of page p changes. -/
def pageFlips (d : Dev) (old : Version) (commit : Nat) (runs : List (Nat × Nat × Bool)) (p : Nat) : Acc Bool :=
  runs.foldl (fun acc r =>
    let lo := max r.1 (p * pageBits)
    let hi := min (r.1 + r.2.1) ((p + 1) * pageBits)
    acc.bind (fun x => if x then .ok true else flipsAny d old commit runs lo (hi - lo))) (.ok false)

def pagesTouched (runs : List (Nat × Nat × Bool)) : List Nat :=
  dedup (runs.flatMap (fun r => let p := r.1 / pageBits; (List.range ((r.1 + r.2.1 - 1) / pageBits + 1 - p)).map (· + p)))

/-- The pages of the bitmap that a transaction's runs change. -/
def pagesFlipped (d : Dev) (old : Version) (commit : Nat) (runs : List (Nat × Nat × Bool)) : List Nat → Acc (List Nat)
  | [] => .ok []
  | p :: ps => (pageFlips d old commit runs p).bind (fun x =>
      (pagesFlipped d old commit runs ps).map (fun ys => if x then p :: ys else ys))

/-- One state of the bitmap for all flips of the transaction; none where no bit changes. -/
def applyFlip (cx : TxnCx) (d : Dev) (a : Act) : ActRes :=
  match currentVer d a.basin a.cls a.slot with
  | none => .error 1
  | some v =>
    if flipBits v < a.target + a.value then .error 1
    else do
      let mine := v.bits.find? (fun s => decide (s.commit = cx.num))
      let base := v.bits.filter (fun s => !decide (s.commit = cx.num))
      let runs := (match mine with | some s => s.runs | none => []) ++ [(a.target, a.value, bitOf a.af 0)]
      let prior := match base.getLast? with | some s => s.commit | none => 0
      let pages ← accRes (pagesFlipped d { v with bits := base } prior runs (pagesTouched runs))
      let keep := d.now + sCycles cx.retain
      let back := fun (s : BitState) => if s.superseded = some cx.num then { s with superseded := none, keepUntil := 0 } else s
      let shut := fun (s : BitState) => if s.superseded.isNone then { s with superseded := some cx.num, keepUntil := keep } else s
      let made := (⟨cx.num, runs, pages, [], none, 0, false⟩ : BitState)
      .ok (modVer d v.uid (fun v => { v with
        bits := if pages ≠ [] ∨ v.num = cx.num then base.map (fun s => shut (back s)) ++ [made] else base.map back ++ [made] }))

/-- A bitmap page before the flips of a transaction: its bytes, and which of its words are poisoned; a copy keeps poison. -/
def pageBefore (d : Dev) (v : Version) (prior p : Nat) : Option (List Byte × List Nat) :=
  let lo := 65536 * p
  let n := min 65536 (8 * ceilDiv (flipBits v) 64 - lo)
  match bitCopy v prior p with
  | some (c, m) => some (Mem.readN m lo n, (List.range (n / 8)).filterMap (fun i => if poisoned d (.bits v.uid c) (lo / 8 + i) then some (lo / 8 + i) else none))
  | none => ((vRaw d v.basin (flipBase v + lo) n).get?).map (fun bs => (bs, (rangePoison d v.basin (flipBase v + lo) n).map (· + lo / 8)))

/-- A byte of a bitmap page after the runs. -/
def flippedByte (runs : List (Nat × Nat × Bool)) (o : Nat) (b : Byte) : Byte :=
  BitVec.ofNat 8 (((List.range 8).map (fun i => if (runValue runs (8 * o + i)).getD (b.getLsbD i) then 2 ^ i else 0)).sum)

/-- The pages that a transaction's flips change are copied, with the new bits, into tombstone pages. -/
def copyPages (cx : TxnCx) (d : Dev) (v : Version) : Dev :=
  match v.bits.find? (fun s => decide (s.commit = cx.num)) with
  | none => d
  | some s =>
    let prior := match (v.bits.filter (fun s => decide (s.commit < cx.num))).getLast? with | some old => old.commit | none => 0
    let made := s.pages.filterMap (fun p => (pageBefore d v prior p).map (fun x =>
      (p, (x.1.zip (List.range x.1.length)).map (fun y => flippedByte s.runs (65536 * p + y.2) y.1), x.2)))
    let copied := fun (t : BitState) => { t with copies := made.map (fun m => (m.1, Mem.writeL [] (65536 * m.1) m.2.1)) }
    let d := modVer d v.uid (fun v => { v with bits := modWhere (fun t => decide (t.commit = cx.num)) copied v.bits })
    { d with mem.poison := d.mem.poison ++ (made.flatMap (fun m => m.2.2)).map (fun w => (.bits v.uid cx.num, w)) }

/-- A state that turned out to change nothing is not kept; of one that is, the pages are copied (R152). -/
def dropEmptyStates (cx : TxnCx) (d : Dev) : Dev :=
  let d := { d with txn.versions := d.txn.versions.map (fun (v : Version) =>
      { v with bits := v.bits.filter (fun s => !(decide (s.commit = cx.num ∧ s.pages = [] ∧ v.num ≠ cx.num))) }) }
  d.txn.versions.foldl (fun d v => copyPages cx d v) d

/-! GUARD (R124) -/

/-- The value that a guard compares. -/
def guardValue (d : Dev) (a : Act) : Except Nat Nat :=
  match a.src with
  | 0 => match regTarget a.target with
    | some (k, i, off, r) => .ok (if r.rws ≠ 0 then live d a.target else if r.wo ≠ 0 then 0 else pageRead d k i off).toNat
    | none => .error 1
  | 1 => .ok (staged d a.target).toNat
  | 2 => accRes ((vRead d a.basin a.target 8).map leNat)
  | 3 => .ok (match currentVer d a.basin a.cls a.slot with | some v => v.num | none => 0)
  | _ => .ok (liveN d .bsn a.basin 0x100)

def guardHolds (d : Dev) (a : Act) : Except Nat Bool := do
  let v ← guardValue d a
  .ok (decide (v &&& a.mask = a.value &&& a.mask))

/-! BASIN_OP -/

def applyBasin (cx : TxnCx) (d : Dev) (a : Act) : ActRes :=
  let p := parseParams ((cx.list.drop (payloadAt cx.list + a.target)).take 64)
  let bad := decide (a.af < 3) && cx.badPayload a.target 64
  if bad then .error 7 else
  match a.af with
  | 1 => opCreate d a.basin cx.slot p
  | 2 => opSet d a.basin cx.slot p
  | 3 => opHalt d a.basin
  | 4 => opResume d a.basin
  | _ => opDestroy d a.basin

/-- An action's result: the next state, a failed guard, or an abort code. -/
inductive ActOut where
  | next (s : State)
  | guardFailed
  | abort (code : Nat)

def toOut (s : State) (x : ActRes) : ActOut := match x with | .ok d => .next { s with dev := d } | .error c => .abort c

def applyAct (cx : TxnCx) (s : State) (a : Act) : ActOut :=
  match a.kind with
  | 1 => match applyReg cx s a with | .ok t => .next t | .error c => .abort c
  | 2 => match applyReg cx s a with | .ok t => .next t | .error c => .abort c
  | 3 => toOut s (if a.xlat then applyXlat s.dev a else applyMem s.dev a)
  | 4 => toOut s (applyPtr cx s.dev a)
  | 5 => toOut s (applyFlip cx s.dev a)
  | 6 => match guardHolds s.dev a with | .ok true => .next s | .ok false => .guardFailed | .error c => .abort c
  | _ => toOut s (applyBasin cx s.dev a)

end Sys2Proof.Machine
end

