-- ==== Sys2Proof/Machine/Txn.lean ====
section
/-! DEFINITION. The TXN engine (R128–R137, R488–R490): taking a transaction, its checks, its commit instant, its release. -/

namespace Sys2Proof.Machine

/-! ### Step 3 (R129, R47, R489, R158) -/

/-- The actions run in index order on the state that they will make: what each did, the first guard that failed, the
first other failure. -/
structure TxnRun where
  s : State
  /-- Index and action, with the block before and after it. -/
  done : List (Nat × Act × Dev × Dev)
  guard : Option Nat
  fail : Option (Nat × Nat)

/-- Run the actions. A failed pool access puts the action's basin and the pool address, plus 1, above the code. -/
def runActs (cx : TxnCx) : List (Nat × Act) → TxnRun → TxnRun
  | [], r => r
  | (i, a) :: as, r =>
    match applyAct cx r.s a with
    | .next t => runActs cx as { r with s := t, done := r.done ++ [(i, a, r.s.dev, t.dev)] }
    | .guardFailed => runActs cx as { r with guard := some (r.guard.getD i) }
    | .abort c => { r with fail := some (if c < 8 then c else c % 8 + 8 * (a.basin + 64 * (c / 8)), i) }

/-- The lowest action that satisfies a condition on the block before and after it. -/
def lowest (r : TxnRun) (p : Act → Dev → Dev → Bool) : Nat :=
  match r.done.find? (fun x => p x.2.1 x.2.2.1 x.2.2.2) with
  | some x => x.1
  | none => 0

def quotaSum (d : Dev) (off : Nat) : Nat := ((List.range 64).map (fun b => quota d b off)).sum

/-- The quotas whose sum passes the module total of Table 2-4 (R47, R448). -/
def sumsOver (d0 d : Dev) : List Nat :=
  ([(0x120, Config.totalHbm), (0x128, Config.totalFlash), (0x12C, Config.totalTags), (0x130, Config.totalWalk)].filter
    (fun q => decide (q.2 < quotaSum d q.1))).map (·.1) ++
  (if quotaSum d0 0x124 < quotaSum d 0x124 ∧ (poolSize d 0 + poolSize d 1) * 16384 < quotaSum d 0x124 then [0x124] else [])

/-- A basin's use after is above its quota and above its use before (R489). -/
def ownOver (use quotaOf : Dev → Nat → Nat) (d0 d : Dev) : List Nat :=
  (List.range 64).filter (fun b => decide (quotaOf d b < use d b ∧ use d0 b < use d b))

/-- Node-cache pages of the current versions of all basins (R158). -/
def nodePages (d : Dev) : Nat :=
  ((d.txn.versions.filter (fun v => decide (v.cls = 0) && v.superseded.isNone)).map (fun v => Idx.cachePages v.desc)).sum

/-- The quotas: the module sums, then each basin's own use. -/
def quotaFail (d0 : Dev) (r : TxnRun) : Option (Nat × Nat) :=
  let d := r.s.dev
  let sums := sumsOver d0 d
  let hbm := ownOver useHbm qHbm d0 d
  let pool := ownOver usePool qPool d0 d
  if sums ≠ [] then some (4, lowest r (fun a x y => decide (a.kind = 7) && sums.any (fun o => decide (quota x a.basin o < quota y a.basin o))))
  else if hbm ≠ [] ∨ pool ≠ [] then
    some (4, lowest r (fun _ x y => hbm.any (fun b => decide (useHbm x b < useHbm y b)) || pool.any (fun b => decide (usePool x b < usePool y b))))
  else if 131072 < nodePages d then some (4, lowest r (fun _ x y => decide (nodePages x < nodePages y)))
  else none

/-- Step 3, and step 4 on its success: the abort code and index, or the state with every action applied. -/
def stepThree (cx : TxnCx) (s : State) : Except (Nat × Nat) State :=
  let r := runActs cx (actsOf cx.list) ⟨s, [], none, none⟩
  let r := { r with s := onDev r.s (dropEmptyStates cx) }
  match r.fail with
  | some f => .error f
  | none =>
    match quotaFail s.dev r with
    | some f => .error f
    | none =>
      match r.guard with
      | some i => .error (2, i)
      | none => .ok r.s

/-! ### Waits -/

/-- A field that the transaction uses has no majority (R117). One that a CREATE or a SET writes again is not used. -/
def txnWaits (d : Dev) (l : List Byte) : Bool :=
  let acts := (actsOf l).map (·.2)
  let sets := (acts.filter (fun a => decide (a.kind = 7 ∧ a.af < 3))).map (·.basin)
  let uses := (acts.filter (fun a => decide (a.kind ≠ 7 ∧ ¬ (a.isReg = true)))).map (·.basin) ++ (if sets = [] then [] else List.range 64)
  uses.any (fun b => basinWaits d b && !sets.contains b)

/-- A BASIN_OP waits while FWP1, which records it, does not run (R429, Table 19-6). -/
def recordWaits (d : Dev) (l : List Byte) : Bool := !fwpRuns d 1 && (actsOf l).any (fun x => decide (x.2.kind = 7))

/-- Sectors of the extents that the transaction's new versions name (R157), each descriptor as the earlier actions leave it. -/
def newExtents (cx : TxnCx) (s : State) : List (Nat × Nat × Nat) :=
  (runActs cx (actsOf cx.list) ⟨s, [], none, none⟩).done.flatMap (fun x =>
    let a := x.2.1
    if a.kind = 4 ∧ a.target ≠ 0 then
      match readDesc x.2.2.1 a.basin a.cls a.target with
      | .ok desc => (sectorsClaimed a.cls desc).map (fun e => (a.basin, e))
      | _ => []
    else [])

def inExtents (es : List (Nat × Nat × Nat)) (s : Nat × Nat) : Bool := es.any (fun e => decide (e.1 = s.1 ∧ e.2.1 ≤ s.2 ∧ s.2 < e.2.1 + e.2.2))

/-- Dirty sectors of new versions are written to flash before the commit; FWP2 does it. -/
def flushNew (d : Dev) (es : List (Nat × Nat × Nat)) : Dev := if fwpRuns d 2 then flushWhere d (inExtents es) else d

def flushWaits (d : Dev) (es : List (Nat × Nat × Nat)) : Bool := d.mem.dirty.any (inExtents es)

/-! ### Abort, commit and release -/

/-- The block as a check sees it whose reads of some words fail. -/
def loseWords (s : State) (lost : List (Space × Nat)) : State :=
  if lost = [] then s else onDev s (fun d => { d with mem.poison := d.mem.poison ++ lost })

/-- A check met a pool port whose link is down, so that the transaction waits (Table 20-2). -/
def txnLinkWait (d : Dev) (f : Nat × Nat) : Bool := decide (8 ≤ f.1) && poolMapped d (f.1 / 512 - 1)

/-- The TXN request completes DONE. -/
def txnDone (d : Dev) (slot count handle : Nat) : Dev :=
  match findReq d slot with
  | none => d
  | some r => finish d { r with outCount := count, newHandle := handle, outLen := 0 } 0

/-- An abort (R128, R137): the failed pool access, the abort's counter, ABORTED, COUNT. -/
def abortTxn (d : Dev) (slot : Nat) (f : Nat × Nat) : Dev :=
  let basin := match findReq d slot with | some r => r.basin | none => 0
  let tag := match findReq d slot with | some r => r.tag | none => noTag
  let code := f.1 % 8
  let d := if f.1 < 8 ∨ poolMapped d (f.1 / 512 - 1) = true then d else fabFail d (f.1 / 512 - 1) 2 (f.1 / 8 % 64) tag
  let d := count d .txn 0 (0x10C + 4 * code) 1
  let d := setStat d .txn 0 0 basin tag (BitVec.ofNat 32 (code + 256 * f.2))
  txnDone d slot (code + 256 * f.2) 0

/-- A held BAR0 write takes effect (R114, R131). -/
def landHeld (s : State) (h : HeldWrite) : State :=
  match writeTarget s.dev h.fn h.off with
  | .reg k i off r => writeReg s h.fn k i off r h.value [] h.flags
  | .lockedOut => onDev s lockRefused
  | .bad => onDev s badAccess
  | .discard => s

/-- Step 5: held writes to registers that no transaction locks any more land in order. -/
def release (s : State) : State :=
  let go := s.dev.txn.held.filter (fun h => !regLocked s.dev h.off)
  go.foldl landHeld (onDev s (fun d => { d with txn.held := d.txn.held.filter (fun h => regLocked d h.off) }))

def txnCx (d : Dev) (r : Req) (list : List Byte) (flags : List W64) : TxnCx :=
  let a := shoreAddr r.basin (Desc.inBlock r.desc) 0
  { src := r.basin, slot := r.slot, num := d.txn.last + 1, retain := retainS list, list := list,
    badPayload := fun off n => shorePoison d (a + payloadAt list + off) n, flags := flags }

/-- The place of the first poisoned word that step 1 reads: the word with N_ACT and PAYLOAD_LEN, the rest of the header, then of each record in index order, up to the first
failure (R128). -/
def listPoison (d : Dev) (a : Nat) (l : List Byte) (one : Option (Nat × Nat)) : Option Nat :=
  let bad := fun (lo n : Nat) => shorePoison d (a + lo) (min n (l.length - lo))
  if bad 0 8 then some (placeIn d .shore a 8)
  else if 256 < nAct l ∨ 65536 < payloadLen l then none -- TOO_LARGE comes before the rest of the header
  else if bad 8 24 then some (placeIn d .shore (a + 8) 24)
  else if !listHeaderOk l then none
  else
    match (List.range (nAct l)).find? (fun i => bad (32 + 32 * i) 32) with
    | some i => if (match one with | some f => decide (i ≤ f.2) | none => true) then some (placeIn d .shore (a + 32 + 32 * i) 32) else none
    | none => none

/-- TXN_START (R128, R132): steps 1 to 3. The list's blocks are returned in every case. `lost` are words of the pool whose
reads fail (R490). -/
def txnStartOp (s : State) (lost : List (Space × Nat) := []) : State :=
  match s.dev.txn.waiting with
  | [] => s
  | slot :: rest =>
    match findReq s.dev slot with
    | none => onDev s (fun d => { d with txn.waiting := rest })
    | some r =>
      let l := inBytes s.dev r
      let a := shoreAddr r.basin (Desc.inBlock r.desc) 0
      let one := stepOne s.dev r.basin l
      if 8 ≤ s.dev.txn.active.length ∨ (one = none ∧ txnWaits s.dev l) then s
      else
        let s1 := onDev s (fun d => returnInput { (poisonInBlocks d r) with txn.waiting := rest } slot)
        match listPoison s.dev a l one with
        | some place => onDev s1 (fun d => endAt (logEvent d 3 (pageNo .txn 0) r.basin r.tag place 0x40) slot 0x40)
        | none =>
          match one.or (stepTwo s.dev l) with
          | some f => onDev s1 (abortTxn · slot f)
          | none =>
            let cx := txnCx s.dev r l []
            match stepThree cx (loseWords s lost) with
            | .error f => if lost = [] ∧ txnLinkWait s.dev f then s else onDev s1 (abortTxn · slot f)
            | .ok _ => onDev s1 (fun d =>
                { (modReq (flushNew d (newExtents cx s)) slot (fun r => { r with stage := .txnRun, busy := true })) with
                    txn.active := d.txn.active ++ [⟨slot, l⟩] })

/-- The device reset that a REG_IMMEDIATE asks for follows everything else of the commit. -/
def lateReset (s : State) (l : List Byte) : State :=
  (actsOf l).foldl (fun s x =>
    if x.2.kind = 2 ∧ x.2.target = regA .rst 0 0x100 then rstCtlOp s 0 (BitVec.ofNat 32 (x.2.value &&& x.2.mask)) else s) s

/-- TXN_COMMIT (R133–R137): the checks still hold at the commit instant, or the transaction aborts. -/
def txnCommitOp (s : State) (slot : Nat) (flags : List W64) : State :=
  match s.dev.txn.active.find? (fun a => decide (a.slot = slot)), findReq s.dev slot with
  | some t, some r =>
    let l := t.list
    let cx := { txnCx s.dev r l flags with badPayload := fun _ _ => false }
    let es := newExtents cx s
    let s := onDev s (flushNew · es)
    if txnWaits s.dev l || recordWaits s.dev l || flushWaits s.dev es then s
    else
      match stepThree cx s with
      | .error f => if txnLinkWait s.dev f then s else release (onDev s (abortTxn · slot f))
      | .ok t =>
        let t := onDev t (fun d => count { d with txn.last := cx.num } .txn 0 0x10C 1)
        lateReset (release (onDev t (txnDone · slot 0 cx.num))) l
  | _, _ => s

/-- FLR_PF0 (R100): a transaction of basin 0 that has not committed ends with nothing changed. -/
def flrPf0State (s : State) : State :=
  let mine := (s.dev.txn.active.filter (fun a => match findReq s.dev a.slot with | some r => decide (r.basin = 0) | none => true)).map (·.slot)
  release (onDev s (fun d => flrPf0Op { d with reqs := modWhere (fun r => mine.contains r.slot) (fun r => { r with busy := false }) d.reqs }))

/-! ### Failed pool reads of a transaction (R490) -/

/-- A pool access of a transaction fails: its check reads no word of those 64 bytes, and it aborts with UNREADABLE at the action
that needed them. -/
def txnPoolFail (s : State) (addr slot : Nat) : State :=
  let lost := (List.range 8).map (fun i => pageWord s.dev true (addr / 64 * 64 + 8 * i))
  match findReq s.dev slot with
  | none => s
  | some r =>
    if r.stage = .txnWait ∧ s.dev.txn.waiting.head? = some slot then
      match stepThree (txnCx s.dev r (inBytes s.dev r) []) (loseWords s lost) with
      | .error f => if f.1 % 8 = 7 then txnStartOp s lost else s
      | .ok _ => s
    else match s.dev.txn.active.find? (fun a => decide (a.slot = slot)) with
      | some t =>
        match stepThree { txnCx s.dev r t.list [] with badPayload := fun _ _ => false } (loseWords s lost) with
        | .error f => if f.1 % 8 = 7 then release (onDev s (abortTxn · slot f)) else s
        | .ok _ => s
      | none => s

/-- TXN_START with the errors in the words of the action list that is to start. -/
def txnReads (s : State) (errs : List ReadError) : State :=
  match s.dev.txn.waiting.head?.bind (findReq s.dev) with
  | some r =>
    if 8 ≤ s.dev.txn.active.length ∨ (stepOne s.dev r.basin (inBytes s.dev r) = none ∧ txnWaits s.dev (inBytes s.dev r)) then txnStartOp s
    else
      let names := fun (_ : Dev) p => inputWord r p
      let lost := lostOnWay s.dev names errs
      onDev (txnStartOp (onDev s (fun d => addLost (readErrors d ⟨.txn, 0, r.basin, r.slot⟩ names errs) lost))) (dropLost · lost)
  | none => txnStartOp s

def execTxnStart (errs : List ReadError) (s : State) : Host.Outcome State Fault Refusal := okS (txnReads s errs)
def execTxnCommit (slot : Nat) (flags : List W64) (s : State) : Host.Outcome State Fault Refusal := okS (txnCommitOp s slot flags)
def execPoolAccessFail (addr event slot : Nat) (s : State) : Host.Outcome State Fault Refusal :=
  okS (if poolEvent s.dev addr event then txnPoolFail (onDev s (poolFailOp · addr event slot)) addr slot else s)
def execFabTmo (addr slot : Nat) (s : State) : Host.Outcome State Fault Refusal :=
  okS (if poolMapped s.dev addr then txnPoolFail (onDev s (fabTmoOp · addr slot)) addr slot else s)
def execFlrPf0 (s : State) : Host.Outcome State Fault Refusal := okS (flrPf0State s)

end Sys2Proof.Machine
end

