-- ==== Sys2Proof/Machine/Dispatch.lean ====
section
/-! DEFINITION. One arm per command: a call of its meaning. -/

namespace Sys2Proof.Machine

def exec (i : Instr) (s : State) : Host.Outcome State Fault Refusal :=
  match i with
  | .inTail fn basin ring v => Sys2Proof.Machine.execInTail fn basin ring v s
  | .outHead fn basin ring v => Sys2Proof.Machine.execOutHead fn basin ring v s
  | .ringEnable fn basin v => Sys2Proof.Machine.execRingEnable fn basin v s
  | .apply fn basin v => Sys2Proof.Machine.execApply fn basin v s
  | .ringApply basin => Sys2Proof.Machine.execRingApply basin s
  | .bar2Write fn off bytes => Sys2Proof.Machine.execBar2Write fn off bytes s
  | .regWrite fn off size v hw => Sys2Proof.Machine.execRegWrite fn off size v hw s
  | .blkStatRc fn r hw => Sys2Proof.Machine.execBlkStatRc fn r hw s
  | .txnLastLo r => Sys2Proof.Machine.execTxnLastLo r s
  | .sprNowLo r => Sys2Proof.Machine.execSprNowLo r s
  | .measSel fn v => Sys2Proof.Machine.execMeasSel fn v s
  | .measLogSel fn v => Sys2Proof.Machine.execMeasLogSel fn v s
  | .thermPeak fn v => Sys2Proof.Machine.execThermPeak fn v s
  | .rippleTmo fn v => Sys2Proof.Machine.execRippleTmo fn v s
  | .rippleFire fn v => Sys2Proof.Machine.execRippleFire fn v s
  | .blockApply page => Sys2Proof.Machine.execBlockApply page s
  | .rippleSlow group laggard => Sys2Proof.Machine.execRippleSlow group laggard s
  | .tmrScrub flips => Sys2Proof.Machine.execTmrScrub flips s
  | .descriptorFetchFail basin ring => Sys2Proof.Machine.execDescriptorFetchFail basin ring s
  | .dmaWriteFail basin ring => Sys2Proof.Machine.execDmaWriteFail basin ring s
  | .undefinedOpcode f slot => Sys2Proof.Machine.execUndefinedOpcode f slot s
  | .query f slot => Sys2Proof.Machine.execQuery f slot s
  | .search f slot => Sys2Proof.Machine.execSearch f slot s
  | .embed f slot => Sys2Proof.Machine.execEmbed f slot s
  | .rerank f slot => Sys2Proof.Machine.execRerank f slot s
  | .generate f slot => Sys2Proof.Machine.execGenerate f slot s
  | .continue f slot => Sys2Proof.Machine.execContinue f slot s
  | .park f slot => Sys2Proof.Machine.execPark f slot s
  | .releaseHandle f slot => Sys2Proof.Machine.execReleaseHandle f slot s
  | .gather f slot => Sys2Proof.Machine.execGather f slot s
  | .scatterMerge f slot => Sys2Proof.Machine.execScatterMerge f slot s
  | .runJob f slot => Sys2Proof.Machine.execRunJob f slot s
  | .txn f slot => Sys2Proof.Machine.execTxn f slot s
  | .cancel f slot => Sys2Proof.Machine.execCancel f slot s
  | .completionWrite basin ring => Sys2Proof.Machine.execCompletionWrite basin ring s
  | .coalUs basin ring => Sys2Proof.Machine.execCoalUs basin ring s
  | .inputIdle slot => Sys2Proof.Machine.execInputIdle slot s
  | .inputTimeout slot => Sys2Proof.Machine.execInputTimeout slot s
  | .cutPiece slot errs => Sys2Proof.Machine.execCutPiece slot errs s
  | .stageJobDone r => Sys2Proof.Machine.execStageJobDone r s
  | .walkerContextGrant slot => Sys2Proof.Machine.execWalkerContextGrant slot s
  | .distanceTableBuild r => Sys2Proof.Machine.execDistanceTableBuild r s
  | .expansion slot => Sys2Proof.Machine.execExpansion slot s
  | .nodeReadArrival slot errs => Sys2Proof.Machine.execNodeReadArrival slot errs s
  | .readBudgetExpiry slot node => Sys2Proof.Machine.execReadBudgetExpiry slot node s
  | .searchDeadline slot => Sys2Proof.Machine.execSearchDeadline slot s
  | .sortCommand r => Sys2Proof.Machine.execSortCommand r s
  | .flashReadDone basin sector r => Sys2Proof.Machine.execFlashReadDone basin sector r s
  | .rerankDeadline slot => Sys2Proof.Machine.execRerankDeadline slot s
  | .pack r => Sys2Proof.Machine.execPack r s
  | .modelDeadline slot => Sys2Proof.Machine.execModelDeadline slot s
  | .passStart mere slots => Sys2Proof.Machine.execPassStart mere slots s
  | .passEnd r => Sys2Proof.Machine.execPassEnd r s
  | .handleParkIdle h => Sys2Proof.Machine.execHandleParkIdle h s
  | .handleParkDone r => Sys2Proof.Machine.execHandleParkDone r s
  | .parkWriteFail h => Sys2Proof.Machine.execParkWriteFail h s
  | .handleUnparkDone r => Sys2Proof.Machine.execHandleUnparkDone r s
  | .handleTtlExpiry h => Sys2Proof.Machine.execHandleTtlExpiry h s
  | .txnStart errs => Sys2Proof.Machine.execTxnStart errs s
  | .txnCommit slot flags => Sys2Proof.Machine.execTxnCommit slot flags s
  | .basinZeroDone n => Sys2Proof.Machine.execBasinZeroDone n s
  | .versionRetire uid state => Sys2Proof.Machine.execVersionRetire uid state s
  | .flrVf n => Sys2Proof.Machine.execFlrVf n s
  | .flrPf0 => Sys2Proof.Machine.execFlrPf0 s
  | .numvfsLower n => Sys2Proof.Machine.execNumvfsLower n s
  | .gathCommand cmd => Sys2Proof.Machine.execGathCommand cmd s
  | .gatherRead cmd errs => Sys2Proof.Machine.execGatherRead cmd errs s
  | .mergeSumDone cmd errs => Sys2Proof.Machine.execMergeSumDone cmd errs s
  | .mergeApply r => Sys2Proof.Machine.execMergeApply r s
  | .bundle ctx core errs => Sys2Proof.Machine.execBundle ctx core errs s
  | .drawLands ctx core xfer errs paths => Sys2Proof.Machine.execDrawLands ctx core xfer errs paths s
  | .returnCompletes ctx core xfer paths => Sys2Proof.Machine.execReturnCompletes ctx core xfer paths s
  | .tileOpStart ctx core => Sys2Proof.Machine.execTileOpStart ctx core s
  | .tileOpEnd ctx r => Sys2Proof.Machine.execTileOpEnd ctx r s
  | .jobIssue slot => Sys2Proof.Machine.execJobIssue slot s
  | .schedulingTick mere pick => Sys2Proof.Machine.execSchedulingTick mere pick s
  | .saveDone ctx => Sys2Proof.Machine.execSaveDone ctx s
  | .contextEnd ctx => Sys2Proof.Machine.execContextEnd ctx s
  | .heartbeat m b => Sys2Proof.Machine.execHeartbeat m b s
  | .hbLost m core => Sys2Proof.Machine.execHbLost m core s
  | .preemptStopTimeout m core => Sys2Proof.Machine.execPreemptStopTimeout m core s
  | .stale unit epoch => Sys2Proof.Machine.execStale unit epoch s
  | .mereHeartbeatLoss m => Sys2Proof.Machine.execMereHeartbeatLoss m s
  | .spared m core grid => Sys2Proof.Machine.execSpared m core grid s
  | .mereMap fn m v => Sys2Proof.Machine.execMereMap fn m v s
  | .mereReadmit fn m v => Sys2Proof.Machine.execMereReadmit fn m v s
  | .rstCore fn v => Sys2Proof.Machine.execRstCore fn v s
  | .layerLanded pass layer => Sys2Proof.Machine.execLayerLanded pass layer s
  | .weirLayerWrite layer r => Sys2Proof.Machine.execWeirLayerWrite layer r s
  | .prefetchDrop mere => Sys2Proof.Machine.execPrefetchDrop mere s
  | .modelLoadStart uid => Sys2Proof.Machine.execModelLoadStart uid s
  | .modelLoadDone uid => Sys2Proof.Machine.execModelLoadDone uid s
  | .loadFail uid frame => Sys2Proof.Machine.execLoadFail uid frame s
  | .writeBack row owner unit => Sys2Proof.Machine.execWriteBack row owner unit s
  | .hbmScrub stack found => Sys2Proof.Machine.execHbmScrub stack found s
  | .pageRemap page spare => Sys2Proof.Machine.execPageRemap page spare s
  | .errlogRecord => Sys2Proof.Machine.execErrlogRecord s
  | .errlogCeMs kind source => Sys2Proof.Machine.execErrlogCeMs kind source s
  | .errlogHead fn v => Sys2Proof.Machine.execErrlogHead fn v s
  | .flashWrite fn r => Sys2Proof.Machine.execFlashWrite fn r s
  | .flashRead fn flags => Sys2Proof.Machine.execFlashRead fn flags s
  | .copyIn fn r => Sys2Proof.Machine.execCopyIn fn r s
  | .copyOut fn r => Sys2Proof.Machine.execCopyOut fn r s
  | .trim fn => Sys2Proof.Machine.execTrim fn s
  | .flush fn => Sys2Proof.Machine.execFlush fn s
  | .ldDone => Sys2Proof.Machine.execLdDone s
  | .flashDieTimeout die => Sys2Proof.Machine.execFlashDieTimeout die s
  | .dieRelocated die => Sys2Proof.Machine.execDieRelocated die s
  | .flcDieReadmit fn v => Sys2Proof.Machine.execFlcDieReadmit fn v s
  | .autoPowerEntry dom => Sys2Proof.Machine.execAutoPowerEntry dom s
  | .s3Entry m => Sys2Proof.Machine.execS3Entry m s
  | .demandWake dom => Sys2Proof.Machine.execDemandWake dom s
  | .domainResumed dom => Sys2Proof.Machine.execDomainResumed dom s
  | .pwrDeep fn v => Sys2Proof.Machine.execPwrDeep fn v s
  | .deepEntry => Sys2Proof.Machine.execDeepEntry s
  | .deepExit src => Sys2Proof.Machine.execDeepExit src s
  | .wakeFire e => Sys2Proof.Machine.execWakeFire e s
  | .wakeHoldExpiry => Sys2Proof.Machine.execWakeHoldExpiry s
  | .wakePinEnd e => Sys2Proof.Machine.execWakePinEnd e s
  | .pinIn => Sys2Proof.Machine.execPinIn s
  | .xtalFail => Sys2Proof.Machine.execXtalFail s
  | .pllRelock m => Sys2Proof.Machine.execPllRelock m s
  | .powerOnReset => Sys2Proof.Machine.execPowerOnReset s
  | .pwrEnRise => Sys2Proof.Machine.execPwrEnRise s
  | .railsGood => Sys2Proof.Machine.execRailsGood s
  | .pwrGoodRise => Sys2Proof.Machine.execPwrGoodRise s
  | .pwrGoodLow => Sys2Proof.Machine.execPwrGoodLow s
  | .pwrEnFall => Sys2Proof.Machine.execPwrEnFall s
  | .perstAssert => Sys2Proof.Machine.execPerstAssert s
  | .perstDeassert => Sys2Proof.Machine.execPerstDeassert s
  | .deviceReset fn v => Sys2Proof.Machine.execDeviceReset fn v s
  | .boot => Sys2Proof.Machine.execBoot s
  | .watchdogExpiry n => Sys2Proof.Machine.execWatchdogExpiry n s
  | .restart fn n v => Sys2Proof.Machine.execRestart fn n v s
  | .fwpRestartDone n => Sys2Proof.Machine.execFwpRestartDone n s
  | .prot n write place addr => Sys2Proof.Machine.execProt n write place addr s
  | .measExtGo fn v => Sys2Proof.Machine.execMeasExtGo fn v s
  | .fwpUpdGo fn v flags => Sys2Proof.Machine.execFwpUpdGo fn v flags s
  | .getVersion via req => Sys2Proof.Machine.execGetVersion via req s
  | .getCapabilities via req => Sys2Proof.Machine.execGetCapabilities via req s
  | .negotiateAlgorithms via req => Sys2Proof.Machine.execNegotiateAlgorithms via req s
  | .getDigests via req => Sys2Proof.Machine.execGetDigests via req s
  | .getCertificate via req => Sys2Proof.Machine.execGetCertificate via req s
  | .challenge via req => Sys2Proof.Machine.execChallenge via req s
  | .getMeasurements via req => Sys2Proof.Machine.execGetMeasurements via req s
  | .spdmUnsupported via req => Sys2Proof.Machine.execSpdmUnsupported via req s
  | .setEndpointId req => Sys2Proof.Machine.execSetEndpointId req s
  | .mctpOther req => Sys2Proof.Machine.execMctpOther req s
  | .smbusTimeout => Sys2Proof.Machine.execSmbusTimeout s
  | .alertResponse => Sys2Proof.Machine.execAlertResponse s
  | .sensorSweep r => Sys2Proof.Machine.execSensorSweep r s
  | .thermalTrip die => Sys2Proof.Machine.execThermalTrip die s
  | .trst => Sys2Proof.Machine.execTrst s
  | .idcode => Sys2Proof.Machine.execIdcode s
  | .samplePreload bits => Sys2Proof.Machine.execSamplePreload bits s
  | .extest => Sys2Proof.Machine.execExtest s
  | .highz => Sys2Proof.Machine.execHighz s
  | .clamp => Sys2Proof.Machine.execClamp s
  | .coreDebug m core op => Sys2Proof.Machine.execCoreDebug m core op s
  | .bypass => Sys2Proof.Machine.execBypass s
  | .poolAccessFail addr event slot => Sys2Proof.Machine.execPoolAccessFail addr event slot s
  | .fabTmo addr slot => Sys2Proof.Machine.execFabTmo addr slot s
  | .wbHeld addr ok => Sys2Proof.Machine.execWbHeld addr ok s
  | .training port t => Sys2Proof.Machine.execTraining port t s
  | .ndlHeartbeat port fr => Sys2Proof.Machine.execNdlHeartbeat port fr s
  | .ndlWrite port fr => Sys2Proof.Machine.execNdlWrite port fr s
  | .sem port fr => Sys2Proof.Machine.execSem port fr s
  | .ndlBar port fr => Sys2Proof.Machine.execNdlBar port fr s
  | .ndlSet port fr => Sys2Proof.Machine.execNdlSet port fr s
  | .route port fr => Sys2Proof.Machine.execRoute port fr s
  | .crcReplay port seq => Sys2Proof.Machine.execCrcReplay port seq s
  | .ndlHbMiss port => Sys2Proof.Machine.execNdlHbMiss port s
  | .linkDownTimeout port => Sys2Proof.Machine.execLinkDownTimeout port s
  | .retrain fn port v => Sys2Proof.Machine.execRetrain fn port v s
  | .readmit fn port v => Sys2Proof.Machine.execReadmit fn port v s
  | .vfEnable n ari masks => Sys2Proof.Machine.execVfEnable n ari masks s
  | .linkExitFromL1 => Sys2Proof.Machine.execLinkExitFromL1 s
  | .linkEntersL1 => Sys2Proof.Machine.execLinkEntersL1 s
  | .linkReachesL0 => Sys2Proof.Machine.execLinkReachesL0 s
  | .fabLinkDown q => Sys2Proof.Machine.execFabLinkDown q s
  | .fabLinkRetrained q => Sys2Proof.Machine.execFabLinkRetrained q s
  | .deviceEventRecord q => Sys2Proof.Machine.execDeviceEventRecord q s
  | .ndlLinkDown port => Sys2Proof.Machine.execNdlLinkDown port s
  | .lockLost clk => Sys2Proof.Machine.execLockLost clk s
  | .vinRemoved => Sys2Proof.Machine.execVinRemoved s
  | .pwrEnRiseActs => Sys2Proof.Machine.execPwrEnRiseActs s
  | .fwpUpdDone => Sys2Proof.Machine.execFwpUpdDone s
  | .patrol basin sector r => Sys2Proof.Machine.execPatrol basin sector r s
  | .progFail die page => Sys2Proof.Machine.execProgFail die page s

end Sys2Proof.Machine
end

