-- ==== Sys2Proof/Machine/Step.lean ====
section
/-! DEFINITION. One step of the block: the command at the front of the queue. -/

namespace Sys2Proof.Machine

/-- A step runs the command at the front of the queue on the state with the queue's rest. On an empty queue the
block idles and one shore cycle passes (DESIGN CHOICE, log 2). -/
def step (s : State) : Host.Outcome State Fault Refusal :=
  match s.pending with
  | [] => .next { s with dev.now := s.dev.now + 1 }
  | c :: rest => exec c { s with pending := rest }

/-- The command that a table word spells, put at the front of the queue: the table gives its rows no bits, so no
word spells one (log 3). -/
def State.withFetchWord (s : State) (nbits w : Nat) : State :=
  match decodeTableWord nbits w with
  | some c => { s with pending := c :: s.pending }
  | none => s

end Sys2Proof.Machine
end

