-- ==== Sys2Proof/Safety.lean ====
section
/-! DEFINITION. What a safe run is: no step stops. -/

namespace Sys2Proof

/-- A step of this state answers a next state. -/
def Safe (s : Machine.State) : Prop := ∃ t, Machine.step s = .next t

end Sys2Proof
end

