-- ==== Sys2Proof/Certificates/Slice0/Obligations.lean ====
section
/-! DEFINITION. The statements for the provers, and the few words in which they are put. -/

namespace Sys2Proof.Claims

open Sys2Proof.Machine

/-- A function's access reaches a page: the page answers it and the shore is awake (R39, R430). -/
def Reach (s : State) (fn page : Nat) : Prop :=
  answers s.dev fn page = true ∧ domState s.dev 4 = 0 ∧ domMoving s.dev 4 = false

/-- A write of a function lands on a register: it is neither refused nor held (R39, R106, R114, R119). -/
def Lands (s : State) (fn : Nat) (k : Blk) (i off : Nat) (r : RegDef) : Prop :=
  Reach s fn (pageNo k i) ∧ writeTarget s.dev fn (regA k i off) = .reg k i off r ∧ regLocked s.dev (regA k i off) = false

/-- A write of a function lands on some register at an offset of a page. -/
def LandsOn (s : State) (fn : Nat) (k : Blk) (i off : Nat) : Prop := ∃ r, Lands s fn k i off r

/-- A live register as a number. -/
abbrev reg (s : State) (k : Blk) (i off : Nat) : Nat := liveN s.dev k i off

/-- A status bit of a page. -/
def stat (s : State) (k : Blk) (i bit : Nat) : Bool := bitOf (liveN s.dev k i 0x20) bit

/-- Nothing but the block proper changes: the queue, the measurement slots and the TAP are as before. -/
def Aside (s t : State) : Prop := t.pending = s.pending ∧ t.meas = s.meas ∧ t.tap = s.tap

/-- The state with another block proper. -/
abbrev on (s : State) (d : Dev) : State := { s with dev := d }

end Sys2Proof.Claims

open Sys2Proof Sys2Proof.Machine Sys2Proof.Claims

/-! ### The step -/

/-- A step takes the command at the front of the queue and answers what exec answers for it on the state with the queue's
rest: commands run first in, first out. -/
def Obligations.StepRunsFront : Prop :=
  ∀ (s : State) (c : Instr) (rest : List Instr),
    step { s with pending := c :: rest } = exec c { s with pending := rest }


/-- Every command, in every state, answers a next state, and leaves the queue as it found it: no command stops the block.
On an empty queue the block idles: the step answers a next state in which only the time has moved, by one shore cycle
(the model's choice, log 2). -/
def Obligations.EveryStepAnswers : Prop :=
  (∀ (c : Instr) (s : State), ∃ t, exec c s = .next t ∧ t.pending = s.pending) ∧
  (∀ s : State, s.pending = [] →
    ∃ t, step s = .next t ∧ t = { s with dev := { s.dev with now := s.dev.now + 1 } })

/-- Right after reset READY is 0 and no firmware start has been recorded, RIPPLE_TMO is 10,000, every outlet ring's PHASE is 1
with its tail at 0, basin 0 is ACTIVE and every other basin FREE, no request, job, version or handle exists, and no slot
holds a measurement. -/
def Obligations.ResetValues : Prop :=
  isReady State.reset.dev = false ∧ reg State.reset .ripple 0 0x110 = 10000 ∧
  (∀ b j, b < 64 → j < 16 → outTail State.reset.dev b j = 0 ∧ outPhase State.reset.dev b j = true) ∧
  basinState State.reset.dev 0 = 1 ∧ (∀ b, 0 < b → b < 64 → basinState State.reset.dev b = 0) ∧
  State.reset.dev.reqs = [] ∧ State.reset.dev.jobs.ctxs = [] ∧ State.reset.dev.txn.versions = [] ∧
  State.reset.dev.eng.handles = [] ∧ (∀ n, slotOf State.reset n = 0) ∧ State.reset.meas.log = []

/-! ### BAR0 (chapters 00 and 04) -/


/-- A 4-byte BAR0 write that does not land changes nothing but what the rules name: one that the module does not answer, or to
an unmapped or unreachable offset, changes nothing; one to a register that a VF may not write counts in GLB_BADACC; one that
a lock refuses counts in the refused writes; one to a register that an active transaction locks is held.
A 4-byte write that lands on a register without behaviour of its own. One with RWS bits changes only the staged copy, in its
RWS bits, and marks the page pending, where no arming of it waits: every live word is as before. One with plain RW bits changes only the live word, in its RW
bits. In both cases every other register and everything outside the registers is as before.
Rows that complete here: regWrite (REG_WRITE). -/
def Obligations.RegisterWrites : Prop :=
  (∀ (s : State) (fn a : Nat) (v : W64), a % 4 = 0 →
    (answers s.dev fn (a / 0x1000) = false → exec (.regWrite fn a 4 v []) s = .next s) ∧
    (Reach s fn (a / 0x1000) →
      (writeTarget s.dev fn a = .discard → exec (.regWrite fn a 4 v []) s = .next s) ∧
      (writeTarget s.dev fn a = .bad → exec (.regWrite fn a 4 v []) s = .next (on s (count s.dev .glb 0 0x100 1))) ∧
      (writeTarget s.dev fn a = .lockedOut → exec (.regWrite fn a 4 v []) s = .next (on s (count s.dev .glb 0 0x104 1))) ∧
      (∀ k i off r, writeTarget s.dev fn a = .reg k i off r → regLocked s.dev a = true →
        exec (.regWrite fn a 4 v []) s = .next (on s ({ s.dev with txn := { s.dev.txn with held := s.dev.txn.held ++ [⟨fn, a, v.setWidth 32, []⟩] } }))))) ∧
  (∀ (s : State) (fn i off : Nat) (k : Blk) (r : RegDef) (v : W64), off < 0x1000 → regA k i off % 4 = 0 →
    Lands s fn k i off r → actWrite s fn k i off (v.setWidth 32) [] = none →
    (r.rws ≠ 0 → ∃ t, exec (.regWrite fn (regA k i off) 4 v []) s = .next t ∧ Aside s t ∧
      staged t.dev (regA k i off) = merge32 (staged s.dev (regA k i off)) (BitVec.ofNat 32 r.rws) (v.setWidth 32) ∧
      (∀ a, a ≠ regA k i off → staged t.dev a = staged s.dev a) ∧ (∀ a, live t.dev a = live s.dev a) ∧
      ((∀ w ∈ s.dev.regs.waiting, w.1 ≠ pageNo k i) → pageNo k i ∈ t.dev.regs.pendingPages) ∧
      t.dev = { s.dev with regs := t.dev.regs }) ∧
    (r.rws = 0 → r.w1c = 0 → r.oneway = 0 → off ≠ 0x28 → r.rw ≠ 0 →
      ∃ t, exec (.regWrite fn (regA k i off) 4 v []) s = .next t ∧ Aside s t ∧
        live t.dev (regA k i off) = merge32 (live s.dev (regA k i off)) (BitVec.ofNat 32 r.rw) (v.setWidth 32) ∧
        (∀ a, a ≠ regA k i off → live t.dev a = live s.dev a) ∧ (∀ a, staged t.dev a = staged s.dev a) ∧
        t.dev = { s.dev with regs := t.dev.regs }))



/-- BLK_STAT_RC, TXN_LAST_LO and SPR_NOW_LO complete for every access size. A 4-byte read of BLK_STAT_RC returns the status as
it was before the page's cycle and clears it, but for the bits that hardware sets in the same cycle, which are set afterwards (R9). An aligned 8-byte
read is two 4-byte reads, the lower offset first; a read of another size or alignment returns zero, clears nothing and counts
in GLB_BADACC (R102).
A 4-byte read of TXN_LAST_LO returns the low half of the last commit number and latches its high half in TXN_LAST_HI; a 4-byte
read of SPR_NOW_LO returns bits [31:0] of SPR_NOW and latches bits [47:32] in SPR_NOW_HI. Nothing else changes but the data
returned.
The rows THERM_PEAK and ERRLOG_HEAD complete: THERM_PEAK takes the value written, in its 8 bits; the error log's head doorbell takes the record index, in its 14 bits.
Every other register is as before.
Rows that complete here: blkStatRc (BLK_STAT_RC), txnLastLo (TXN_LAST_LO), sprNowLo (SPR_NOW_LO), thermPeak
(THERM_PEAK), errlogHead (ERRLOG_HEAD). -/
def Obligations.ImmediateAndReadRows : Prop :=
  ((∀ (s : State) (fn i : Nat) (k : Blk) (hw : List HwSet), pageOf (pageNo k i) = some (k, i) → reaches fn k i = true →
    Reach s fn (pageNo k i) → (∀ h ∈ hw, h.bit < 32 ∧ bitOf k.statMask h.bit = true) →
    ∃ t, exec (.blkStatRc fn ⟨pageNo k i, 0x24, 4⟩ hw) s = .next t ∧ Aside s t ∧
      t.dev.host.readData = s.dev.host.readData ++ [live s.dev (regA k i 0x20) &&& ~~~ freshNow s.dev k 0x20] ∧
      (∀ b, b < 32 → (live t.dev (regA k i 0x20)).getLsbD b = (setsNow s.dev k 0x20 ++ hw).any (fun h => decide (h.bit = b)))) ∧
  (∀ (s : State) (fn page off : Nat) (hw : List HwSet), off % 8 = 0 →
    ∃ t u, exec (.blkStatRc fn ⟨page, off, 4⟩ []) s = .next t ∧ exec (.blkStatRc fn ⟨page, off + 4, 4⟩ hw) t = .next u ∧
      exec (.blkStatRc fn ⟨page, off, 8⟩ hw) s = .next u) ∧
  (∀ (s : State) (fn off size : Nat) (c : Instr), c ∈ [.blkStatRc fn ⟨2, off, size⟩ [], .txnLastLo ⟨fn, off, size⟩, .sprNowLo ⟨fn, off, size⟩] →
    linkUp s.dev fn = true → isReady s.dev = true → ¬(size = 4 ∧ off % 4 = 0) → ¬(size = 8 ∧ off % 8 = 0) →
    exec c s = .next (on s (giveData (count s.dev .glb 0 0x100 1) 0)))) ∧
  (∀ s : State,
    (Reach s 0 2 → exec (.txnLastLo ⟨0, 0x100, 4⟩) s =
      .next (on s (giveData (setLiveN s.dev .txn 0 0x104 (s.dev.txn.last / 2 ^ 32)) (BitVec.ofNat 32 s.dev.txn.last)))) ∧
    (Reach s 0 3 → exec (.sprNowLo ⟨0, 0x100, 4⟩) s =
      .next (on s (giveData (setLiveN s.dev .spr 0 0x104 (sprNow s.dev / 2 ^ 32 % 65536)) (BitVec.ofNat 32 (sprNow s.dev)))))) ∧
  (∀ (s : State) (fn : Nat) (v : W32),
    (LandsOn s fn .therm 0 0x11C → exec (.thermPeak fn v) s = .next (on s (setLive s.dev (regA .therm 0 0x11C) (merge32 (live s.dev (regA .therm 0 0x11C)) 0xFF v)))) ∧
    (LandsOn s fn .errlog 0 0x104 → exec (.errlogHead fn v) s = .next (on s (setLive s.dev (regA .errlog 0 0x104) (merge32 (live s.dev (regA .errlog 0 0x104)) 0x3FFF v)))))



/-- RIPPLE_FIRE of one group by PF0. While a fire of the group is in progress the fire is queued, and one more merges with the
queued one. Otherwise each of the group's members is armed, or waits for its turn, and the fire is in progress from now; a group without members completes at
once, its count rises by one and its DONE bit is set.
RIPPLE_TMO takes the value written at once. With no fire in progress nothing else changes; a fire in progress whose members
have been pending for the new threshold makes the write set the SLOW status bit.
A fire that reaches RIPPLE_TMO microseconds with a member that has not applied becomes slow: the clock stands at the
threshold, SLOW is set, and the fire names that member; it stays in progress.
Rows that complete here: rippleTmo (RIPPLE_TMO), rippleFire (RIPPLE_FIRE), rippleSlow (RIPPLE_SLOW). -/
def Obligations.RippleFiresAndThreshold : Prop :=
  (∀ (s : State) (g : Nat) (v : W32), g < 16 → v = BitVec.ofNat 32 (2 ^ g) → LandsOn s 0 .ripple 0 0x100 →
    ((∃ f ∈ s.dev.regs.fires, f.group = g) → g ∉ s.dev.regs.queued →
      exec (.rippleFire 0 v) s = .next (on s ({ s.dev with regs := { s.dev.regs with queued := s.dev.regs.queued ++ [g] } }))) ∧
    ((∃ f ∈ s.dev.regs.fires, f.group = g) → g ∈ s.dev.regs.queued → exec (.rippleFire 0 v) s = .next s) ∧
    ((∀ f ∈ s.dev.regs.fires, f.group ≠ g) → membersOf s.dev g ≠ [] → ∃ t, exec (.rippleFire 0 v) s = .next t ∧ Aside s t ∧
      t.dev.regs.fires = s.dev.regs.fires ++ [⟨g, membersOf s.dev g, s.dev.now, false, 0⟩] ∧
      (∀ p ∈ membersOf s.dev g, (∃ a ∈ t.dev.regs.armed, a.page = p ∧ g ∈ a.groups) ∨ (p, some g) ∈ t.dev.regs.waiting) ∧
      t.dev.regs.live = s.dev.regs.live ∧ t.dev = { s.dev with regs := t.dev.regs }) ∧
    ((∀ f ∈ s.dev.regs.fires, f.group ≠ g) → membersOf s.dev g = [] → ∃ t, exec (.rippleFire 0 v) s = .next t ∧ Aside s t ∧
      t.dev.regs.fires = s.dev.regs.fires ∧
      live t.dev (regA .ripple 0 (0x140 + 4 * g)) = live s.dev (regA .ripple 0 (0x140 + 4 * g)) + 1 ∧
      (live t.dev (regA .ripple 0 0x118)).getLsbD g = true ∧ stat t .ripple 0 0 = true)) ∧
  (∀ (s : State) (fn : Nat) (v : W32), LandsOn s fn .ripple 0 0x110 →
    ∃ t, exec (.rippleTmo fn v) s = .next t ∧ Aside s t ∧ reg t .ripple 0 0x110 = v.toNat % 2 ^ 24 ∧
      (s.dev.regs.fires = [] → t.dev = setLiveN s.dev .ripple 0 0x110 (v.toNat % 2 ^ 24)) ∧
      ((∃ f ∈ s.dev.regs.fires, overdue (setLiveN s.dev .ripple 0 0x110 (v.toNat % 2 ^ 24)) f = true) → stat t .ripple 0 1 = true)) ∧
  (∀ (s : State) (f : Fire) (lag : Nat), s.dev.regs.fires.find? (fun x => decide (x.group = f.group)) = some f → f.slow = false →
    lag ∈ f.members → liveN s.dev .ripple 0 0x110 % 2 ^ 24 ≠ 0 →
    ∃ t, exec (.rippleSlow f.group lag) s = .next t ∧ Aside s t ∧ stat t .ripple 0 1 = true ∧
      t.dev.now = max s.dev.now (f.start + usCycles (liveN s.dev .ripple 0 0x110 % 2 ^ 24)) ∧
      t.dev.regs.fires.find? (fun x => decide (x.group = f.group)) = some { f with slow := true, laggard := lag } ∧
      t.dev.regs.staged = s.dev.regs.staged ∧ t.dev.mem = s.dev.mem ∧ t.dev.reqs = s.dev.reqs)


/-- An armed block at its safe boundary applies the values that it captured; one that is not at its boundary waits and nothing
changes. For a page whose apply does nothing else, the live words become the captured values, the arming ends, and what waited
for it starts.
RING_APPLY of an armed RING page at its safe boundary: the captured values become live, and every inlet ring whose values
change has its head and tail set to 0, every such outlet ring its head and tail to 0 and its PHASE to 1.
Rows that complete here: ringApply (RING_APPLY), blockApply (BLOCK_APPLY). -/
def Obligations.ArmedBlocksApply : Prop :=
  (∀ (s : State) (k : Blk) (i : Nat) (a : Arming), pageOf a.page = some (k, i) →
    s.dev.regs.armed.find? (fun x => decide (x.page = a.page)) = some a →
    (atBoundary s.dev k i a.values = false → exec (.blockApply a.page) s = .next s) ∧
    (atBoundary s.dev k i a.values = true → k ∈ [Blk.pwr, .therm, .walk, .sort, .msort, .tok, .gen, .gram, .flc, .sync, .weir, .hbm, .ndl, .fwp] →
      exec (.blockApply a.page) s = .next (on s (startHeld (armingDone (landValues s.dev a.values) a) k)) ∧
      ((a.values.map (·.1)).Nodup → ∀ x ∈ a.values, live (landValues s.dev a.values) x.1 = x.2))) ∧
  (∀ (s : State) (b : Nat) (a : Arming), b < 64 → a.page = pageNo .ring b →
    s.dev.regs.armed.find? (fun x => decide (x.page = a.page)) = some a →
    (atBoundary s.dev .ring b a.values = false → exec (.ringApply b) s = .next s) ∧
    (atBoundary s.dev .ring b a.values = true →
      let d := ringRestart (landValues s.dev a.values) s.dev b a.values
      exec (.ringApply b) s = .next (on s (armingDone d a)) ∧
      (∀ i, i < 16 → ringChanged a.values s.dev (inOffs b i) = true → inTailIdx d b i = 0 ∧ inHead d b i = 0) ∧
      (∀ j, j < 16 → ringChanged a.values s.dev (outOffs b j) = true →
        outHeadIdx d b j = 0 ∧ outTail d b j = 0 ∧ outPhase d b j = true)))

/-- Three copies agree, or have no majority. -/
def Sys2Proof.Claims.Voted (a b c : Nat) : Prop := (a = b ∧ b = c) ∨ vote a b c = none

/-- What a scrub leaves: a field whose copies differ has no majority (R116). A register's differing copies are held once. -/
def Sys2Proof.Claims.Scrubbed (d : Dev) : Prop :=
  (d.regs.tmr.map (fun t => (t.off, t.staged))).Nodup ∧
  (∀ t ∈ d.regs.tmr, ∀ f ∈ tmrFields t.off,
    Voted (bitsOf (SMap.get regReset (if t.staged then d.regs.staged else d.regs.live) t.off).toNat f.1 f.2) (bitsOf t.b.toNat f.1 f.2) (bitsOf t.c.toNat f.1 f.2)) ∧
  (∀ x ∈ d.flash.dieTmr, Voted (dieRaw d x.1).epoch x.2.1 x.2.2)

/-- The staged or the live word of a register. -/
def Sys2Proof.Claims.view (d : Dev) (st : Bool) (a : Nat) : W32 := if st then staged d a else live d a


/-- TMR_SCRUB completes. Where nothing has changed it changes nothing. After a scrub, a change in one copy of any register with
TMR fields (staged or live), or of a die's epoch, is outvoted: the register reads as before, its copies agree again, and GLB
counts one mismatch for each field that the change touched.
A field of any TMR register whose three copies come to differ has no majority: it reads zero until it is written again, while
every other field reads as before; BLK_VOTE of the register's page has NOMAJ set, and GLB counts it once. A read of the live
register by PF0 marks BLK_VOTE again (R117).
Rows that complete here: blkStatRc (BLK_STAT_RC), tmrScrub (TMR_SCRUB). -/
def Obligations.ScrubRepairsOneCopy : Prop :=
  ((∀ s : State, s.dev.regs.tmr = [] → s.dev.flash.dieTmr = [] → exec (.tmrScrub []) s = .next s) ∧
  (∀ (s : State) (a copy : Nat) (bits : W32) (st : Bool), Scrubbed s.dev → a ≠ dieReg → flipOk ⟨a, 0, st, copy, bits⟩ = true →
    copiesOf s.dev st a = none →
    ∃ t, exec (.tmrScrub [⟨a, 0, st, copy, bits⟩]) s = .next t ∧ Aside s t ∧ view t.dev st a = view s.dev st a ∧
      copiesOf t.dev st a = none ∧
      live t.dev (regA .glb 0 0x108) = live s.dev (regA .glb 0 0x108) +
        BitVec.ofNat 32 ((tmrFields a).filter (fun f => decide (bitsOf bits.toNat f.1 f.2 ≠ 0))).length) ∧
  (∀ (s : State) (n copy : Nat) (bits : W32), Scrubbed s.dev → n < 256 → copy < 3 → dieCopies s.dev n = none → bits.toNat / 65536 ≠ 0 →
    ∃ t, exec (.tmrScrub [⟨dieReg, n, false, copy, bits⟩]) s = .next t ∧ Aside s t ∧ dieAt t.dev n = dieAt s.dev n ∧
      dieCopies t.dev n = none ∧ live t.dev (regA .glb 0 0x108) = live s.dev (regA .glb 0 0x108) + 1)) ∧
  ((∀ (s : State) (k : Blk) (i off : Nat) (st : Bool) (f : Nat × Nat) (x y : W32), Scrubbed s.dev → pageOf (pageNo k i) = some (k, i) → off < 0x1000 →
    regA k i off ≠ dieReg → flipOk ⟨regA k i off, 0, st, 1, x⟩ = true → f ∈ tmrFields (regA k i off) → copiesOf s.dev st (regA k i off) = none →
    x &&& ~~~ BitVec.ofNat 32 (fieldMask f.1 f.2) = 0 → y &&& ~~~ BitVec.ofNat 32 (fieldMask f.1 f.2) = 0 → x ≠ 0 → y ≠ 0 → x ≠ y →
    ∃ t, exec (.tmrScrub [⟨regA k i off, 0, st, 1, x⟩, ⟨regA k i off, 0, st, 2, y⟩]) s = .next t ∧ Aside s t ∧
      view t.dev st (regA k i off) = view s.dev st (regA k i off) &&& ~~~ BitVec.ofNat 32 (fieldMask f.1 f.2) ∧
      fieldLost t.dev st (regA k i off) f = true ∧ bitOf (reg t k i 0x40) 1 = true ∧
      live t.dev (regA .glb 0 0x10C) = live s.dev (regA .glb 0 0x10C) + 1 ∧
      live t.dev (regA .glb 0 0x108) = live s.dev (regA .glb 0 0x108)) ∧
  (∀ (s : State) (k : Blk) (i off : Nat) (r : RegDef), Reach s 0 (pageNo k i) → pageOf (pageNo k i) = some (k, i) → off < 0x800 → off % 4 = 0 →
    regAt k i off = some r → r.rws = 0 → mirrorOf k i off = i → regA k i off ≠ dieReg → noMajority s.dev (regA k i off) = true →
    ∃ t, exec (.blkStatRc 0 ⟨pageNo k i, off, 4⟩ []) s = .next t ∧ Aside s t ∧ bitOf (reg t k i 0x40) 1 = true ∧
      (∀ a, a ≠ regA k i 0x40 → live t.dev a = live s.dev a) ∧ (∀ a, staged t.dev a = staged s.dev a) ∧
      t.dev.host.readData = s.dev.host.readData ++ [regRead s.dev (regA k i off)]))

/-! ### Rings, blocks and completions (chapter 03) -/



/-- An IN_TAIL value below 2^s becomes the ring's tail; a larger one leaves the tail and counts in RING_DBERR with DB_RANGE set.
An OUT_HEAD value from the live head to the tail, counted forward modulo 2^s, becomes the ring's head; any other leaves it and
counts in the same way. Nothing else changes.
A RING_ENABLE write acts bit by bit: bit n of the register becomes the bit written, but stays 0 for a ring whose live
LOG2SIZE lies outside 6 to 16. Every other register is as before. An outlet ring that a failed write disabled is no longer
failed when it is enabled; with no failed ring in the basin nothing else changes.
A write of 1 to RING_CTL.APPLY arms the RING page alone: a page that is not armed captures its staged values and is no longer
pending; an armed page, or one with a staged field that has no majority, waits for its turn. Every live word is as before.
Rows that complete here: inTail (IN_TAIL), outHead (OUT_HEAD), ringEnable (RING_ENABLE), apply (APPLY). -/
def Obligations.RingRegisterWrites : Prop :=
  (∀ (s : State) (fn b r : Nat) (v : W32), b < 64 → r < 16 →
    (LandsOn s fn .ring b (0x20C + 0x20 * r) →
      exec (.inTail fn b r v) s = .next (on s (if v.toNat % 65536 < 2 ^ inSize s.dev b r then setLiveN s.dev .ring b (0x20C + 0x20 * r) (v.toNat % 65536)
        else setStat (count s.dev .ring b 0x114 1) .ring b 0 b))) ∧
    (LandsOn s fn .ring b (0x40C + 0x20 * r) →
      exec (.outHead fn b r v) s = .next (on s (let n := 2 ^ outSize s.dev b r
        let h := v.toNat % 65536
        let old := outHeadIdx s.dev b r
        if h < n ∧ (h + n - old % n) % n ≤ (outTail s.dev b r + n - old % n) % n then setLiveN s.dev .ring b (0x40C + 0x20 * r) h
        else setStat (count s.dev .ring b 0x114 1) .ring b 0 b)))) ∧
  (∀ (s : State) (fn b : Nat) (v : W32), b < 64 → LandsOn s fn .ring b 0x104 →
    ∃ t, exec (.ringEnable fn b v) s = .next t ∧ Aside s t ∧
      (∀ n, n < 32 → ringEnabled t.dev b n =
        (v.getLsbD n && (if n < 16 then sizeOk (inSize s.dev b n) else sizeOk (outSize s.dev b (n - 16))))) ∧
      (∀ a, a ≠ regA .ring b 0x104 → live t.dev a = live s.dev a) ∧
      (∀ x ∈ t.dev.host.failed, x ∈ s.dev.host.failed ∧ ¬(x.1 = b ∧ ringEnabled t.dev b (16 + x.2) = true)) ∧
      ((∀ x ∈ s.dev.host.failed, x.1 ≠ b) → t.dev = { s.dev with regs := t.dev.regs })) ∧
  (∀ (s : State) (fn b : Nat) (v : W32), b < 64 → LandsOn s fn .ring b 0x100 → v.getLsbD 0 = true →
    (isArmed s.dev .ring b = false → stagedWaits s.dev .ring b = false →
      exec (.apply fn b v) s = .next (on s ({ s.dev with regs := { s.dev.regs with
        armed := s.dev.regs.armed ++ [⟨pageNo .ring b, [], captureStaged s.dev .ring b⟩],
        pendingPages := s.dev.regs.pendingPages.filter (fun p => !decide (p = pageNo .ring b)) } }))) ∧
    ((isArmed s.dev .ring b || stagedWaits s.dev .ring b) = true →
      exec (.apply fn b v) s = .next (on s ({ s.dev with regs := { s.dev.regs with
        waiting := s.dev.regs.waiting ++ [(pageNo .ring b, none)] } }))))


/-- A BAR2 write of at most 4 KiB that crosses no 4 KiB boundary. To a block that the module holds, it is discarded, BAR2_VIOL is
set and RING_VIOL rises by one; to any other block of a basin that exists, its bytes land in the window and every byte outside
them reads as before.
Rows that complete here: bar2Write (BAR2_WRITE). -/
def Obligations.ShoreWindowWrites : Prop :=
  ∀ (s : State) (fn off : Nat) (bs : List Byte), Reach s fn 0 → bs ≠ [] → off + bs.length ≤ 2 ^ 26 →
    off % 4096 + bs.length ≤ 4096 → (fn = 0 ∨ (basinState s.dev fn ≠ 0 ∧ basinState s.dev fn ≠ 3)) →
    ((isHeld s.dev fn (off / 65536) || logHolds s.dev fn (off / 65536)) = true →
      exec (.bar2Write fn off bs) s = .next (on s (setStat (count s.dev .ring fn 0x110 1) .ring fn 1 fn))) ∧
    ((isHeld s.dev fn (off / 65536) || logHolds s.dev fn (off / 65536)) = false →
      ∃ t, exec (.bar2Write fn off bs) s = .next t ∧ Aside s t ∧ Mem.readN t.dev.mem.shore (fn * 2 ^ 26 + off) bs.length = bs ∧
        (∀ x, (x < fn * 2 ^ 26 + off ∨ fn * 2 ^ 26 + off + bs.length ≤ x) → Mem.read t.dev.mem.shore x = Mem.read s.dev.mem.shore x) ∧
        t.dev.regs = s.dev.regs ∧ t.dev.host = s.dev.host ∧ t.dev.reqs = s.dev.reqs)

/-! ### Admission, streamed input and completions (chapters 01 and 03) -/

/-- The ring engine's turn is ring i of basin b; it has read a whole descriptor of an opcode there, for a free tag slot. -/
def Sys2Proof.Claims.Turn (s : State) (f : Fetch) (slot b i op : Nat) : Prop :=
  b < 64 ∧ i < 16 ∧ inSize s.dev b i ≤ 16 ∧ nextTurn s.dev = some (b, i) ∧ isReady s.dev = true ∧ slotFree s.dev slot = true ∧
  f.desc.length = 64 ∧
  (if opDefined s.dev b (Desc.opcode f.desc) then Desc.opcode f.desc else 0) = op

/-- A descriptor that fails a check of admission, with the class of the first check that fails: the ring's head moves on, a
completion of that class without a tag is queued on the bound outlet ring, and no request, block or memory changes. An opcode
that the basin has not always fails.
Rows that complete here: undefinedOpcode (UNDEFINED_OPCODE). -/
def Obligations.RefusedDescriptors : Prop :=
  ∀ (s : State) (f : Fetch) (slot b i op : Nat) (c : Instr), (op, c) ∈ [(0, Instr.undefinedOpcode f slot), (1, .query f slot), (2, .search f slot),
      (3, .embed f slot), (4, .rerank f slot), (5, .generate f slot), (6, .continue f slot), (7, .park f slot),
      (8, .releaseHandle f slot), (9, .gather f slot), (10, .scatterMerge f slot), (11, .runJob f slot), (12, .txn f slot),
      (13, .cancel f slot)] → Turn s f slot b i op →
    (∀ cls, admitCheck s.dev b f = some cls → ∃ t, exec c s = .next t ∧ Aside s t ∧
      inHead t.dev b i = (inHead s.dev b i + 1) % 2 ^ inSize s.dev b i ∧ t.dev.reqs = s.dev.reqs ∧
      t.dev.host.held = s.dev.host.held ∧ t.dev.mem = s.dev.mem ∧
      t.dev.host.comps = s.dev.host.comps ++ [⟨b, boundRing s.dev b i, none, noTag, Desc.cookie f.desc, cls, 0, 0, 0, 0, s.dev.now⟩]) ∧
    (op = 0 → ∃ cls, admitCheck s.dev b f = some cls ∧ (basinState s.dev b = 1 → cls = 0x11))

/-- A descriptor that passes every check becomes a request: it takes the tag slot with the next reuse count, its blocks are held,
and the head moves on. A QUERY or GENERATE that cites a handle of its basin takes a hold on it; one that cites none that lives
ends with PREFIX_EXPIRED. A TXN waits for its engine, a GATHER or SCATTER_MERGE goes to a gather engine, and a RUN_JOB whose
window fits some mere enters its basin's queue; where more input is to come, each of these three first awaits it, and a
SCATTER_MERGE has its place among the merges already.
Rows that complete here: query (QUERY), search (SEARCH), embed (EMBED), rerank (RERANK), generate (GENERATE), gather
(GATHER), scatterMerge (SCATTER_MERGE), runJob (RUN_JOB), txn (TXN). -/
def Obligations.Admissions : Prop :=
  ∀ (s : State) (f : Fetch) (slot b i op : Nat) (c : Instr), (op, c) ∈ [(0, Instr.undefinedOpcode f slot), (1, .query f slot), (2, .search f slot),
      (3, .embed f slot), (4, .rerank f slot), (5, .generate f slot), (6, .continue f slot), (7, .park f slot),
      (8, .releaseHandle f slot), (9, .gather f slot), (10, .scatterMerge f slot), (11, .runJob f slot), (12, .txn f slot),
      (13, .cancel f slot)] → Turn s f slot b i op →
    admitCheck s.dev b f = none →
    (op ∈ [2, 3, 4, 9, 10, 12] ∨ ((op = 1 ∨ op = 5) ∧ Desc.handle f.desc = 0) → ∃ t r, exec c s = .next t ∧ Aside s t ∧
      t.dev.reqs = s.dev.reqs ++ [r] ∧ r.slot = slot ∧ r.count = nextCount slot (SMap.get (fun _ => 0) s.dev.tagCounts slot) ∧
      r.basin = b ∧ r.outRing = boundRing s.dev b i ∧ r.desc = f.desc ∧ r.admitted = s.dev.now ∧ r.ended = none ∧ r.hold = none ∧
      t.dev.host.held = s.dev.host.held ++ holdBlocks b slot f ∧ t.dev.host.comps = s.dev.host.comps ∧
      inHead t.dev b i = (inHead s.dev b i + 1) % 2 ^ inSize s.dev b i ∧ t.dev.mem = s.dev.mem ∧
      t.dev.txn.waiting = s.dev.txn.waiting ++ (if op = 12 then [slot] else []) ∧
      (op = 9 ∨ op = 10 → Desc.more f.desc = false → ∃ g, t.dev.eng.gaths = s.dev.eng.gaths ++ [g] ∧ g.slot = some slot ∧
        g.merge = decide (op = 10) ∧ g.phase = .queued) ∧
      (op = 9 → Desc.more f.desc = true → t.dev.eng.gaths = s.dev.eng.gaths) ∧
      (op = 10 → Desc.more f.desc = true → ∃ g, t.dev.eng.gaths = s.dev.eng.gaths ++ [g] ∧ g.slot = some slot ∧ g.merge = true ∧ g.valid = false) ∧
      (op = 9 ∨ op = 10 → Desc.more f.desc = true → r.stage = .input ∧ r.awaiting = true)) ∧
    (op = 11 → Desc.more f.desc = true → ∃ t r, exec c s = .next t ∧ Aside s t ∧ t.dev.reqs = s.dev.reqs ++ [r] ∧ r.slot = slot ∧
      r.desc = f.desc ∧ r.stage = .input ∧ r.awaiting = true ∧ t.dev.jobs = s.dev.jobs ∧ t.dev.mem = s.dev.mem) ∧
    (op = 1 ∨ op = 5 → Desc.handle f.desc ≠ 0 →
      (findHandle s.dev (Desc.handle f.desc) b = none → ∃ t r, exec c s = .next t ∧ Aside s t ∧ findReq t.dev slot = some r ∧
        r.ended = some 0x22 ∧ r.outLen = 0 ∧ r.outCount = 0) ∧
      (∀ h, findHandle s.dev (Desc.handle f.desc) b = some h → ∃ t r, exec c s = .next t ∧ Aside s t ∧
        findReq t.dev slot = some r ∧ r.ended = none ∧ r.hold = some h.idx ∧
        (∃ h', t.dev.eng.handles.find? (fun x => decide (x.idx = h.idx)) = some h' ∧ h'.st = .held ∧ slot ∈ h'.holds))) ∧
    (op = 11 → Desc.more f.desc = false → (∀ x, imgHeader s.dev b (Desc.opspec f.desc) = .ok x → headerOk x = true → Img.dbuf x ≤ jobPool s.dev 0 ∧ Img.gang x = false) →
      (bindOf s.dev b).1 = 0 → (∀ x ∈ s.dev.jobs.ctxs, x.id ≠ s.dev.eng.nextId) → ∃ t r x, exec c s = .next t ∧ Aside s t ∧
      t.dev.reqs = s.dev.reqs ++ [r] ∧ r.slot = slot ∧ r.desc = f.desc ∧ r.ended = none ∧ t.dev.jobs.ctxs = s.dev.jobs.ctxs ++ [x] ∧
      x.slot = slot ∧ x.basin = b ∧ x.prio = r.prio ∧ x.phase = .queued ∧ x.image = Desc.opspec f.desc ∧ t.dev.mem = s.dev.mem)

/-- Control descriptors complete at admission, with the target's state changed. CONTINUE adds its input to an awaiting request
whose input time has not run out, and resumes it. PARK of an awaiting request parks it, COUNT 1; of any other it completes with
COUNT 0. CANCEL makes its target due to end with CANCELLED, at once where it stands at a step boundary, COUNT 1; a CONTINUE as
its target goes on. Where no
live request of the basin has the target's tag, PARK and CANCEL complete DONE with COUNT 0 and CONTINUE with INPUT_MALFORMED. RELEASE_HANDLE
frees a handle that nobody holds and marks a held one; a handle that does not live is PREFIX_EXPIRED.
Rows that complete here: continue (CONTINUE), park (PARK), releaseHandle (RELEASE_HANDLE), cancel (CANCEL). -/
def Obligations.ControlDescriptors : Prop :=
  ∀ (s : State) (f : Fetch) (slot b i op : Nat) (c : Instr), (op, c) ∈ [(0, Instr.undefinedOpcode f slot), (1, .query f slot), (2, .search f slot),
      (3, .embed f slot), (4, .rerank f slot), (5, .generate f slot), (6, .continue f slot), (7, .park f slot),
      (8, .releaseHandle f slot), (9, .gather f slot), (10, .scatterMerge f slot), (11, .runJob f slot), (12, .txn f slot),
      (13, .cancel f slot)] → Turn s f slot b i op →
    admitCheck s.dev b f = none → (s.dev.reqs.map (·.slot)).Nodup →
    (∀ x, findReq s.dev (Desc.target f.desc % 2 ^ 20) = some x → x.tag.toNat = Desc.target f.desc → x.basin = b → x.live = true →
      (op = 6 → x.awaiting = true → s.dev.now < x.lastInput + msCycles (Prof.inputTtl (Req.prof s.dev x)) →
        ∃ t, exec c s = .next t ∧ Aside s t ∧ findReq t.dev x.slot = some { x with
          bufs := x.bufs ++ [slot], lastInput := s.dev.now, parked := false, awaiting := Desc.more f.desc } ∧
          (∃ r, findReq t.dev slot = some r ∧ r.ended = none)) ∧
      (op = 7 → x.op ≠ 6 → x.hold = none → ∃ t r, exec c s = .next t ∧ Aside s t ∧ findReq t.dev slot = some r ∧ r.ended = some 0 ∧
        r.outCount = (if x.awaiting then 1 else 0) ∧
        findReq t.dev x.slot = some (if x.awaiting then { (x.flag 10) with parked := true } else x)) ∧
      (op = 13 → x.op = 6 → Desc.target x.desc % 2 ^ 20 ≠ slot → ∃ t r, exec c s = .next t ∧ Aside s t ∧ findReq t.dev slot = some r ∧
        r.ended = some 0 ∧ r.outCount = 1 ∧ findReq t.dev x.slot = some x) ∧
      (op = 13 → x.op ≠ 6 → ∃ t r x', exec c s = .next t ∧ Aside s t ∧ findReq t.dev slot = some r ∧ r.ended = some 0 ∧ r.outCount = 1 ∧
        (x.busy = true → findReq t.dev x.slot = some { x with due := x.due ++ [0x70] }) ∧
        (x.busy = false → x.silent = false → findReq t.dev x.slot = some x' ∧ x'.ended = some (firstDue (x.due ++ [0x70]))))) ∧
    ((∀ x ∈ s.dev.reqs, ¬(x.tag.toNat = Desc.target f.desc ∧ x.basin = b ∧ x.live = true)) → op = 6 ∨ op = 7 ∨ op = 13 →
      ∃ t r, exec c s = .next t ∧ Aside s t ∧ findReq t.dev slot = some r ∧ r.ended = some (if op = 6 then 0x11 else 0) ∧ r.outCount = 0) ∧
    (op = 8 → (findHandle s.dev (Desc.handle f.desc) b = none → ∃ t r, exec c s = .next t ∧ Aside s t ∧
        findReq t.dev slot = some r ∧ r.ended = some 0x22) ∧
      (∀ h, findHandle s.dev (Desc.handle f.desc) b = some h → ∃ t r, exec c s = .next t ∧ Aside s t ∧
        findReq t.dev slot = some r ∧ r.ended = some 0 ∧
        (h.holds = [] → ∀ x ∈ t.dev.eng.handles, x.idx ≠ h.idx) ∧
        (h.holds ≠ [] → ∀ x ∈ t.dev.eng.handles, x.idx = h.idx → x.released = true ∧ x.expiry = none)))

/-- Streamed input that stays away: at INPUT_IDLE_MS an awaiting request is parked and its PARKED flag set; at INPUT_TTL_MS it
ends with INPUT_TIMEOUT and an output length of 0, and its completion is queued. A request that awaits no input is left alone.
Rows that complete here: inputIdle (INPUT_IDLE), inputTimeout (INPUT_TIMEOUT). -/
def Obligations.StreamedInputStops : Prop :=
  ∀ (s : State) (slot : Nat) (r : Req), findReq s.dev slot = some r →
    (r.awaiting = false → exec (.inputIdle slot) s = .next s ∧ exec (.inputTimeout slot) s = .next s) ∧
    (r.live = true → r.awaiting = true →
      (r.parked = false → ∃ t, exec (.inputIdle slot) s = .next t ∧ Aside s t ∧ findReq t.dev slot = some { (r.flag 10) with parked := true } ∧
        t.dev.now = max s.dev.now (r.lastInput + msCycles (Prof.inputIdle (Req.prof s.dev r))) ∧ t.dev.mem = s.dev.mem ∧
        t.dev.regs = s.dev.regs) ∧
      (r.silent = false → r.due = [] → (s.dev.reqs.map (·.slot)).Nodup → ∃ t r', exec (.inputTimeout slot) s = .next t ∧ Aside s t ∧
        findReq t.dev slot = some r' ∧ r'.ended = some 0x10 ∧ r'.outLen = 0 ∧
        (∃ x ∈ t.dev.host.comps, x.slot = some slot ∧ x.tag = r.tag ∧ x.cls = 0x10 ∧ x.outLen = 0) ∧
        t.dev.now = max s.dev.now (r.lastInput + msCycles (Prof.inputTtl (Req.prof s.dev r)))))

/-- COMPLETION_WRITE of an enabled outlet ring that is not full writes the 32 bytes of its oldest completion at OUT_TAIL with the
ring's PHASE, moves the tail on by one, PHASE inverting where it wraps, and releases the tag and the blocks; a ring that takes
none, or a completion one of whose blocks awaits its page's remap, leaves everything as it is. The coalescing timer of a ring with
a counted completion forgets the count and sends the ring's vector, if it names one that is not masked.
A DMA read that fails for an enabled inlet ring with an unread descriptor clears the ring's enable bit and sets the page's
status bit 2; a failed write of a completion, or of an input block's flag, clears the outlet ring's enable bit and sets bit 3,
and what was to be written stays held. The head, the tail and the requests are as before.
Rows that complete here: descriptorFetchFail (DESCRIPTOR_FETCH_FAIL), dmaWriteFail (DMA_WRITE_FAIL), completionWrite
(COMPLETION_WRITE), coalUs (COAL_US). -/
def Obligations.CompletionsAndDma : Prop :=
  (∀ (s : State) (b j : Nat), b < 64 → j < 16 → outSize s.dev b j ≤ 16 →
    (∀ c, s.dev.host.comps.find? (fun c => decide (c.basin = b ∧ c.ring = j)) = some c →
      (outReady s.dev b j = false ∨ (∃ slot, c.slot = some slot ∧ awaitsRemap s.dev slot = true) →
        exec (.completionWrite b j) s = .next s) ∧
      (outReady s.dev b j = true → (∀ slot, c.slot = some slot → awaitsRemap s.dev slot = false) →
        let base := liveN s.dev .ring b (0x404 + 0x20 * j) * 2 ^ 32 + liveN s.dev .ring b (0x400 + 0x20 * j)
        let newer := (c.slot.bind (findReq s.dev)).any (newerAvailable s.dev)
        let elapsed := if c.slot.isSome then min 0xFFFFFFFF ((s.dev.now - c.admitted) / Config.cyclesPerUs) else 0
        ∃ t, exec (.completionWrite b j) s = .next t ∧ Aside s t ∧ outTail t.dev b j = (outTail s.dev b j + 1) % 2 ^ outSize s.dev b j ∧
          outPhase t.dev b j = (if (outTail s.dev b j + 1) % 2 ^ outSize s.dev b j = 0 then !outPhase s.dev b j else outPhase s.dev b j) ∧
          t.dev.host.comps = s.dev.host.comps.erase c ∧
          Mem.readN t.dev.host.hostMem (b * 2 ^ 64 + (base + 32 * outTail s.dev b j)) 32 =
            compBytes c (outPhase s.dev b j) (if newer then c.flags ||| 0x4000 else c.flags) elapsed ∧
          (∀ slot, c.slot = some slot → findReq t.dev slot = none) ∧
          (∀ slot r, c.slot = some slot → findReq s.dev slot = some r → ∀ h ∈ t.dev.host.held, h.slot ≠ slot) ∧
          t.dev.mem = s.dev.mem)) ∧
    (∀ c, s.dev.host.coal.find? (fun c => decide (c.basin = b ∧ c.ring = j)) = some c →
      let us := bitsOf (liveN s.dev .ring b (0x408 + 0x20 * j)) 31 24
      let vec := bitsOf (liveN s.dev .ring b (0x408 + 0x20 * j)) 12 8
      (us = 0 → exec (.coalUs b j) s = .next s) ∧
      (us ≠ 0 → ∃ t, exec (.coalUs b j) s = .next t ∧ Aside s t ∧ t.dev.now = max s.dev.now (c.since + usCycles us) ∧
        (∀ x ∈ t.dev.host.coal, ¬(x.basin = b ∧ x.ring = j)) ∧
        t.dev.host.msix = s.dev.host.msix ++ (if vec < 16 ∧ (b, vec) ∉ s.dev.host.masked then [(b, vec)] else []) ∧ t.dev.reqs = s.dev.reqs ∧ t.dev.mem = s.dev.mem))) ∧
  (∀ (s : State) (b r : Nat), b < 64 → r < 16 →
    (ringEnabled s.dev b r = true → inHead s.dev b r ≠ inTailIdx s.dev b r →
      ∃ t, exec (.descriptorFetchFail b r) s = .next t ∧ Aside s t ∧ ringEnabled t.dev b r = false ∧ stat t .ring b 2 = true ∧
        inHead t.dev b r = inHead s.dev b r ∧ inTailIdx t.dev b r = inTailIdx s.dev b r ∧ t.dev.reqs = s.dev.reqs ∧
        t.dev.host.comps = s.dev.host.comps ∧ t.dev.mem = s.dev.mem) ∧
    (writesFor s.dev b r = true →
      ∃ t, exec (.dmaWriteFail b r) s = .next t ∧ Aside s t ∧ ringEnabled t.dev b (16 + r) = false ∧ stat t .ring b 3 = true ∧
        (b, r) ∈ t.dev.host.failed ∧ t.dev.host.held = s.dev.host.held ∧
        outTail t.dev b r = outTail s.dev b r ∧ t.dev.host.comps = s.dev.host.comps ∧ t.dev.reqs = s.dev.reqs ∧
        t.dev.host.hostMem = s.dev.host.hostMem ∧ t.dev.mem = s.dev.mem))

/-! ### The pipeline's stages (chapters 01, 06 to 08, 10 and 11) -/

/-- A request at work: it lives, is not due to end, would end with a completion, and stands alone in its tag slot; the fields
of its basin that its work needs have a majority. -/
def Sys2Proof.Claims.AtWork (s : State) (r : Req) : Prop :=
  findReq s.dev r.slot = some r ∧ r.live = true ∧ r.due = [] ∧ r.silent = false ∧ r.op ≤ 5 ∧
  (s.dev.reqs.map (·.slot)).Nodup ∧ basinWaits s.dev r.basin = false


/-- CUT_PIECE of the only piece of a SEARCH's or EMBED's input cuts it in the encoder's vocabulary: the tokens are those of the
whole piece, and the request enters the embedding stage; its input blocks are returned, but for one whose page awaits its remap.
While the TOK page is armed nothing is cut.
STAGE_JOB_DONE of the embedding stage. An EMBED writes its vector's length and the vector and ends DONE, or ends
LENGTH_LIMIT with nothing written where the output is too short; a SEARCH or QUERY takes its place in the queue for a walker
context. A request whose stage has no job in progress is left alone.
No word of the model's weights in HBM is poisoned.
Rows that complete here: cutPiece (CUT_PIECE), stageJobDone (STAGE_JOB_DONE). -/
def Obligations.CutAndEmbed : Prop :=
  (∀ (s : State) (r : Req) (u : Nat) (v : Version) (voc : Vocab), AtWork s r → r.stage = .input → r.bufs = [r.slot] →
    r.awaiting = false → (r.op = 2 ∨ r.op = 3) → r.pins.enc = some u → findVer s.dev u = some v → vocabOf s.dev v = .ok voc →
    r.cuts = [] → r.input = [] → inPoison s.dev r = false →
    (isArmed s.dev .tok 0 = true → exec (.cutPiece r.slot []) s = .next s) ∧
    (isArmed s.dev .tok 0 = false →
      let bs := inBytes s.dev r
      let ts := (cutPiece voc false true [] bs).tokens
      (ts.length ≤ Prof.maxIn (Req.prof s.dev r) → ∃ t r', exec (.cutPiece r.slot []) s = .next t ∧ Aside s t ∧
        findReq t.dev r.slot = some r' ∧ r'.ended = none ∧ r'.stage = .embed ∧ r'.input = bs ∧ tokensIn r' (some u) = ts ∧
        t.dev.mem.shore = s.dev.mem.shore ∧
        (s.dev.host.failed.contains (r.basin, r.outRing) = false → ∀ h ∈ t.dev.host.held, h.slot = r.slot → h.out = true ∨ h.clear = false)) ∧
      (Prof.maxIn (Req.prof s.dev r) < ts.length → ∃ t r', exec (.cutPiece r.slot []) s = .next t ∧ Aside s t ∧
        findReq t.dev r.slot = some r' ∧ r'.ended = some 0x12 ∧ r'.outLen = 0))) ∧
  (∀ (s : State) (r : Req), AtWork s r →
    (r.busy = false → exec (.stageJobDone ⟨r.slot, []⟩) s = .next s) ∧
    (r.busy = true → r.stage = .embed → workPoison s.dev r .weights = none →
      let q := encodeVec s.dev r
      let n := 16 + 4 * q.length
      (r.op = 3 → n ≤ Desc.outCap r.desc → ∃ t r', exec (.stageJobDone ⟨r.slot, []⟩) s = .next t ∧ Aside s t ∧ findReq t.dev r.slot = some r' ∧
        r'.ended = some 0 ∧ r'.outLen = n ∧ r'.outCount = 1 ∧
        Mem.readN t.dev.mem.shore (shoreAddr r.basin (Desc.outBlock r.desc) 0) n =
          natLe 4 q.length ++ natLe 4 (tokensIn r r.pins.enc).length ++ List.replicate 8 0 ++ q.flatMap (fun x => natLe 4 x.toNat)) ∧
      (r.op = 3 → Desc.outCap r.desc < n → ∃ t r', exec (.stageJobDone ⟨r.slot, []⟩) s = .next t ∧ Aside s t ∧ findReq t.dev r.slot = some r' ∧
        r'.ended = some 0x31 ∧ r'.outLen = 0 ∧ r'.outCount = 0 ∧ t.dev.mem.shore = s.dev.mem.shore) ∧
      (r.op ≤ 2 → Prof.cheap (Req.prof s.dev r) 0 = false → ∃ t r', exec (.stageJobDone ⟨r.slot, []⟩) s = .next t ∧ Aside s t ∧
        findReq t.dev r.slot = some r' ∧ r'.stage = .grant ∧ r'.qvec = q ∧ t.dev.eng.walkWait = s.dev.eng.walkWait ++ [r.slot] ∧
        t.dev.mem = s.dev.mem)))

/-- The walk. The query at the head of the queue takes a context where one and its table slots are free, and any other waits. Its
distance table is that of its codebook and vector, and the walk begins at the entry points. An expansion selects up to W open
entries of the window and issues their reads; while reads are out none is selected. Their arrival applies the records in the
order of selection; where an open entry of the window and hops remain the walk goes on.
Rows that complete here: walkerContextGrant (WALKER_CONTEXT_GRANT), distanceTableBuild (DISTANCE_TABLE_BUILD),
expansion (EXPANSION), nodeReadArrival (NODE_READ_ARRIVAL). -/
def Obligations.WalkStages : Prop :=
  ∀ (s : State) (r : Req), AtWork s r →
    (r.stage = .grant → (s.dev.eng.walkWait.head? ≠ some r.slot ∨ isArmed s.dev .walk 0 = true → exec (.walkerContextGrant r.slot) s = .next s) ∧
      (s.dev.eng.walkWait.head? = some r.slot → isArmed s.dev .walk 0 = false → walkContexts s.dev < 1024 →
        walkSlots s.dev + slotsFor s.dev r ≤ 1536 → ∃ t r', exec (.walkerContextGrant r.slot) s = .next t ∧ Aside s t ∧
        findReq t.dev r.slot = some r' ∧ r'.stage = .table ∧ r'.busy = true ∧ r'.walk.isSome = true ∧
        t.dev.eng.walkWait = s.dev.eng.walkWait.tail ∧ t.dev.mem = s.dev.mem ∧ t.dev.regs = s.dev.regs)) ∧
    (∀ w v, r.walk = some w → Req.named s.dev r.pins.index = some v →
      (∀ cb w', r.stage = .table → vRead s.dev r.basin (Idx.codebook v.desc) (512 * Idx.D v.desc) = .ok cb →
        (let bt := buildTable (Idx.metric v.desc) (Idx.M v.desc) (Idx.D v.desc) r.qvec cb
         startQueue s.dev v { w with table := bt.1, scale := bt.2.1, dmin := bt.2.2 } (Idx.entries v.desc) = .ok w') →
        (w'.queue.take w'.window).any (fun e => decide (e.st = .opened)) = true → w'.expansions < Prof.hopLimit (Req.prof s.dev r) →
        ∃ t, exec (.distanceTableBuild ⟨r.slot, []⟩) s = .next t ∧ Aside s t ∧
          findReq t.dev r.slot = some { r with walk := some w', stage := .walk, busy := false } ∧ t.dev.mem = s.dev.mem) ∧
      (r.stage = .walk → w.reads ≠ [] → exec (.expansion r.slot) s = .next s) ∧
      (r.stage = .walk → w.reads = [] → exec (.nodeReadArrival r.slot []) s = .next s ∧
        ∃ t r' w', exec (.expansion r.slot) s = .next t ∧ Aside s t ∧ findReq t.dev r.slot = some r' ∧ r'.busy = true ∧ r'.walk = some w' ∧
          w'.reads.map (·.id) = (((w.queue.take w.window).filter (fun e => decide (e.st = .opened))).take (Prof.W (Req.prof s.dev r))).map (·.id) ∧
          (∀ x ∈ w'.reads, x.issued = s.dev.now ∧ x.late = false) ∧ t.dev.mem = s.dev.mem) ∧
      (∀ d w', r.stage = .walk → w.reads ≠ [] → w.reads.foldl (applyRecord r v) (s.dev, w, none) = (d, w', none) →
        (w'.queue.take w'.window).any (fun e => decide (e.st = .opened)) = true → w'.expansions + 1 < Prof.hopLimit (Req.prof s.dev r) →
        ∃ t, exec (.nodeReadArrival r.slot []) s = .next t ∧ Aside s t ∧
          findReq t.dev r.slot = some { r with walk := some { w' with reads := [], expansions := w'.expansions + 1 }, busy := false } ∧
          t.dev.mem = s.dev.mem))

/-- Budgets and deadlines. A node read whose budget expires counts, settles its node and flags the request, and the read stays
out as late while others are out. A deadline of a request that its profile lets be cut short at that stage delivers the walk as
it stands, with SHALLOW_SEARCH, leaves the passages unscored, with SHALLOW_RERANK, or chooses the fallback model, with FALLBACK;
at any other stage only the time moves.
Rows that complete here: readBudgetExpiry (READ_BUDGET_EXPIRY), searchDeadline (SEARCH_DEADLINE), rerankDeadline
(RERANK_DEADLINE), modelDeadline (MODEL_DEADLINE). -/
def Obligations.BudgetsAndDeadlines : Prop :=
  ∀ (s : State) (r : Req), AtWork s r →
    (∀ w x node, r.stage = .walk → r.walk = some w → w.reads.find? (fun y => decide (y.id = node) && !y.late) = some x →
      Prof.readBudget (Req.prof s.dev r) ≠ 0 → Prof.cheap (Req.prof s.dev r) 0 = false → (∃ y ∈ w.reads, y.id ≠ node ∧ y.late = false) →
      ∃ t r' w', exec (.readBudgetExpiry r.slot node) s = .next t ∧ Aside s t ∧ findReq t.dev r.slot = some r' ∧ bitOf r'.flags 13 = true ∧
        r'.walk = some w' ∧ (∀ y ∈ w'.reads, y.id = node → y.late = true) ∧ (∀ e ∈ w'.queue, e.id = node → e.st = .settled) ∧
        live t.dev (regA .walk 0 0x114) = live s.dev (regA .walk 0 0x114) + 1 ∧
        t.dev.now = max s.dev.now (x.issued + usCycles (Prof.readBudget (Req.prof s.dev r)))) ∧
    (∀ t0, r.dlSearch = some t0 →
      (Prof.cheap (Req.prof s.dev r) 0 = true → (r.stage = .grant ∨ r.stage = .table ∨ r.stage = .walk) → ∃ t r',
        exec (.searchDeadline r.slot) s = .next t ∧ Aside s t ∧ findReq t.dev r.slot = some r' ∧ r'.stage = .select ∧
        bitOf r'.flags 1 = true ∧ r'.walk = none ∧ r'.walkCharge = false ∧ r.slot ∉ t.dev.eng.walkWait ∧ t.dev.now = max s.dev.now t0 ∧
        (∃ x ∈ t.dev.eng.sorts, x.slot = some r.slot) ∧ t.dev.mem = s.dev.mem) ∧
      (Prof.cheap (Req.prof s.dev r) 0 = false → exec (.searchDeadline r.slot) s = .next (on s (advanceTo s.dev t0)))) ∧
    (∀ t0, r.dlRerank = some t0 →
      (Prof.cheap (Req.prof s.dev r) 1 = true → r.stage = .fetchRank → r.op = 1 → 16 + 16 * r.evid.length ≤ Desc.outCap r.desc → ∃ t r',
        exec (.rerankDeadline r.slot) s = .next t ∧ Aside s t ∧ findReq t.dev r.slot = some r' ∧ r'.stage = .pack ∧
        bitOf r'.flags 2 = true ∧ r'.evid = r.evid.map (fun e => { e with score := nanScore }) ∧ t.dev.now = max s.dev.now t0) ∧
      (r.stage ≠ .fetchRank ∨ Prof.cheap (Req.prof s.dev r) 1 = false → exec (.rerankDeadline r.slot) s = .next (on s (advanceTo s.dev t0)))) ∧
    (∀ t0, r.dlModel = some t0 →
      (r.stage ≠ .model ∨ (isResident s.dev r.pins.gen = false ∧ Prof.cheap (Req.prof s.dev r) 2 = false) → exec (.modelDeadline r.slot) s = .next (on s (advanceTo s.dev t0))) ∧
      (∀ g fb v, r.stage = .model → r.op = 1 → r.hold = none → r.stream = none → r.pins.gen = some g → isResident s.dev (some g) = false →
        Prof.cheap (Req.prof s.dev r) 2 = true → r.pins.fb = some fb → findVer s.dev fb = some v →
        r.prompt.length ≤ Mdl.maxCtx v.desc → fitsHbm s.dev r.basin (Mdl.kvPages v.desc r.prompt.length) = true →
        ∃ t r' st, exec (.modelDeadline r.slot) s = .next t ∧ Aside s t ∧ findReq t.dev r.slot = some r' ∧ r'.stage = .prefill ∧
          bitOf r'.flags 3 = true ∧ r'.stream = some st ∧ st.model = fb ∧ st.prompt = r.prompt ∧ st.gen = [] ∧
          st.pages = Mdl.kvPages v.desc r.prompt.length ∧ stat t .gen 0 4 = true))

/-- PACK is one step over texts that can be read: the evidence records, with the flags that the packing procedure gives them, are
written behind their header, the output length is theirs, and the prompt is that of the template over the question and the packed
texts; with a template that has no evidence segment nothing is packed. PACK counts the prompt, the passages packed, the truncation
and the prompt's tokens. The request then waits for its generator, which is not resident.
Rows that complete here: pack (PACK). -/
def Obligations.PromptsPacked : Prop :=
  ∀ (s : State) (r : Req) (ix g tm : Version) (voc : Vocab) (text : Nat → List Byte), AtWork s r →
    r.stage = .pack → r.busy = true → Req.named s.dev r.pins.index = some ix → Req.named s.dev r.pins.gen = some g →
    Req.named s.dev r.pins.tmpl = some tm → vocabOf s.dev g = .ok voc →
    (∀ e ∈ r.evid, (passageText s.dev r ix e.id).2 = .ok (text e.id)) → g.resident = false →
    Prof.cheap (Req.prof s.dev r) 2 = false →
    let segs := segmentsOf tm.desc
    let three := segs.find? (fun x => decide (x.kind = 3))
    let size := fun (f : Segment → List Byte) => match three with | some x => (cutAll voc true (f x)).length | none => 0
    let avail := Prof.tokBudget (Req.prof s.dev r) - fixedTok voc segs - (tokensIn r r.pins.gen).length
    let o : PackOut := if three.isSome
      then packRun (size (·.a)) (size (·.b)) (Prof.ctl (Req.prof s.dev r) 2) avail [] 1 (r.evid.map (fun e => (e.id, text e.id, cutAll voc false (text e.id))))
      else ⟨r.evid.map (fun _ => none), r.evid.map (fun _ => 0), none⟩
    let n := 16 + 16 * r.evid.length
    ∃ t r', exec (.pack ⟨r.slot, []⟩) s = .next t ∧ Aside s t ∧ findReq t.dev r.slot = some r' ∧ r'.stage = .model ∧ r'.busy = false ∧
      r'.ended = none ∧ r'.outLen = n ∧ r'.prompt = promptOf voc segs (tokensIn r r.pins.gen) (o.packed.filterMap id) ∧
      (∀ k, o.truncAt = some k → bitOf r'.flags 9 = true) ∧
      Mem.readN t.dev.mem.shore (shoreAddr r.basin (Desc.outBlock r.desc) 0) n =
        natLe 4 r.evid.length ++ natLe 4 n ++ List.replicate 8 0 ++ (r.evid.zip o.flags).flatMap (fun x => evidBytes x.1 x.2) ∧
      live t.dev (regA .pack 0 0x100) = live s.dev (regA .pack 0 0x100) + 1 ∧
      live t.dev (regA .pack 0 0x104) = live s.dev (regA .pack 0 0x104) + BitVec.ofNat 32 (o.packed.filterMap id).length ∧
      live t.dev (regA .pack 0 0x10C) = live s.dev (regA .pack 0 0x10C) + (if o.truncAt.isSome then 1 else 0) ∧
      live t.dev (regA .pack 0 0x110) = live s.dev (regA .pack 0 0x110) + BitVec.ofNat 32 r'.prompt.length

/-- A sort with K, direction and no deduplication keeps the best records: those it returns stand in the order of their keys, IDs
and AUX; each is a record given that is not null, with its canonical key; there are K of them, or all; and none that it leaves
comes before one that it returns. -/
def Obligations.SortsSelectTheBest : Prop :=
  ∀ (xs : List SRec) (k : Nat) (desc useExp : Bool) (temp : W32),
    let o := sortRun xs k desc false useExp false temp
    let real := (xs.filter (fun x => decide (x.id ≠ 0xFFFFFFFF))).map (fun x => { x with key := canonKey desc x.key })
    o.recs.Pairwise (fun x y => recLe desc x y = true) ∧ o.recs.length = min k real.length ∧
    (∃ rest, List.Perm (o.recs ++ rest) real ∧ ∀ x ∈ o.recs, ∀ y ∈ rest, recLe desc x y = true)

/-- SORT_COMMAND, where every sorter has started what it may. A command that is not in progress does not complete. A job's command
in progress whose fields are in range and whose lists can be read writes the sorted records and then the header, and its sorter
counts the sort, the records read, those removed as duplicates and the null ones; no request changes where it does not report.
A SEARCH's select writes count and records, as many whole ones as fit, reports the sort's flags, and ends DONE, or LENGTH_LIMIT
where they do not all fit; COUNT and the output length are of the records written. SORT counts it.
Rows that complete here: sortCommand (SORT_COMMAND). -/
def Obligations.SortCommands : Prop :=
  ∀ (s : State) (cmd : Nat) (x : SortCmd), s.dev.eng.sorts.find? (fun y => decide (y.id = cmd)) = some x →
    (∀ y ∈ s.dev.eng.sorts, sortStarts s.dev y = false) →
    (x.running = false → exec (.sortCommand ⟨cmd, []⟩) s = .next s) ∧
    (x.running = true →
      (∀ xs d, x.slot = none → x.bad = none → sortFieldBad x.bytes = none → bitOf (SortC.mode x.bytes) 4 = false →
        listsFrom s.dev x.basin (SortC.listAddr x.bytes) (SortC.nList x.bytes) 0 [] = .recs xs →
        let o := sortRun xs (SortC.k x.bytes) (bitOf (SortC.mode x.bytes) 0) (bitOf (SortC.mode x.bytes) 1) (bitOf (SortC.mode x.bytes) 2) (bitOf (SortC.mode x.bytes) 3) (SortC.temp x.bytes)
        (vWrite s.dev x.basin (SortC.outAddr x.bytes) (o.recs.flatMap recBytes)).bind (fun d => vWrite d x.basin (SortC.hdrAddr x.bytes) o.header) = .ok d →
        let page := sortPage x.unit
        ∃ t, exec (.sortCommand ⟨cmd, []⟩) s = .next t ∧ Aside s t ∧ (∀ y ∈ t.dev.eng.sorts, y.id ≠ cmd) ∧ t.dev.mem = d.mem ∧
          t.dev.reqs = s.dev.reqs ∧ t.dev.jobs = s.dev.jobs ∧
          live t.dev (regA page.1 page.2 0x104) = live s.dev (regA page.1 page.2 0x104) + 1 ∧
          live t.dev (regA page.1 page.2 0x108) = live s.dev (regA page.1 page.2 0x108) + BitVec.ofNat 32 xs.length ∧
          live t.dev (regA page.1 page.2 0x10C) = live s.dev (regA page.1 page.2 0x10C) + BitVec.ofNat 32 o.nDup ∧
          live t.dev (regA page.1 page.2 0x110) = live s.dev (regA page.1 page.2 0x110) + BitVec.ofNat 32 o.nNull) ∧
      (∀ r, x.slot = some r.slot → AtWork s r → r.stage = .select → r.op = 2 →
        let p := Req.prof s.dev r
        let o := sortRun (selectRecs r) (searchK r p) false false false (Prof.ctl p 1) 0
        let n := o.recs.length
        let cap := Desc.outCap r.desc
        let w := recsThatFit cap n
        ∃ t r', exec (.sortCommand ⟨cmd, []⟩) s = .next t ∧ Aside s t ∧ findReq t.dev r.slot = some r' ∧
          r'.ended = some (if cap < 16 + 16 * n then 0x31 else 0) ∧
          r'.outLen = (if cap < 16 then 0 else 16 + 16 * w) ∧ r'.outCount = (if cap < 16 then 0 else w) ∧
          (o.short = true → bitOf r'.flags 0 = true) ∧ (o.tie = true → bitOf r'.flags 4 = true) ∧
          (16 ≤ cap → Mem.readN t.dev.mem.shore (shoreAddr r.basin (Desc.outBlock r.desc) 0) (16 + 16 * w) =
            natLe 4 w ++ List.replicate 12 0 ++ (o.recs.take w).flatMap (fun y => searchBytes y (scoreOfKey y.key))) ∧
          live t.dev (regA .sort 0 0x104) = live s.dev (regA .sort 0 0x104) + 1 ∧
          live t.dev (regA .sort 0 0x108) = live s.dev (regA .sort 0 0x108) + BitVec.ofNat 32 r.evid.length))

/-- Passes. A pass starts over one stream that has been ready longest, of a resident model whose window has room at the weir
and whose pages are charged: the request is at work and a pass with the next number is under way; one whose window finds no room, or
that another stream comes before, waits at the weir, and a model that is not resident starts none. One whose window does not fit the partition sets NO_FIT on each mere where it does not. No word that the pass read was poisoned: the end of a prefill pass that does not feed
the whole prompt moves the fed positions on and changes nothing else of the stream. The end of a decode pass without heads or
grammar under greedy sampling chooses the token of the highest logit, lowest ID first; one that is not EOS and fits is written
behind the answer and counted.
Rows that complete here: passStart (PASS_START), passEnd (PASS_END). -/
def Obligations.Passes : Prop :=
  ∀ (s : State) (r : Req) (st : Stream) (v : Version), AtWork s r → r.stream = some st → findVer s.dev st.model = some v →
    (∀ m, verFits s.dev v = false → ∃ t, exec (.passStart m [r.slot]) s = .next t ∧ Aside s t ∧ t.dev.eng = s.dev.eng ∧ t.dev.reqs = s.dev.reqs ∧
      (∀ i, i < 4 → windowIn s.dev v i = false → stat t .weir i 0 = true)) ∧
    (∀ m, m < 4 → r.busy = false → (r.stage = .prefill ∨ r.stage = .decode) → verFits s.dev v = true →
      (∀ p ∈ s.dev.eng.passes, p.id ≠ s.dev.eng.nextId) →
      (weirRoom s.dev v = false ∨ weirBefore s.dev v [r.slot] = true → exec (.passStart m [r.slot]) s = .next (on s (weirWaits s.dev [r.slot]))) ∧
      (weirRoom s.dev v = true → weirBefore s.dev v [r.slot] = false → v.resident = false → exec (.passStart m [r.slot]) s = .next s) ∧
      (∀ k n, readyKind r = some k → v.resident = true → isArmed s.dev .gen 0 = false → storeHere s.dev r = true →
        weirRoom s.dev v = true → weirBefore s.dev v [r.slot] = false → firstReady s.dev k v.uid r.basin [r.slot] = true →
        (k = .prefill ∨ takesUp s.dev r.basin (undriven s.dev [r.slot]) = true) → n = newPositions k st → Mdl.kvPages v.desc (st.fed + n) - st.shared ≤ st.pages →
        ∃ t q r', exec (.passStart m [r.slot]) s = .next t ∧ Aside s t ∧ t.dev.eng.passes = s.dev.eng.passes ++ [q] ∧
          q.id = s.dev.eng.nextId ∧ q.model = st.model ∧ q.kind = k ∧ q.slots = [r.slot] ∧ q.mere = m ∧
          q.counts = [min 1024 (st.prompt.length - st.fed)] ∧ findReq t.dev r.slot = some r' ∧ r'.busy = true ∧
          r'.stream = some { st with driven := st.driven || !decide (k = .prefill) } ∧ t.dev.mem = s.dev.mem)) ∧
    (∀ q voc, s.dev.eng.passes.find? (fun p => decide (p.id = q.id)) = some q → q.slots = [r.slot] → q.model = st.model →
      q.bad = [] → workPoison s.dev r .kv = none → vocabOf s.dev v = .ok voc →
      (∀ n, q.kind = .prefill → q.props = [[]] → q.counts = [n] → st.fed + n < st.prompt.length → ∃ t r', exec (.passEnd ⟨q.id, []⟩) s = .next t ∧
        Aside s t ∧ findReq t.dev r.slot = some r' ∧ r'.stream = some { st with fed := st.fed + n, ready := s.dev.now } ∧ r'.busy = false ∧ r'.ended = none ∧
        (∀ p ∈ t.dev.eng.passes, p.id ≠ q.id) ∧ live t.dev (regA .gen 0 0x104) = live s.dev (regA .gen 0 0x104) + 1) ∧
      (∀ n, q.kind = .decode → q.props = [[]] → q.counts = [n] → r.op = 5 → Prof.spec (Req.prof s.dev r) ≠ 2 →
        Prof.sampling (Req.prof s.dev r) = 0 → Req.named s.dev r.pins.grammar = none → voc.tokens ≠ [] →
        st.gen.length + 1 < tokenLimit r (Req.prof s.dev r) st v → Mdl.kvPages v.desc (st.fed + 1) - st.shared ≤ st.pages →
        let rec' := fun (u : Nat) => (⟨canonKey true (keyOfScore (Config.logit v.basin v.slot v.num (st.prompt ++ st.gen) u)), u, 0, 0, u⟩ : SRec)
        ∃ tok, tok < voc.tokens.length ∧ (∀ u, u < voc.tokens.length → recLe true (rec' tok) (rec' u) = true) ∧
          (tok ≠ voc.eos → st.answer + (spellOf voc tok).length ≤ Desc.outCap r.desc → ∃ t r' st', exec (.passEnd ⟨q.id, []⟩) s = .next t ∧
            Aside s t ∧ findReq t.dev r.slot = some r' ∧ r'.stream = some st' ∧ st'.gen = st.gen ++ [tok] ∧ st'.fed = st.fed + 1 ∧
            st'.answer = st.answer + (spellOf voc tok).length ∧ r'.outCount = r.outCount + 1 ∧ r'.outLen = st'.answer ∧ r'.busy = false ∧
            Mem.readN t.dev.mem.shore (shoreAddr r.basin (Desc.outBlock r.desc) st.answer) (spellOf voc tok).length = spellOf voc tok)))

/-- Requests that differ in nothing but the HBM pages of their streams. -/
def Sys2Proof.Claims.SameButPages (xs ys : List Req) : Prop :=
  xs.map (fun (r : Req) => { r with stream := r.stream.map (fun (x : Stream) => { x with kv := [] }) }) =
  ys.map (fun (r : Req) => { r with stream := r.stream.map (fun (x : Stream) => { x with kv := [] }) })

/-- Prefix handles. An idle handle whose time has come begins to move to the pool where the charge fits, else a status bit says
that it did not. A move that ends without a hold leaves the handle parked in the pool, none of its own pages in HBM and its
lifetime running; a pool write that fails ends the move with the store in HBM. A store moved back is in HBM with all of its own
pages and holds no pool pages. A lifetime that ends frees a handle that nobody holds, and marks a held one released.
Rows that complete here: handleParkIdle (HANDLE_PARK_IDLE), handleParkDone (HANDLE_PARK_DONE), parkWriteFail
(PARK_WRITE_FAIL), handleUnparkDone (HANDLE_UNPARK_DONE), handleTtlExpiry (HANDLE_TTL_EXPIRY). -/
def Obligations.HandleMoves : Prop :=
  ∀ (s : State) (i : Nat) (h : Handle), findHandleIdx s.dev i = some h →
    (h.st = .idle → h.moving = false → h.inPool = false →
      let n := Config.parkedPages h.idx h.own
      ∃ t, exec (.handleParkIdle i) s = .next t ∧ Aside s t ∧ t.dev.now = max s.dev.now (h.since + msCycles h.idleMs) ∧
        (fitsPool s.dev h.basin n = true → findHandleIdx t.dev i = some { h with moving := true, poolPages := n }) ∧
        (fitsPool s.dev h.basin n = false → findHandleIdx t.dev i = some h ∧ stat t .gen 0 2 = true) ∧ t.dev.reqs = s.dev.reqs) ∧
    (h.st ≠ .idle → exec (.handleParkIdle i) s = .next s) ∧
    (h.moving = true → h.inPool = false →
      (h.holds = [] → ∃ t kv, exec (.handleParkDone ⟨i, []⟩) s = .next t ∧ Aside s t ∧
        findHandleIdx t.dev i = some { h with moving := false, inPool := true, hbmPages := 0, st := .parked, expiry := some (s.dev.now + sCycles h.ttlS), kv := kv } ∧
        (∀ p ∈ ({ h with kv := kv } : Handle).ownPages, 2 ^ 40 ≤ p) ∧
        live t.dev (regA .gen 0 0x120) = live s.dev (regA .gen 0 0x120) + 1 ∧ SameButPages t.dev.reqs s.dev.reqs ∧
        t.dev.mem = { s.dev.mem with poison := t.dev.mem.poison, models := t.dev.mem.models }) ∧
      (∃ t, exec (.parkWriteFail i) s = .next t ∧ Aside s t ∧ findHandleIdx t.dev i = some { h with moving := false, poolPages := 0 } ∧
        stat t .gen 0 1 = true ∧ t.dev.reqs = s.dev.reqs ∧ t.dev.mem = s.dev.mem) ∧
      exec (.handleUnparkDone ⟨i, []⟩) s = .next s) ∧
    (h.moving = true → h.inPool = true → ∃ t h', exec (.handleUnparkDone ⟨i, []⟩) s = .next t ∧ Aside s t ∧ findHandleIdx t.dev i = some h' ∧
      h'.moving = false ∧ h'.inPool = false ∧ h'.poolPages = 0 ∧ h'.hbmPages = h.hbmPages ∧ (h.holds = [] → h'.expiry = none) ∧
      (∀ p ∈ h'.ownPages, p < 2 ^ 40) ∧
      exec (.handleParkDone ⟨i, []⟩) s = .next s ∧ t.dev.regs = s.dev.regs ∧ SameButPages t.dev.reqs s.dev.reqs) ∧
    (∀ t0, h.expiry = some t0 → h.released = false →
      (h.holds = [] → ∃ t, exec (.handleTtlExpiry i) s = .next t ∧ Aside s t ∧ findHandleIdx t.dev i = none ∧ t.dev.now = max s.dev.now t0 ∧
        live t.dev (regA .gen 0 0x124) = live s.dev (regA .gen 0 0x124) + 1 ∧ t.dev.reqs = s.dev.reqs) ∧
      (h.holds ≠ [] → exec (.handleTtlExpiry i) s =
        .next (on s (modHandle (advanceTo s.dev t0) i (fun h => { h with released := true }))))) ∧
    (h.expiry = none → exec (.handleTtlExpiry i) s = .next s)

/-! ### Embedding tables (chapter 09) -/


/-- A GATH_COMMAND whose fields are in range is taken: it names its table version, in whose queue it has the place of its submission. One
already taken, or not among the eight oldest of its engine, stays as it is.
GATHER_READ of a request whose header is in order and whose every position can be read: N and the edition are written with
the rows behind them, in the order of the list, and the request ends DONE with COUNT the positions. A merge of the version that
waits to apply holds the gather; a merge command, or one that may not work yet, reads nothing.
Rows that complete here: gathCommand (GATH_COMMAND), gatherRead (GATHER_READ). -/
def Obligations.TableCommandsAndGathers : Prop :=
  (∀ (s : State) (cmd id : Nat) (g : GathCmd) (c : Ctx), s.dev.eng.gaths.find? (fun x => decide (x.id = cmd)) = some g →
    g.ctx = some id → findCtx s.dev id = some c →
    (g.valid = true ∨ gathRunning s.dev g = false → exec (.gathCommand cmd) s = .next s) ∧
    (∀ r v, g.valid = false → gathRunning s.dev g = true → g.bad = none → findReq s.dev c.slot = some r →
      jobTable s.dev r (GathC.slot g.bytes) = some v → gathFieldBad g.bytes r.train (some v) = none →
      ∃ t, exec (.gathCommand cmd) s = .next t ∧ Aside s t ∧ t.dev.eng.gaths.find? (fun x => decide (x.id = cmd)) =
        some { g with valid := true, merge := decide (GathC.op g.bytes = 2), ver := v.uid, seq := g.id } ∧
        t.dev.regs = s.dev.regs ∧ t.dev.mem = s.dev.mem ∧ t.dev.jobs = s.dev.jobs)) ∧
  (∀ (s : State) (cmd : Nat) (g : GathCmd), s.dev.eng.gaths.find? (fun x => decide (x.id = cmd)) = some g →
    (g.merge = true ∨ gathReady s.dev g = false ∨ gathPortsUp s.dev g = false → exec (.gatherRead cmd []) s = .next s) ∧
    (∀ r v h, g.merge = false → gathReady s.dev g = true → gathPortsUp s.dev g = true → findVer s.dev g.ver = some v →
      g.slot = some r.slot → findReq s.dev r.slot = some r → r.live = true → r.due = [] → r.silent = false →
      (s.dev.reqs.map (·.slot)).Nodup → inPart s.dev r 0 (min 16 r.inLen) = .ok h →
      gathHeaderOk false r.inLen 0 h = true →
      (applyWaits s.dev v.uid = true → ∃ t, exec (.gatherRead cmd []) s = .next t ∧ Aside s t ∧
        (∃ g', t.dev.eng.gaths.find? (fun x => decide (x.id = cmd)) = some g' ∧ g'.phase = .held) ∧ t.dev.mem = s.dev.mem ∧
        t.dev.reqs = s.dev.reqs) ∧
      (∀ rows, applyWaits s.dev v.uid = false → 16 ≤ Desc.outCap r.desc →
        gatherLoop s.dev (reqGath s.dev g r v h) none (some ((Desc.outCap r.desc - 16) / Tbl.rowBytes v.desc)) (fieldN h 0 4) 0 [] = (rows, none) →
        ∃ t r', exec (.gatherRead cmd []) s = .next t ∧ Aside s t ∧ findReq t.dev r.slot = some r' ∧ r'.ended = some 0 ∧
          r'.outCount = rows.length ∧ r'.outLen = 16 + rows.length * Tbl.rowBytes v.desc ∧
          t.dev.mem.hbm = s.dev.mem.hbm ∧
          (let out := natLe 4 rows.length ++ natLe 4 0 ++ natLe 8 v.edition ++ rows.flatMap (·.2)
           Mem.readN t.dev.mem.shore (shoreAddr r.basin (Desc.outBlock r.desc) 0) out.length = out))))

/-- A merge sums before it applies. MERGE_SUM_DONE of a request in order keeps the sums, by ascending row, in the scratch charged for them and
changes no row. MERGE_APPLY applies them in that order once no earlier merge of the version is queued: the edition
rises by one and the request ends DONE with COUNT the rows; behind an earlier merge the apply is held and no row changes.
Rows that complete here: mergeSumDone (MERGE_SUM_DONE), mergeApply (MERGE_APPLY). -/
def Obligations.MergesSumThenApply : Prop :=
  ∀ (s : State) (cmd : Nat) (g : GathCmd) (r : Req) (v : Version) (h : List Byte),
    s.dev.eng.gaths.find? (fun x => decide (x.id = cmd)) = some g → g.merge = true → gathReady s.dev g = true →
    findVer s.dev g.ver = some v → g.slot = some r.slot → findReq s.dev r.slot = some r → r.live = true → r.due = [] →
    r.silent = false → (s.dev.reqs.map (·.slot)).Nodup → inPart s.dev r 0 (min 16 r.inLen) = .ok h →
    (∀ d sums, g.phase = .queued → gathHeaderOk true r.inLen (Tbl.elems v.desc) h = true →
      mergeSum s.dev (reqGath s.dev g r v h) = (d, none, sums) → ∃ t, exec (.mergeSumDone cmd []) s = .next t ∧ Aside s t ∧
        t.dev.eng.gaths.find? (fun x => decide (x.id = cmd)) = some (summedGath v (fieldN h 0 4) sums g) ∧ (sums.map (·.1)).Pairwise (· < ·) ∧ t.dev.mem = s.dev.mem ∧
        t.dev.reqs = s.dev.reqs) ∧
    (g.phase = .summed → gathPortsUp s.dev g = true → inPart s.dev r 0 16 = .ok h →
      (applyBehind s.dev g = true → ∃ t,
        exec (.mergeApply ⟨cmd, []⟩) s = .next t ∧ Aside s t ∧ t.dev.mem = s.dev.mem ∧ t.dev.reqs = s.dev.reqs ∧
        findVer t.dev g.ver = some v ∧ (∃ g', t.dev.eng.gaths.find? (fun x => decide (x.id = cmd)) = some g' ∧ g'.phase = .applyHeld)) ∧
      (∀ d n, applyBehind s.dev g = false →
        applyLoop (reqGath s.dev g r v h) none none s.dev g.sums 0 = (d, n, none) → ∃ t r', exec (.mergeApply ⟨cmd, []⟩) s = .next t ∧ Aside s t ∧
          findReq t.dev r.slot = some r' ∧ r'.ended = some 0 ∧ r'.outCount = n ∧ n = g.sums.length ∧
          findVer t.dev g.ver = some { v with edition := (v.edition + 1) % 2 ^ 64 } ∧ t.dev.mem.hbm = d.mem.hbm ∧
          t.dev.mem.pool = d.mem.pool ∧ (∀ q ∈ t.dev.eng.gaths, q.slot ≠ some r.slot)))

/-! ### Cores, contexts and synchronisation (chapters 13 to 15) -/

/-- A core of a running context fetches a bundle: its mere's clock runs, its PC is aligned and in a code frame that no draw is to
change, and the word there is w. -/
def Sys2Proof.Claims.Fetches (s : State) (id i : Nat) (c : Ctx) (k : CoreSt) (w : Nat) : Prop :=
  findCtx s.dev id = some c ∧ coreAt c i = some k ∧ basinWaits s.dev c.basin = false ∧ c.phase = .running ∧ c.pipe = false ∧
  stopping s.dev c = false ∧ s.dev.power.relock.contains c.mere = false ∧ k.ended = false ∧ k.wait ≠ .ending ∧ k.pc % 32 = 0 ∧ k.pc < tarnTop ∧ rangePending k k.pc 32 = false ∧
  (frameOf k (k.pc / 4096)).code = true ∧ tarnPoison s.dev id i k.pc 32 = false ∧ leNat (Mem.readN k.tarn k.pc 32) = w



/-- A bundle whose only slot is an S slot with a two-register operation, 0x01 to 0x0E or 0x10 to 0x16: the destination takes the
operation's result, x0 taking none; the PC moves on by 32 and the core's bundle count by one. Every other register, frame,
accumulator, transfer and tarn byte of the core, every other core, every memory and every request is as before.
A bundle whose S slot names no operation is illegal: it does not issue. The context faults with JOB_FAULT, its outstanding
draws are discarded, and no register, PC or tarn byte of any of its cores changes.
Register x0 reads as zero in every core, and a write to it changes nothing; a write to any other register changes that register
alone.
Rows that complete here: bundle (BUNDLE). -/
def Obligations.BundlesIssue : Prop :=
  (∀ (s : State) (id i w : Nat) (c : Ctx) (k : CoreSt), Fetches s id i c k w → w % 65536 = 1 → w / 2 ^ 64 = 0 →
    let sl := Bundle.slotS w
    1 ≤ SS.op sl → SS.op sl ≤ 0x16 → SS.op sl ≠ 0x0F →
    ∃ t, exec (.bundle id i []) s = .next t ∧ Aside s t ∧
      t.dev.jobs = (modCtx s.dev id (fun c => setCore c i { setX k (SS.rd sl) (alu (SS.op sl) (xr k (SS.rs1 sl)) (xr k (SS.rs2 sl))) with
        pc := k.pc + 32, bundles := k.bundles + 1 })).jobs ∧
      t.dev.mem.hbm = s.dev.mem.hbm ∧ t.dev.mem.shore = s.dev.mem.shore ∧ t.dev.reqs = s.dev.reqs ∧ t.dev.eng = s.dev.eng) ∧
  (∀ (s : State) (id i w : Nat) (c : Ctx) (k : CoreSt), Fetches s id i c k w → w % 65536 = 1 → w / 2 ^ 64 = 0 →
    sDefined (SS.op (Bundle.slotS w)) = false → c.fault = none →
    ∃ t, exec (.bundle id i []) s = .next t ∧ Aside s t ∧ t.dev.mem = s.dev.mem ∧ t.dev.reqs = s.dev.reqs ∧
      findCtx t.dev id = some { c with fault := some 0x60, cores := c.cores.map (fun k => { k with xfers := k.xfers.filter (fun x => !x.draw) }) }) ∧
  (∀ (k : CoreSt) (n m : Nat) (v : W64), xr k 0 = 0 ∧ setX k 0 v = k ∧
    (n ≠ 0 → xr (setX k n v) n = v ∧ (m ≠ n → xr (setX k n v) m = xr k m) ∧ (setX k n v).v = k.v ∧ (setX k n v).p = k.p ∧
      (setX k n v).t = k.t ∧ (setX k n v).acc = k.acc ∧ (setX k n v).pc = k.pc ∧ (setX k n v).tarn = k.tarn))



/-- A draw of one piece from the die buffer lands: the tarn holds the window's bytes at the piece, every other tarn byte of the
core is as before, and the draw is no longer outstanding; the window, in which the job of a pass sees the weir's slots, does not
change. A draw that must wait stays, and so does one of a context that stops.
A return of one piece into the die buffer of a context of no linked set, issued under the core's present epoch, completes: the
window holds its bytes, every other byte of the window is as before, and the return is no longer outstanding; so do those of a
saved context. One that must wait stays, and one whose core's epoch has changed since is discarded: no window changes.
The tile unit. The oldest queued operation of a core, if not mere-wide, starts, but none of a context that stops. The end of a started TFILL writes
its constant into every element of its accumulator, leaves the other accumulator as it was, and removes it from the queue.
Rows that complete here: drawLands (DRAW_LANDS), returnCompletes (RETURN_COMPLETES), tileOpStart (TILE_OP_START),
tileOpEnd (TILE_OP_END). -/
def Obligations.TransfersAndTileWork : Prop :=
  (∀ (s : State) (id i : Nat) (c : Ctx) (k : CoreSt) (x : Xfer) (a t0 n : Nat), findCtx s.dev id = some c → coreAt c i = some k →
    basinWaits s.dev c.basin = false → k.xfers.find? (fun y => decide (y.id = x.id) && y.draw) = some x →
    (mustWait (ordering s.dev c k) x = true ∨ stopping s.dev c = true → exec (.drawLands id i x.id [] []) s = .next s) ∧
    (x.space = 1 → x.pieces = [(a, t0, n)] → c.phase = .running → stopping s.dev c = false → mustWait (ordering s.dev c k) x = false →
      ∃ t c' k', exec (.drawLands id i x.id [] []) s = .next t ∧ Aside s t ∧ findCtx t.dev id = some c' ∧ coreAt c' i = some k' ∧
        Mem.readN k'.tarn t0 n = Mem.readN (dbufSeen s.dev c) a n ∧ (∀ y, (y < t0 ∨ t0 + n ≤ y) → Mem.read k'.tarn y = Mem.read k.tarn y) ∧
        (∀ y ∈ k'.xfers, y.id ≠ x.id) ∧ c'.dbuf = c.dbuf ∧ k'.x = k.x ∧ k'.pc = k.pc ∧ t.dev.regs = s.dev.regs)) ∧
  (∀ (s : State) (id i : Nat) (c : Ctx) (k : CoreSt) (x : Xfer) (a t0 n : Nat), findCtx s.dev id = some c → coreAt c i = some k →
    basinWaits s.dev c.basin = false → k.xfers.find? (fun y => decide (y.id = x.id) && !y.draw) = some x →
    (mustWait (ordering s.dev c k) x = true → exec (.returnCompletes id i x.id []) s = .next s) ∧
    (x.space = 1 → x.sent = [] → mustWait (ordering s.dev c k) x = false → noMajority s.dev (regA .core x.core 0x108) = false →
      x.epoch ≠ reg s .core x.core 0x108 → (c.phase ≠ .saved ∨ ∀ r ∈ s.dev.reqs, r.due = []) →
      ∃ t c' k', exec (.returnCompletes id i x.id []) s = .next t ∧ Aside s t ∧ findCtx t.dev id = some c' ∧ coreAt c' i = some k' ∧
        c'.dbuf = c.dbuf ∧ (∀ y ∈ k'.xfers, y.id ≠ x.id ∨ y.draw = true) ∧ t.dev.mem = s.dev.mem) ∧
    (x.space = 1 → x.pieces = [(a, t0, n)] → a < 2 ^ 32 → x.data.length = n → c.link = none → mustWait (ordering s.dev c k) x = false →
      x.sent = [] → noMajority s.dev (regA .core x.core 0x108) = false → x.epoch = reg s .core x.core 0x108 → (c.phase ≠ .saved ∨ ∀ r ∈ s.dev.reqs, r.due = []) →
      ∃ t c' k', exec (.returnCompletes id i x.id []) s = .next t ∧ Aside s t ∧ findCtx t.dev id = some c' ∧ coreAt c' i = some k' ∧
        Mem.readN c'.dbuf a n = x.data ∧ (∀ y, (y < a ∨ a + n ≤ y) → Mem.read c'.dbuf y = Mem.read c.dbuf y) ∧
        (∀ y ∈ k'.xfers, y.id ≠ x.id) ∧ k'.tarn = k.tarn ∧ k'.x = k.x ∧ t.dev.regs = s.dev.regs)) ∧
  (∀ (s : State) (id i : Nat) (c : Ctx) (k : CoreSt) (o : TileOp) (os : List TileOp), findCtx s.dev id = some c →
    coreAt c i = some k → k.tiles = o :: os → c.phase = .running → s.dev.power.relock.contains c.mere = false →
    (stopping s.dev c = true → exec (.tileOpStart id i) s = .next s) ∧
    (o.started = false → stopping s.dev c = false → mereWide (TS.op o.word) = false → exec (.tileOpStart id i) s =
      .next (on s (modCtx s.dev id (fun c => setCore c i { k with tiles := { o with started := true } :: os })))) ∧
    (o.started = true → stopping s.dev c = false → TS.op o.word = 1 → ∃ t c' k', exec (.tileOpEnd id ⟨i, []⟩) s = .next t ∧ Aside s t ∧
      findCtx t.dev id = some c' ∧ coreAt c' i = some k' ∧ k'.tiles = os ∧
      (∀ a b, a < 32 → b < 32 → accGet k'.acc (TS.ad o.word) a b = BitVec.ofNat 32 (TS.imm o.word)) ∧
      (∀ ad a b, ad ≠ TS.ad o.word → a < 32 → b < 32 → accGet k'.acc ad a b = accGet k.acc ad a b) ∧
      k'.x = k.x ∧ k'.v = k.v ∧ k'.tarn = k.tarn ∧ k'.pc = k.pc ∧ t.dev.regs = s.dev.regs ∧ t.dev.mem.hbm = s.dev.mem.hbm))


/-- A pipeline stage's work enters its basin's queue of the request's class: one job, or the four of a pass, whose class is 0 for
requests of PRIO 0 or 1; where its window is larger than every job pool, the request is due to end with IMAGE. A RUN_JOB's own
context, already there, is issued once only.
At a scheduling tick the head of the queue of the basin that is farthest below its share, a job of a pipeline that stands alone
in its set, starts on cores that fit it: it runs on them from now, on their mere, with the layers that have landed signalled to
it, and every other context is as before, but for the place of its save records. A job that is not its basin's head does not start.
Rows that complete here: jobIssue (JOB_ISSUE), schedulingTick (SCHEDULING_TICK). -/
def Obligations.JobsIssueAndStart : Prop :=
  (∀ (s : State) (r : Req), findReq s.dev r.slot = some r → basinWaits s.dev r.basin = false → r.live = true →
    ((∃ c ∈ s.dev.jobs.ctxs, c.slot = r.slot) → exec (.jobIssue r.slot) s = .next s) ∧
    ((∀ c ∈ s.dev.jobs.ctxs, c.slot ≠ r.slot ∧ c.set ≠ s.dev.eng.nextId) → r.busy = true →
      let fits := ∃ m, m < 4 ∧ Config.pipeDbuf r.slot % 257 * 65536 ≤ jobPool s.dev m
      (r.stage = .embed ∨ r.stage = .fetchRank ∨ r.stage = .table → ∃ t, exec (.jobIssue r.slot) s = .next t ∧ Aside s t ∧
        (¬fits → (∀ x ∈ s.dev.reqs, x.due = []) → findReq t.dev r.slot = some { r with due := [0x60] } ∧ t.dev.jobs.ctxs = s.dev.jobs.ctxs) ∧
        (fits → t.dev.reqs = s.dev.reqs ∧ t.dev.mem = s.dev.mem ∧ ∃ c, t.dev.jobs.ctxs = s.dev.jobs.ctxs ++ [c] ∧ c.slot = r.slot ∧ c.basin = r.basin ∧
          c.prio = r.prio ∧ c.phase = .queued)) ∧
      (r.stage = .prefill ∨ r.stage = .decode → s.dev.jobs.deadMeres = [] → ∃ t, exec (.jobIssue r.slot) s = .next t ∧ Aside s t ∧
        (¬fits → (∀ x ∈ s.dev.reqs, x.due = []) → findReq t.dev r.slot = some { r with due := [0x60] } ∧ t.dev.jobs.ctxs = s.dev.jobs.ctxs) ∧
        (fits → t.dev.reqs = s.dev.reqs ∧ t.dev.mem = s.dev.mem ∧ ∃ cs, t.dev.jobs.ctxs = s.dev.jobs.ctxs ++ cs ∧ cs.length = 4 ∧
          ∀ c ∈ cs, c.slot = r.slot ∧ c.basin = r.basin ∧ c.prio = r.passPrio ∧ c.phase = .queued ∧ c.set = s.dev.eng.nextId)))) ∧
  (∀ (s : State) (m : Nat) (p : SchedPick) (c h : Ctx) (place : List Nat), findCtx s.dev p.ctx = some c →
    headOf s.dev c.basin = some h →
    (h.id ≠ c.id → exec (.schedulingTick m p) s = .next s) ∧
    (h = c → m < 4 → basinWaits s.dev c.basin = false → nextBasin s.dev = some c.basin → c.joined = true → c.pipe = true → c.phase = .queued → setJobs s.dev c.set = [c] → p.place = [place] →
      placeOk s.dev (needOf s.dev c) place = true →
      ∃ t sems moved, exec (.schedulingTick m p) s = .next t ∧ Aside s t ∧
        findCtx t.dev c.id = some { c with phase := .running, mere := place.headD 0 / 264, place := place, started := s.dev.now, sems := sems, moved := moved } ∧
        ((∀ q ∈ s.dev.eng.passes, c.slot ∉ q.slots) → sems = c.sems) ∧
        (∀ q, s.dev.eng.passes.find? (fun q => q.slots.contains c.slot) = some q → SMap.get (fun _ => 0) sems 4094 = c.nCores * q.landed) ∧
        (∀ id x, id ≠ c.id → findCtx s.dev id = some x → ∃ b, findCtx t.dev id = some { x with moved := b } ∧ (b = true ∨ b = x.moved)) ∧ t.dev.mem = s.dev.mem ∧ t.dev.reqs = s.dev.reqs))

/-- A context whose save has ended keeps its state and gives back its cores, and the core time is charged to its basin; one with a tile operation still to end waits. A
pipeline's context that ends leaves the module. A RUN_JOB whose every core has executed END completes DONE, with the output
length that core 0 set.
Rows that complete here: saveDone (SAVE_DONE), contextEnd (CONTEXT_END). -/
def Obligations.ContextsLeave : Prop :=
  ∀ (s : State) (c : Ctx), findCtx s.dev c.id = some c →
    ((∃ k ∈ c.cores, k.tiles ≠ []) → exec (.saveDone c.id) s = .next s) ∧
    (c.phase = .saving → s.dev.power.relock.contains c.mere = false → (∀ k ∈ c.cores, k.tiles = []) → c.pipe = true → fwpRuns s.dev 1 = false →
      ∃ t, exec (.saveDone c.id) s = .next t ∧ Aside s t ∧ findCtx t.dev c.id = some { c with phase := .saved, place := [] } ∧
        (c.basin, c.place.length, c.started, s.dev.now) ∈ t.dev.jobs.spans ∧
        t.dev.reqs = s.dev.reqs ∧ t.dev.mem = s.dev.mem) ∧
    (c.pipe = true → exec (.contextEnd c.id) s = .next (on s (dropCtx s.dev c.id))) ∧
    (∀ r k, c.pipe = false → c.fault = none → c.link = none → allEnded c = true → coreAt c 0 = some k →
      (s.dev.reqs.map (·.slot)).Nodup → findReq s.dev c.slot = some r → r.live = true → r.silent = false → r.due = [] →
      r.hold = none → r.op = 11 →
      ∃ t r', exec (.contextEnd c.id) s = .next t ∧ Aside s t ∧ findReq t.dev c.slot = some r' ∧ r'.ended = some 0 ∧
        r'.outLen = k.outLen ∧ findCtx t.dev c.id = none)

/-! ### Transactions and basins (chapters 02 and 05) -/

/-- TXN_START takes the oldest waiting transaction while fewer than eight are active. One whose checks all pass becomes active
and changes no version yet; one that fails a check completes DONE with its code and index in COUNT, and no version, register of
a basin, mapping or page of memory changes.
Rows that complete here: txnStart (TXN_START). -/
def Obligations.TransactionsStart : Prop :=
  ∀ (s : State) (r : Req) (rest : List Nat), s.dev.txn.waiting = r.slot :: rest → findReq s.dev r.slot = some r → r.live = true →
    r.silent = false → (s.dev.reqs.map (·.slot)).Nodup →
    let l := inBytes s.dev r
    (8 ≤ s.dev.txn.active.length → exec (.txnStart []) s = .next s) ∧
    (s.dev.txn.active.length < 8 → listPoison s.dev (shoreAddr r.basin (Desc.inBlock r.desc) 0) l (stepOne s.dev r.basin l) = none →
      (stepOne s.dev r.basin l = none → txnWaits s.dev l = false → stepTwo s.dev l = none →
        ∀ u, stepThree (txnCx s.dev r l []) s = .ok u → ∃ t r', exec (.txnStart []) s = .next t ∧ Aside s t ∧
          t.dev.txn.active = s.dev.txn.active ++ [⟨r.slot, l⟩] ∧ t.dev.txn.waiting = rest ∧ findReq t.dev r.slot = some r' ∧
          r'.stage = .txnRun ∧ r'.busy = true ∧ r'.ended = none ∧ t.dev.txn.versions = s.dev.txn.versions ∧
          t.dev.txn.last = s.dev.txn.last ∧ (s.dev.host.failed.contains (r.basin, r.outRing) = false →
            ∀ h ∈ t.dev.host.held, h.slot = r.slot → h.out = true ∨ h.clear = false)) ∧
      (∀ f, f.1 < 8 → (stepOne s.dev r.basin l = some f ∨
          (stepOne s.dev r.basin l = none ∧ txnWaits s.dev l = false ∧ (stepTwo s.dev l = some f ∨
            (stepTwo s.dev l = none ∧ stepThree (txnCx s.dev r l []) s = .error f)))) →
        ∃ t r', exec (.txnStart []) s = .next t ∧ Aside s t ∧ findReq t.dev r.slot = some r' ∧ r'.ended = some 0 ∧
          r'.outCount = f.1 + 256 * f.2 ∧ r'.newHandle = 0 ∧ t.dev.txn.versions = s.dev.txn.versions ∧ t.dev.txn.last = s.dev.txn.last ∧
          stat t .txn 0 0 = true ∧ t.dev.mem.xlat = s.dev.mem.xlat ∧ t.dev.mem.hbm = s.dev.mem.hbm ∧
          (∀ b off, b < 64 → off < 0x160 → off ≠ 0x20 → live t.dev (regA .bsn b off) = live s.dev (regA .bsn b off))))

/-- TXN_COMMIT of an active transaction without writes to immediate registers, where nothing that it needs is missing and no write
of the host is held: its actions take effect together, the commit number rises by one, and the request completes DONE with COUNT 0
and the commit number. Where the checks fail at the commit, it aborts and the commit number stays. A slot without an active
transaction commits nothing.
Rows that complete here: txnCommit (TXN_COMMIT). -/
def Obligations.TransactionsCommit : Prop :=
  ∀ (s : State) (slot : Nat) (flags : List W64),
    (s.dev.txn.active.find? (fun a => decide (a.slot = slot)) = none → exec (.txnCommit slot flags) s = .next s) ∧
    (∀ tx r u es, s.dev.txn.active.find? (fun a => decide (a.slot = slot)) = some tx → findReq s.dev slot = some r → r.live = true →
      r.silent = false → r.busy = true → r.op = 12 → es = newExtents { txnCx s.dev r tx.list flags with badPayload := fun _ _ => false } s →
      u = { s with dev := flushNew s.dev es } → txnWaits u.dev tx.list = false →
      recordWaits u.dev tx.list = false → flushWaits u.dev es = false → s.dev.txn.held = [] →
      (∀ x ∈ actsOf tx.list, x.2.kind ≠ 2) → (s.dev.reqs.map (·.slot)).Nodup →
      (∀ w, stepThree { txnCx s.dev r tx.list flags with badPayload := fun _ _ => false } u = .ok w → ∃ t r', exec (.txnCommit slot flags) s = .next t ∧
        t.pending = s.pending ∧ t.dev.txn.last = s.dev.txn.last + 1 ∧ findReq t.dev slot = some r' ∧ r'.ended = some 0 ∧
        r'.outCount = 0 ∧ r'.newHandle = s.dev.txn.last + 1 ∧ (∀ a ∈ t.dev.txn.active, a.slot ≠ slot) ∧
        t.dev.txn.versions = w.dev.txn.versions ∧ t.dev.mem.xlat = w.dev.mem.xlat) ∧
      (∀ f, f.1 < 8 → stepThree { txnCx s.dev r tx.list flags with badPayload := fun _ _ => false } u = .error f → ∃ t r',
        exec (.txnCommit slot flags) s = .next t ∧ Aside s t ∧ t.dev.txn.last = s.dev.txn.last ∧ findReq t.dev slot = some r' ∧
        r'.ended = some 0 ∧ r'.outCount = f.1 + 256 * f.2 ∧ (∀ a ∈ t.dev.txn.active, a.slot ≠ slot) ∧
        t.dev.txn.versions = s.dev.txn.versions ∧ t.dev.mem.xlat = s.dev.mem.xlat))


/-- A superseded version whose retention has passed retires once no request pins it and no dirty row of it waits; one that is
current or pinned stays. Of memory only the HBM copy of a retired model goes.
Basins and functions. BASIN_ZERO_DONE makes a DESTROYING basin FREE. VF_ENABLE raises NumVFs to its VF where the host
enables ARI, and leaves NumVFs otherwise; a vector that it masks is masked afterwards, and a message that waits for a vector that
it unmasks is sent. While configuration requests are not answered, VF_ENABLE, a reset of a VF and a lower NumVFs change nothing. A function-level reset of a VF halts its ACTIVE or HALTED basin, clears its RING page and leaves neither completion nor held block of it; lowering NumVFs halts
every basin that loses its VF; a function-level reset of PF0 does that to every basin but 0, and clears basin 0's RING page. No
other basin's state changes.
Rows that complete here: basinZeroDone (BASIN_ZERO_DONE), versionRetire (VERSION_RETIRE), flrVf (FLR_VF), flrPf0
(FLR_PF0), numvfsLower (NUMVFS_LOWER), vfEnable (VF_ENABLE). -/
def Obligations.VersionsAndBasins : Prop :=
  (∀ (s : State) (uid : Nat) (v : Version), findVer s.dev uid = some v →
    (v.superseded = none ∨ v.retired = true ∨ (∃ r ∈ s.dev.reqs, pinsVersion r uid = true) → exec (.versionRetire uid 0) s = .next s) ∧
    (v.superseded ≠ none → v.retired = false → (∀ r ∈ s.dev.reqs, pinsVersion r uid = false) →
      (v.cls = 1 → ∀ e ∈ s.dev.eng.rowCache, e.1 = uid → e.2.2 = false) → ∃ t v', exec (.versionRetire uid 0) s = .next t ∧ Aside s t ∧
        findVer t.dev uid = some v' ∧ v'.retired = true ∧ v'.resident = false ∧ v'.desc = v.desc ∧
        (∀ u, u ≠ uid → findVer t.dev u = findVer s.dev u) ∧ t.dev.now = max s.dev.now v.keepUntil ∧
        (∀ e ∈ t.dev.eng.nodeCache, e.1 ≠ uid) ∧ t.dev.reqs = s.dev.reqs ∧
        t.dev.mem = { s.dev.mem with models := s.dev.mem.models.filter (fun h => !decide (h.uid = uid)) })) ∧
  (∀ (s : State) (n : Nat), 0 < n → n < 64 →
    (basinState s.dev n ≠ 3 → exec (.basinZeroDone n) s = .next s) ∧
    (basinState s.dev n = 3 → ∃ t, exec (.basinZeroDone n) s = .next t ∧ Aside s t ∧ basinState t.dev n = 0 ∧
      (∀ b, b < 64 → b ≠ n → basinState t.dev b = basinState s.dev b) ∧ (∀ z ∈ t.dev.mem.zeroing, z.1 ≠ n) ∧ t.dev.reqs = s.dev.reqs) ∧
    (∀ masks, configAnswers s.dev = false → exec (.vfEnable n true masks) s = .next s ∧ exec (.vfEnable n false masks) s = .next s ∧
      exec (.flrVf n) s = .next s ∧ exec (.numvfsLower n) s = .next s) ∧
    (configAnswers s.dev = true → (∀ ari, exec (.vfEnable n ari []) s = .next (on s { s.dev with
        host := { s.dev.host with ari := ari, numVFs := if ari then max s.dev.host.numVFs n else s.dev.host.numVFs } })) ∧
      (∀ ari fn v on', ∃ t, exec (.vfEnable n ari [(fn, v, on')]) s = .next t ∧ Aside s t ∧ t.dev.mem = s.dev.mem ∧ t.dev.reqs = s.dev.reqs ∧
        t.dev.host.numVFs = (if ari then max s.dev.host.numVFs n else s.dev.host.numVFs) ∧
        (t.dev.host.masked.contains (fn, v) = on') ∧ (∀ w, w ≠ (fn, v) → t.dev.host.masked.contains w = s.dev.host.masked.contains w) ∧
        (on' = false → t.dev.host.waitVec.contains (fn, v) = false ∧
          t.dev.host.msix = s.dev.host.msix ++ (if s.dev.host.waitVec.contains (fn, v) then [(fn, v)] else [])) ∧
        (on' = true → t.dev.host.waitVec = s.dev.host.waitVec ∧ t.dev.host.msix = s.dev.host.msix))) ∧
    (s.dev.host.numVFs < n → exec (.flrVf n) s = .next s ∧ exec (.numvfsLower n) s = .next s) ∧
    (configAnswers s.dev = true → n ≤ s.dev.host.numVFs → ∃ t, exec (.flrVf n) s = .next t ∧ Aside s t ∧
      (basinState s.dev n = 1 ∨ basinState s.dev n = 2 → basinState t.dev n = 2 ∧ haltCause t.dev n = 2) ∧
      (basinState s.dev n = 0 ∨ basinState s.dev n = 3 → basinState t.dev n = basinState s.dev n) ∧ live t.dev (regA .ring n 0x104) = regReset (regA .ring n 0x104) ∧
      (∀ c ∈ t.dev.host.comps, c.basin ≠ n) ∧ (∀ h ∈ t.dev.host.held, h.basin ≠ n) ∧
      (∀ b, b < 64 → b ≠ n → basinState t.dev b = basinState s.dev b) ∧ t.dev.host.numVFs = s.dev.host.numVFs) ∧
    (configAnswers s.dev = true → n ≤ s.dev.host.numVFs → ∃ t, exec (.numvfsLower n) s = .next t ∧ Aside s t ∧ t.dev.host.numVFs = n - 1 ∧
      (∀ b, b < 64 → n ≤ b → b ≤ s.dev.host.numVFs → basinState s.dev b = 1 → basinState t.dev b = 2 ∧ haltCause t.dev b = 3) ∧
      (∀ b, b < n → basinState t.dev b = basinState s.dev b)) ∧
    (s.dev.txn.held = [] → ∃ t, exec .flrPf0 s = .next t ∧ Aside s t ∧ t.dev.host.numVFs = 0 ∧
      (basinState s.dev n = 1 → basinState t.dev n = 2 ∧ haltCause t.dev n = 3) ∧ basinState t.dev 0 = basinState s.dev 0 ∧
      live t.dev (regA .ring 0 0x104) = regReset (regA .ring 0 0x104) ∧ (∀ c ∈ t.dev.host.comps, c.basin ≠ 0) ∧
      (∀ h ∈ t.dev.host.held, h.basin ≠ 0)))

/-! ### Flash, the weir and model loads (chapter 16) -/


/-- FLC_LD_GO starts the load command that FLC_LD_OP names, with the basin, block, length and destination of its registers, sets
BUSY and moves nothing yet, keeping the words that its reads will meet in error; while a command runs the write is refused with LD_BUSY, and while the page is armed it waits for the
apply. Each row acts only while FLC_LD_OP names
its operation.
LD_DONE of a load command whose checks failed, of a TRIM and of a WRITE whose blocks hold no poison: BUSY clears, RESULT is set,
the done status bit is set and no command runs. One whose checks failed, or that meets a claimed extent, has moved nothing. Otherwise
a TRIM leaves its sectors reading as zeros, a WRITE as what its blocks hold, MOVED its bytes, and every other sector of every
namespace reads as before. WRITE, TRIM and FLUSH wait while FWP2 does not run.
Rows that complete here: flashWrite (WRITE), flashRead (READ), copyIn (COPY_IN), copyOut (COPY_OUT), trim (TRIM),
flush (FLUSH), ldDone (LD_DONE). -/
def Obligations.LoadCommands : Prop :=
  (∀ (s : State) (fn : Nat) (x r : LoadReads) (op : Nat) (c : Instr),
    (op, r, c) ∈ [(1, x, Instr.flashWrite fn x), (2, ⟨x.flags, []⟩, .flashRead fn x.flags), (3, x, .copyIn fn x), (4, x, .copyOut fn x),
      (5, ⟨[], []⟩, .trim fn), (6, ⟨[], []⟩, .flush fn)] →
    (ldOp s.dev ≠ op → exec c s = .next s) ∧
    (ldOp s.dev = op → LandsOn s fn .flc 0 0x114 →
      (isArmed s.dev .flc 0 = true → ∃ t, exec c s = .next t ∧ Aside s t ∧ t.dev = { s.dev with flash.goWaits := s.dev.flash.goWaits ++ [(1, r)] }) ∧
      (isArmed s.dev .flc 0 = false → s.dev.flash.load = none → ∃ t e, exec c s = .next t ∧ Aside s t ∧
        t.dev.flash.load = some ⟨op, ldBasin s.dev, ldBlock s.dev, ldLen s.dev, ldDst s.dev, e, r.errs⟩ ∧
        bitOf (reg t .flc 0 0x118) 0 = true ∧ reg t .flc 0 0x11C = 0 ∧ t.dev.mem = s.dev.mem ∧ t.dev.host = s.dev.host ∧
        t.dev.reqs = s.dev.reqs) ∧
      (isArmed s.dev .flc 0 = false → s.dev.flash.load ≠ none → exec c s = .next (on s (setStat s.dev .flc 0 5))))) ∧
  (∀ (s : State) (c : LoadCmd), s.dev.flash.load = some c →
    ((c.op = 1 ∨ c.op = 5 ∨ c.op = 6) → fwpRuns s.dev 2 = false → exec .ldDone s = .next s) ∧
    (((c.op ≠ 1 ∧ c.op ≠ 5 ∧ c.op ≠ 6) ∨ fwpRuns s.dev 2 = true) →
      (c.early ≠ 0 → c.early < 16 → ∃ t, exec .ldDone s = .next t ∧ Aside s t ∧ t.dev.flash.load = none ∧
        reg t .flc 0 0x118 = c.early * 16 ∧ reg t .flc 0 0x11C = 0 ∧ stat t .flc 0 4 = true ∧ t.dev.mem = s.dev.mem) ∧
      (c.early = 0 → c.op = 5 ∨ (c.op = 1 ∧ c.errs = []) → ldClaimed s.dev c.basin c.dst (c.len / 4096) = true → ∃ t, exec .ldDone s = .next t ∧ Aside s t ∧
        t.dev.flash.load = none ∧ reg t .flc 0 0x118 = 10 * 16 ∧ stat t .flc 0 4 = true ∧ t.dev.mem = s.dev.mem) ∧
      (c.early = 0 → c.op = 1 → c.errs = [] → ldClaimed s.dev c.basin c.dst (c.len / 4096) = false → (c.dst + c.len / 4096) * 4096 ≤ 2 ^ 50 →
        c.len < 2 ^ 32 → (∀ i, i < c.len / 4096 → shorePoison s.dev (shoreAddr 0 c.block (i * 4096)) 4096 = false) →
        ∃ t, exec .ldDone s = .next t ∧ Aside s t ∧ t.dev.flash.load = none ∧ reg t .flc 0 0x118 = 0 ∧
          reg t .flc 0 0x11C = c.len / 4096 * 4096 ∧ stat t .flc 0 4 = true ∧ t.dev.mem.shore = s.dev.mem.shore ∧
          (∀ i j, i < c.len / 4096 → j < 4096 →
            nsByte t.dev c.basin ((c.dst + i) * 4096 + j) = .ok (Mem.read s.dev.mem.shore (shoreAddr 0 c.block (i * 4096) + j))) ∧
          (∀ b x, x < 2 ^ 50 → (b ≠ c.basin ∨ x < c.dst * 4096 ∨ (c.dst + c.len / 4096) * 4096 ≤ x) → nsByte t.dev b x = nsByte s.dev b x)) ∧
      (c.early = 0 → c.op = 5 → ldClaimed s.dev c.basin c.dst (c.len / 4096) = false → ∃ t, exec .ldDone s = .next t ∧ Aside s t ∧ t.dev.flash.load = none ∧
        reg t .flc 0 0x118 = 0 ∧ stat t .flc 0 4 = true ∧
        (∀ x, x < 2 ^ 50 → c.dst * 4096 ≤ x → x < (c.dst + c.len / 4096) * 4096 → (c.dst + c.len / 4096) * 4096 ≤ 2 ^ 50 →
          nsByte t.dev c.basin x = .ok 0) ∧
        (∀ b x, x < 2 ^ 50 → (c.dst + c.len / 4096) * 4096 ≤ 2 ^ 50 →
          (b ≠ c.basin ∨ x < c.dst * 4096 ∨ (c.dst + c.len / 4096) * 4096 ≤ x) → nsByte t.dev b x = nsByte s.dev b x))))

/-- A write-back changes where a frame lies, not what it holds: after the dirty sector that was written least recently goes to flash
no byte of any namespace reads otherwise, and the sector is no longer dirty; no other sector is taken first; after the oldest
dirty row of a version is written back the row is no longer dirty and no memory changes;
any other row waits its turn, as does one whose write-back has failed. A sector's write-back waits while FWP2 does not run.
Rows that complete here: writeBack (WRITE_BACK). -/
def Obligations.WriteBacks : Prop :=
  ∀ (s : State) (owner unit : Nat),
    (fwpRuns s.dev 2 = false → exec (.writeBack false owner unit) s = .next s) ∧
    (s.dev.mem.dirty.head? ≠ some (owner, unit) → exec (.writeBack false owner unit) s = .next s) ∧
    (fwpRuns s.dev 2 = true → s.dev.mem.dirty.head? = some (owner, unit) → unit < 2 ^ 38 → ∃ t, exec (.writeBack false owner unit) s = .next t ∧
      Aside s t ∧ (owner, unit) ∉ t.dev.mem.dirty ∧ (∀ b x, x < 2 ^ 50 → nsByte t.dev b x = nsByte s.dev b x) ∧
      t.dev.mem.hbm = s.dev.mem.hbm ∧ t.dev.mem.pool = s.dev.mem.pool) ∧
    (oldestRow s.dev owner ≠ some (owner, unit) ∨ s.dev.eng.rowsHeld.contains (owner, unit) = true → exec (.writeBack true owner unit) s = .next s) ∧
    (rowPortsUp s.dev owner = true → s.dev.eng.rowsHeld.contains (owner, unit) = false → oldestRow s.dev owner = some (owner, unit) → ∃ t, exec (.writeBack true owner unit) s = .next t ∧ Aside s t ∧
      (∀ e ∈ t.dev.eng.rowCache, e.1 = owner → e.2.1 = unit → e.2.2 = false) ∧ t.dev.mem = s.dev.mem ∧ t.dev.regs = s.dev.regs)


/-- A mere's weir lands a layer of a pass, counted from its first, or of the next pass (R374, R375). -/
def Sys2Proof.Claims.lands (v : Version) (p : Pass) (layer m : Nat) : Bool :=
  if layer < Mdl.nLayer v.desc then decide ((p.ahead.getD m (0, 0)).2 ≤ layer)
  else decide ((p.next.getD m (0, 0)).2 = layer - Mdl.nLayer v.desc ∧ layer - Mdl.nLayer v.desc < (p.next.getD m (0, 0)).1)

/-- A mere's weir writes a layer of a pass, or, with PREFETCH_EN, the one of the next pass that is its turn (R374, R375). -/
def Sys2Proof.Claims.writes (d : Dev) (v : Version) (p : Pass) (layer m : Nat) : Bool :=
  decide (layer < Mdl.nLayer v.desc) || (ctlBit d .weir m 0 && decide ((p.next.getD m (0, 0)).1 = layer - Mdl.nLayer v.desc))

/-- Model loads. A wanted version that is neither resident nor loading starts to load once its charge fits. A load whose frames
can all be read ends with the version resident: HBM holds each frame decoded, 16 to a page, those of each mere on its own three
stacks. A frame that cannot be read stops the load and sets the weir's status bit of its mere, index in the layer mod 4, and the
requests that wait for the version end with FLASH_UNREADABLE.
The weir. The next layer that has been written lands, counts in WEIR_LAYERS and adds its bytes on each mere, but on one that
holds it already, or, of a layer of the next pass, has not begun it; the next layer is written where a slot is free and no weir is
armed, of the next pass on the meres whose PREFETCH_EN is set; a mere that writes one counts a wait for FREED or none; what is
poisoned of its frames goes with it; layers prefetched for no pass are dropped 1 ms after they were kept, and count. Any other layer
changes nothing.
Rows that complete here: layerLanded (LAYER_LANDED), weirLayerWrite (WEIR_LAYER_WRITE), prefetchDrop (PREFETCH_DROP),
modelLoadStart (MODEL_LOAD_START), modelLoadDone (MODEL_LOAD_DONE), loadFail (LOAD_FAIL). -/
def Obligations.ModelsAndLayers : Prop :=
  (∀ (s : State) (uid : Nat) (v : Version), findVer s.dev uid = some v →
    (v.cls = 4 → v.kept = true → v.resident = false → v.loading = false → wanted s.dev uid = true →
      fitsHbm s.dev v.basin (Mdl.hbmPages v.desc) = true →
      exec (.modelLoadStart uid) s = .next (on s (modVer s.dev uid (fun v => { v with loading := true, loadWaits := false })))) ∧
    (∀ x, v.loading = true → readWeights s.dev v.basin v.desc = .ok x → (∀ r ∈ s.dev.reqs, r.live = false) →
      ∃ t h, exec (.modelLoadDone uid) s = .next t ∧ Aside s t ∧
        findVer t.dev uid = some { v with loading := false, resident := true, lastUse := s.dev.now } ∧ modelAt t.dev uid = some h ∧
        h.layers = WImg.layers x ∧ h.frames = (WImg.frames x).map (frameBytes x) ∧
        (∀ m, m < 4 → (h.pages.getD m []).length = ceilDiv (mereOrder (WImg.layers x) m).length 16 ∧
          ∀ p ∈ h.pages.getD m [], 3 * m * stackPages ≤ p ∧ p < 3 * (m + 1) * stackPages) ∧
        t.dev.mem.hbm = s.dev.mem.hbm ∧ t.dev.mem.flash = s.dev.mem.flash ∧ t.dev.mem.xlat = s.dev.mem.xlat ∧
        (∀ u, u ≠ uid → modelAt t.dev u = modelAt s.dev u)) ∧
    (∀ frame hdr, v.loading = true → nsRead s.dev v.basin (Mdl.imgSector v.desc * 4096) (64 + 8 * Mdl.nLayer v.desc) = .ok hdr →
      (s.dev.reqs.map (·.slot)).Nodup → ∃ t, exec (.loadFail uid frame) s = .next t ∧ Aside s t ∧
        findVer t.dev uid = some { v with loading := false } ∧ stat t .weir (frameMere (WImg.layers hdr) frame) 2 = true ∧
        (∀ l, (WImg.layers hdr).find? (fun l => decide (l.1 ≤ frame ∧ frame < l.1 + l.2)) = some l →
          frameMere (WImg.layers hdr) frame = (frame - l.1) % 4) ∧
        (∀ r ∈ s.dev.reqs, waitsFor r uid = true → r.due = [] → r.silent = false → r.op ≠ 6 →
          ∃ r', findReq t.dev r.slot = some r' ∧ r'.ended = some 0x41) ∧
        ((∀ r ∈ s.dev.reqs, waitsFor r uid = false) → t.dev.mem = s.dev.mem ∧ t.dev.reqs = s.dev.reqs))) ∧
  (∀ (s : State) (p : Pass) (layer : Nat), s.dev.eng.passes.find? (fun q => decide (q.id = p.id)) = some p →
    (∀ v, findVer s.dev p.model = some v → layer = p.landed → layer < p.written →
      ∃ t, exec (.layerLanded p.id layer) s = .next t ∧ Aside s t ∧
      (∃ q, t.dev.eng.passes.find? (fun q => decide (q.id = p.id)) = some q ∧ { q with next := p.next } = { p with landed := p.landed + 1 } ∧
        (∀ m, m < 4 → q.next.getD m (0, 0) = (p.next.getD m (0, 0)).map id (fun n =>
          if Mdl.nLayer v.desc ≤ layer ∧ lands v p layer m = true then layer - Mdl.nLayer v.desc + 1 else n))) ∧
      (∀ m, m < 4 → live t.dev (regA .weir m 0x108) = live s.dev (regA .weir m 0x108) + (if lands v p layer m then 1 else 0) ∧
        SMap.get (fun _ => 0) t.dev.eng.weirBytes m = SMap.get (fun _ => 0) s.dev.eng.weirBytes m +
          (if lands v p layer m then layerBytes s.dev v layer m else 0)) ∧ t.dev.mem = s.dev.mem) ∧
    (layer ≠ p.landed ∨ p.written ≤ layer → exec (.layerLanded p.id layer) s = .next s) ∧
    (∀ v, findVer s.dev p.model = some v → layer = p.written → layer < layerLimit s.dev v → layer < p.landed + Mdl.window v.desc →
      (∀ m, m < 4 → isArmed s.dev .weir m = false) → ∃ t q, exec (.weirLayerWrite layer ⟨p.id, []⟩) s = .next t ∧ Aside s t ∧
        t.dev.eng.passes.find? (fun q => decide (q.id = p.id)) = some q ∧
        { q with next := p.next, bad := p.bad } = { p with written := p.written + 1 } ∧
        q.bad = p.bad ++ (if layer < Mdl.nLayer v.desc then (List.range 4).flatMap (layerPoison s.dev v.uid layer) else []) ∧
        (∀ m, m < 4 → q.next.getD m (0, 0) = (p.next.getD m (0, 0)).map
            (fun n => if Mdl.nLayer v.desc ≤ layer ∧ writes s.dev v p layer m = true then layer - Mdl.nLayer v.desc + 1 else n) id ∧
          (live t.dev (regA .weir m 0x110) = live s.dev (regA .weir m 0x110) ∨ (writes s.dev v p layer m = true ∧
            live t.dev (regA .weir m 0x110) = live s.dev (regA .weir m 0x110) + 1))) ∧ t.dev.mem = s.dev.mem) ∧
    (layer ≠ p.written ∨ (∃ m, m < 4 ∧ isArmed s.dev .weir m = true) → ∀ errs, exec (.weirLayerWrite layer ⟨p.id, errs⟩) s = .next s) ∧
    (∀ m e, s.dev.eng.prefetch.find? (fun q => decide (q.1 = m)) = some e →
      ∃ t, exec (.prefetchDrop m) s = .next t ∧ Aside s t ∧ (∀ q ∈ t.dev.eng.prefetch, q.1 ≠ m) ∧
        t.dev.now = max s.dev.now (e.2.2.2.1 + msCycles 1) ∧ t.dev.eng.passes = s.dev.eng.passes ∧
        reg t .weir m 0x10C = (reg s .weir m 0x10C + ((s.dev.eng.prefetch.filter (fun q => decide (q.1 = m))).map (·.2.2.1)).sum) % 2 ^ 32 ∧
        (∀ q ∈ s.dev.eng.prefetch, q.1 ≠ m → q ∈ t.dev.eng.prefetch)))


/-- A sector read of a written sector that is not served from the write cache counts on the die's channel, and a late one as
late. A clean one changes nothing else; one from a dead die, or of an erased page that has not moved, is served by rebuild and counts as one; one found unreadable makes the sector unreadable. What the flash holds does not change. PATROL reads in the same
way while its control bit is set and FWP2 runs.
Flash dies. A die in service that times out is fenced: its epoch rises by one modulo 2^16 and its relocation begins. A failed
program counts, and the 64th fences the die. A fenced die is quarantined once no sector is left on it, and stays fenced otherwise.
FLC_DIE_READMIT returns the selected die to service with its count at 0 and its epoch as it is; no sector on it is read as it lies.
Rows that complete here: flashReadDone (FLASH_READ_DONE), flashDieTimeout (FLASH_DIE_TIMEOUT), dieRelocated
(DIE_RELOCATED), flcDieReadmit (FLC_DIE_READMIT), patrol (PATROL), progFail (PROG_FAIL). -/
def Obligations.FlashReadsAndDies : Prop :=
  (∀ (s : State) (b sec : Nat) (r : FlashRead), onFlash s.dev b sec = true →
    (s.dev.mem.unreadable.contains (b, sec) = false ∨ r = .unreadable) →
    (∃ t, exec (.flashReadDone b sec r) s = .next t ∧ Aside s t ∧ t.dev.mem.flash = s.dev.mem.flash ∧
      (r = .clean → (dieAt s.dev (sectorDie s.dev b sec)).state ≠ 2 → s.dev.flash.erased.contains (b, sec) = false →
        t.dev = count (countLate s.dev b sec (s.dev.reqs.filter (fun q => usesSector s.dev q b sec))) .flch (sectorDie s.dev b sec % 32) 0x104 1) ∧
      (r ≠ .unreadable → (dieAt s.dev (sectorDie s.dev b sec)).state = 2 ∨ s.dev.flash.erased.contains (b, sec) = true →
        live t.dev (regA .flch (sectorDie s.dev b sec % 32) 0x114) = live s.dev (regA .flch (sectorDie s.dev b sec % 32) 0x114) + 1) ∧
      (r = .unreadable → (b, sec) ∈ t.dev.mem.unreadable ∧ stat t .flc 0 0 = true)) ∧
    (ctlBit s.dev .flc 0 0 = true → fwpRuns s.dev 2 = true → ∃ t, exec (.patrol b sec r) s = .next t ∧ Aside s t ∧
      t.dev.mem.flash = s.dev.mem.flash ∧ t.dev.reqs = s.dev.reqs ∧
      (r = .clean → (dieAt s.dev (sectorDie s.dev b sec)).state ≠ 2 → s.dev.flash.erased.contains (b, sec) = false →
        t.dev = count s.dev .flch (sectorDie s.dev b sec % 32) 0x104 1) ∧
      (r ≠ .unreadable → (dieAt s.dev (sectorDie s.dev b sec)).state = 2 ∨ s.dev.flash.erased.contains (b, sec) = true →
        live t.dev (regA .flch (sectorDie s.dev b sec % 32) 0x114) = live s.dev (regA .flch (sectorDie s.dev b sec % 32) 0x114) + 1) ∧
      (r = .unreadable → (b, sec) ∈ t.dev.mem.unreadable ∧ stat t .flc 0 0 = true))) ∧
  (∀ (s : State) (n : Nat), n < 256 →
    ((dieAt s.dev n).state = 0 → dieEpoch s.dev n ≠ none → ∃ t, exec (.flashDieTimeout n) s = .next t ∧ Aside s t ∧
      dieAt t.dev n = ⟨2, ((dieAt s.dev n).epoch + 1) % 65536, (dieAt s.dev n).fails⟩ ∧
      (∀ k, k ≠ n → dieAt t.dev k = dieAt s.dev k) ∧ t.dev.mem.flash = s.dev.mem.flash) ∧
    (∀ page, (dieAt s.dev n).state = 0 → dieEpoch s.dev n ≠ none → ∃ t, exec (.progFail n page) s = .next t ∧ Aside s t ∧ t.dev.mem.flash = s.dev.mem.flash ∧
      dieAt t.dev n = (if 64 ≤ (dieAt s.dev n).fails + 1
        then ⟨2, ((dieAt s.dev n).epoch + 1) % 65536, (dieAt s.dev n).fails + 1⟩
        else ⟨0, (dieAt s.dev n).epoch, (dieAt s.dev n).fails + 1⟩)) ∧
    ((dieAt s.dev n).state = 2 → fwpRuns s.dev 2 = true → flashReadOnly s.dev = false →
      ∃ t, exec (.dieRelocated n) s = .next t ∧ Aside s t ∧
        dieAt t.dev n = { (dieAt s.dev n) with state := if onDie t.dev n = [] then 1 else 2 } ∧
        (onDie s.dev n = [] → onDie t.dev n = [] ∧ t.dev.mem = s.dev.mem) ∧ (∀ k, k ≠ n → dieAt t.dev k = dieAt s.dev k) ∧ t.dev.mem.flash = s.dev.mem.flash ∧ t.dev.mem.alloc = s.dev.mem.alloc) ∧
    (LandsOn s 0 .flc 0 0x148 → reg s .flc 0 0x140 % 256 = n → (dieAt s.dev n).state ≠ 0 → fwpRuns s.dev 2 = true →
      ∃ t, exec (.flcDieReadmit 0 1) s = .next t ∧ Aside s t ∧ dieAt t.dev n = ⟨0, (dieAt s.dev n).epoch, 0⟩ ∧
        (∀ k, k ≠ n → dieAt t.dev k = dieAt s.dev k) ∧ t.dev.mem.flash = s.dev.mem.flash ∧ t.dev.mem.alloc = s.dev.mem.alloc ∧
        onDie t.dev n = [] ∧ (onDie s.dev n = [] → t.dev.mem = s.dev.mem)))

/-! ### Errors, fencing and recovery (chapters 15 and 17) -/





/-- A full scrub pass of a stack counts, and changes no stored byte. A word with one or two bits in error counts as corrected; a
word with three becomes poisoned and counts as uncorrectable.
A page that is due is remapped to a spare page of its stack while FWP4 runs and a spare remains: one spare fewer remains; of an
assignable page that holds neither weights nor a store, the spare page reads as the page did, the page reads as zeros, and every
other byte as before; what a store of a handle has there it has in the spare page afterwards. A page that is not due, or while
FWP4 does not run, and a spare of another stack, change nothing.
Errors in the tarn words of a bundle that a core fetches. An uncorrectable word ends the context: it faults with
MEM_UNCORRECTABLE, its outstanding draws are discarded, the word is poisoned, and no register or byte changes. A corrected word of a
scalar bundle counts for the basin and flags the request, and the bundle does what it does without the error.
A node read that a record of the node cache serves, first of its expansion: an uncorrectable word in the record ends the
request with MEM_UNCORRECTABLE, WALK's status records it, and the cache no longer holds the record.
A word of a draw that comes uncorrectable twice over a die-to-die path lies poisoned in the tarn when the draw has landed; one
whose second copy is good leaves no poison. Either way the tarn holds the window's bytes.
Rows that complete here: nodeReadArrival (NODE_READ_ARRIVAL), bundle (BUNDLE), drawLands (DRAW_LANDS), hbmScrub
(HBM_SCRUB), pageRemap (PAGE_REMAP). -/
def Obligations.ScrubAndRemap : Prop :=
  (∀ (s : State) (stack : Nat), stack < 12 →
    (∀ found, ∃ t, exec (.hbmScrub stack found) s = .next t ∧ Aside s t ∧ t.dev.mem.hbm = s.dev.mem.hbm ∧
      t.dev.mem.pool = s.dev.mem.pool ∧ t.dev.reqs = s.dev.reqs ∧
      live t.dev (regA .hbm stack 0x214) = live s.dev (regA .hbm stack 0x214) + 1) ∧
    (∀ a bits, stackOf a = some stack → bits = 1 ∨ bits = 2 → ∃ t, exec (.hbmScrub stack [⟨a, bits⟩]) s = .next t ∧
      t.dev.mem.poison = s.dev.mem.poison ∧ stat t .hbm stack 0 = true ∧
      live t.dev (regA .hbm stack 0x204) = live s.dev (regA .hbm stack 0x204) + 1) ∧
    (∀ a, stackOf a = some stack → ∃ t, exec (.hbmScrub stack [⟨a, 3⟩]) s = .next t ∧
      poisoned t.dev .hbm (a / 8) = true ∧ stat t .hbm stack 1 = true ∧
      live t.dev (regA .hbm stack 0x208) = live s.dev (regA .hbm stack 0x208) + 1)) ∧
  (∀ (s : State) (page spare st : Nat), page * 65536 < 0x2A00000000 → stackOf (page * 65536) = some st →
    (fwpRuns s.dev 4 = false ∨ remapDue s.dev page st = false → exec (.pageRemap page spare) s = .next s) ∧
    (reg s .hbm st 0x210 ≠ 0 → stackOf (spare * 65536) ≠ some st → exec (.pageRemap page spare) s = .next s) ∧
    (fwpRuns s.dev 4 = true → remapDue s.dev page st = true → reg s .hbm st 0x210 ≠ 0 → sparePage s.dev spare = true →
      stackOf (spare * 65536) = some st → deviceManaged s.dev page = true → ∃ t, exec (.pageRemap page spare) s = .next t ∧ Aside s t ∧
        reg t .hbm st 0x210 = reg s .hbm st 0x210 - 1 ∧ t.dev.mem.hbm = s.dev.mem.hbm ∧ t.dev.mem.xlat = s.dev.mem.xlat ∧
        t.dev.eng.handles.map (·.kv) = s.dev.eng.handles.map (fun h => h.kv.map (fun p => if p = page then spare else p))) ∧
    (fwpRuns s.dev 4 = true → remapDue s.dev page st = true → reg s .hbm st 0x210 ≠ 0 → sparePage s.dev spare = true →
      stackOf (spare * 65536) = some st → deviceManaged s.dev page = false →
      ∃ t, exec (.pageRemap page spare) s = .next t ∧ Aside s t ∧ reg t .hbm st 0x210 = reg s .hbm st 0x210 - 1 ∧
        (∀ i, i < 65536 → Mem.read t.dev.mem.hbm (spare * 65536 + i) = Mem.read s.dev.mem.hbm (page * 65536 + i) ∧
          Mem.read t.dev.mem.hbm (page * 65536 + i) = 0) ∧
        (∀ a, a / 65536 ≠ spare → a / 65536 ≠ page → Mem.read t.dev.mem.hbm a = Mem.read s.dev.mem.hbm a) ∧
        t.dev.mem.pool = s.dev.mem.pool)) ∧
  (∀ (s : State) (id i w o : Nat) (c : Ctx) (k : CoreSt), Fetches s id i c k w → o % 8 = 0 → k.pc ≤ o → o < k.pc + 32 →
    (c.fault = none → ∃ t, exec (.bundle id i [⟨.tarn o, 3, none⟩]) s = .next t ∧ Aside s t ∧
      findCtx t.dev id = some { c with fault := some 0x40, cores := c.cores.map (fun k => { k with xfers := k.xfers.filter (fun x => !x.draw) }) } ∧
      t.dev.mem = { s.dev.mem with poison := s.dev.mem.poison ++ [(.tarn id i, o / 8)] } ∧ t.dev.reqs = s.dev.reqs) ∧
    (∀ bits, bits = 1 ∨ bits = 2 → w % 65536 = 1 → w / 2 ^ 64 = 0 → c.basin < 64 →
      let sl := Bundle.slotS w
      1 ≤ SS.op sl → SS.op sl ≤ 0x16 → SS.op sl ≠ 0x0F →
      ∃ t, exec (.bundle id i [⟨.tarn o, bits, none⟩]) s = .next t ∧ Aside s t ∧
        t.dev.jobs = (modCtx s.dev id (fun c => setCore c i { setX k (SS.rd sl) (alu (SS.op sl) (xr k (SS.rs1 sl)) (xr k (SS.rs2 sl))) with
          pc := k.pc + 32, bundles := k.bundles + 1 })).jobs ∧
        t.dev.mem = s.dev.mem ∧ live t.dev (regA .bsn c.basin 0x168) = live s.dev (regA .bsn c.basin 0x168) + 1 ∧
        t.dev.reqs = (modReq s.dev c.slot (fun r => r.flag 12)).reqs)) ∧
  (∀ (s : State) (r : Req) (w : Walk) (v : Version) (rd : NodeRead) (rest : List NodeRead) (o : Nat), AtWork s r →
    r.stage = .walk → r.walk = some w → Req.named s.dev r.pins.index = some v → w.reads = rd :: rest → rd.hit = true → rd.late = false →
    ∃ t r', exec (.nodeReadArrival r.slot [⟨.node rd.id o, 3, none⟩]) s = .next t ∧ Aside s t ∧ findReq t.dev r.slot = some r' ∧
      r'.ended = some 0x40 ∧ stat t .walk 0 4 = true ∧ cacheHit t.dev v rd.id = false) ∧
  (∀ (s : State) (id i j path : Nat) (again : Bool) (c : Ctx) (k : CoreSt) (x : Xfer) (a t0 n : Nat), findCtx s.dev id = some c →
    coreAt c i = some k → basinWaits s.dev c.basin = false → k.xfers.find? (fun y => decide (y.id = x.id) && y.draw) = some x →
    x.space = 1 → x.pieces = [(a, t0, n)] → c.phase = .running → c.fault = none → stopping s.dev c = false →
    mustWait (ordering s.dev c k) x = false → 8 * j < n →
    (∀ p ∈ s.dev.mem.poison, p.1 ≠ .dbuf id ∧ p.1 ≠ .tarn id i) →
    ∃ t c' k', exec (.drawLands id i x.id [] [⟨j, path, again⟩]) s = .next t ∧ Aside s t ∧ findCtx t.dev id = some c' ∧
      coreAt c' i = some k' ∧ Mem.readN k'.tarn t0 n = Mem.readN (dbufSeen s.dev c) a n ∧
      t.dev.mem.poison = s.dev.mem.poison ++ (if again then [(.tarn id i, t0 / 8 + j)] else []))


/-- FWP4 takes the oldest event of an enabled log. Where the ring has room its 64-byte record lands at ERRLOG_TAIL in the log's
blocks, the tail moves on by one modulo the ring's size and the status bit is set; a full ring loses it, LOST is set and the
count of lost events rises. With the log disabled, FWP4 not running or no event, nothing changes.
The coalescing interval of a pair of KIND and SOURCE ends: with no event since its last record the pair is forgotten; with
some, while FWP4 runs and the log is enabled, an event with their COUNT is held for the log.
Rows that complete here: errlogRecord (ERRLOG_RECORD), errlogCeMs (ERRLOG_CE_MS). -/
def Obligations.ErrorLog : Prop :=
  (∀ s : State,
    (s.dev.log.events = [] ∨ fwpRuns s.dev 4 = false ∨ logEnabled s.dev = false → exec .errlogRecord s = .next s) ∧
    (∀ e rest, s.dev.log.events = e :: rest → fwpRuns s.dev 4 = true → logEnabled s.dev = true → logSize s.dev ≠ 0 →
      ((logTail s.dev + 1) % logSize s.dev = logHead s.dev → ∃ t, exec .errlogRecord s = .next t ∧ Aside s t ∧
        t.dev.log.events = rest ∧ t.dev.log.lost = true ∧ stat t .errlog 0 1 = true ∧
        live t.dev (regA .errlog 0 0x10C) = live s.dev (regA .errlog 0 0x10C) + 1 ∧ t.dev.mem = s.dev.mem) ∧
      ((logTail s.dev + 1) % logSize s.dev ≠ logHead s.dev → ∃ t, exec .errlogRecord s = .next t ∧ Aside s t ∧
        t.dev.log.events = rest ∧ t.dev.log.lost = false ∧ stat t .errlog 0 0 = true ∧
        reg t .errlog 0 0x108 % 65536 = (logTail s.dev + 1) % logSize s.dev ∧
        shoreRead t.dev 0 (reg s .errlog 0 0x100 % 1024) (64 * logTail s.dev) 64 =
          recordBytes e ((reg s .errlog 0 0x118 + 1) % 2 ^ 32) s.dev.log.lost (logPhase s.dev) ∧
        t.dev.mem.hbm = s.dev.mem.hbm ∧ t.dev.reqs = s.dev.reqs))) ∧
  (∀ (s : State) (c : LogCoal), s.dev.log.coal.find? (fun x => decide (x.kind = c.kind ∧ x.source = c.source)) = some c →
    (c.since = 0 → ∃ t, exec (.errlogCeMs c.kind c.source) s = .next t ∧ Aside s t ∧
      (∀ x ∈ t.dev.log.coal, ¬(x.kind = c.kind ∧ x.source = c.source)) ∧ t.dev.log.events = s.dev.log.events ∧ t.dev.regs = s.dev.regs) ∧
    (c.since ≠ 0 → fwpRuns s.dev 4 = true → logEnabled s.dev = true → ∃ t, exec (.errlogCeMs c.kind c.source) s = .next t ∧ Aside s t ∧
      t.dev.log.events = s.dev.log.events ++ [{ c.event with count := c.since }] ∧
      t.dev.now = max s.dev.now (c.last + msCycles (reg s .errlog 0 0x110)) ∧ t.dev.regs = s.dev.regs))


/-- A core is declared dead after missed heartbeats, a stop that timed out, or the loss of its mere's heartbeat: it is quarantined
and its epoch rises by one modulo 2^16. A core that is quarantined already is left alone. The die sequencer's missed heartbeat
is reported and fences no core. While the mere's clock stands, no heartbeat is missed.
What carries the current epoch is no stale message and changes nothing, and the heartbeat of a core that is not fenced
begins its count of missed ones again; one that is missed counts, but none while the mere's clock stands. A message of a core with another epoch, and a fenced core's heartbeat, are discarded: the mere counts one, an event is
reported, and no memory, request or context changes.
Rows that complete here: heartbeat (HEARTBEAT), hbLost (HB_LOST), preemptStopTimeout (PREEMPT_STOP_TIMEOUT), stale
(STALE), mereHeartbeatLoss (MERE_HEARTBEAT_LOSS). -/
def Obligations.FencingAndStaleness : Prop :=
  (∀ (s : State) (m core : Nat), m < 4 → core < 264 →
    let i := 264 * m + core
    (isQuarantined s.dev i = false → noMajority s.dev (regA .core i 0x108) = false → domState s.dev m = 0 →
      s.dev.power.relock.contains m = false → ∃ t, exec (.hbLost m core) s = .next t ∧ Aside s t ∧
      isQuarantined t.dev i = true ∧ reg t .core i 0x108 = (reg s .core i 0x108 + 1) % 65536 ∧ t.dev.mem.hbm = s.dev.mem.hbm) ∧
    (isQuarantined s.dev i = true → exec (.hbLost m core) s = .next s) ∧
    (domState s.dev m = 0 → s.dev.power.relock.contains m = false → ∃ t, exec (.hbLost m 264) s = .next t ∧ Aside s t ∧ t.dev.jobs = { s.dev.jobs with missed := t.dev.jobs.missed } ∧
      stat t .sync m 0 = true) ∧
    (domState s.dev m ≠ 0 ∨ s.dev.power.relock.contains m = true → exec (.hbLost m 264) s = .next s ∧ exec (.hbLost m core) s = .next s) ∧
    (isQuarantined s.dev i = false → noMajority s.dev (regA .core i 0x108) = false → (∃ c ∈ s.dev.jobs.ctxs, c.phase = .saving ∧ i ∈ c.place) →
      ∃ t, exec (.preemptStopTimeout m core) s = .next t ∧ Aside s t ∧ isQuarantined t.dev i = true ∧
        reg t .core i 0x108 = (reg s .core i 0x108 + 1) % 65536) ∧
    (m ∉ s.dev.jobs.deadMeres → (∀ k, k < 264 → noMajority s.dev (regA .core (264 * m + k) 0x108) = false) → ∃ t, exec (.mereHeartbeatLoss m) s = .next t ∧ Aside s t ∧ m ∈ t.dev.jobs.deadMeres ∧
      ∀ k, k < 264 → isQuarantined t.dev (264 * m + k) = true)) ∧
  (∀ (s : State) (m core epoch : Nat), m < 4 → core < 264 →
    let i := 264 * m + core
    (reg s .core i 0x108 = epoch → exec (.stale (.core m core) epoch) s = .next s) ∧
    (isQuarantined s.dev i = false → domState s.dev m = 0 → s.dev.power.relock.contains m = false → exec (.heartbeat m ⟨core, true⟩) s = .next (on s (setMissed s.dev m core 0)) ∧
      exec (.heartbeat m ⟨core, false⟩) s = .next (on s (setMissed (count s.dev .sync m 0x128 1) m core (missedRow s.dev m core + 1)))) ∧
    (isQuarantined s.dev i = false → domState s.dev m ≠ 0 ∨ s.dev.power.relock.contains m = true → ∀ came, exec (.heartbeat m ⟨core, came⟩) s = .next s) ∧
    (reg s .core i 0x108 ≠ epoch → noMajority s.dev (regA .core i 0x108) = false → ∃ t, exec (.stale (.core m core) epoch) s = .next t ∧ Aside s t ∧
      live t.dev (regA .mere m 0x210) = live s.dev (regA .mere m 0x210) + 1 ∧ t.dev.mem = s.dev.mem ∧ t.dev.reqs = s.dev.reqs ∧
      t.dev.jobs = s.dev.jobs) ∧
    (isQuarantined s.dev i = true → ∃ t, exec (.heartbeat m ⟨core, true⟩) s = .next t ∧ Aside s t ∧
      live t.dev (regA .mere m 0x210) = live s.dev (regA .mere m 0x210) + 1 ∧ t.dev.mem = s.dev.mem ∧ t.dev.reqs = s.dev.reqs ∧
      t.dev.jobs = s.dev.jobs))

/-- Spares. PF0's mapping of a free spare into an unmapped grid position is asked for; any other is refused with MAP_BAD. An
asked or automatic mapping takes effect once the mere is empty: the core holds the grid position. A quarantined core that has
been reset is readmitted with its epoch as it is. RST_CORE of a quarantined core makes it fit for that.
Rows that complete here: spared (SPARED), mereMap (MERE_MAP), mereReadmit (MERE_READMIT), rstCore (RST_CORE). -/
def Obligations.SparesAndReadmission : Prop :=
  ∀ (s : State) (m core grid : Nat), m < 4 → core < 264 → grid < 256 →
    let i := 264 * m + core
    (∀ v : W32, LandsOn s 0 .mere m 0x214 → v.getLsbD 31 = true → v.toNat % 512 = core → bitsOf v.toNat 23 16 = grid →
      (i ∈ freeSpares s.dev m → grid ∈ unmapped s.dev m → s.dev.jobs.mapReq = [] →
        ∃ t, exec (.mereMap 0 m v) s = .next t ∧ Aside s t ∧ t.dev.jobs.mapReq = [(i, grid)]) ∧
      (i ∉ freeSpares s.dev m ∨ grid ∉ unmapped s.dev m →
        exec (.mereMap 0 m v) s = .next (on s (setStat s.dev .mere m 2 0 noTag 0 0)))) ∧
    ((i, grid) ∈ s.dev.jobs.mapReq → i ∈ freeSpares s.dev m → grid ∈ unmapped s.dev m → fwpRuns s.dev 4 = true →
      mereEmpty s.dev m = true → ∃ t, exec (.spared m core grid) s = .next t ∧ Aside s t ∧ isMapped t.dev i = true ∧
        gridOf t.dev i = grid ∧ (i, grid) ∉ t.dev.jobs.mapReq ∧ t.dev.jobs.ctxs = s.dev.jobs.ctxs) ∧
    (∀ v : W32, LandsOn s 0 .mere m 0x204 → v.getLsbD 31 = true → v.toNat % 512 = core → isQuarantined s.dev i = true →
      i ∈ s.dev.jobs.coreReset → m ∉ s.dev.jobs.deadMeres → ∃ t, exec (.mereReadmit 0 m v) s = .next t ∧ Aside s t ∧
        isQuarantined t.dev i = false ∧ reg t .core i 0x108 = reg s .core i 0x108) ∧
    (∀ v : W32, LandsOn s 0 .rst 0 0x110 → v.getLsbD 31 = true → bitsOf v.toNat 10 9 = m → v.toNat % 512 = core →
      ∃ t, exec (.rstCore 0 v) s = .next t ∧ Aside s t ∧ (isQuarantined s.dev i = true → i ∈ t.dev.jobs.coreReset) ∧
        (∀ c ∈ t.dev.jobs.ctxs, holding c = true → ∀ j, j < c.place.length → c.place[j]? = some i → j < c.cores.length →
          coreAt c j = some (freshCore 0)) ∧ t.dev.regs = s.dev.regs ∧ t.dev.mem = s.dev.mem)

/-! ### Measurement, firmware processors and updates (chapter 19) -/

/-- A slot's value after a replay of log entries: an entry that names the slot extends it, to SHA-384 of the slot's value and the
entry's digest. -/
def Sys2Proof.Claims.replay (n : Nat) : List (List Byte) → BitVec 384 → BitVec 384
  | [], v => v
  | e :: es, v =>
    replay n es (if byteAt e 4 = n then Sha.digest (slotBytes48 v ++ (e.drop 32).take 48) else v)

/-- The measurement block keeps its own record: at most 4,096 entries, numbered from 1, each naming one of the sixteen slots; the
slots in the canonical form; only the sixteen slots have extensions waiting; and, while the log is not full, every slot holds
what a replay of the log gives, from zero. -/
def Sys2Proof.Claims.MeasInv (s : State) : Prop :=
  s.meas.log.length ≤ 4096 ∧ SMap.wf (fun _ => 0) s.meas.slots = true ∧
  (∀ i e, s.meas.log[i]? = some e → e.length = 128 ∧ fieldN e 0 4 = i + 1 ∧ byteAt e 4 < 16) ∧
  (∀ w ∈ s.meas.waiting, w.1 < 16) ∧
  (s.meas.log.length < 4096 → ∀ n, slotOf s n = replay n s.meas.log 0)

/-- Every step keeps the measurement block's invariant, whatever the command: nothing but an extension or a reset changes a slot
or the log, so a verifier that replays the log obtains the slots. -/
def Obligations.MeasurementsReplay : Prop :=
  ∀ s t : State, MeasInv s → step s = .next t → MeasInv t

/-- The measurement block's invariant holds right after reset. -/
def Obligations.MeasurementsReplayAtReset : Prop := MeasInv State.reset

/-- A command that can be, or lead at once to, a power-on, cold, fundamental, device or deep-exit reset (R438): the events of
Table 19-1 and of Table 21-15, the loss of the rails, a write to RST_CTL, and what lets a held or a transaction's write to RST_CTL
take effect. -/
def Sys2Proof.Claims.resets (s : State) : Instr → Prop
  | .powerOnReset | .pwrEnRise | .pwrEnRiseActs | .pwrEnFall | .pwrGoodLow | .vinRemoved | .thermalTrip _ | .perstAssert
  | .deviceReset _ _ | .deepEntry | .deepExit _ => True
  | .regWrite _ off size _ _ => off ≤ regA .rst 0 0x100 ∧ regA .rst 0 0x100 < off + size
  | .txnCommit slot _ => (∃ h ∈ s.dev.txn.held, h.off = regA .rst 0 0x100) ∨
      ∃ a ∈ s.dev.txn.active, a.slot = slot ∧ ∃ x ∈ actsOf a.list, x.2.target = regA .rst 0 0x100
  | .poolAccessFail _ _ _ | .fabTmo _ _ | .flrPf0 => ∃ h ∈ s.dev.txn.held, h.off = regA .rst 0 0x100
  | _ => False

/-- The measurement log is append-only but for a reset: after a command either the log before it is the beginning of the log, or
the command is one that resets the module and the log is empty. -/
def Obligations.LogOnlyGrows : Prop :=
  ∀ (c : Instr) (s t : State), exec c s = .next t → s.meas.log <+: t.meas.log ∨ (resets s c ∧ t.meas.log = [])


/-- MEAS_SEL latches the 48 bytes of the selected slot, as it stands, in MEAS_VALUE, and MEAS_LOG_SEL the 128 bytes of the
selected log entry, or zeros where there is none, in MEAS_LOG_DATA; no slot, no entry and nothing outside the MEAS page
changes.
MEAS_EXT_GO by PF0 for a host slot, 10 to 15: while FWP0 runs the slot becomes SHA-384 of its value and the digest in
MEAS_EXT_DATA, every other slot is as before, and a log that is not full gains one entry, with the next number; while FWP0 does
not run the extension waits. For any other slot a status bit is set and no slot changes.
Rows that complete here: measSel (MEAS_SEL), measLogSel (MEAS_LOG_SEL), measExtGo (MEAS_EXT_GO). -/
def Obligations.MeasurementRegisters : Prop :=
  (∀ (s : State) (fn : Nat) (v : W32),
    (LandsOn s fn .meas 0 0x100 → ∃ t, exec (.measSel fn v) s = .next t ∧ Aside s t ∧
      reg t .meas 0 0x100 = v.toNat % 16 ∧
      (∀ i, i < 12 → reg t .meas 0 (0x140 + 4 * i) = fieldN (slotBytes48 (slotOf s (v.toNat % 16))) (4 * i) 4) ∧
      (∀ a, a / 0x1000 ≠ 7 → live t.dev a = live s.dev a) ∧ t.dev = { s.dev with regs := t.dev.regs }) ∧
    (MeasInv s → LandsOn s fn .meas 0 0x104 → ∃ t, exec (.measLogSel fn v) s = .next t ∧ Aside s t ∧
      reg t .meas 0 0x104 = v.toNat % 4096 ∧
      (∀ i, i < 32 → reg t .meas 0 (0x200 + 4 * i) =
        fieldN (s.meas.log.getD (v.toNat % 4096) (List.replicate 128 0)) (4 * i) 4) ∧
      (∀ a, a / 0x1000 ≠ 7 → live t.dev a = live s.dev a) ∧ t.dev = { s.dev with regs := t.dev.regs })) ∧
  (∀ (s : State) (v : W32), v.getLsbD 31 = true → LandsOn s 0 .meas 0 0x108 →
    (10 ≤ v.toNat % 16 → fwpRuns s.dev 0 = true → ∃ t, exec (.measExtGo 0 v) s = .next t ∧ t.pending = s.pending ∧ t.tap = s.tap ∧
      slotOf t (v.toNat % 16) = Sha.digest (slotBytes48 (slotOf s (v.toNat % 16)) ++ slotBytes48 (extData s.dev)) ∧
      (∀ n, n ≠ v.toNat % 16 → slotOf t n = slotOf s n) ∧
      (s.meas.log.length < 4096 → ∃ e, t.meas.log = s.meas.log ++ [e] ∧ byteAt e 4 = v.toNat % 16 ∧ byteAt e 5 = 5 ∧
        (e.drop 32).take 48 = slotBytes48 (extData s.dev)) ∧
      (4096 ≤ s.meas.log.length → t.meas.log = s.meas.log)) ∧
    (10 ≤ v.toNat % 16 → fwpRuns s.dev 0 = false →
      exec (.measExtGo 0 v) s = .next { s with meas := { s.meas with waiting := s.meas.waiting ++ [(v.toNat % 16, extData s.dev)] } }) ∧
    (v.toNat % 16 < 10 → exec (.measExtGo 0 v) s = .next (on s (setStat s.dev .meas 0 1))))

/-- FWP_UPD_GO by PF0 with no image write in progress starts one, with the target, the bank, the length and the first block of
the update registers and the result of the checks, and FWP_UPD_STAT reads BUSY; while one is in progress the write changes
nothing. FWP_UPD_DONE ends it while FWP0 runs: BUSY clears and RESULT is that of the checks; an update that failed its checks
leaves the firmware area as it was.
Rows that complete here: fwpUpdGo (FWP_UPD_GO), fwpUpdDone (FWP_UPD_DONE). -/
def Obligations.FirmwareUpdates : Prop :=
  ∀ (s : State) (fl : List W64),
    (LandsOn s 0 .fwp 0 0x20C → s.dev.flash.update = none → ∃ t, exec (.fwpUpdGo 0 1 fl) s = .next t ∧ Aside s t ∧
      t.dev.flash.update = some (reg s .fwp 0 0x208 % 8, bitsOf (reg s .fwp 0 0x208) 4 4, reg s .fwp 0 0x204,
        reg s .fwp 0 0x200 % 1024, updCheck s.dev fl) ∧ reg t .fwp 0 0x210 = 1 ∧ t.dev.flash.images = s.dev.flash.images) ∧
    (LandsOn s 0 .fwp 0 0x20C → s.dev.flash.update ≠ none → exec (.fwpUpdGo 0 1 fl) s = .next s) ∧
    (∀ n bank len block res, s.dev.flash.update = some (n, bank, len, block, res) → fwpRuns s.dev 0 = true → res < 2 ^ 28 →
      ∃ t, exec .fwpUpdDone s = .next t ∧ Aside s t ∧ t.dev.flash.update = none ∧ reg t .fwp 0 0x210 = res * 16 ∧
        (res ≠ 0 → t.dev.flash.images = s.dev.flash.images) ∧ t.dev.mem = s.dev.mem)



/-- A watchdog that expires, and FWP_CTL.RESTART written by PF0, declare the processor dead once the module is READY: its epoch
rises by one modulo 2^16, its state becomes RESTARTING, its restart is queued behind the others, and vector 18 of PF0 is sent. A
processor that restarts already, or whose epoch has no majority, is not declared.
FWP_RESTART_DONE of the processor whose turn it is, FWP0 before every other, with FWP0 running where it is another's: an
image whose header is in order and whose sectors can be read starts, the processor RUNNING and no longer among the restarts; any
other image leaves it STOPPED. For a processor whose turn it is not, nothing changes.
A firmware access outside its protection unit is not performed: the running processor stops, its PROT status bit is set, and
no memory, request or measurement changes. One that the unit admits changes nothing: its own memory, a mailbox it may use, any page
read, its own FWP page and those of its blocks written, the reserve for FWP1 and FWP4, the firmware area as R435 divides it.
Rows that complete here: watchdogExpiry (WATCHDOG_EXPIRY), restart (RESTART), fwpRestartDone (FWP_RESTART_DONE), prot
(PROT). -/
def Obligations.FirmwareStopsAndRestarts : Prop :=
  (∀ (s : State) (n : Nat), n < 6 → isReady s.dev = true →
    (reg s .fwp n 0x100 % 4 ≠ 1 → (0, 18) ∉ s.dev.host.masked → noMajority s.dev (regA .fwp n 0x104) = false → ∃ t, exec (.watchdogExpiry n) s = .next t ∧ Aside s t ∧
      reg t .fwp n 0x100 = 1 ∧ reg t .fwp n 0x104 = (reg s .fwp n 0x104 + 1) % 65536 ∧
      t.dev.flash.restarts = s.dev.flash.restarts ++ [n] ∧ t.dev.host.msix.getLast? = some (0, 18) ∧
      t.dev.reqs = s.dev.reqs ∧ t.dev.mem = s.dev.mem) ∧
    (reg s .fwp n 0x100 % 4 = 1 → exec (.watchdogExpiry n) s = .next s) ∧
    (reg s .fwp n 0x100 % 4 ≠ 1 → noMajority s.dev (regA .fwp n 0x104) = true →
      exec (.watchdogExpiry n) s = .next (on s (lostMark s.dev (regA .fwp n 0x104)))) ∧
    (LandsOn s 0 .fwp n 0x108 → ∃ t, exec (.restart 0 n 1) s = .next t ∧ exec (.watchdogExpiry n) s = .next t)) ∧
  (∀ (s : State) (n : Nat), n < 6 →
    (nextRestart s.dev ≠ some n → exec (.fwpRestartDone n) s = .next s) ∧
    (nextRestart s.dev = some n → (n = 0 ∨ fwpRuns s.dev 0 = true) → noMajority s.dev (regA .rst 0 0x10C) = false →
      ∃ t, exec (.fwpRestartDone n) s = .next t ∧ t.pending = s.pending ∧ t.tap = s.tap ∧
      n ∉ t.dev.flash.restarts ∧
      (imageSound s.dev (reg s .rst 0 0x10C % 2) n = true → reg t .fwp n 0x100 = 0) ∧
      (imageSound s.dev (reg s .rst 0 0x10C % 2) n = false → reg t .fwp n 0x100 = 2))) ∧
  (∀ (s : State) (n addr : Nat) (write : Bool) (place : FwPlace), n < 6 → isReady s.dev = true → fwpRuns s.dev n = true →
    ((place = .memory n ∨ (∃ p, place = .page p ∧ write = false) ∨ place = .page (pageNo .fwp n) ∨
      (place = .reserve ∧ (n = 1 ∨ n = 4)) ∨ (place = .image ∧ (n = 0 ∨ n = 2)) ∨ (place = .record ∧ (n = 1 ∨ n = 2)) ∨
      (place = .flash ∧ n = 2) ∨ (∃ k, k ≠ n ∧ place = (if write then .mailbox n k else .mailbox k n))) →
      exec (.prot n write place addr) s = .next s) ∧
    (place = .other ∨ (∃ k, k ≠ n ∧ place = .memory k) ∨ (∃ k l, place = .mailbox k l ∧ k ≠ n ∧ l ≠ n) ∨
      (place = .reserve ∧ n ≠ 1 ∧ n ≠ 4) ∨ (place = .image ∧ n ≠ 0 ∧ n ≠ 2) ∨ (place = .record ∧ n ≠ 1 ∧ n ≠ 2) ∨
      (place = .flash ∧ n ≠ 2) ∨ (write = true ∧ ∃ k i, k ∉ fwpPages n ∧ pageOf (pageNo k i) = some (k, i) ∧ k ≠ .fwp ∧ place = .page (pageNo k i)) →
    ∃ t, exec (.prot n write place addr) s = .next t ∧ Aside s t ∧ reg t .fwp n 0x100 = 2 ∧ stat t .fwp n 0 = true ∧
      t.dev.mem = s.dev.mem ∧ t.dev.reqs = s.dev.reqs ∧ t.dev.flash = s.dev.flash ∧ t.dev.eng = s.dev.eng))

/-! ### Resets, rails and boot (chapters 19 and 21) -/

/-- What is on flash, where no basin operation awaits its completion (R429), is as before: every byte of basin 0's namespace and of
those that have a record. -/
def Sys2Proof.Claims.FlashKept (s t : State) : Prop :=
  s.dev.txn.unsure = [] → ∀ b x, (b = 0 ∨ ∃ r ∈ s.dev.flash.records, r.1 = b) → x < 2 ^ 50 →
    Mem.read t.dev.mem.flash (nsKey b x) = Mem.read s.dev.mem.flash (nsKey b x)


/-- The rail sequence. PWR_EN that rises with the Spring domain powered, at least 50 ms after it last fell, starts the rails; a
rise that comes earlier waits, and acts once the 50 ms have passed. Rails in regulation become good; PWR_GOOD then rises;
PWR_GOOD low, while the module runs, is a cold reset with PWR_GOOD low. Without VIN only PWR_EN's level changes.
Rows that complete here: pwrEnRise (PWR_EN_RISE), railsGood (RAILS_GOOD), pwrGoodRise (PWR_GOOD_RISE), pwrGoodLow
(PWR_GOOD_LOW), pwrEnRiseActs (PWR_EN_RISE_ACTS). -/
def Obligations.RailSequence : Prop :=
  ∀ s : State,
    (s.dev.power.vin = true → s.dev.power.pwrEn = false → s.dev.power.riseWaits = false →
      (∀ t0, s.dev.power.enFall = some t0 → t0 + msCycles 50 ≤ s.dev.now) →
      ∃ t, exec .pwrEnRise s = .next t ∧ t.pending = s.pending ∧ t.dev.power.pwrEn = true ∧ t.dev.power.rails = .starting ∧
        reg t .rst 0 0x104 % 16 = 2) ∧
    (s.dev.power.vin = false → s.dev.power.pwrEn = false → s.dev.power.riseWaits = false →
      exec .pwrEnRise s = .next (on s { s.dev with power := { s.dev.power with pwrEn := true } })) ∧
    (∀ t0, s.dev.power.vin = true → s.dev.power.pwrEn = false → s.dev.power.riseWaits = false → s.dev.power.enFall = some t0 →
      s.dev.now < t0 + msCycles 50 →
      exec .pwrEnRise s = .next (on s { s.dev with power := { s.dev.power with riseWaits := true } })) ∧
    (∀ t0, s.dev.power.riseWaits = true → s.dev.power.enFall = some t0 →
      ∃ t, exec .pwrEnRiseActs s = .next t ∧ t.pending = s.pending ∧ t.dev.power.pwrEn = true ∧ t.dev.power.riseWaits = false ∧
        t.dev.power.rails = .starting ∧ t0 + msCycles 50 ≤ t.dev.now) ∧
    (s.dev.power.rails = .starting →
      exec .railsGood s = .next (on s { s.dev with power := { s.dev.power with rails := .good } })) ∧
    (s.dev.power.rails = .good → s.dev.power.tripped = false →
      exec .pwrGoodRise s = .next (on s { s.dev with power := { s.dev.power with pwrGood := true } })) ∧
    (s.dev.power.rails = .good → s.dev.power.pwrGood = true → s.dev.power.booting = false →
      ∃ t, exec .pwrGoodLow s = .next t ∧ t.pending = s.pending ∧ t.dev.power.pwrGood = false ∧ t.dev.power.booting = true ∧
        reg t .rst 0 0x104 % 16 = 2 ∧ t.dev.reqs = [] ∧ t.meas = ⟨[], [], []⟩)

/-- A power-on reset starts the time at zero and keeps flash: every register reads its reset value, nothing waits, no basin but 0
is active, no measurement is held, and what is on flash is as before. Where PWR_EN is high by then it acts at once: the rails start
and RST_CAUSE reads cold.
Losing power. PWR_EN that falls loses every request, job and volatile memory and takes the rails off; VIN removed loses the
Spring domain too, so that every register reads its reset value; a die that trips takes the rails off and records THERMTRIP in
RST_CAUSE. Flash contents are kept in each case.
Rows that complete here: powerOnReset (POWER_ON_RESET), pwrEnFall (PWR_EN_FALL), thermalTrip (THERMAL_TRIP),
vinRemoved (VIN_REMOVED). -/
def Obligations.PowerResets : Prop :=
  (∀ s : State, ∃ t, exec .powerOnReset s = .next t ∧ t.pending = s.pending ∧ t.dev.now = 0 ∧ t.meas = ⟨[], [], []⟩ ∧
    t.tap = Tap.reset ∧ (∀ a, a ≠ regA .rst 0 0x104 → a ≠ regA .rst 0 0x114 → live t.dev a = regReset a ∧ staged t.dev a = regReset a) ∧
    t.dev.reqs = [] ∧ basinState t.dev 0 = 1 ∧ (∀ b, 0 < b → b < 64 → basinState t.dev b = 0) ∧
    t.dev.host.comps = [] ∧ t.dev.eng = Dev.reset.eng ∧ t.dev.jobs = Dev.reset.jobs ∧ t.dev.txn = Dev.reset.txn ∧
    t.dev.mem.hbm = [] ∧ t.dev.mem.pool = [] ∧ t.dev.mem.shore = [] ∧ FlashKept s t ∧
    ((s.dev.power.pwrEn || s.dev.power.riseWaits) = false → t.dev.power.rails = .off ∧
      ∀ a ∈ [regA .rst 0 0x104, regA .rst 0 0x114], live t.dev a = regReset a) ∧
    ((s.dev.power.pwrEn || s.dev.power.riseWaits) = true → t.dev.power.rails = .starting ∧ t.dev.power.pwrEn = true ∧
      reg t .rst 0 0x104 % 16 = 2 ∧ live t.dev (regA .rst 0 0x114) = regReset (regA .rst 0 0x114) + 1)) ∧
  (∀ s : State,
    (s.dev.power.vin = true → s.dev.power.riseWaits = false → s.dev.power.pwrEn = true → ∃ t, exec .pwrEnFall s = .next t ∧ t.pending = s.pending ∧
      t.dev.power.rails = .off ∧ t.dev.power.pwrEn = false ∧ t.dev.power.enFall = some s.dev.now ∧ t.dev.power.tripped = false ∧
      t.dev.reqs = [] ∧ t.dev.jobs = Dev.reset.jobs ∧ t.dev.mem.hbm = [] ∧ FlashKept s t ∧
      (∀ a, springHeld a = true → live t.dev a = live s.dev a)) ∧
    (∃ t, exec .vinRemoved s = .next t ∧ t.pending = s.pending ∧ t.dev.power.vin = false ∧ t.dev.power.rails = .off ∧
      (∀ a, live t.dev a = regReset a) ∧ t.dev.reqs = [] ∧ FlashKept s t) ∧
    (∀ die, die ≤ 4 → s.dev.power.tripped = false → (s.dev.power.rails = .good ∨ s.dev.power.rails = .starting) →
      ∃ t, exec (.thermalTrip die) s = .next t ∧ t.pending = s.pending ∧ t.dev.power.tripped = true ∧ t.dev.power.rails = .off ∧
        bitOf (reg t .rst 0 0x104) 8 = true ∧ t.dev.reqs = [] ∧ FlashKept s t))

/-- Every register of the Spring domain but RST_CAUSE and RST_COUNT is as before (Table 19-1). -/
def Sys2Proof.Claims.springKept (s t : State) : Prop :=
  ∀ a, springHeld a = true → a ≠ regA .rst 0 0x104 → a ≠ regA .rst 0 0x114 → live t.dev a = live s.dev a

/-- PERST# asserted on a module that runs and is not being reset is a fundamental reset; the key write of PF0 to RST_CTL is a
device reset. Each records its cause and counts in RST_COUNT, ends every request, clears the measurements, keeps every other
register of the Spring domain and flash; the device reset keeps the number of VFs, the fundamental reset does not. A request that
lives at a device reset, and that holds neither block nor handle, has its completion, of class DEVICE_RESET, written where its
outlet ring takes it. PERST# deasserted lets boot begin.
Rows that complete here: perstAssert (PERST_ASSERT), perstDeassert (PERST_DEASSERT), deviceReset (DEVICE_RESET). -/
def Obligations.Resets : Prop :=
  ∀ s : State,
    (running s.dev = true → s.dev.power.perst = false → s.dev.power.booting = false → ∃ t, exec .perstAssert s = .next t ∧
      t.pending = s.pending ∧ t.dev.power.perst = true ∧ reg t .rst 0 0x104 % 16 = 3 ∧ t.dev.host.numVFs = 0 ∧ t.dev.reqs = [] ∧
      t.meas = ⟨[], [], []⟩ ∧ isReady t.dev = false ∧ FlashKept s t ∧ springKept s t ∧
      live t.dev (regA .rst 0 0x114) = live s.dev (regA .rst 0 0x114) + 1) ∧
    (exec .perstDeassert s = .next (on s { s.dev with power := { s.dev.power with perst := false } })) ∧
    (∀ v : W32, LandsOn s 0 .rst 0 0x100 → isReady s.dev = true → v.getLsbD 0 = true → bitsOf v.toNat 15 8 = 0xA5 →
      s.dev.power.booting = false → ∃ t, exec (.deviceReset 0 v) s = .next t ∧
        t.pending = s.pending ∧ reg t .rst 0 0x104 % 16 = 4 ∧ t.dev.host.numVFs = s.dev.host.numVFs ∧ t.dev.reqs = [] ∧
        t.meas = ⟨[], [], []⟩ ∧ isReady t.dev = false ∧ FlashKept s t ∧ springKept s t ∧
        live t.dev (regA .rst 0 0x114) = live s.dev (regA .rst 0 0x114) + 1 ∧
        (∀ r, s.dev.reqs = [r] → r.live = true → r.silent = false → r.hold = none → s.dev.host.comps = [] → s.dev.host.held = [] →
          s.dev.jobs.ctxs = [] → outReady s.dev r.basin r.outRing = true →
          let a := r.basin * 2 ^ 64 + reg s .ring r.basin (0x404 + 0x20 * r.outRing) * 2 ^ 32 +
            reg s .ring r.basin (0x400 + 0x20 * r.outRing) + 32 * outTail s.dev r.basin r.outRing
          Mem.readN t.dev.host.hostMem a 9 = natLe 4 r.tag.toNat ++ natLe 4 (Desc.cookie r.desc) ++ natLe 1 0x7F))

/-- BOOT of a module that runs, out of PERST# and in reset. The boot ROM, the fuses, the firmware configuration and FWP0's image
are measured first. An FWP0 image that is not in order ends the boot at step 3 with READY still 0; otherwise READY is set, the
reset is over, and the module answers. A module that is not in reset is left alone.
Rows that complete here: boot (BOOT). -/
def Obligations.Boot : Prop :=
  ∀ s : State,
    (s.dev.power.booting = false → exec .boot s = .next s) ∧
    (s.dev.power.booting = true → running s.dev = true → s.dev.power.perst = false → reg s .rst 0 0x108 = 0 →
      noMajority s.dev (regA .rst 0 0x10C) = false → ∃ t, exec .boot s = .next t ∧ t.pending = s.pending ∧ t.tap = s.tap ∧
        (s.meas = ⟨[], [], []⟩ → (t.meas.log.take 4).map (byteAt · 4) = [0, 7, 8, 1] ∧
          slotOf t 0 = Sha.digest (slotBytes48 0 ++ slotBytes48 Config.romDigest)) ∧
        (imageSound s.dev (reg s .rst 0 0x10C % 2) 0 = false →
          isReady t.dev = false ∧ bitsOf (reg t .rst 0 0x108) 4 1 = 3 ∧ t.dev.power.booting = true) ∧
        (imageSound s.dev (reg s .rst 0 0x10C % 2) 0 = true → s.dev.power.mctpWait = [] →
          isReady t.dev = true ∧ bitsOf (reg t .rst 0 0x108) 4 1 = 8 ∧ t.dev.power.booting = false ∧
          t.dev.mem.flash = s.dev.mem.flash))

/-! ### The TAP (chapter 21) -/

/-- While the shore has its rails, each TAP command selects its instruction, the instruction register shifting out 0b00000001: TRST#
and IDCODE that of IDCODE, which gives the 32 bits of 0x11024347; BYPASS its bit, which captures 0; SAMPLE_PRELOAD its own, which
captures the contacts and loads the boundary register; EXTEST captures them too while PERST# is asserted; EXTEST, HIGHZ and CLAMP
act as BYPASS while it is not. CORE_DEBUG reaches an OFFLINE core: a register that it reads or writes is the core's; of any other
core it reads zeros and changes nothing. Of the block proper only the debugged core's own state, and the free values drawn, change.
Without rails nothing changes.
Rows that complete here: trst (TRST), idcode (IDCODE), samplePreload (SAMPLE_PRELOAD), extest (EXTEST), highz (HIGHZ),
clamp (CLAMP), coreDebug (CORE_DEBUG), bypass (BYPASS). -/
def Obligations.TapInstructions : Prop :=
  ∀ (s : State) (bits : List Bool) (m core : Nat) (op : DebugOp),
    (s.dev.power.rails = .good →
      exec .trst s = .next { s with tap := { s.tap with ir := 1, debug := none } } ∧
      exec .idcode s = .next { s with tap := { s.tap with ir := 1, irOut := scanBits 8 1, drOut := scanBits 32 0x11024347 } } ∧
      exec .bypass s = .next { s with tap := { s.tap with ir := 0xFF, irOut := scanBits 8 1, drOut := [false] } } ∧
      (∃ t, exec (.samplePreload bits) s = .next t ∧ t = { s with tap := t.tap, dev := { s.dev with fresh := t.dev.fresh } } ∧ t.tap.ir = 2 ∧
        t.tap.irOut = scanBits 8 1 ∧ t.tap.drOut = contacts s.dev ∧ t.tap.drOut.getD 1 false = s.dev.power.pwrGood ∧
        t.tap.drOut.getD 2 false = !s.dev.power.perst ∧ t.tap.boundary.length = 15 ∧
        ∀ i, i < 15 → t.tap.boundary.getD i false = bits.getD i false) ∧
      (∃ t, exec .extest s = .next t ∧ t = { s with tap := t.tap, dev := { s.dev with fresh := t.dev.fresh } } ∧
        tapActs t = (if s.dev.power.perst then 3 else 0xFF) ∧ t.tap.irOut = scanBits 8 1 ∧
        t.tap.drOut = if s.dev.power.perst then contacts s.dev else [false]) ∧
      (∃ t, exec .highz s = .next t ∧ t = { s with tap := t.tap } ∧ tapActs t = (if s.dev.power.perst then 4 else 0xFF) ∧
        t.tap.irOut = scanBits 8 1 ∧ t.tap.drOut = [false]) ∧
      (∃ t, exec .clamp s = .next t ∧ t = { s with tap := t.tap } ∧ tapActs t = (if s.dev.power.perst then 5 else 0xFF) ∧
        t.tap.irOut = scanBits 8 1 ∧ t.tap.drOut = [false]) ∧
      (m < 4 → core < 264 → coreStateWord s.dev (264 * m + core) = 5 →
        (∃ t, exec (.coreDebug m core op) s = .next t ∧ t.pending = s.pending ∧ t.meas = s.meas ∧ t.tap.ir = 0x20 ∧
          t.tap.debug = some (264 * m + core) ∧
          t.dev = { s.dev with fresh := t.dev.fresh, jobs := { s.dev.jobs with debugged := t.dev.jobs.debugged } }) ∧
        (∀ r, ∃ t, exec (.coreDebug m core (.read r)) s = .next t ∧ t.dev = s.dev ∧
          t.tap.read = debugRead (debugCore s.dev (264 * m + core)).1 r) ∧
        (∀ n v, n ≠ 0 → n < 32 → v.length = 8 → ∃ t, exec (.coreDebug m core (.write (.x n) v)) s = .next t ∧
          debugRead (debugCore t.dev (264 * m + core)).1 (.x n) = v ∧
          ∀ k, k < 32 → k ≠ n → debugRead (debugCore t.dev (264 * m + core)).1 (.x k) = debugRead (debugCore s.dev (264 * m + core)).1 (.x k))) ∧
      (coreStateWord s.dev (264 * m + core) ≠ 5 → exec (.coreDebug m core op) s = .next { s with tap := { s.tap with
        ir := 0x20, irOut := scanBits 8 1, debug := none, read := List.replicate (debugLen op) 0 } })) ∧
    (s.dev.power.rails ≠ .good → ∀ c ∈ [Instr.trst, .idcode, .bypass, .samplePreload bits, .extest, .highz, .clamp, .coreDebug m core op],
      exec c s = .next s)

/-- The module serves messages of a transport at once: on SMBus powered and not in reset, through PCIe READY and not in PERST#; the
shore is awake. -/
def Sys2Proof.Claims.Serves (s : State) (via : Via) : Prop :=
  domState s.dev 4 = 0 ∧ domMoving s.dev 4 = false ∧
  if via = .smbus then s.dev.power.vin = true ∧ s.dev.power.rails = .good ∧ s.dev.power.tripped = false ∧ s.dev.power.booting = false
  else running s.dev = true ∧ s.dev.power.perst = false ∧ isReady s.dev = true

/-- What has left the module on a transport, oldest first: MCTP messages with their type, or data objects. -/
def Sys2Proof.Claims.sent (s : State) : Via → List (List Byte)
  | .smbus => s.dev.power.mctp
  | .vdm => s.dev.power.vdm
  | .doe => s.dev.power.doe

/-- An SPDM response leaves the module on a transport, and nothing on another. -/
def Sys2Proof.Claims.Answers (s : State) (via : Via) (c : Instr) (resp : List Byte) : Prop :=
  ∃ t, exec c s = .next t ∧ t.pending = s.pending ∧ t.meas = s.meas ∧ t.tap = s.tap ∧
    (∀ v, sent t v = sent s v ++ (if v = via then [if via = .doe then resp else (5 : Byte) :: resp] else [])) ∧
    t.dev.regs = s.dev.regs ∧ t.dev.mem = s.dev.mem ∧ t.dev.reqs = s.dev.reqs


/-- The responder, on SMBus, PCIe messages or the data object exchange, while FWP0 runs, on a request of each row's code. GET_VERSION is answered with version 1.2 and begins the
negotiation; GET_CAPABILITIES and NEGOTIATE_ALGORITHMS are answered in that order and unexpected in any other; after them the
digests, the certificate chain, a signed challenge and the measurements of the slots as they stand are answered. Any other code
is unsupported. No register, memory, request or measurement changes. While FWP0 restarts every request is answered Busy, and
while it is stopped none is answered (message layouts: the model's choice, log 70).
The management bus. Set Endpoint ID with an endpoint of 8 to 254 gives the module that endpoint, and with any other leaves it
as it was; each is answered. Get Endpoint ID is answered with the endpoint, and a control message of another command but 4 and 5 as
unsupported. A message of a type that is neither control nor SPDM is discarded, and before READY it waits; a packet that times out
is abandoned: nothing changes. The alert response is the module's address while ALERT# is low, and nothing otherwise (control
layouts: the model's choice, log 70).
Rows that complete here: getVersion (GET_VERSION), getCapabilities (GET_CAPABILITIES), negotiateAlgorithms
(NEGOTIATE_ALGORITHMS), getDigests (GET_DIGESTS), getCertificate (GET_CERTIFICATE), challenge (CHALLENGE),
getMeasurements (GET_MEASUREMENTS), spdmUnsupported (SPDM_UNSUPPORTED), setEndpointId (SET_ENDPOINT_ID), mctpOther
(MCTP_OTHER), smbusTimeout (SMBUS_TIMEOUT), alertResponse (ALERT_RESPONSE). -/
def Obligations.Management : Prop :=
  (∀ (s : State) (via : Via) (req : List Byte), Serves s via →
    let code := byteAt req 1
    let row := fun (c : Instr) => (c, code) ∈ [(Instr.getVersion via req, 0x84), (.getCapabilities via req, 0xE1), (.negotiateAlgorithms via req, 0xE3),
      (.getDigests via req, 0x81), (.getCertificate via req, 0x82), (.challenge via req, 0x83), (.getMeasurements via req, 0xE0)]
    (∀ c, row c → reg s .fwp 0 0x100 % 4 = 1 → Answers s via c (spdmError 3 0)) ∧
    (∀ c, row c → 2 ≤ reg s .fwp 0 0x100 % 4 → exec c s = .next s) ∧
    (reg s .fwp 0 0x100 % 4 = 0 →
      (code = 0x84 → Answers s via (.getVersion via req) [0x10, 0x04, 0, 0, 0, 1, 0, 0x12]) ∧
      (code ∉ [0x84, 0xE1, 0xE3, 0x81, 0x82, 0x83, 0xE0] → Answers s via (.spdmUnsupported via req) (spdmError 7 code)) ∧
      (byteAt req 0 = 0x12 →
        (code = 0xE1 → Answers s via (.getCapabilities via req) (if s.dev.power.spdmStep = 1 then capabilities else spdmError 4 0)) ∧
        (code = 0xE3 → Answers s via (.negotiateAlgorithms via req) (if s.dev.power.spdmStep = 2 then algorithms req else spdmError 4 0)) ∧
        (s.dev.power.spdmStep = 3 →
          (code = 0x81 → Answers s via (.getDigests via req) ([0x12, 0x01, 0, 1] ++ certDigest)) ∧
          (code = 0x82 → Answers s via (.getCertificate via req) (certificate req)) ∧
          (code = 0x83 → byteAt req 2 % 16 = 0 → byteAt req 3 ∈ [0, 1, 0xFF] → Answers s via (.challenge via req)
            (challengeBody s req ++ Config.sign (s.dev.power.spdmVca ++ s.dev.power.spdmB ++ req ++ challengeBody s req))) ∧
          (code = 0xE0 → (byteAt req 3 ≤ 16 ∨ byteAt req 3 = 0xFF) → bitOf (byteAt req 2) 0 = true → byteAt req 36 % 16 = 0 →
            Answers s via (.getMeasurements via req) (measurementsBody s req ((req.drop 4).take 32) ++
              Config.sign (s.dev.power.spdmVca ++ s.dev.power.spdmL ++ req ++ measurementsBody s req ((req.drop 4).take 32)))))))) ∧
  (∀ (s : State) (req : List Byte),
    (Serves s .smbus → byteAt req 1 = 1 → byteAt req 2 % 4 ≤ 1 → ∃ t m, exec (.setEndpointId req) s = .next t ∧ Aside s t ∧
      t.dev.power.eid = (if 8 ≤ byteAt req 3 ∧ byteAt req 3 ≤ 254 then byteAt req 3 else s.dev.power.eid) ∧
      t.dev.power.mctp = s.dev.power.mctp ++ [m] ∧ byteAt m 0 = 0 ∧ byteAt m 3 = (if 8 ≤ byteAt req 3 ∧ byteAt req 3 ≤ 254 then 0 else 2) ∧
      t.dev.regs = s.dev.regs ∧ t.dev.reqs = s.dev.reqs) ∧
    (Serves s .smbus → byteAt req 1 ∉ [1, 4, 5] → ∃ t m, exec (.setEndpointId req) s = .next t ∧ Aside s t ∧
      t.dev = { s.dev with power := { s.dev.power with mctp := s.dev.power.mctp ++ [m] } } ∧ byteAt m 0 = 0 ∧ byteAt m 2 = byteAt req 1 ∧
      (byteAt req 1 = 2 → byteAt m 3 = 0 ∧ byteAt m 4 = s.dev.power.eid % 256) ∧ (byteAt req 1 ≠ 2 → byteAt m 3 = 5)) ∧
    (Serves s .smbus → exec (.mctpOther req) s = .next s) ∧
    (s.dev.power.vin = true → s.dev.power.tripped = false → s.dev.power.rails ≠ .off → s.dev.power.booting = true →
      byteAt req 0 % 128 ≠ 0 → byteAt req 0 % 128 ≠ 5 →
      exec (.mctpOther req) s = .next (on s { s.dev with power := { s.dev.power with mctpWait := s.dev.power.mctpWait ++ [req] } })) ∧
    exec .smbusTimeout s = .next s ∧
    (alertLow s.dev = true → exec .alertResponse s = .next (on s { s.dev with power := { s.dev.power with
      alerts := s.dev.power.alerts ++ [BitVec.ofNat 8 (2 * (0x34 + s.dev.power.straps % 4))] } })) ∧
    (alertLow s.dev = false → exec .alertResponse s = .next s))

/-! ### Power, clocks, wake table and sensors (chapters 18 and 21) -/


/-- AUTO_POWER_ENTRY of an idle mere that is in S0 or S1, neither moving nor held up, above its FLOOR: the mere goes one state
deeper, from S1 only where no work in progress reaches HBM, and no other domain's state changes. The shore enters S1 in the same
way. A domain that is not idle stays, and so does every domain while the PWR or the CLK page is armed.
S3_ENTRY of a mere whose entry has begun, while FWP1, FWP2 and FWP3 run: where no dirty row is kept from the pool the mere is in
S3, no longer entering, and its prefetched layers are gone; otherwise it stays in S2 with the entry abandoned. No request changes.
Without one of the three processors it waits.
Rows that complete here: autoPowerEntry (AUTO_POWER_ENTRY), s3Entry (S3_ENTRY). -/
def Obligations.DomainEntry : Prop :=
  (∀ (s : State) (dom : Nat), dom ≤ 4 → running s.dev = true → s.dev.power.booting = false → domMoving s.dev dom = false →
    (domIdle s.dev dom = false → exec (.autoPowerEntry dom) s = .next s) ∧
    (transHeld s.dev = true → exec (.autoPowerEntry dom) s = .next s) ∧
    (domIdle s.dev dom = true → transHeld s.dev = false → noMajority s.dev (regA .pwr 0 (if dom = 4 then 0x110 else 0x100 + 4 * dom)) = false →
      domState s.dev dom < floorOf s.dev dom → domState s.dev dom < 2 →
      (domState s.dev dom = 1 → heldUp s.dev dom = false ∧ (dom = 4 → s.dev.power.linkL1 = true) ∧ (dom < 4 → hbmUsed s.dev = false)) →
      ∃ t, exec (.autoPowerEntry dom) s = .next t ∧ Aside s t ∧ domState t.dev dom = domState s.dev dom + 1 ∧
        (∀ e, e ≤ 4 → e ≠ dom → domState t.dev e = domState s.dev e) ∧ t.dev = { s.dev with regs := t.dev.regs })) ∧
  (∀ (s : State) (m : Nat), m < 4 → m ∈ s.dev.power.s3 →
    (fwpRuns s.dev 1 = false ∨ fwpRuns s.dev 2 = false ∨ fwpRuns s.dev 3 = false → exec (.s3Entry m) s = .next s) ∧
    (fwpRuns s.dev 1 = true → fwpRuns s.dev 2 = true → fwpRuns s.dev 3 = true → rowsHeld s.dev = true → ∃ t, exec (.s3Entry m) s = .next t ∧
      Aside s t ∧ domState t.dev m = domState s.dev m ∧ domMoving t.dev m = false ∧ m ∉ t.dev.power.s3 ∧ t.dev.mem = s.dev.mem ∧
      t.dev.reqs = s.dev.reqs) ∧
    (fwpRuns s.dev 1 = true → fwpRuns s.dev 2 = true → fwpRuns s.dev 3 = true → rowsHeld s.dev = false → ∃ t, exec (.s3Entry m) s = .next t ∧ Aside s t ∧
      domState t.dev m = 3 ∧ domMoving t.dev m = false ∧ m ∉ t.dev.power.s3 ∧
      (∀ p ∈ t.dev.eng.prefetch, p.1 ≠ m) ∧ t.dev.reqs = s.dev.reqs))

/-- The state to which a demand wakes a domain: S0 for the shore, and for a mere where a job waits to be issued or has its records
there; S1 for one that only its HBM is needed of (R416). -/
def Sys2Proof.Claims.wakeTo (d : Dev) (dom : Nat) : Nat :=
  if dom = 4 ∨ (d.jobs.ctxs.any (fun c => !stopping d c && (decide (c.phase = .queued) || decide (c.phase = .saved ∧ c.mere = dom)))) = true
  then 0 else 1


/-- DEMAND_WAKE of a sleeping domain that is not on the move starts its resume: a mere to S0 where a job waits for it, else to S1; the
shore to S0; while the PWR or the CLK page is armed the wake waits. DOMAIN_RESUMED ends it: the domain is in the state to which it resumed and no longer moving.
The host link. Every function's link in L1 lets the shore enter S2; its exit wakes the shore; a link in L0 ends the drive of
WAKE# of a resume from S4.
Rows that complete here: demandWake (DEMAND_WAKE), domainResumed (DOMAIN_RESUMED), linkExitFromL1 (LINK_EXIT_FROM_L1),
linkEntersL1 (LINK_ENTERS_L1), linkReachesL0 (LINK_REACHES_L0). -/
def Obligations.DomainWake : Prop :=
  (∀ (s : State) (dom : Nat), dom ≤ 4 → running s.dev = true → dom ∉ s.dev.power.s3 →
    (transHeld s.dev = true → domMoving s.dev dom = false → 1 < domState s.dev dom →
      exec (.demandWake dom) s = .next (on s { s.dev with power := { s.dev.power with wakeWaits := s.dev.power.wakeWaits ++
        [(dom, wakeTo s.dev dom)] } })) ∧
    (transHeld s.dev = false → (∀ r ∈ s.dev.power.resuming, r.1 ≠ dom) → 1 < domState s.dev dom →
      ∃ t, exec (.demandWake dom) s = .next t ∧ Aside s t ∧ domMoving t.dev dom = true ∧
        t.dev.power.resuming = s.dev.power.resuming ++
          [(dom, wakeTo s.dev dom)] ∧
        domState t.dev dom = domState s.dev dom) ∧
    (∀ st, st < 4 → s.dev.power.resuming.find? (fun r => decide (r.1 = dom)) = some (dom, st) →
      ∃ t, exec (.domainResumed dom) s = .next t ∧ Aside s t ∧ domState t.dev dom = st ∧ domMoving t.dev dom = false ∧
        (∀ r ∈ t.dev.power.resuming, r.1 ≠ dom) ∧ live t.dev (regA .pwr 0 0x124) = live s.dev (regA .pwr 0 0x124) + 1)) ∧
  (∀ s : State,
    (running s.dev = true → s.dev.power.booting = false →
      exec .linkEntersL1 s = .next (on s { s.dev with power := { s.dev.power with linkL1 := true } })) ∧
    (s.dev.power.linkL1 = true → transHeld s.dev = false → running s.dev = true → 4 ∉ s.dev.power.s3 → s.dev.power.resuming = [] → 0 < domState s.dev 4 →
      ∃ t, exec .linkExitFromL1 s = .next t ∧ Aside s t ∧ t.dev.power.linkL1 = false ∧ t.dev.power.resuming = [(4, 0)] ∧
        domMoving t.dev 4 = true) ∧
    (exec .linkReachesL0 s = .next (on s { s.dev with power := { s.dev.power with wakeResume := false } })))

/-- S4. PWR_DEEP by PF0 is accepted only with every basin but 0 FREE or HALTED, no tag held, and FWP1 and FWP3 running; otherwise
DEEP_REFUSED is set and nothing else changes. DEEP_ENTRY, once accepted, while FWP2 and FWP3 run, no domain resumes and no row is
kept from the pool, leaves only Spring and flash powered; until then it waits. DEEP_EXIT by a source that woke the module is a
device reset with cause 5, counted in RST_COUNT, and WAKE# is driven low.
Rows that complete here: pwrDeep (PWR_DEEP), deepEntry (DEEP_ENTRY), deepExit (DEEP_EXIT). -/
def Obligations.DeepSleep : Prop :=
  ∀ (s : State),
    (LandsOn s 0 .pwr 0 0x114 →
      ((∀ b, 0 < b → b < 64 → basinState s.dev b = 0 ∨ basinState s.dev b = 2) → s.dev.reqs = [] → fwpRuns s.dev 1 = true →
        fwpRuns s.dev 3 = true →
        exec (.pwrDeep 0 1) s = .next (on s { s.dev with power := { s.dev.power with deepAsked := true } })) ∧
      ((∃ b, 0 < b ∧ b < 64 ∧ (basinState s.dev b = 1 ∨ basinState s.dev b = 3)) ∨ s.dev.reqs ≠ [] ∨
          fwpRuns s.dev 1 = false ∨ fwpRuns s.dev 3 = false →
        exec (.pwrDeep 0 1) s = .next (on s (setStat s.dev .pwr 0 0 0 noTag 4 0)))) ∧
    (fwpRuns s.dev 2 = false ∨ fwpRuns s.dev 3 = false ∨ s.dev.power.resuming ≠ [] ∨ rowsHeld s.dev = true → exec .deepEntry s = .next s) ∧
    (s.dev.power.deepAsked = true → fwpRuns s.dev 2 = true → fwpRuns s.dev 3 = true → s.dev.power.resuming = [] → rowsHeld s.dev = false →
      ∃ t, exec .deepEntry s = .next t ∧
      t.pending = s.pending ∧ t.dev.power.rails = .deep ∧ t.dev.power.pwrGood = false ∧ t.meas = ⟨[], [], []⟩ ∧ t.dev.reqs = [] ∧
      t.dev.mem.hbm = []) ∧
    (∀ src, s.dev.power.rails = .deep → deepWoken s.dev src = true →
      ∃ t, exec (.deepExit src) s = .next t ∧ t.pending = s.pending ∧ t.dev.power.rails = .good ∧ t.dev.power.pwrGood = true ∧
        t.dev.power.wakeResume = true ∧ reg t .rst 0 0x104 % 16 = 5 ∧ FlashKept s t ∧ springKept s t ∧
        live t.dev (regA .rst 0 0x114) = live s.dev (regA .rst 0 0x114) + 1)


/-- A wake entry that fires: the clock stands at the first cycle of the tick at which SPR_NOW plus LEAD reaches the entry's next
instant, its SPR_EVT bit is set, SPR_FIRES counts it, and a hold to HOLD_MS past the instant is kept; while the module runs the
shore wakes. An entry that never fires changes nothing; one of whose fields has no majority only marks them; and while the SPR page
is armed a firing after the present tick waits for the apply.
The ends of a wake. The hold that ends first ends at its instant, and only holds that end later remain; a PIN entry's drive
of WAKE# ends; WAKE# sensed low while the module does not drive it sets a status bit and wakes every domain; a crystal that
stops sets the XTAL_FAIL status bit and changes no other register but the capture.
Rows that complete here: wakeFire (WAKE_FIRE), wakeHoldExpiry (WAKE_HOLD_EXPIRY), wakePinEnd (WAKE_PIN_END), pinIn
(PIN_IN), xtalFail (XTAL_FAIL). -/
def Obligations.WakeTable : Prop :=
  (∀ (s : State) (e : Nat), e < 32 → s.dev.power.vin = true →
    (wakeLost s.dev e = true → exec (.wakeFire e) s = .next (on s ([0x110, 0x200 + 0x10 * e, 0x204 + 0x10 * e, 0x208 + 0x10 * e,
      0x20C + 0x10 * e].foldl (fun d o => lostMark d (regA .spr 0 o)) s.dev))) ∧
    (wakeLost s.dev e = false → firing (wakeEntry s.dev e) (max (tickNow s.dev) (SMap.get (fun _ => 0) s.dev.power.wakeFired e)) = none →
      exec (.wakeFire e) s = .next s) ∧
    (∀ tk, wakeLost s.dev e = false → firing (wakeEntry s.dev e) (max (tickNow s.dev) (SMap.get (fun _ => 0) s.dev.power.wakeFired e)) = some tk →
      isArmed s.dev .spr 0 = true → tickNow s.dev < tk → exec (.wakeFire e) s = .next s) ∧
    (∀ tk, wakeLost s.dev e = false → firing (wakeEntry s.dev e) (max (tickNow s.dev) (SMap.get (fun _ => 0) s.dev.power.wakeFired e)) = some tk →
      isArmed s.dev .spr 0 = false ∨ tk ≤ tickNow s.dev → ∃ t, exec (.wakeFire e) s = .next t ∧ Aside s t ∧ t.dev.now = max s.dev.now (tickCycle tk) ∧
        (live t.dev (regA .spr 0 0x108)).getLsbD e = true ∧
        ((wakeEntry s.dev e).pin = true → e ∈ t.dev.power.wakePins) ∧
        live t.dev (regA .spr 0 0x10C) = live s.dev (regA .spr 0 0x10C) + 1 ∧
        (running s.dev = true → transHeld s.dev = false → 0 < domState s.dev 4 → (4, 0) ∈ t.dev.power.resuming) ∧
        (∃ u ms, (e, u, ms) ∈ t.dev.power.holds ∧ u = tickCycle (tk + (wakeEntry s.dev e).lead) + msCycles (reg s .spr 0 0x110 % 65536)))) ∧
  (∀ s : State,
    (s.dev.power.holds ≠ [] → ∃ t u, exec .wakeHoldExpiry s = .next t ∧ Aside s t ∧ (∃ h ∈ s.dev.power.holds, h.2.1 = u) ∧
      (∀ h ∈ s.dev.power.holds, u ≤ h.2.1) ∧ t.dev.now = max s.dev.now u ∧
      t.dev.power.holds = s.dev.power.holds.filter (fun h => decide (u < h.2.1)) ∧ t.dev.regs = s.dev.regs) ∧
    (∀ e, exec (.wakePinEnd e) s = .next (on s { s.dev with power := { s.dev.power with
      wakePins := s.dev.power.wakePins.filter (fun x => !decide (x = e)) } })) ∧
    (s.dev.power.vin = true → s.dev.power.tripped = false → s.dev.power.wakePins = [] → s.dev.power.wakeResume = false →
      ∃ t, exec .pinIn s = .next t ∧ Aside s t ∧ stat t .spr 0 3 = true ∧ t.dev.mem = s.dev.mem ∧ t.dev.reqs = s.dev.reqs) ∧
    (s.dev.power.vin = true → exec .xtalFail s = .next (on s (setStat s.dev .spr 0 2 0 noTag 0 0))))


/-- Clocks. A PLL relock under way for a mere ends and counts in CLK_RELOCKS; a PLL that loses lock sets LOCK_LOST and counts
there too. No domain state, memory or request changes.
A sensor sweep while the module runs. IN and OUT read as sensed; a die sensor at or above the alert limit sets the die alert
status, a coolant inlet above its limit the inlet alert; a sensor that gives no reading sets SENSOR_FAIL. A sweep changes no
memory, request or power state. While the module does not run nothing changes.
Rows that complete here: pllRelock (PLL_RELOCK), sensorSweep (SENSOR_SWEEP), lockLost (LOCK_LOST). -/
def Obligations.ClocksAndSensors : Prop :=
  (∀ s : State,
    (∀ m, m ∈ s.dev.power.relock → exec (.pllRelock m) s = .next (on s (count { s.dev with power := { s.dev.power with
      relock := s.dev.power.relock.filter (fun x => !decide (x = m)) } } .clk 0 0x114 1))) ∧
    (∀ m, m ∉ s.dev.power.relock → exec (.pllRelock m) s = .next s) ∧
    (∀ c, c ≤ 11 → running s.dev = true →
      exec (.lockLost c) s = .next (on s (count (setStat s.dev .clk 0 1 0 noTag (BitVec.ofNat 32 c) 0) .clk 0 0x114 1)))) ∧
  (∀ (s : State) (r : Sweep),
    (running s.dev = false → exec (.sensorSweep r) s = .next s) ∧
    (running s.dev = true → ∃ t, exec (.sensorSweep r) s = .next t ∧ Aside s t ∧
      t.dev.power = s.dev.power ∧ t.dev.mem = s.dev.mem ∧ t.dev.reqs = s.dev.reqs ∧
      (∀ v, r.inlet = some v → v < 256 → reg t .therm 0 0x114 = v + 2 ^ 31) ∧
      (∀ v, r.outlet = some v → v < 256 → reg t .therm 0 0x118 = v + 2 ^ 31) ∧
      ((∃ v, r.inlet = some v ∧ inletC s.dev + 1 ≤ v) → stat t .therm 0 1 = true) ∧
      ((∃ i v, i < 72 ∧ (dieReadings s.dev r).getD i none = some v ∧ alertC s.dev ≤ v) → stat t .therm 0 0 = true) ∧
      (r.inlet = none ∨ r.outlet = none → stat t .therm 0 3 = true)))

/-! ### The fabric (chapter 20) -/


/-- Pool ports. A port whose link goes down sets LINK_DOWN and reads link down; one with a device that lost link is retrained while
FWP5 runs, and reads link up with its CXLq_PERST# released; a device's event record counts while the link is up and FWP5 runs. No memory or request changes.
Pool accesses that fail for no request of the module. Each sets the port's ACCESS_FAIL status bit and counts; one that
returned poison poisons the eight words of its 64 bytes; no byte changes. A write-back of a hot row that fails, without a completion
in time or with an abort, is reported, and the row stays dirty and held; one that succeeds while the link is up leaves it clean.
Rows that complete here: poolAccessFail (POOL_ACCESS_FAIL), fabTmo (FAB_TMO), wbHeld (WB_HELD), fabLinkDown
(FAB_LINK_DOWN), fabLinkRetrained (FAB_LINK_RETRAINED), deviceEventRecord (DEVICE_EVENT_RECORD). -/
def Obligations.PoolPortsAndFailures : Prop :=
  (∀ (s : State) (q : Nat), q < 2 →
    (bitOf (reg s .fab q 0x100) 0 = true → ∃ t, exec (.fabLinkDown q) s = .next t ∧ Aside s t ∧ stat t .fab q 0 = true ∧
      bitOf (reg t .fab q 0x100) 0 = false ∧ t.dev.mem = s.dev.mem ∧ t.dev.reqs = s.dev.reqs) ∧
    (bitOf (reg s .fab q 0x100) 0 = false → exec (.fabLinkDown q) s = .next s) ∧
    (256 ≤ reg s .fab q 0x100 → fwpRuns s.dev 5 = true → ∃ t, exec (.fabLinkRetrained q) s = .next t ∧ Aside s t ∧
      bitOf (reg t .fab q 0x100) 0 = true ∧ q ∈ t.dev.power.cxlReleased ∧ t.dev.mem = s.dev.mem ∧ t.dev.reqs = s.dev.reqs) ∧
    (bitOf (reg s .fab q 0x100) 0 = true → fwpRuns s.dev 5 = true →
      exec (.deviceEventRecord q) s = .next (on s (count s.dev .fab q 0x124 1)))) ∧
  (∀ (s : State) (a slot : Nat), findReq s.dev slot = none →
    (poolMapped s.dev a = false → ∃ t, exec (.poolAccessFail a 2 slot) s = .next t ∧ Aside s t ∧ stat t .fab 0 1 = true ∧
      live t.dev (regA .fab 0 0x118) = live s.dev (regA .fab 0 0x118) + 1 ∧ t.dev.mem = s.dev.mem ∧ t.dev.reqs = s.dev.reqs) ∧
    (poolMapped s.dev a = true → ∃ t, exec (.poolAccessFail a 1 slot) s = .next t ∧ Aside s t ∧
      stat t .fab (poolPort s.dev a) 1 = true ∧ 
      (∀ i, i < 8 → poisoned t.dev .pool (pageWord s.dev true (a / 64 * 64 + 8 * i)).2 = true) ∧
      t.dev.mem.pool = s.dev.mem.pool ∧ t.dev.reqs = s.dev.reqs) ∧
    (poolMapped s.dev a = true → ∃ t, exec (.fabTmo a slot) s = .next t ∧ Aside s t ∧ stat t .fab (poolPort s.dev a) 1 = true ∧
      live t.dev (regA .fab (poolPort s.dev a) 0x11C) = live s.dev (regA .fab (poolPort s.dev a) 0x11C) + 1 ∧
      t.dev.mem = s.dev.mem ∧ t.dev.reqs = s.dev.reqs) ∧
    (∀ e, rowAt s.dev a = some e →
      (∃ t, exec (.wbHeld a false) s = .next t ∧ Aside s t ∧ stat t .fab (poolPort s.dev a) 2 = true ∧
        t.dev.eng.rowCache = s.dev.eng.rowCache ∧ e ∈ t.dev.eng.rowsHeld ∧ t.dev.mem = s.dev.mem) ∧
      (poolMapped s.dev a = true → ∃ t, exec (.poolAccessFail a 5 slot) s = .next t ∧ Aside s t ∧ stat t .fab (poolPort s.dev a) 2 = true ∧
        live t.dev (regA .fab (poolPort s.dev a) 0x120) = live s.dev (regA .fab (poolPort s.dev a) 0x120) + 1 ∧
        t.dev.eng.rowCache = s.dev.eng.rowCache ∧ e ∈ t.dev.eng.rowsHeld ∧ t.dev.mem = s.dev.mem) ∧
      (poolDown s.dev a = true → exec (.wbHeld a true) s = .next s) ∧
      (poolDown s.dev a = false → ∃ t, exec (.wbHeld a true) s = .next t ∧ Aside s t ∧
        (∀ x ∈ t.dev.eng.rowCache, (x.1, x.2.1) = e → x.2.2 = false) ∧ e ∉ t.dev.eng.rowsHeld ∧ t.dev.mem = s.dev.mem)))


/-- A training frame on a port whose link is down. A peer of another system, or with this module's own NODE, sets ID_CONFLICT and
the port stays down, and a module whose SYSTEM is 0 trains no port; any other peer's port is up with the peer's NODE, eight lanes or four, and the port's epoch unchanged. A link that goes down sets
LINK_DOWN, keeps the peer and starts the interval; NDL_CTL.RETRAIN takes a link down in the same way but for the status bit, and
waits while FWP5 does not run.
A peer declared dead, after MISS periods without a frame or with its link down for DOWN_MS: the port is fenced, the epoch that
it holds for the peer rises by one modulo 2^16, DECLARED is set and the peer is no longer admitted. An epoch without a majority is
marked and holds the declaration back. NDL_CTL.READMIT by PF0 of a fenced peer whose link has trained brings the port up with that
epoch; while FWP5 does not run it waits.
Rows that complete here: training (TRAINING), ndlHbMiss (NDL_HB_MISS), linkDownTimeout (LINK_DOWN_TIMEOUT), retrain
(RETRAIN), readmit (READMIT), ndlLinkDown (NDL_LINK_DOWN). -/
def Obligations.PortsAndPeers : Prop :=
  (∀ (s : State) (p : Nat) (tr : Training), p < 8 → s.dev.links.ports.length = 8 →
    (ownSystem s.dev = 0 → exec (.training p tr) s = .next s) ∧
    (portState s.dev p = 0 → running s.dev = true → s.dev.power.booting = false → fwpRuns s.dev 5 = true → ownSystem s.dev ≠ 0 → nodeLost s.dev = false →
      (tr.system ≠ ownSystem s.dev ∨ tr.node % 256 = ownNode s.dev → ∃ t, exec (.training p tr) s = .next t ∧ Aside s t ∧
        stat t .ndl p 2 = true ∧ portState t.dev p = 0 ∧ t.dev.links = s.dev.links) ∧
      (tr.system = ownSystem s.dev → tr.node % 256 ≠ ownNode s.dev → ∃ t, exec (.training p tr) s = .next t ∧ Aside s t ∧
        portState t.dev p = 1 ∧ portPeer t.dev p = tr.node % 256 ∧ portEpoch t.dev p = portEpoch s.dev p ∧
        bitsOf (reg t .ndl p 0x104) 5 2 = if tr.x4 then 4 else 8)) ∧
    (portState s.dev p = 1 → ∃ t, exec (.ndlLinkDown p) s = .next t ∧ Aside s t ∧ portState t.dev p = 0 ∧ stat t .ndl p 0 = true ∧
      portPeer t.dev p = portPeer s.dev p ∧ (portAt t.dev p).downAt = some s.dev.now ∧ t.dev.mem = s.dev.mem) ∧
    (LandsOn s 0 .ndl p 0x10C → fwpRuns s.dev 5 = false → exec (.retrain 0 p 1) s =
      .next (on s { s.dev with links := { s.dev.links with asked := s.dev.links.asked ++ [(p, 1)] } })) ∧
    (portState s.dev p = 1 → ownSystem s.dev ≠ 0 → nodeLost s.dev = false → fwpRuns s.dev 5 = true → LandsOn s 0 .ndl p 0x10C → ∃ t, exec (.retrain 0 p 1) s = .next t ∧ Aside s t ∧
      portState t.dev p = 0 ∧ portPeer t.dev p = portPeer s.dev p ∧ (portAt t.dev p).downAt = some s.dev.now ∧
      t.dev.mem = s.dev.mem)) ∧
  (∀ (s : State) (p : Nat), p < 8 → s.dev.links.ports.length = 8 →
    (portState s.dev p = 1 → epochLost s.dev p = true → ∃ t, exec (.ndlHbMiss p) s = .next t ∧ Aside s t ∧
      t.dev = lostMark { s.dev with now := t.dev.now } (regA .ndl p 0x104)) ∧
    (portState s.dev p = 1 → epochLost s.dev p = false → ∃ t, exec (.ndlHbMiss p) s = .next t ∧ Aside s t ∧ portState t.dev p = 2 ∧ stat t .ndl p 1 = true ∧
      portEpoch t.dev p = (portEpoch s.dev p + 1) % 65536 ∧ (portAt t.dev p).admitted = false) ∧
    (∀ t0, portState s.dev p = 0 → (portAt s.dev p).downAt = some t0 → epochLost s.dev p = false → ∃ t, exec (.linkDownTimeout p) s = .next t ∧ Aside s t ∧
      portState t.dev p = 2 ∧ stat t .ndl p 1 = true ∧ portEpoch t.dev p = (portEpoch s.dev p + 1) % 65536 ∧
      (portAt t.dev p).admitted = false ∧ t0 + msCycles (max 1 (bitsOf (reg s .ndl p 0x108) 31 16)) ≤ t.dev.now) ∧
    (LandsOn s 0 .ndl p 0x10C → fwpRuns s.dev 5 = false → exec (.readmit 0 p 2) s =
      .next (on s { s.dev with links := { s.dev.links with asked := s.dev.links.asked ++ [(p, 2)] } })) ∧
    (portState s.dev p = 2 → bitsOf (reg s .ndl p 0x104) 5 2 ≠ 0 → fwpRuns s.dev 5 = true → LandsOn s 0 .ndl p 0x10C →
      ∃ t, exec (.readmit 0 p 2) s = .next t ∧ Aside s t ∧ portState t.dev p = 1 ∧ portEpoch t.dev p = portEpoch s.dev p ∧
        (portAt t.dev p).admitted = true))

/-- A frame in order: of a row's type, of 256 bytes with its CRC, on a port that is up, with the epoch that the port holds, for
this node, and next in SEQ to what the port has received; the shore is awake for a frame other than a heartbeat. -/
def Sys2Proof.Claims.InOrder (s : State) (p typ : Nat) (f : List Byte) : Prop :=
  p < 8 ∧ portState s.dev p = 1 ∧ byteAt f 0 = typ ∧ frameOk f = true ∧ fieldN f 4 2 = portEpoch s.dev p ∧
  byteAt f 2 = ownNode s.dev ∧ fieldN f 6 2 = ((portAt s.dev p).seqRx + 1) % 65536 ∧ epochLost s.dev p = false ∧ nodeLost s.dev = false ∧
  (typ = 0 ∨ (domState s.dev 4 = 0 ∧ domMoving s.dev 4 = false))

/-- The block once a port has taken a frame in order: its byte count, its instant, the peer's acknowledgement and its sequence
number. -/
def Sys2Proof.Claims.taken (s : State) (p : Nat) (f : List Byte) : Dev :=
  modPort (takeAck (modPort (countRx s.dev p) p (fun x => { x with lastRx := s.dev.now })) p (fieldN f 8 2)) p (fun x => { x with seqRx := fieldN f 6 2 })


/-- A frame in order does, beside what its port notes of it, what its type says and nothing else: a heartbeat nothing; a WRITE its
bytes into the window of this node's job; SEM a wait, signal or grant; BAR an arrival or a release; SET a join, start, pre-emption,
resumption or end; ROUTE a change of the known links. A frame out of its turn in SEQ changes no job, request or memory, and one
whose CRC fails does nothing but count its bytes.
A frame that its port still holds is replayed, with every frame held after it, in order; what the port holds does not change.
A port that does not hold the frame sends nothing.
Rows that complete here: ndlHeartbeat (NDL_HEARTBEAT), ndlWrite (NDL_WRITE), sem (SEM), ndlBar (NDL_BAR), ndlSet
(NDL_SET), route (ROUTE), crcReplay (CRC_REPLAY). -/
def Obligations.FramesAndReplays : Prop :=
  (∀ (s : State) (p : Nat) (f : List Byte),
    let body := (f.drop 26).take 226
    let src := byteAt f 1
    let dom := fieldN f 16 2
    let key := fieldN f 18 8
    (InOrder s p 0 f → exec (.ndlHeartbeat p ⟨f⟩) s = .next (on s (taken s p f))) ∧
    (InOrder s p 2 f → ∀ c, linkCtx s.dev dom key = some c →
      fieldN body 0 4 + (if fieldN body 4 2 = 0 then 192 else min 192 (fieldN body 4 2)) ≤ (if c.phase = .queued then 2 ^ 24 else c.dbufBytes) →
      ∃ t, exec (.ndlWrite p ⟨f⟩) s = .next t ∧ Aside s t ∧ t.dev.regs = (taken s p f).regs ∧ t.dev.links = (taken s p f).links ∧
        (∀ bs, bs = (body.drop 6).take (if fieldN body 4 2 = 0 then 192 else min 192 (fieldN body 4 2)) →
          t.dev.jobs = (modCtx s.dev c.id (fun c => { c with dbuf := Mem.writeL c.dbuf (fieldN body 0 4) bs })).jobs)) ∧
    (InOrder s p 3 f → exec (.sem p ⟨f⟩) s = .next (on s (semWork (taken s p f) src dom key body))) ∧
    (InOrder s p 4 f → exec (.ndlBar p ⟨f⟩) s = .next (on s (barWork (taken s p f) src dom key body))) ∧
    (InOrder s p 5 f → exec (.ndlSet p ⟨f⟩) s = .next (on s (setWork (taken s p f) src dom key body))) ∧
    (InOrder s p 6 f → exec (.route p ⟨f⟩) s = .next (on s (routeWork p (taken s p f) src dom key body))) ∧
    (p < 8 → portState s.dev p = 1 → byteAt f 0 = 0 → frameOk f = true → epochLost s.dev p = false → nodeLost s.dev = false →
      fieldN f 4 2 = portEpoch s.dev p → fieldN f 6 2 ≠ ((portAt s.dev p).seqRx + 1) % 65536 → ∃ t, exec (.ndlHeartbeat p ⟨f⟩) s = .next t ∧
      Aside s t ∧ t.dev.jobs = s.dev.jobs ∧ t.dev.mem = s.dev.mem ∧ t.dev.reqs = s.dev.reqs ∧
      (portAt t.dev p).seqRx = (portAt s.dev p).seqRx) ∧
    (p < 8 → portState s.dev p = 1 → byteAt f 0 = 0 → frameOk f = false → ∃ t, exec (.ndlHeartbeat p ⟨f⟩) s = .next t ∧
      Aside s t ∧ t.dev.jobs = s.dev.jobs ∧ t.dev.mem = s.dev.mem ∧ (portAt t.dev p).seqRx = (portAt s.dev p).seqRx)) ∧
  (∀ (s : State) (p seq : Nat), p < 8 → portState s.dev p = 1 →
    (∀ i f, findIdx (fun x => decide (x.1 = seq)) (portAt s.dev p).held 0 = some (i, f) →
      ∃ t, exec (.crcReplay p seq) s = .next t ∧ Aside s t ∧
        t.dev.links.tx = s.dev.links.tx ++ (((portAt s.dev p).held.drop i).map (fun x => (p, x.2))) ∧
        (portAt t.dev p).held = (portAt s.dev p).held ∧ t.dev.jobs = s.dev.jobs ∧ t.dev.mem = s.dev.mem) ∧
    (findIdx (fun x => decide (x.1 = seq)) (portAt s.dev p).held 0 = none → exec (.crcReplay p seq) s = .next s))
end

