-- ==== Sys2Proof/Laws/Maps.lean ====
section
/-! SUPPORT. Sparse maps and byte memories: a read after a write, the canonical form, and the canonical form of the memories
right after reset. -/

namespace Sys2Proof

namespace SMap

variable {α : Type}

/-! ### Reading after an update -/

theorem get_insert (d : Nat → α) (m : SMap α) (k j : Nat) (v : α) :
    get d (insert m k v) j = if k = j then v else get d m j := by
  induction m with
  | nil => rfl
  | cons c m ih =>
    obtain ⟨a, w⟩ := c
    simp only [insert]
    split
    · rfl
    · split
      · rename_i h; subst h; simp only [get]; split <;> rfl
      · simp only [get, ih]; split
        · rename_i h₁ h₂ h₃; subst h₃; simp [h₂]
        · rfl

theorem get_erase (d : Nat → α) (m : SMap α) (k j : Nat) : get d (erase m k) j = if k = j then d j else get d m j := by
  induction m with
  | nil => simp [erase, get]
  | cons c m ih =>
    obtain ⟨a, w⟩ := c
    simp only [erase]
    split
    · rename_i h; subst h; rw [ih]; simp only [get]; split <;> rfl
    · rename_i h; simp only [get, ih]; split
      · rename_i h'; subst h'; simp [Ne.symm h]
      · rfl

/-- A read of a written key gives the value; every other key reads as before. -/
theorem get_set [DecidableEq α] (d : Nat → α) (m : SMap α) (k j : Nat) (v : α) :
    get d (set d m k v) j = if k = j then v else get d m j := by
  unfold set
  split
  · rename_i h; rw [get_erase]; split
    · rename_i e; subst e; exact h.symm
    · rfl
  · exact get_insert ..

@[simp] theorem get_set_self [DecidableEq α] (d : Nat → α) (m : SMap α) (k : Nat) (v : α) : get d (set d m k v) k = v := by
  rw [get_set, if_pos rfl]

theorem get_set_ne [DecidableEq α] (d : Nat → α) (m : SMap α) {k j : Nat} (v : α) (h : k ≠ j) : get d (set d m k v) j = get d m j := by
  rw [get_set, if_neg h]

theorem get_drop (d : Nat → α) (p : Nat → Bool) (m : SMap α) (j : Nat) : get d (drop p m) j = if p j then d j else get d m j := by
  induction m with
  | nil => simp [drop, get]
  | cons c m ih =>
    obtain ⟨a, w⟩ := c
    by_cases ha : p a = true <;> by_cases hj : a = j
    · subst hj; simp [drop, ha, ih]
    · simp [drop, ha, ih, get, hj]
    · subst hj; simp [drop, get, ha]
    · simp [drop, get, ha, hj, ih]

/-! ### The canonical form -/

theorem sortedFrom_mono {m : SMap α} {lo hi : Nat} (h : sortedFrom hi m = true) (le : lo ≤ hi) : sortedFrom lo m = true := by
  cases m with
  | nil => rfl
  | cons c m => simp only [sortedFrom, Bool.and_eq_true, decide_eq_true_eq] at h ⊢; exact ⟨by omega, h.2⟩

theorem sortedFrom_insert {m : SMap α} {lo k : Nat} (v : α) (h : sortedFrom lo m = true) (le : lo ≤ k) :
    sortedFrom lo (insert m k v) = true := by
  induction m generalizing lo with
  | nil => simp [insert, sortedFrom, le]
  | cons c m ih =>
    obtain ⟨a, w⟩ := c
    simp only [sortedFrom, Bool.and_eq_true, decide_eq_true_eq] at h
    simp only [insert]
    split
    · simp only [sortedFrom, Bool.and_eq_true, decide_eq_true_eq]; exact ⟨le, by omega, h.2⟩
    · split
      · rename_i e; subst e; simp [sortedFrom, le, h.2]
      · simp only [sortedFrom, Bool.and_eq_true, decide_eq_true_eq]; exact ⟨h.1, ih h.2 (by omega)⟩

theorem sortedFrom_erase {m : SMap α} {lo : Nat} (k : Nat) (h : sortedFrom lo m = true) : sortedFrom lo (erase m k) = true := by
  induction m generalizing lo with
  | nil => rfl
  | cons c m ih =>
    obtain ⟨a, w⟩ := c
    simp only [sortedFrom, Bool.and_eq_true, decide_eq_true_eq] at h
    simp only [erase]
    split
    · exact sortedFrom_mono (ih h.2) (by omega)
    · simp only [sortedFrom, Bool.and_eq_true, decide_eq_true_eq]; exact ⟨h.1, ih h.2⟩

theorem sortedFrom_drop {m : SMap α} {lo : Nat} (p : Nat → Bool) (h : sortedFrom lo m = true) : sortedFrom lo (drop p m) = true := by
  induction m generalizing lo with
  | nil => rfl
  | cons c m ih =>
    obtain ⟨a, w⟩ := c
    simp only [sortedFrom, Bool.and_eq_true, decide_eq_true_eq] at h
    simp only [drop]
    split
    · exact sortedFrom_mono (ih h.2) (by omega)
    · simp only [sortedFrom, Bool.and_eq_true, decide_eq_true_eq]; exact ⟨h.1, ih h.2⟩

theorem mem_insert {m : SMap α} {k : Nat} {v : α} {x : Nat × α} (h : x ∈ insert m k v) : x = (k, v) ∨ x ∈ m := by
  induction m with
  | nil => exact .inl (by simpa [insert] using h)
  | cons c m ih =>
    obtain ⟨a, w⟩ := c
    simp only [insert] at h
    split at h
    · exact (List.mem_cons.1 h).imp id id
    · split at h
      · exact (List.mem_cons.1 h).imp id (List.mem_cons_of_mem _)
      · rcases List.mem_cons.1 h with h | h
        · exact .inr (by simp [h])
        · exact (ih h).imp id (List.mem_cons_of_mem _)

theorem mem_erase {m : SMap α} {k : Nat} {x : Nat × α} (h : x ∈ erase m k) : x ∈ m := by
  induction m with
  | nil => exact h
  | cons c m ih =>
    obtain ⟨a, w⟩ := c
    simp only [erase] at h
    split at h
    · exact List.mem_cons_of_mem _ (ih h)
    · rcases List.mem_cons.1 h with h | h
      · simp [h]
      · exact List.mem_cons_of_mem _ (ih h)

theorem mem_drop {m : SMap α} {p : Nat → Bool} {x : Nat × α} (h : x ∈ drop p m) : x ∈ m := by
  induction m with
  | nil => exact h
  | cons c m ih =>
    obtain ⟨a, w⟩ := c
    simp only [drop] at h
    split at h
    · exact List.mem_cons_of_mem _ (ih h)
    · rcases List.mem_cons.1 h with h | h
      · simp [h]
      · exact List.mem_cons_of_mem _ (ih h)

variable [DecidableEq α]

theorem wf_iff (d : Nat → α) (m : SMap α) : wf d m = true ↔ sortedFrom 0 m = true ∧ ∀ x ∈ m, x.2 ≠ d x.1 := by
  simp [wf, List.all_eq_true]

/-- A write keeps the canonical form. -/
theorem wf_set {d : Nat → α} {m : SMap α} (h : wf d m = true) (k : Nat) (v : α) : wf d (set d m k v) = true := by
  rw [wf_iff] at h ⊢
  unfold set
  split
  · exact ⟨sortedFrom_erase k h.1, fun x hx => h.2 x (mem_erase hx)⟩
  · rename_i hv
    refine ⟨sortedFrom_insert v h.1 (by omega), fun x hx => ?_⟩
    rcases mem_insert hx with rfl | hx
    · exact hv
    · exact h.2 x hx

theorem wf_erase {d : Nat → α} {m : SMap α} (h : wf d m = true) (k : Nat) : wf d (erase m k) = true := by
  rw [wf_iff] at h ⊢
  exact ⟨sortedFrom_erase k h.1, fun x hx => h.2 x (mem_erase hx)⟩

theorem wf_drop {d : Nat → α} {m : SMap α} (h : wf d m = true) (p : Nat → Bool) : wf d (drop p m) = true := by
  rw [wf_iff] at h ⊢
  exact ⟨sortedFrom_drop p h.1, fun x hx => h.2 x (mem_drop hx)⟩

end SMap

namespace Mem

theorem read_write (m : Mem) (a x : Nat) (b : Byte) : read (write m a b) x = if a = x then b else read m x :=
  SMap.get_set ..

/-- Every byte outside the bytes written reads as before. -/
theorem read_writeL_of_not_mem (m : Mem) (a x : Nat) (bs : List Byte) (h : x < a ∨ a + bs.length ≤ x) :
    read (writeL m a bs) x = read m x := by
  induction bs generalizing m a with
  | nil => rfl
  | cons b bs ih =>
    simp only [List.length_cons] at h
    rw [writeL, ih _ _ (by omega), read_write, if_neg (by omega)]

/-- A byte written reads as the byte. -/
theorem read_writeL (m : Mem) (a i : Nat) (bs : List Byte) (h : i < bs.length) :
    read (writeL m a bs) (a + i) = bs.getD i 0 := by
  induction bs generalizing m a i with
  | nil => simp at h
  | cons b bs ih =>
    cases i with
    | zero => rw [writeL, read_writeL_of_not_mem _ _ _ _ (by omega), read_write, if_pos (by omega)]; rfl
    | succ i =>
      simp only [List.length_cons] at h
      rw [writeL, show a + (i + 1) = a + 1 + i by omega, ih _ _ _ (by omega)]; rfl

theorem readN_writeL (m : Mem) (a : Nat) (bs : List Byte) : readN (writeL m a bs) a bs.length = bs := by
  induction bs generalizing m a with
  | nil => rfl
  | cons b bs ih =>
    rw [List.length_cons, readN, writeL, ih, read_writeL_of_not_mem _ _ _ _ (by omega), read_write, if_pos rfl]

theorem read_clear (m : Mem) (lo hi x : Nat) : read (clear m lo hi) x = if lo ≤ x ∧ x < hi then 0 else read m x := by
  rw [read, clear, SMap.get_drop]
  simp only [Bool.and_eq_true, decide_eq_true_eq]
  rfl

theorem wf_write {m : Mem} (h : wf m = true) (a : Nat) (b : Byte) : wf (write m a b) = true := SMap.wf_set h a b

theorem wf_writeL {m : Mem} (h : wf m = true) (a : Nat) (bs : List Byte) : wf (writeL m a bs) = true := by
  induction bs generalizing m a with
  | nil => exact h
  | cons b bs ih => exact ih (wf_write h a b) (a + 1)

theorem wf_clear {m : Mem} (h : wf m = true) (lo hi : Nat) : wf (clear m lo hi) = true := SMap.wf_drop h _

end Mem

/-- Every memory of the machine has the canonical form right after reset. -/
theorem reset_memories :
    (Mem.wf Machine.State.reset.dev.mem.hbm && Mem.wf Machine.State.reset.dev.mem.pool && Mem.wf Machine.State.reset.dev.mem.shore &&
      Mem.wf Machine.State.reset.dev.mem.flash && Mem.wf Machine.State.reset.dev.mem.wcache &&
      Mem.wf Machine.State.reset.dev.host.hostMem) = true := by decide

end Sys2Proof
end

