-- ==== Sys2Proof/Laws/State.lean ====
section
/-! SUPPORT. What each update of the state leaves unchanged: one lemma for each field of Dev and each named update. -/

namespace Sys2Proof.Machine

variable (s : State) (d : Dev)

@[simp] theorem ok_next (e : Dev) : ok s e = .next { s with dev := e } := rfl
@[simp] theorem okS_next : okS s = .next s := rfl
@[simp] theorem onDev_pending (f : Dev → Dev) : (onDev s f).pending = s.pending := rfl
@[simp] theorem onDev_meas (f : Dev → Dev) : (onDev s f).meas = s.meas := rfl
@[simp] theorem onDev_tap (f : Dev → Dev) : (onDev s f).tap = s.tap := rfl
@[simp] theorem onDev_dev (f : Dev → Dev) : (onDev s f).dev = f s.dev := rfl

@[simp] theorem setLive_now (a : Nat) (v : W32) : (setLive d a v).now = d.now := rfl
@[simp] theorem setLive_fresh (a : Nat) (v : W32) : (setLive d a v).fresh = d.fresh := rfl
@[simp] theorem setLive_host (a : Nat) (v : W32) : (setLive d a v).host = d.host := rfl
@[simp] theorem setLive_txn (a : Nat) (v : W32) : (setLive d a v).txn = d.txn := rfl
@[simp] theorem setLive_tagCounts (a : Nat) (v : W32) : (setLive d a v).tagCounts = d.tagCounts := rfl
@[simp] theorem setLive_reqs (a : Nat) (v : W32) : (setLive d a v).reqs = d.reqs := rfl
@[simp] theorem setLive_eng (a : Nat) (v : W32) : (setLive d a v).eng = d.eng := rfl
@[simp] theorem setLive_mem (a : Nat) (v : W32) : (setLive d a v).mem = d.mem := rfl
@[simp] theorem setLive_log (a : Nat) (v : W32) : (setLive d a v).log = d.log := rfl
@[simp] theorem setLive_jobs (a : Nat) (v : W32) : (setLive d a v).jobs = d.jobs := rfl
@[simp] theorem setLive_links (a : Nat) (v : W32) : (setLive d a v).links = d.links := rfl
@[simp] theorem setLive_flash (a : Nat) (v : W32) : (setLive d a v).flash = d.flash := rfl
@[simp] theorem setLive_power (a : Nat) (v : W32) : (setLive d a v).power = d.power := rfl

@[simp] theorem setStaged_now (a : Nat) (v : W32) : (setStaged d a v).now = d.now := rfl
@[simp] theorem setStaged_fresh (a : Nat) (v : W32) : (setStaged d a v).fresh = d.fresh := rfl
@[simp] theorem setStaged_host (a : Nat) (v : W32) : (setStaged d a v).host = d.host := rfl
@[simp] theorem setStaged_txn (a : Nat) (v : W32) : (setStaged d a v).txn = d.txn := rfl
@[simp] theorem setStaged_tagCounts (a : Nat) (v : W32) : (setStaged d a v).tagCounts = d.tagCounts := rfl
@[simp] theorem setStaged_reqs (a : Nat) (v : W32) : (setStaged d a v).reqs = d.reqs := rfl
@[simp] theorem setStaged_eng (a : Nat) (v : W32) : (setStaged d a v).eng = d.eng := rfl
@[simp] theorem setStaged_mem (a : Nat) (v : W32) : (setStaged d a v).mem = d.mem := rfl
@[simp] theorem setStaged_log (a : Nat) (v : W32) : (setStaged d a v).log = d.log := rfl
@[simp] theorem setStaged_jobs (a : Nat) (v : W32) : (setStaged d a v).jobs = d.jobs := rfl
@[simp] theorem setStaged_links (a : Nat) (v : W32) : (setStaged d a v).links = d.links := rfl
@[simp] theorem setStaged_flash (a : Nat) (v : W32) : (setStaged d a v).flash = d.flash := rfl
@[simp] theorem setStaged_power (a : Nat) (v : W32) : (setStaged d a v).power = d.power := rfl

@[simp] theorem setLiveN_now (k : Blk) (i off v : Nat) : (setLiveN d k i off v).now = d.now := rfl
@[simp] theorem setLiveN_fresh (k : Blk) (i off v : Nat) : (setLiveN d k i off v).fresh = d.fresh := rfl
@[simp] theorem setLiveN_host (k : Blk) (i off v : Nat) : (setLiveN d k i off v).host = d.host := rfl
@[simp] theorem setLiveN_txn (k : Blk) (i off v : Nat) : (setLiveN d k i off v).txn = d.txn := rfl
@[simp] theorem setLiveN_tagCounts (k : Blk) (i off v : Nat) : (setLiveN d k i off v).tagCounts = d.tagCounts := rfl
@[simp] theorem setLiveN_reqs (k : Blk) (i off v : Nat) : (setLiveN d k i off v).reqs = d.reqs := rfl
@[simp] theorem setLiveN_eng (k : Blk) (i off v : Nat) : (setLiveN d k i off v).eng = d.eng := rfl
@[simp] theorem setLiveN_mem (k : Blk) (i off v : Nat) : (setLiveN d k i off v).mem = d.mem := rfl
@[simp] theorem setLiveN_log (k : Blk) (i off v : Nat) : (setLiveN d k i off v).log = d.log := rfl
@[simp] theorem setLiveN_jobs (k : Blk) (i off v : Nat) : (setLiveN d k i off v).jobs = d.jobs := rfl
@[simp] theorem setLiveN_links (k : Blk) (i off v : Nat) : (setLiveN d k i off v).links = d.links := rfl
@[simp] theorem setLiveN_flash (k : Blk) (i off v : Nat) : (setLiveN d k i off v).flash = d.flash := rfl
@[simp] theorem setLiveN_power (k : Blk) (i off v : Nat) : (setLiveN d k i off v).power = d.power := rfl

@[simp] theorem count_now (k : Blk) (i off n : Nat) : (count d k i off n).now = d.now := rfl
@[simp] theorem count_fresh (k : Blk) (i off n : Nat) : (count d k i off n).fresh = d.fresh := rfl
@[simp] theorem count_host (k : Blk) (i off n : Nat) : (count d k i off n).host = d.host := rfl
@[simp] theorem count_txn (k : Blk) (i off n : Nat) : (count d k i off n).txn = d.txn := rfl
@[simp] theorem count_tagCounts (k : Blk) (i off n : Nat) : (count d k i off n).tagCounts = d.tagCounts := rfl
@[simp] theorem count_reqs (k : Blk) (i off n : Nat) : (count d k i off n).reqs = d.reqs := rfl
@[simp] theorem count_eng (k : Blk) (i off n : Nat) : (count d k i off n).eng = d.eng := rfl
@[simp] theorem count_mem (k : Blk) (i off n : Nat) : (count d k i off n).mem = d.mem := rfl
@[simp] theorem count_log (k : Blk) (i off n : Nat) : (count d k i off n).log = d.log := rfl
@[simp] theorem count_jobs (k : Blk) (i off n : Nat) : (count d k i off n).jobs = d.jobs := rfl
@[simp] theorem count_links (k : Blk) (i off n : Nat) : (count d k i off n).links = d.links := rfl
@[simp] theorem count_flash (k : Blk) (i off n : Nat) : (count d k i off n).flash = d.flash := rfl
@[simp] theorem count_power (k : Blk) (i off n : Nat) : (count d k i off n).power = d.power := rfl

@[simp] theorem setLiveBit_now (a bit : Nat) (v : Bool) : (setLiveBit d a bit v).now = d.now := rfl
@[simp] theorem setLiveBit_fresh (a bit : Nat) (v : Bool) : (setLiveBit d a bit v).fresh = d.fresh := rfl
@[simp] theorem setLiveBit_host (a bit : Nat) (v : Bool) : (setLiveBit d a bit v).host = d.host := rfl
@[simp] theorem setLiveBit_txn (a bit : Nat) (v : Bool) : (setLiveBit d a bit v).txn = d.txn := rfl
@[simp] theorem setLiveBit_tagCounts (a bit : Nat) (v : Bool) : (setLiveBit d a bit v).tagCounts = d.tagCounts := rfl
@[simp] theorem setLiveBit_reqs (a bit : Nat) (v : Bool) : (setLiveBit d a bit v).reqs = d.reqs := rfl
@[simp] theorem setLiveBit_eng (a bit : Nat) (v : Bool) : (setLiveBit d a bit v).eng = d.eng := rfl
@[simp] theorem setLiveBit_mem (a bit : Nat) (v : Bool) : (setLiveBit d a bit v).mem = d.mem := rfl
@[simp] theorem setLiveBit_log (a bit : Nat) (v : Bool) : (setLiveBit d a bit v).log = d.log := rfl
@[simp] theorem setLiveBit_jobs (a bit : Nat) (v : Bool) : (setLiveBit d a bit v).jobs = d.jobs := rfl
@[simp] theorem setLiveBit_links (a bit : Nat) (v : Bool) : (setLiveBit d a bit v).links = d.links := rfl
@[simp] theorem setLiveBit_flash (a bit : Nat) (v : Bool) : (setLiveBit d a bit v).flash = d.flash := rfl
@[simp] theorem setLiveBit_power (a bit : Nat) (v : Bool) : (setLiveBit d a bit v).power = d.power := rfl

@[simp] theorem advanceTail_now (b j : Nat) : (advanceTail d b j).now = d.now := rfl
@[simp] theorem advanceTail_fresh (b j : Nat) : (advanceTail d b j).fresh = d.fresh := rfl
@[simp] theorem advanceTail_host (b j : Nat) : (advanceTail d b j).host = d.host := rfl
@[simp] theorem advanceTail_txn (b j : Nat) : (advanceTail d b j).txn = d.txn := rfl
@[simp] theorem advanceTail_tagCounts (b j : Nat) : (advanceTail d b j).tagCounts = d.tagCounts := rfl
@[simp] theorem advanceTail_reqs (b j : Nat) : (advanceTail d b j).reqs = d.reqs := rfl
@[simp] theorem advanceTail_eng (b j : Nat) : (advanceTail d b j).eng = d.eng := rfl
@[simp] theorem advanceTail_mem (b j : Nat) : (advanceTail d b j).mem = d.mem := rfl
@[simp] theorem advanceTail_log (b j : Nat) : (advanceTail d b j).log = d.log := rfl
@[simp] theorem advanceTail_jobs (b j : Nat) : (advanceTail d b j).jobs = d.jobs := rfl
@[simp] theorem advanceTail_links (b j : Nat) : (advanceTail d b j).links = d.links := rfl
@[simp] theorem advanceTail_flash (b j : Nat) : (advanceTail d b j).flash = d.flash := rfl
@[simp] theorem advanceTail_power (b j : Nat) : (advanceTail d b j).power = d.power := rfl

@[simp] theorem setMap_now (i : Nat) (m : Bool) (g : Nat) : (setMap d i m g).now = d.now := rfl
@[simp] theorem setMap_fresh (i : Nat) (m : Bool) (g : Nat) : (setMap d i m g).fresh = d.fresh := rfl
@[simp] theorem setMap_host (i : Nat) (m : Bool) (g : Nat) : (setMap d i m g).host = d.host := rfl
@[simp] theorem setMap_txn (i : Nat) (m : Bool) (g : Nat) : (setMap d i m g).txn = d.txn := rfl
@[simp] theorem setMap_tagCounts (i : Nat) (m : Bool) (g : Nat) : (setMap d i m g).tagCounts = d.tagCounts := rfl
@[simp] theorem setMap_reqs (i : Nat) (m : Bool) (g : Nat) : (setMap d i m g).reqs = d.reqs := rfl
@[simp] theorem setMap_eng (i : Nat) (m : Bool) (g : Nat) : (setMap d i m g).eng = d.eng := rfl
@[simp] theorem setMap_mem (i : Nat) (m : Bool) (g : Nat) : (setMap d i m g).mem = d.mem := rfl
@[simp] theorem setMap_log (i : Nat) (m : Bool) (g : Nat) : (setMap d i m g).log = d.log := rfl
@[simp] theorem setMap_jobs (i : Nat) (m : Bool) (g : Nat) : (setMap d i m g).jobs = d.jobs := rfl
@[simp] theorem setMap_links (i : Nat) (m : Bool) (g : Nat) : (setMap d i m g).links = d.links := rfl
@[simp] theorem setMap_flash (i : Nat) (m : Bool) (g : Nat) : (setMap d i m g).flash = d.flash := rfl
@[simp] theorem setMap_power (i : Nat) (m : Bool) (g : Nat) : (setMap d i m g).power = d.power := rfl

@[simp] theorem advanceTo_fresh (t : Nat) : (advanceTo d t).fresh = d.fresh := rfl
@[simp] theorem advanceTo_regs (t : Nat) : (advanceTo d t).regs = d.regs := rfl
@[simp] theorem advanceTo_host (t : Nat) : (advanceTo d t).host = d.host := rfl
@[simp] theorem advanceTo_txn (t : Nat) : (advanceTo d t).txn = d.txn := rfl
@[simp] theorem advanceTo_tagCounts (t : Nat) : (advanceTo d t).tagCounts = d.tagCounts := rfl
@[simp] theorem advanceTo_reqs (t : Nat) : (advanceTo d t).reqs = d.reqs := rfl
@[simp] theorem advanceTo_eng (t : Nat) : (advanceTo d t).eng = d.eng := rfl
@[simp] theorem advanceTo_mem (t : Nat) : (advanceTo d t).mem = d.mem := rfl
@[simp] theorem advanceTo_log (t : Nat) : (advanceTo d t).log = d.log := rfl
@[simp] theorem advanceTo_jobs (t : Nat) : (advanceTo d t).jobs = d.jobs := rfl
@[simp] theorem advanceTo_links (t : Nat) : (advanceTo d t).links = d.links := rfl
@[simp] theorem advanceTo_flash (t : Nat) : (advanceTo d t).flash = d.flash := rfl
@[simp] theorem advanceTo_power (t : Nat) : (advanceTo d t).power = d.power := rfl

@[simp] theorem addMsix_now (fn vec : Nat) : (addMsix d fn vec).now = d.now := rfl
@[simp] theorem addMsix_fresh (fn vec : Nat) : (addMsix d fn vec).fresh = d.fresh := rfl
@[simp] theorem addMsix_regs (fn vec : Nat) : (addMsix d fn vec).regs = d.regs := rfl
@[simp] theorem addMsix_txn (fn vec : Nat) : (addMsix d fn vec).txn = d.txn := rfl
@[simp] theorem addMsix_tagCounts (fn vec : Nat) : (addMsix d fn vec).tagCounts = d.tagCounts := rfl
@[simp] theorem addMsix_reqs (fn vec : Nat) : (addMsix d fn vec).reqs = d.reqs := rfl
@[simp] theorem addMsix_eng (fn vec : Nat) : (addMsix d fn vec).eng = d.eng := rfl
@[simp] theorem addMsix_mem (fn vec : Nat) : (addMsix d fn vec).mem = d.mem := rfl
@[simp] theorem addMsix_log (fn vec : Nat) : (addMsix d fn vec).log = d.log := rfl
@[simp] theorem addMsix_jobs (fn vec : Nat) : (addMsix d fn vec).jobs = d.jobs := rfl
@[simp] theorem addMsix_links (fn vec : Nat) : (addMsix d fn vec).links = d.links := rfl
@[simp] theorem addMsix_flash (fn vec : Nat) : (addMsix d fn vec).flash = d.flash := rfl
@[simp] theorem addMsix_power (fn vec : Nat) : (addMsix d fn vec).power = d.power := rfl

@[simp] theorem hostWrite_now (b a : Nat) (bs : List Byte) : (hostWrite d b a bs).now = d.now := rfl
@[simp] theorem hostWrite_fresh (b a : Nat) (bs : List Byte) : (hostWrite d b a bs).fresh = d.fresh := rfl
@[simp] theorem hostWrite_regs (b a : Nat) (bs : List Byte) : (hostWrite d b a bs).regs = d.regs := rfl
@[simp] theorem hostWrite_txn (b a : Nat) (bs : List Byte) : (hostWrite d b a bs).txn = d.txn := rfl
@[simp] theorem hostWrite_tagCounts (b a : Nat) (bs : List Byte) : (hostWrite d b a bs).tagCounts = d.tagCounts := rfl
@[simp] theorem hostWrite_reqs (b a : Nat) (bs : List Byte) : (hostWrite d b a bs).reqs = d.reqs := rfl
@[simp] theorem hostWrite_eng (b a : Nat) (bs : List Byte) : (hostWrite d b a bs).eng = d.eng := rfl
@[simp] theorem hostWrite_mem (b a : Nat) (bs : List Byte) : (hostWrite d b a bs).mem = d.mem := rfl
@[simp] theorem hostWrite_log (b a : Nat) (bs : List Byte) : (hostWrite d b a bs).log = d.log := rfl
@[simp] theorem hostWrite_jobs (b a : Nat) (bs : List Byte) : (hostWrite d b a bs).jobs = d.jobs := rfl
@[simp] theorem hostWrite_links (b a : Nat) (bs : List Byte) : (hostWrite d b a bs).links = d.links := rfl
@[simp] theorem hostWrite_flash (b a : Nat) (bs : List Byte) : (hostWrite d b a bs).flash = d.flash := rfl
@[simp] theorem hostWrite_power (b a : Nat) (bs : List Byte) : (hostWrite d b a bs).power = d.power := rfl

@[simp] theorem returnBlock_now (h : HeldBlock) : (returnBlock d h).now = d.now := rfl
@[simp] theorem returnBlock_fresh (h : HeldBlock) : (returnBlock d h).fresh = d.fresh := rfl
@[simp] theorem returnBlock_regs (h : HeldBlock) : (returnBlock d h).regs = d.regs := rfl
@[simp] theorem returnBlock_txn (h : HeldBlock) : (returnBlock d h).txn = d.txn := rfl
@[simp] theorem returnBlock_tagCounts (h : HeldBlock) : (returnBlock d h).tagCounts = d.tagCounts := rfl
@[simp] theorem returnBlock_reqs (h : HeldBlock) : (returnBlock d h).reqs = d.reqs := rfl
@[simp] theorem returnBlock_eng (h : HeldBlock) : (returnBlock d h).eng = d.eng := rfl
@[simp] theorem returnBlock_mem (h : HeldBlock) : (returnBlock d h).mem = d.mem := rfl
@[simp] theorem returnBlock_log (h : HeldBlock) : (returnBlock d h).log = d.log := rfl
@[simp] theorem returnBlock_jobs (h : HeldBlock) : (returnBlock d h).jobs = d.jobs := rfl
@[simp] theorem returnBlock_links (h : HeldBlock) : (returnBlock d h).links = d.links := rfl
@[simp] theorem returnBlock_flash (h : HeldBlock) : (returnBlock d h).flash = d.flash := rfl
@[simp] theorem returnBlock_power (h : HeldBlock) : (returnBlock d h).power = d.power := rfl

@[simp] theorem poisonBlock_now (b k : Nat) : (poisonBlock d b k).now = d.now := rfl
@[simp] theorem poisonBlock_fresh (b k : Nat) : (poisonBlock d b k).fresh = d.fresh := rfl
@[simp] theorem poisonBlock_regs (b k : Nat) : (poisonBlock d b k).regs = d.regs := rfl
@[simp] theorem poisonBlock_txn (b k : Nat) : (poisonBlock d b k).txn = d.txn := rfl
@[simp] theorem poisonBlock_tagCounts (b k : Nat) : (poisonBlock d b k).tagCounts = d.tagCounts := rfl
@[simp] theorem poisonBlock_reqs (b k : Nat) : (poisonBlock d b k).reqs = d.reqs := rfl
@[simp] theorem poisonBlock_eng (b k : Nat) : (poisonBlock d b k).eng = d.eng := rfl
@[simp] theorem poisonBlock_log (b k : Nat) : (poisonBlock d b k).log = d.log := rfl
@[simp] theorem poisonBlock_jobs (b k : Nat) : (poisonBlock d b k).jobs = d.jobs := rfl
@[simp] theorem poisonBlock_links (b k : Nat) : (poisonBlock d b k).links = d.links := rfl
@[simp] theorem poisonBlock_flash (b k : Nat) : (poisonBlock d b k).flash = d.flash := rfl
@[simp] theorem poisonBlock_power (b k : Nat) : (poisonBlock d b k).power = d.power := rfl

@[simp] theorem giveData_now (v : W32) : (giveData d v).now = d.now := rfl
@[simp] theorem giveData_fresh (v : W32) : (giveData d v).fresh = d.fresh := rfl
@[simp] theorem giveData_regs (v : W32) : (giveData d v).regs = d.regs := rfl
@[simp] theorem giveData_txn (v : W32) : (giveData d v).txn = d.txn := rfl
@[simp] theorem giveData_tagCounts (v : W32) : (giveData d v).tagCounts = d.tagCounts := rfl
@[simp] theorem giveData_reqs (v : W32) : (giveData d v).reqs = d.reqs := rfl
@[simp] theorem giveData_eng (v : W32) : (giveData d v).eng = d.eng := rfl
@[simp] theorem giveData_mem (v : W32) : (giveData d v).mem = d.mem := rfl
@[simp] theorem giveData_log (v : W32) : (giveData d v).log = d.log := rfl
@[simp] theorem giveData_jobs (v : W32) : (giveData d v).jobs = d.jobs := rfl
@[simp] theorem giveData_links (v : W32) : (giveData d v).links = d.links := rfl
@[simp] theorem giveData_flash (v : W32) : (giveData d v).flash = d.flash := rfl
@[simp] theorem giveData_power (v : W32) : (giveData d v).power = d.power := rfl

@[simp] theorem setReq_now (r : Req) : (setReq d r).now = d.now := rfl
@[simp] theorem setReq_fresh (r : Req) : (setReq d r).fresh = d.fresh := rfl
@[simp] theorem setReq_regs (r : Req) : (setReq d r).regs = d.regs := rfl
@[simp] theorem setReq_host (r : Req) : (setReq d r).host = d.host := rfl
@[simp] theorem setReq_txn (r : Req) : (setReq d r).txn = d.txn := rfl
@[simp] theorem setReq_tagCounts (r : Req) : (setReq d r).tagCounts = d.tagCounts := rfl
@[simp] theorem setReq_eng (r : Req) : (setReq d r).eng = d.eng := rfl
@[simp] theorem setReq_mem (r : Req) : (setReq d r).mem = d.mem := rfl
@[simp] theorem setReq_log (r : Req) : (setReq d r).log = d.log := rfl
@[simp] theorem setReq_jobs (r : Req) : (setReq d r).jobs = d.jobs := rfl
@[simp] theorem setReq_links (r : Req) : (setReq d r).links = d.links := rfl
@[simp] theorem setReq_flash (r : Req) : (setReq d r).flash = d.flash := rfl
@[simp] theorem setReq_power (r : Req) : (setReq d r).power = d.power := rfl

@[simp] theorem modReq_now (slot : Nat) (f : Req → Req) : (modReq d slot f).now = d.now := rfl
@[simp] theorem modReq_fresh (slot : Nat) (f : Req → Req) : (modReq d slot f).fresh = d.fresh := rfl
@[simp] theorem modReq_regs (slot : Nat) (f : Req → Req) : (modReq d slot f).regs = d.regs := rfl
@[simp] theorem modReq_host (slot : Nat) (f : Req → Req) : (modReq d slot f).host = d.host := rfl
@[simp] theorem modReq_txn (slot : Nat) (f : Req → Req) : (modReq d slot f).txn = d.txn := rfl
@[simp] theorem modReq_tagCounts (slot : Nat) (f : Req → Req) : (modReq d slot f).tagCounts = d.tagCounts := rfl
@[simp] theorem modReq_eng (slot : Nat) (f : Req → Req) : (modReq d slot f).eng = d.eng := rfl
@[simp] theorem modReq_mem (slot : Nat) (f : Req → Req) : (modReq d slot f).mem = d.mem := rfl
@[simp] theorem modReq_log (slot : Nat) (f : Req → Req) : (modReq d slot f).log = d.log := rfl
@[simp] theorem modReq_jobs (slot : Nat) (f : Req → Req) : (modReq d slot f).jobs = d.jobs := rfl
@[simp] theorem modReq_links (slot : Nat) (f : Req → Req) : (modReq d slot f).links = d.links := rfl
@[simp] theorem modReq_flash (slot : Nat) (f : Req → Req) : (modReq d slot f).flash = d.flash := rfl
@[simp] theorem modReq_power (slot : Nat) (f : Req → Req) : (modReq d slot f).power = d.power := rfl

@[simp] theorem addDue_now (slot cls : Nat) : (addDue d slot cls).now = d.now := rfl
@[simp] theorem addDue_fresh (slot cls : Nat) : (addDue d slot cls).fresh = d.fresh := rfl
@[simp] theorem addDue_regs (slot cls : Nat) : (addDue d slot cls).regs = d.regs := rfl
@[simp] theorem addDue_host (slot cls : Nat) : (addDue d slot cls).host = d.host := rfl
@[simp] theorem addDue_txn (slot cls : Nat) : (addDue d slot cls).txn = d.txn := rfl
@[simp] theorem addDue_tagCounts (slot cls : Nat) : (addDue d slot cls).tagCounts = d.tagCounts := rfl
@[simp] theorem addDue_eng (slot cls : Nat) : (addDue d slot cls).eng = d.eng := rfl
@[simp] theorem addDue_mem (slot cls : Nat) : (addDue d slot cls).mem = d.mem := rfl
@[simp] theorem addDue_log (slot cls : Nat) : (addDue d slot cls).log = d.log := rfl
@[simp] theorem addDue_jobs (slot cls : Nat) : (addDue d slot cls).jobs = d.jobs := rfl
@[simp] theorem addDue_links (slot cls : Nat) : (addDue d slot cls).links = d.links := rfl
@[simp] theorem addDue_flash (slot cls : Nat) : (addDue d slot cls).flash = d.flash := rfl
@[simp] theorem addDue_power (slot cls : Nat) : (addDue d slot cls).power = d.power := rfl

@[simp] theorem modVer_now (uid : Nat) (f : Version → Version) : (modVer d uid f).now = d.now := rfl
@[simp] theorem modVer_fresh (uid : Nat) (f : Version → Version) : (modVer d uid f).fresh = d.fresh := rfl
@[simp] theorem modVer_regs (uid : Nat) (f : Version → Version) : (modVer d uid f).regs = d.regs := rfl
@[simp] theorem modVer_host (uid : Nat) (f : Version → Version) : (modVer d uid f).host = d.host := rfl
@[simp] theorem modVer_tagCounts (uid : Nat) (f : Version → Version) : (modVer d uid f).tagCounts = d.tagCounts := rfl
@[simp] theorem modVer_reqs (uid : Nat) (f : Version → Version) : (modVer d uid f).reqs = d.reqs := rfl
@[simp] theorem modVer_eng (uid : Nat) (f : Version → Version) : (modVer d uid f).eng = d.eng := rfl
@[simp] theorem modVer_mem (uid : Nat) (f : Version → Version) : (modVer d uid f).mem = d.mem := rfl
@[simp] theorem modVer_log (uid : Nat) (f : Version → Version) : (modVer d uid f).log = d.log := rfl
@[simp] theorem modVer_jobs (uid : Nat) (f : Version → Version) : (modVer d uid f).jobs = d.jobs := rfl
@[simp] theorem modVer_links (uid : Nat) (f : Version → Version) : (modVer d uid f).links = d.links := rfl
@[simp] theorem modVer_flash (uid : Nat) (f : Version → Version) : (modVer d uid f).flash = d.flash := rfl
@[simp] theorem modVer_power (uid : Nat) (f : Version → Version) : (modVer d uid f).power = d.power := rfl

@[simp] theorem modHandle_now (idx : Nat) (f : Handle → Handle) : (modHandle d idx f).now = d.now := rfl
@[simp] theorem modHandle_fresh (idx : Nat) (f : Handle → Handle) : (modHandle d idx f).fresh = d.fresh := rfl
@[simp] theorem modHandle_regs (idx : Nat) (f : Handle → Handle) : (modHandle d idx f).regs = d.regs := rfl
@[simp] theorem modHandle_host (idx : Nat) (f : Handle → Handle) : (modHandle d idx f).host = d.host := rfl
@[simp] theorem modHandle_txn (idx : Nat) (f : Handle → Handle) : (modHandle d idx f).txn = d.txn := rfl
@[simp] theorem modHandle_tagCounts (idx : Nat) (f : Handle → Handle) : (modHandle d idx f).tagCounts = d.tagCounts := rfl
@[simp] theorem modHandle_reqs (idx : Nat) (f : Handle → Handle) : (modHandle d idx f).reqs = d.reqs := rfl
@[simp] theorem modHandle_mem (idx : Nat) (f : Handle → Handle) : (modHandle d idx f).mem = d.mem := rfl
@[simp] theorem modHandle_log (idx : Nat) (f : Handle → Handle) : (modHandle d idx f).log = d.log := rfl
@[simp] theorem modHandle_jobs (idx : Nat) (f : Handle → Handle) : (modHandle d idx f).jobs = d.jobs := rfl
@[simp] theorem modHandle_links (idx : Nat) (f : Handle → Handle) : (modHandle d idx f).links = d.links := rfl
@[simp] theorem modHandle_flash (idx : Nat) (f : Handle → Handle) : (modHandle d idx f).flash = d.flash := rfl
@[simp] theorem modHandle_power (idx : Nat) (f : Handle → Handle) : (modHandle d idx f).power = d.power := rfl

@[simp] theorem freeHandle_now (idx : Nat) : (freeHandle d idx).now = d.now := rfl
@[simp] theorem freeHandle_fresh (idx : Nat) : (freeHandle d idx).fresh = d.fresh := rfl
@[simp] theorem freeHandle_regs (idx : Nat) : (freeHandle d idx).regs = d.regs := rfl
@[simp] theorem freeHandle_host (idx : Nat) : (freeHandle d idx).host = d.host := rfl
@[simp] theorem freeHandle_txn (idx : Nat) : (freeHandle d idx).txn = d.txn := rfl
@[simp] theorem freeHandle_tagCounts (idx : Nat) : (freeHandle d idx).tagCounts = d.tagCounts := rfl
@[simp] theorem freeHandle_reqs (idx : Nat) : (freeHandle d idx).reqs = d.reqs := rfl
@[simp] theorem freeHandle_mem (idx : Nat) : (freeHandle d idx).mem = d.mem := rfl
@[simp] theorem freeHandle_log (idx : Nat) : (freeHandle d idx).log = d.log := rfl
@[simp] theorem freeHandle_jobs (idx : Nat) : (freeHandle d idx).jobs = d.jobs := rfl
@[simp] theorem freeHandle_links (idx : Nat) : (freeHandle d idx).links = d.links := rfl
@[simp] theorem freeHandle_flash (idx : Nat) : (freeHandle d idx).flash = d.flash := rfl
@[simp] theorem freeHandle_power (idx : Nat) : (freeHandle d idx).power = d.power := rfl

@[simp] theorem clearPoison_now (sp : Space) (lo hi : Nat) : (clearPoison d sp lo hi).now = d.now := rfl
@[simp] theorem clearPoison_fresh (sp : Space) (lo hi : Nat) : (clearPoison d sp lo hi).fresh = d.fresh := rfl
@[simp] theorem clearPoison_regs (sp : Space) (lo hi : Nat) : (clearPoison d sp lo hi).regs = d.regs := rfl
@[simp] theorem clearPoison_host (sp : Space) (lo hi : Nat) : (clearPoison d sp lo hi).host = d.host := rfl
@[simp] theorem clearPoison_txn (sp : Space) (lo hi : Nat) : (clearPoison d sp lo hi).txn = d.txn := rfl
@[simp] theorem clearPoison_tagCounts (sp : Space) (lo hi : Nat) : (clearPoison d sp lo hi).tagCounts = d.tagCounts := rfl
@[simp] theorem clearPoison_reqs (sp : Space) (lo hi : Nat) : (clearPoison d sp lo hi).reqs = d.reqs := rfl
@[simp] theorem clearPoison_eng (sp : Space) (lo hi : Nat) : (clearPoison d sp lo hi).eng = d.eng := rfl
@[simp] theorem clearPoison_log (sp : Space) (lo hi : Nat) : (clearPoison d sp lo hi).log = d.log := rfl
@[simp] theorem clearPoison_jobs (sp : Space) (lo hi : Nat) : (clearPoison d sp lo hi).jobs = d.jobs := rfl
@[simp] theorem clearPoison_links (sp : Space) (lo hi : Nat) : (clearPoison d sp lo hi).links = d.links := rfl
@[simp] theorem clearPoison_flash (sp : Space) (lo hi : Nat) : (clearPoison d sp lo hi).flash = d.flash := rfl
@[simp] theorem clearPoison_power (sp : Space) (lo hi : Nat) : (clearPoison d sp lo hi).power = d.power := rfl

@[simp] theorem shoreWrite_now (b k off : Nat) (bs : List Byte) : (shoreWrite d b k off bs).now = d.now := rfl
@[simp] theorem shoreWrite_fresh (b k off : Nat) (bs : List Byte) : (shoreWrite d b k off bs).fresh = d.fresh := rfl
@[simp] theorem shoreWrite_regs (b k off : Nat) (bs : List Byte) : (shoreWrite d b k off bs).regs = d.regs := rfl
@[simp] theorem shoreWrite_host (b k off : Nat) (bs : List Byte) : (shoreWrite d b k off bs).host = d.host := rfl
@[simp] theorem shoreWrite_txn (b k off : Nat) (bs : List Byte) : (shoreWrite d b k off bs).txn = d.txn := rfl
@[simp] theorem shoreWrite_tagCounts (b k off : Nat) (bs : List Byte) : (shoreWrite d b k off bs).tagCounts = d.tagCounts := rfl
@[simp] theorem shoreWrite_reqs (b k off : Nat) (bs : List Byte) : (shoreWrite d b k off bs).reqs = d.reqs := rfl
@[simp] theorem shoreWrite_eng (b k off : Nat) (bs : List Byte) : (shoreWrite d b k off bs).eng = d.eng := rfl
@[simp] theorem shoreWrite_log (b k off : Nat) (bs : List Byte) : (shoreWrite d b k off bs).log = d.log := rfl
@[simp] theorem shoreWrite_jobs (b k off : Nat) (bs : List Byte) : (shoreWrite d b k off bs).jobs = d.jobs := rfl
@[simp] theorem shoreWrite_links (b k off : Nat) (bs : List Byte) : (shoreWrite d b k off bs).links = d.links := rfl
@[simp] theorem shoreWrite_flash (b k off : Nat) (bs : List Byte) : (shoreWrite d b k off bs).flash = d.flash := rfl
@[simp] theorem shoreWrite_power (b k off : Nat) (bs : List Byte) : (shoreWrite d b k off bs).power = d.power := rfl

@[simp] theorem putDie_now (n : Nat) (v : Die) (c : Option (Nat × Nat)) : (putDie d n v c).now = d.now := rfl
@[simp] theorem putDie_fresh (n : Nat) (v : Die) (c : Option (Nat × Nat)) : (putDie d n v c).fresh = d.fresh := rfl
@[simp] theorem putDie_regs (n : Nat) (v : Die) (c : Option (Nat × Nat)) : (putDie d n v c).regs = d.regs := rfl
@[simp] theorem putDie_host (n : Nat) (v : Die) (c : Option (Nat × Nat)) : (putDie d n v c).host = d.host := rfl
@[simp] theorem putDie_txn (n : Nat) (v : Die) (c : Option (Nat × Nat)) : (putDie d n v c).txn = d.txn := rfl
@[simp] theorem putDie_tagCounts (n : Nat) (v : Die) (c : Option (Nat × Nat)) : (putDie d n v c).tagCounts = d.tagCounts := rfl
@[simp] theorem putDie_reqs (n : Nat) (v : Die) (c : Option (Nat × Nat)) : (putDie d n v c).reqs = d.reqs := rfl
@[simp] theorem putDie_eng (n : Nat) (v : Die) (c : Option (Nat × Nat)) : (putDie d n v c).eng = d.eng := rfl
@[simp] theorem putDie_mem (n : Nat) (v : Die) (c : Option (Nat × Nat)) : (putDie d n v c).mem = d.mem := rfl
@[simp] theorem putDie_log (n : Nat) (v : Die) (c : Option (Nat × Nat)) : (putDie d n v c).log = d.log := rfl
@[simp] theorem putDie_jobs (n : Nat) (v : Die) (c : Option (Nat × Nat)) : (putDie d n v c).jobs = d.jobs := rfl
@[simp] theorem putDie_links (n : Nat) (v : Die) (c : Option (Nat × Nat)) : (putDie d n v c).links = d.links := rfl
@[simp] theorem putDie_power (n : Nat) (v : Die) (c : Option (Nat × Nat)) : (putDie d n v c).power = d.power := rfl

@[simp] theorem setDie_now (n : Nat) (v : Die) : (setDie d n v).now = d.now := rfl
@[simp] theorem setDie_fresh (n : Nat) (v : Die) : (setDie d n v).fresh = d.fresh := rfl
@[simp] theorem setDie_regs (n : Nat) (v : Die) : (setDie d n v).regs = d.regs := rfl
@[simp] theorem setDie_host (n : Nat) (v : Die) : (setDie d n v).host = d.host := rfl
@[simp] theorem setDie_txn (n : Nat) (v : Die) : (setDie d n v).txn = d.txn := rfl
@[simp] theorem setDie_tagCounts (n : Nat) (v : Die) : (setDie d n v).tagCounts = d.tagCounts := rfl
@[simp] theorem setDie_reqs (n : Nat) (v : Die) : (setDie d n v).reqs = d.reqs := rfl
@[simp] theorem setDie_eng (n : Nat) (v : Die) : (setDie d n v).eng = d.eng := rfl
@[simp] theorem setDie_mem (n : Nat) (v : Die) : (setDie d n v).mem = d.mem := rfl
@[simp] theorem setDie_log (n : Nat) (v : Die) : (setDie d n v).log = d.log := rfl
@[simp] theorem setDie_jobs (n : Nat) (v : Die) : (setDie d n v).jobs = d.jobs := rfl
@[simp] theorem setDie_links (n : Nat) (v : Die) : (setDie d n v).links = d.links := rfl
@[simp] theorem setDie_power (n : Nat) (v : Die) : (setDie d n v).power = d.power := rfl

@[simp] theorem draw_fst : (draw d).1 = d.fresh := rfl
@[simp] theorem draw_fresh : (draw d).2.fresh = d.fresh + 1 := rfl
@[simp] theorem draw_now : (draw d).2.now = d.now := rfl
@[simp] theorem draw_regs : (draw d).2.regs = d.regs := rfl
@[simp] theorem draw_host : (draw d).2.host = d.host := rfl
@[simp] theorem draw_txn : (draw d).2.txn = d.txn := rfl
@[simp] theorem draw_tagCounts : (draw d).2.tagCounts = d.tagCounts := rfl
@[simp] theorem draw_reqs : (draw d).2.reqs = d.reqs := rfl
@[simp] theorem draw_eng : (draw d).2.eng = d.eng := rfl
@[simp] theorem draw_mem : (draw d).2.mem = d.mem := rfl
@[simp] theorem draw_log : (draw d).2.log = d.log := rfl
@[simp] theorem draw_jobs : (draw d).2.jobs = d.jobs := rfl
@[simp] theorem draw_links : (draw d).2.links = d.links := rfl
@[simp] theorem draw_flash : (draw d).2.flash = d.flash := rfl
@[simp] theorem draw_power : (draw d).2.power = d.power := rfl

end Sys2Proof.Machine
end

