-- ==== Sys2Proof/Laws/Regs.lean ====
section
/-! SUPPORT. Register words, status bits, counters and signals: everything that each shared operation can do. -/

namespace Sys2Proof.Machine

variable {d : Dev} {a b : Nat}

/-! ### Live and staged words -/

theorem find?_filter_of_imp {α : Type} (p q : α → Bool) (xs : List α) (h : ∀ x, p x = true → q x = true) :
    (xs.filter q).find? p = xs.find? p := by
  induction xs with
  | nil => rfl
  | cons x xs ih =>
    by_cases hp : p x = true
    · simp [h x hp, hp]
    · by_cases hq : q x = true <;> simp [hq, hp, ih]

theorem copiesOf_setLive_self (d : Dev) (a : Nat) (v : W32) : copiesOf (setLive d a v) false a = none := by
  simp only [copiesOf, setLive, List.find?_eq_none, List.mem_filter]
  rintro x ⟨-, hx⟩
  simpa [Classical.or_iff_not_imp_left] using hx

theorem copiesOf_setLive_ne (d : Dev) (v : W32) (st : Bool) (h : a ≠ b ∨ st = true) :
    copiesOf (setLive d a v) st b = copiesOf d st b := by
  simp only [copiesOf, setLive]
  apply find?_filter_of_imp
  intro x hx
  simp only [Bool.and_eq_true, decide_eq_true_eq, beq_iff_eq] at hx
  rcases h with h | h
  · simp [hx.1, Ne.symm h]
  · subst h; simp [hx.2]

theorem copiesOf_setStaged_ne (d : Dev) (v : W32) (st : Bool) (h : a ≠ b ∨ st = false) :
    copiesOf (setStaged d a v) st b = copiesOf d st b := by
  simp only [copiesOf, setStaged]
  apply find?_filter_of_imp
  intro x hx
  simp only [Bool.and_eq_true, decide_eq_true_eq, beq_iff_eq] at hx
  rcases h with h | h
  · simp [hx.1, Ne.symm h]
  · subst h; simp [hx.2]

/-- A live word that was written reads as the value. -/
@[simp] theorem live_setLive_self (d : Dev) (a : Nat) (v : W32) : live (setLive d a v) a = v := by
  rw [live, copiesOf_setLive_self]
  simp [setLive]

/-- Every other live word reads as before. -/
theorem live_setLive_ne (d : Dev) (v : W32) (h : a ≠ b) : live (setLive d a v) b = live d b := by
  rw [live, live, copiesOf_setLive_ne d v false (.inl h)]
  simp [setLive, SMap.get_set_ne _ _ _ h]

theorem live_setLive (d : Dev) (a b : Nat) (v : W32) : live (setLive d a v) b = if a = b then v else live d b := by
  split
  · rename_i h; subst h; simp
  · exact live_setLive_ne d v (by assumption)

/-- A live word is written without a change of any staged word. -/
@[simp] theorem staged_setLive (d : Dev) (a b : Nat) (v : W32) : staged (setLive d a v) b = staged d b := by
  rw [staged, staged, copiesOf_setLive_ne d v true (.inr rfl)]
  rfl

@[simp] theorem staged_setStaged_self (d : Dev) (a : Nat) (v : W32) : staged (setStaged d a v) a = v := by
  have : copiesOf (setStaged d a v) true a = none := by
    simp only [copiesOf, setStaged, List.find?_eq_none, List.mem_filter]
    rintro x ⟨-, hx⟩
    simpa [Classical.or_iff_not_imp_left] using hx
  rw [staged, this]
  simp [setStaged]

theorem staged_setStaged_ne (d : Dev) (v : W32) (h : a ≠ b) : staged (setStaged d a v) b = staged d b := by
  rw [staged, staged, copiesOf_setStaged_ne d v true (.inl h)]
  simp [setStaged, SMap.get_set_ne _ _ _ h]

@[simp] theorem live_setStaged (d : Dev) (a b : Nat) (v : W32) : live (setStaged d a v) b = live d b := by
  rw [live, live, copiesOf_setStaged_ne d v false (.inr rfl)]
  rfl

theorem live_setLiveBit_ne (d : Dev) (bit : Nat) (v : Bool) (h : a ≠ b) : live (setLiveBit d a bit v) b = live d b :=
  live_setLive_ne d _ h

theorem live_setLiveN (d : Dev) (k : Blk) (i off v : Nat) (b : Nat) :
    live (setLiveN d k i off v) b = if regA k i off = b then BitVec.ofNat 32 v else live d b := live_setLive ..

theorem live_count (d : Dev) (k : Blk) (i off n : Nat) (b : Nat) :
    live (count d k i off n) b = if regA k i off = b then live d b + BitVec.ofNat 32 n else live d b := by
  rw [count, live_setLive]
  split
  · rename_i h; rw [h]
  · rfl

/-- The words depend on the registers alone. -/
theorem live_congr {d e : Dev} (h : e.regs = d.regs) (a : Nat) : live e a = live d a := by
  simp only [live, copiesOf, h]

theorem live_congr' {d e : Dev} (h : e.regs.live = d.regs.live) (h' : e.regs.tmr = d.regs.tmr) (a : Nat) : live e a = live d a := by
  simp only [live, copiesOf, h, h']

theorem staged_congr' {d e : Dev} (h : e.regs.staged = d.regs.staged) (h' : e.regs.tmr = d.regs.tmr) (a : Nat) :
    staged e a = staged d a := by
  simp only [staged, copiesOf, h, h']

theorem staged_congr {d e : Dev} (h : e.regs = d.regs) (a : Nat) : staged e a = staged d a := by
  simp only [staged, copiesOf, h]

theorem liveN_congr {d e : Dev} (h : e.regs = d.regs) (k : Blk) (i off : Nat) : liveN e k i off = liveN d k i off := by
  rw [liveN, liveN, live_congr h]

/-! ### Signals and status bits -/

theorem addMsix_foldl_regs (vs : List (Nat × Nat)) (d : Dev) : (vs.foldl (fun d v => addMsix d v.1 v.2) d).regs = d.regs := by
  induction vs generalizing d with
  | nil => rfl
  | cons v vs ih => rw [List.foldl_cons, ih]; rfl

@[simp] theorem signalPage_regs (d : Dev) (k : Blk) (i : Nat) : (signalPage d k i).regs = d.regs := by
  unfold signalPage
  dsimp only
  split
  · exact addMsix_foldl_regs ..
  · rfl

theorem addMsix_foldl_frame (vs : List (Nat × Nat)) (d : Dev) :
    ∃ hst, vs.foldl (fun d v => addMsix d v.1 v.2) d = { d with host := hst } ∧
      ∃ q p, hst = { d.host with msix := q, waitVec := p } := by
  induction vs generalizing d with
  | nil => exact ⟨d.host, rfl, d.host.msix, d.host.waitVec, rfl⟩
  | cons v vs ih =>
    obtain ⟨h, e, q, p, e'⟩ := ih (addMsix d v.1 v.2)
    exact ⟨h, by rw [List.foldl_cons, e]; rfl, q, p, by rw [e']; rfl⟩

/-- A signal sends messages or sets pending bits, and writes to the firmware processors; it changes nothing else. -/
theorem signalPage_eq (d : Dev) (k : Blk) (i : Nat) :
    ∃ q p w, signalPage d k i = { d with host := { d.host with msix := q, waitVec := p, fwpSig := w } } := by
  unfold signalPage
  dsimp only
  split
  · obtain ⟨h, e, q, p, e'⟩ := addMsix_foldl_frame (pageVectors k i) d
    rw [e, e']; exact ⟨_, _, _, rfl⟩
  · exact ⟨_, _, _, rfl⟩

/-- The status and capture registers of a page. -/
def statRegs (k : Blk) (i : Nat) : List Nat := [0x20, 0x30, 0x34, 0x38, 0x3C].map (regA k i)

theorem capture_eq (d : Dev) (k : Blk) (i bit bs : Nat) (t d2 d3 : W32) :
    ∃ r, capture d k i bit bs t d2 d3 = { d with regs := r } := by
  unfold capture
  split
  · exact ⟨_, rfl⟩
  · exact ⟨_, rfl⟩

theorem live_capture_ne (d : Dev) (k : Blk) (i bit bs : Nat) (t d2 d3 : W32) (h : b ∉ [0x30, 0x34, 0x38, 0x3C].map (regA k i)) :
    live (capture d k i bit bs t d2 d3) b = live d b := by
  simp only [List.map_cons, List.map_nil, List.mem_cons, List.not_mem_nil, or_false, not_or] at h
  obtain ⟨h1, h2, h3, h4⟩ := h
  unfold capture
  split
  · rfl
  · simp only [setLiveN]
    rw [live_setLive_ne _ _ (Ne.symm h4), live_setLive_ne _ _ (Ne.symm h3), live_setLive_ne _ _ (Ne.symm h2), live_setLive_ne _ _ (Ne.symm h1)]

theorem staged_capture (d : Dev) (k : Blk) (i bit bs : Nat) (t d2 d3 : W32) (b : Nat) :
    staged (capture d k i bit bs t d2 d3) b = staged d b := by
  unfold capture
  split
  · rfl
  · simp [setLiveN]

/-- What an event notes of its cycle (R9): only the SPR page's sets. -/
def noted (d : Dev) (k : Blk) (i : Nat) (h : HwSet) : Dev := noteSet d k i 0x20 h

theorem noted_eq (d : Dev) (k : Blk) (i : Nat) (h : HwSet) : ∃ r, noted d k i h = { d with regs := r } := by
  unfold noted noteSet
  split
  · exact ⟨_, rfl⟩
  · exact ⟨d.regs, rfl⟩

@[simp] theorem live_noted (d : Dev) (k : Blk) (i : Nat) (h : HwSet) (a : Nat) : live (noted d k i h) a = live d a := by
  unfold noted noteSet
  split <;> rfl

@[simp] theorem staged_noted (d : Dev) (k : Blk) (i : Nat) (h : HwSet) (a : Nat) : staged (noted d k i h) a = staged d a := by
  unfold noted noteSet
  split <;> rfl

/-- A status event changes registers, messages, pending vectors and firmware signals, and nothing else. -/
theorem setStat_eq (d : Dev) (k : Blk) (i bit bs : Nat) (t d2 d3 : W32) :
    ∃ r q p w, setStat d k i bit bs t d2 d3 = { d with regs := r, host := { d.host with msix := q, waitVec := p, fwpSig := w } } := by
  obtain ⟨n, hn⟩ := noted_eq d k i ⟨bit, bs, t, d2, d3⟩
  obtain ⟨r, e⟩ := capture_eq (setLiveBit (noted d k i ⟨bit, bs, t, d2, d3⟩) (regA k i 0x20) bit true) k i bit bs t d2 d3
  unfold setStat
  dsimp only
  rw [← noted.eq_1 d k i, e, hn]
  split
  · obtain ⟨q, p, w, e'⟩ := signalPage_eq { setLiveBit { d with regs := n } (regA k i 0x20) bit true with regs := r } k i
    rw [e']; exact ⟨r, q, p, w, rfl⟩
  · exact ⟨r, _, _, _, rfl⟩

theorem setStat_regs (d : Dev) (k : Blk) (i bit bs : Nat) (t d2 d3 : W32) :
    (setStat d k i bit bs t d2 d3).regs =
      (capture (setLiveBit (noted d k i ⟨bit, bs, t, d2, d3⟩) (regA k i 0x20) bit true) k i bit bs t d2 d3).regs := by
  unfold setStat
  dsimp only
  rw [← noted.eq_1 d k i]
  split
  · exact signalPage_regs ..
  · rfl

/-- A status event writes only the status and capture registers of its page. -/
theorem live_setStat_ne (d : Dev) (k : Blk) (i bit bs : Nat) (t d2 d3 : W32) (h : b ∉ statRegs k i) :
    live (setStat d k i bit bs t d2 d3) b = live d b := by
  rw [live_congr (setStat_regs ..)]
  have h' : b ∉ [0x30, 0x34, 0x38, 0x3C].map (regA k i) := fun m => h (List.mem_cons_of_mem _ m)
  rw [live_capture_ne _ _ _ _ _ _ _ _ h', live_setLiveBit_ne _ _ _ (fun e => h (by simp [statRegs, e])), live_noted]

@[simp] theorem staged_setStat (d : Dev) (k : Blk) (i bit bs : Nat) (t d2 d3 : W32) (b : Nat) :
    staged (setStat d k i bit bs t d2 d3) b = staged d b := by
  rw [staged_congr (setStat_regs ..), staged_capture, ← staged_noted d k i ⟨bit, bs, t, d2, d3⟩ b]
  exact staged_setLive ..

theorem regA_inj (k : Blk) (i : Nat) {o o' : Nat} (h : regA k i o = regA k i o') : o = o' := by
  unfold regA at h; omega

/-- The status word after a status event: the bit is set. -/
theorem live_setStat_stat (d : Dev) (k : Blk) (i bit bs : Nat) (t d2 d3 : W32) :
    live (setStat d k i bit bs t d2 d3) (regA k i 0x20) = live d (regA k i 0x20) ||| BitVec.ofNat 32 (2 ^ bit) := by
  rw [live_congr (setStat_regs ..), live_capture_ne]
  · simp [setLiveBit]
  · simp only [List.map_cons, List.map_nil, List.mem_cons, List.not_mem_nil, or_false, not_or]
    exact ⟨fun e => by have := regA_inj k i e; omega, fun e => by have := regA_inj k i e; omega,
      fun e => by have := regA_inj k i e; omega, fun e => by have := regA_inj k i e; omega⟩

end Sys2Proof.Machine
end

