-- ==== Sys2Proof/Laws/Events.lean ====
section
/-! SUPPORT. The error log, the end of a request and the accesses of a function: everything that each shared operation can do. -/

namespace Sys2Proof.Machine

variable {b : Nat}

/-! ### The error log -/

/-- Holding an event changes registers, signals and the log. -/
theorem holdEvent_eq (d : Dev) (e : LogEvent) :
    ∃ r q p w l, holdEvent d e = { d with regs := r, host := { d.host with msix := q, waitVec := p, fwpSig := w }, log := l } := by
  unfold holdEvent
  dsimp only
  split
  · exact ⟨_, _, _, _, _, rfl⟩
  · split
    · exact ⟨_, _, _, _, _, rfl⟩
    · obtain ⟨r, q, p, w, h⟩ := setStat_eq { d with log.events := d.log.events ++ [e] } .errlog 0 2 0 noTag 0 0
      rw [h]; exact ⟨r, q, p, w, _, rfl⟩

/-- Reporting an event changes registers, signals and the log. -/
theorem logEvent_eq (d : Dev) (kind source bs : Nat) (t : W32) (loc det ep : Nat) :
    ∃ r q p w l, logEvent d kind source bs t loc det ep = { d with regs := r, host := { d.host with msix := q, waitVec := p, fwpSig := w }, log := l } := by
  unfold logEvent
  dsimp only
  split
  · split
    · obtain ⟨r, q, p, w, l, h⟩ := holdEvent_eq { d with log.coal := d.log.coal ++ [⟨kind, source, d.now, 0, ⟨kind, bs, sprNow d, source, t, loc, 1, ep, det⟩⟩] } ⟨kind, bs, sprNow d, source, t, loc, 1, ep, det⟩
      rw [h]; exact ⟨r, q, p, w, l, rfl⟩
    · split
      · rename_i c _ _
        obtain ⟨r, q, p, w, l, h⟩ := holdEvent_eq { d with log.coal := (d.log.coal.filter (fun c => !decide (c.kind = kind ∧ c.source = source))) ++ [⟨kind, source, d.now, 0, ⟨kind, bs, sprNow d, source, t, loc, 1, ep, det⟩⟩] } { (⟨kind, bs, sprNow d, source, t, loc, 1, ep, det⟩ : LogEvent) with count := c.since + 1 }
        rw [h]; exact ⟨r, q, p, w, l, rfl⟩
      · split <;> exact ⟨d.regs, d.host.msix, d.host.waitVec, d.host.fwpSig, _, rfl⟩
  · exact holdEvent_eq d _

/-- The registers that FWP4 may write when it holds an event. -/
def logRegs : List Nat := regA .errlog 0 0x10C :: statRegs .errlog 0

theorem live_holdEvent_ne (d : Dev) (e : LogEvent) (h : b ∉ logRegs) : live (holdEvent d e) b = live d b := by
  have h1 : regA .errlog 0 0x10C ≠ b := fun x => h (by simp [logRegs, x])
  have h2 : b ∉ statRegs .errlog 0 := fun x => h (List.mem_cons_of_mem _ x)
  unfold holdEvent
  dsimp only
  split
  · exact (live_congr (d := count d .errlog 0 0x10C 1) rfl b).trans (by rw [live_count, if_neg h1])
  · split
    · exact live_congr rfl b
    · rw [live_setStat_ne _ _ _ _ _ _ _ _ h2]; exact live_congr rfl b

theorem live_logEvent_ne (d : Dev) (kind source bs : Nat) (t : W32) (loc det ep : Nat) (h : b ∉ logRegs) :
    live (logEvent d kind source bs t loc det ep) b = live d b := by
  unfold logEvent
  dsimp only
  split
  · split
    · rw [live_holdEvent_ne _ _ h]; exact live_congr rfl b
    · split
      · rw [live_holdEvent_ne _ _ h]; exact live_congr rfl b
      · split <;> exact live_congr rfl b
  · exact live_holdEvent_ne _ _ h

/-! ### A write through BAR0 -/

/-- The page of a shore that is awake answers a function. -/
theorem shoreAwake_id {d : Dev} (h : domState d 4 = 0) (m : domMoving d 4 = false) : shoreAwake d = d := by
  rw [shoreAwake, if_pos ⟨h, by simp [m]⟩]

/-- A 4-byte write that is neither refused nor held has the effect of its register. -/
theorem hostWrite4_reg {s : State} {fn a : Nat} {v : W32} {hw : List HwSet} {fl : List W64} {k : Blk} {i off : Nat} {r : RegDef}
    (ans : answers s.dev fn (a / 0x1000) = true) (aw : domState s.dev 4 = 0) (mv : domMoving s.dev 4 = false)
    (tgt : writeTarget s.dev fn a = .reg k i off r) (free : regLocked s.dev a = false) :
    hostWrite4 s fn a v hw fl = writeReg s fn k i off r v hw fl := by
  have e : onDev s shoreAwake = s := by rw [onDev, shoreAwake_id aw mv]
  simp only [hostWrite4, ans, Bool.not_true, Bool.false_eq_true, if_false, e, tgt, free]

theorem regA_page (k : Blk) (i off : Nat) (h : off < 0x1000) : regA k i off / 0x1000 = pageNo k i := by
  unfold regA; omega

theorem regA_off (k : Blk) (i off : Nat) (h : off < 0x1000) : regA k i off % 0x1000 = off := by
  unfold regA; omega

end Sys2Proof.Machine
end

