-- ==== Sys2Proof/Laws/Words.lean ====
section
/-! SUPPORT. Steps whose reads meet no error (R389, R390): each is the plain step. -/

namespace Sys2Proof.Machine

@[simp] theorem readErrors_nil (d : Dev) (x : Reader) (names : Dev → ErrorPlace → Option (Space × Nat)) : readErrors d x names [] = d := rfl

theorem readErrors_cons (d : Dev) (x : Reader) (names : Dev → ErrorPlace → Option (Space × Nat)) (e : ReadError) (es : List ReadError) :
    readErrors d x names (e :: es) =
      readErrors (match names d e.place with | some w => readWord (replayed d x e) x w e.bits | none => d) x names es := rfl

@[simp] theorem lostOnWay_nil (d : Dev) (names : Dev → ErrorPlace → Option (Space × Nat)) : lostOnWay d names [] = [] := rfl
@[simp] theorem addLost_nil (d : Dev) : addLost d [] = d := rfl
@[simp] theorem dropLost_nil (d : Dev) : dropLost d [] = d := rfl

@[simp] theorem withErrors_nil (d : Dev) (x : Reader) (names : Dev → ErrorPlace → Option (Space × Nat)) (step : Dev → Dev) :
    withErrors d x names [] step = step d := rfl

/-- What a step with read errors can do: the words in error are recorded, the step sees the words lost on the way poisoned, and
their memory keeps them whole. -/
theorem withErrors_eq (d : Dev) (x : Reader) (names : Dev → ErrorPlace → Option (Space × Nat)) (errs : List ReadError) (step : Dev → Dev) :
    withErrors d x names errs step =
      dropLost (step (addLost (readErrors d x names errs) (lostOnWay d names errs))) (lostOnWay d names errs) := rfl

@[simp] theorem workErrors_nil (d : Dev) (x : Reader) (parts : List WorkWord) : workErrors d x parts [] = (d, none) := rfl

@[simp] theorem workStep_nil (d : Dev) (x : Reader) (bit : Nat) (parts : List WorkWord) (step : Dev → Dev) (cap : WorkWord → Nat → Nat × Nat) :
    workStep d x bit parts [] step cap = step d := rfl

@[simp] theorem walkWork_nil (d : Dev) (r : Req) (step : Dev → Dev) : walkWork d r [] step = step d := rfl

@[simp] theorem movesStore_nil (d : Dev) (i : Nat) (move : Dev → Nat → Dev) :
    movesStore d i [] move = match findHandleIdx d i with | some h => if h.moving then move d i else d | none => d := rfl

@[simp] theorem passReads_nil (d : Dev) (q : Pass) (v : Version) : passReads d q v [] = d := rfl

@[simp] theorem cutReads_nil (d : Dev) (slot : Nat) (step : Dev → Dev) : cutReads d slot [] step = step d := by
  unfold cutReads
  split
  · rfl
  · split <;> simp

@[simp] theorem txnReads_nil (s : State) : txnReads s [] = txnStartOp s := by
  unfold txnReads
  split
  · split <;> simp [onDev]
  · rfl

@[simp] theorem gathReads_nil (d : Dev) (cmd : Nat) (merge : Bool) (step : Dev → Dev) : gathReads d cmd merge [] step = step d := by
  unfold gathReads
  split
  · rfl
  · dsimp only
    split <;> simp

@[simp] theorem bundleErrors_nil (d : Dev) (id i : Nat) (step : Dev → Dev) : bundleErrors d id i [] step = step d := by
  unfold bundleErrors
  split
  · rfl
  · split <;> simp

@[simp] theorem tileErrors_nil (d : Dev) (id i : Nat) : tileErrors d id i [] = tileEndOp d id i := by
  unfold tileErrors
  split
  · rfl
  · split <;> simp

@[simp] theorem walkReads_nil (d : Dev) (slot : Nat) (step : Dev → Dev) : walkReads d slot [] step = step d := by
  unfold walkReads
  split
  · rfl
  · split <;> simp

@[simp] theorem badRecord_nil : badRecord [] = fun _ => false := rfl

@[simp] theorem applyRead_nil (r : Req) (v : Version) : applyRead r v (fun _ => false) = applyRecord r v := by
  funext acc rd
  simp [applyRead]

@[simp] theorem replays_nil (d : Dev) (unit : Nat) (c : Ctx) : replays d unit c [] = d := rfl

@[simp] theorem drawErrors_nil (d : Dev) (id i xid : Nat) : drawErrors d id i xid [] [] = drawLandsOp d id i xid := by
  unfold drawErrors
  split
  · rfl
  · simp [lostWords]

@[simp] theorem returnErrors_nil (d : Dev) (id i xid : Nat) : returnErrors d id i xid [] = returnCompletesOp d id i xid := by
  unfold returnErrors
  split
  · rfl
  · simp

end Sys2Proof.Machine
end

