-- ==== Sys2Proof/Tests/States.lean ====
section
/-! SUPPORT. Small states and operands for the tests and the witnesses. -/

namespace Sys2Proof.Tests

open Sys2Proof Sys2Proof.Machine Sys2Proof.Claims

/-- The state after a command. -/
def after (c : Instr) (s : State) : State := match exec c s with | .next t => t | _ => s

/-- A module that is READY, with every basin but 0 FREE and two VFs. -/
def up : State :=
  on State.reset (setLiveN { Dev.reset with
    power := { Dev.reset.power with pwrEn := true, perst := false, rails := .good, pwrGood := true, booting := false }
    host := { Dev.reset.host with numVFs := 2 } } .rst 0 0x108 0x11)


def w (x : Nat) : W64 := BitVec.ofNat 64 x
def w4 (x : Nat) : W32 := BitVec.ofNat 32 x
/-- A 64-byte descriptor from its opcode, its other bytes by place. -/
def descOf (op : Nat) (at' : List (Nat × Nat)) : List Byte :=
  (List.range 64).map (fun i => if i = 0 then BitVec.ofNat 8 op else match at'.find? (fun x => decide (x.1 = i)) with | some x => BitVec.ofNat 8 x.2 | none => 0)
/-- A request of basin 0 in tag slot 5. -/
def req0 : Req := newReq up.dev 0 0 5 1 ⟨descOf 3 [], []⟩
def withReq (s : State) (r : Req) : State := on s { s.dev with reqs := s.dev.reqs ++ [r] }
def withDev (s : State) (f : Dev → Dev) : State := on s (f s.dev)

def lockedUp : State := withDev up (fun d => setLiveN d .clk 0 0x44 1)
def fireUp : State := withDev up (fun d => setLiveN d .clk 0 0x14 2)
def firing : State := withDev fireUp (fun d => { d with regs := { d.regs with fires := [⟨2, [5], 0, false, 0⟩] } })
def firingLate := withDev firing (fun d => {d with now := 10^9})
/-- Two rings of basin 0 of 64 slots each, enabled; the inlet ring is bound to outlet ring 1. -/
def ringsUp : State := withDev up (fun d => setLiveN (setLiveN (setLiveN d .ring 0 0x208 (6 + 0x100)) .ring 0 0x428 (6 + 0x300)) .ring 0 0x104 0x20001)
/-- Bytes by place. -/
def mk (n : Nat) (l : List (Nat × Nat)) : List Byte :=
  (List.range n).map (fun i => match l.find? (fun x => decide (x.1 = i)) with | some x => BitVec.ofNat 8 x.2 | none => 0)
/-- A version of basin 0 in slot 0 of its class. -/
def ver (uid cls : Nat) (desc : List Byte) : Version :=
  { uid := uid, basin := 0, cls := cls, slot := 0, num := 1, desc := desc, superseded := none, keepUntil := 0, retired := false, bits := [],
    edition := 0, digest := 7, resident := true, loading := false, loadWaits := false, lastUse := 0, slotSizes := [] }
/-- Profile: every stage, no grammar, no fallback; W 1, L 8, hop limit 4, k 2. -/
def profV : Version := ver 1 3 (mk 128 [(0, 0x11), (1, 0x1F), (8, 8), (10, 1), (12, 4), (14, 2), (34, 2), (36, 4), (39, 0xFF), (41, 1), (46, 0xFF), (47, 0xFF), (54, 8), (56, 4)])
/-- Model: one layer, one KV head of 32, context 64, vectors of 2, vocabulary at 0x1000. -/
def modelV : Version := ver 2 4 (mk 128 [(10, 1), (15, 1), (16, 32), (20, 64), (24, 2), (26, 1), (33, 0x10)])
/-- Index: M 1, INT8, D 1, four passages, entry points 0 and 1. -/
def indexV : Version := ver 3 0 (mk 128 [(6, 1), (7, 1), (8, 1), (11, 2), (12, 4), (16, 2), (28, 1), (57, 0x40), (65, 0x50), (73, 0x60), (81, 0x70)])
/-- Table: writable FP32 rows of one element, four of them, at 0x8000, absent bits at 0x9000. -/
def tableV : Version := ver 4 1 (mk 128 [(7, 1), (8, 4), (16, 4), (25, 0x80), (33, 0x90)])
def tmplV : Version := ver 5 5 (mk 64 [(6, 1), (16, 2)])
def vocabImage : List Byte :=
  mk 64 [(8, 3), (12, 0), (16, 2), (20, 3)] ++ mk 8 [(4, 1)] ++ mk 8 [(0, 1), (4, 1)] ++ mk 8 [(0, 2), (4, 1), (5, 1)] ++ [0x61, 0x62, 0x3C]
/-- Basin 0's translation maps page 0 to a page of HBM, which holds the vocabulary; its rings are up, and a descriptor waits. -/
def stock : State := withDev ringsUp (fun d =>
  let d := setLiveN (setLiveN (setLiveN (setLiveN d .bsn 0 0x110 0x10000000) .bsn 0 0x114 0x40) .ring 0 0x20C 2) .bsn 0 0x12C 5
  let d := setLiveN (setLiveN d .bsn 0 0x120 100) .bsn 0 0x130 5
  { d with txn := { d.txn with versions := [profV, modelV, indexV, tableV, tmplV], nextUid := 9 },
           mem := { d.mem with xlat := SMap.set (fun _ => 0) (SMap.set (fun _ => 0) d.mem.xlat 0x4010000000 (w 0x4010040001)) 0x4010040000 (w 0x10000B),
                               hbm := Mem.writeL d.mem.hbm 0x101000 vocabImage } })

/-- A request of slot 5 with more descriptor bytes. -/
def rq (op : Nat) (l : List (Nat × Nat)) : Req := newReq stock.dev 0 0 5 1 ⟨descOf op l, []⟩
def withEng (s : State) (f : Engines → Engines) : State := withDev s (fun d => { d with eng := f d.eng })
/-- An EMBED of the two bytes "ab" in block 2, with its output in block 3. -/
def embedReq : Req := rq 3 [(16, 2), (20, 2), (24, 3), (28, 64)]
def embedText : State := withDev (withReq stock embedReq) (fun d => { d with mem := { d.mem with shore := Mem.writeL d.mem.shore (shoreAddr 0 2 0) [0x61, 0x62] } })
def embedArmed : State := withDev embedText (fun d => armPage d (pageNo .tok 0) [])
/-- A profile that allows one input token. -/
def profShort : Version := { profV with desc := setAt profV.desc 54 (1 : Byte) }
def embedLong : State := withDev embedText (fun d => { d with txn := { d.txn with versions := [profShort, modelV, indexV] } })
def vocV : Vocab := ((vocabOf stock.dev modelV).get?).getD ⟨0, 0, []⟩
def embBusy : Req := { embedReq with stage := .embed, busy := true, cuts := [⟨2, [1, 2], []⟩] }
def embTight : Req := { embBusy with desc := descOf 3 [(24, 3), (28, 8)] }
def embSearch : Req := { rq 2 [(24, 3), (28, 64)] with stage := .embed, busy := true, cuts := [⟨2, [1, 2], []⟩] }
def embIdle : Req := { embBusy with busy := false }
def grantReq : Req := { embSearch with stage := .grant, busy := false, qvec := [0, 0] }
def granted : State := withEng (withReq stock grantReq) (fun e => { e with walkWait := [5] })
def behind : State := withEng (withReq stock grantReq) (fun e => { e with walkWait := [6, 5] })
def noWalk : Walk := ⟨[], 0, [], [], [], [], 8, 0, 0, []⟩
def tableReq : Req := { grantReq with stage := .table, busy := true, walk := some noWalk }
def cbV : List Byte := List.replicate 512 0
def walk0 : Walk := { noWalk with table := List.replicate 256 0, dmin := [0], queue := [⟨0, 0, .opened⟩, ⟨0, 1, .opened⟩] }
def walk1 : Walk := { walk0 with table := [] }
def walkReq : Req := { tableReq with stage := .walk, busy := false, walk := some walk1 }
def walkReading : Walk := { walk1 with reads := [⟨0, 0, true, true⟩] }
def readReq : Req := { walkReq with busy := true, walk := some walkReading }
/-- The same expansion with its read in time, served by the node cache. -/
def hitWalk : Walk := { walk1 with reads := [⟨0, 0, false, true⟩] }
def hitReq : Req := { walkReq with busy := true, walk := some hitWalk }
def hitUp : State := withEng (withReq stock hitReq) (fun e => { e with nodeCache := [(indexV.uid, 0, [0])] })
def walkTwo : Walk := { walk1 with reads := [⟨0, 0, false, true⟩, ⟨1, 0, false, true⟩] }
def twoReq : Req := { walkReq with busy := true, walk := some walkTwo }
def arrived (w : Walk) (r : Req) : Dev × Walk × Option Nat := w.reads.foldl (applyRecord r indexV) ((withReq stock r).dev, w, none)
def profIs (l : List (Nat × Nat)) : Version := { profV with desc := l.foldl (fun x p => setAt x p.1 (BitVec.ofNat 8 p.2)) profV.desc }
def withProf (s : State) (l : List (Nat × Nat)) : State := withDev s (fun d => { d with txn := { d.txn with versions := d.txn.versions.map (fun v => if v.uid = 1 then profIs l else v) } })
/-- A read budget of 5 µs. -/
def budgetUp : State := withProf (withReq stock twoReq) [(76, 5)]
def dlReq : Req := { walkReq with dlSearch := some 1000 }
def dlUp : State := withProf (withReq stock dlReq) [(2, 1)]
def dlHard : State := withReq stock dlReq
def rankReq : Req := { rq 1 [(24, 3), (28, 64)] with stage := .fetchRank, busy := true, dlRerank := some 1000, evid := [⟨1, 0, 0, 0, 0, 0⟩] }
def rankUp : State := withProf (withReq stock rankReq) [(2, 2)]
def modelReq : Req := { rq 1 [(24, 3), (28, 64)] with stage := .model, dlModel := some 1000, prompt := [1, 2], pins := { (rq 1 []).pins with fb := some 6 } }
def fbV : Version := { modelV with uid := 6, slot := 1 }
def asleep (s : State) : State := withDev s (fun d => { d with txn := { d.txn with versions := d.txn.versions.map (fun v => if v.uid = 2 then { v with resident := false } else v) ++ [fbV] } })
def modelUp : State := asleep (withProf (withReq stock modelReq) [(2, 4)])
def modelHard : State := asleep (withReq stock modelReq)
def packReq : Req := { rq 1 [(24, 3), (28, 64)] with stage := .pack, busy := true, evid := [⟨1, 0, 0, 0, 0, 0⟩] }
def packUp : State := asleep (withReq stock packReq)
def asleepV : Version := { modelV with resident := false }

/-- Bytes put into basin 0's page 0, which lies in HBM. -/
def inHbm0 (s : State) (a : Nat) (bs : List Byte) : State := withDev s (fun d => { d with mem := { d.mem with hbm := Mem.writeL d.mem.hbm (0x100000 + a) bs } })
def inShore (s : State) (blk : Nat) (bs : List Byte) : State := withDev s (fun d => { d with mem := { d.mem with shore := Mem.writeL d.mem.shore (shoreAddr 0 blk 0) bs } })
def coreK : CoreSt := ⟨[], [], [], [], [], 0, 0, 0, [], [], [], [], .none, false⟩
/-- A running context of request slot 5 on core 2 of mere 1. -/
def ctxR : Ctx := ⟨9, 5, 0, 9, 0, false, false, 0x2000, .running, 1, [266], 0, 1, 4096, 0, 64, [], [], [], [], [], [], [], [coreK], none, none, true, false, false⟩
def withCtx (s : State) (c : Ctx) : State := withDev s (fun d => { d with jobs := { d.jobs with ctxs := [c] } })
/-- One list of two records at 0xA000, the list table at 0xB000; K 1 of capacity 2, output at 0xC000, header at 0xD000. -/
def sortBytes : List Byte := mk 64 [(0, 1), (4, 1), (12, 2), (17, 0xB0), (25, 0xC0), (33, 0xD0)]
def sortJob : SortCmd := ⟨3, 1, 0, none, some 9, 0, sortBytes, none, 0, 0, true⟩
def sortUp : State := withEng (withCtx (inHbm0 (inHbm0 stock 0xB000 (mk 16 [(1, 0xA0), (8, 2)])) 0xA000 (mk 32 [(3, 0x40), (4, 7), (16, 0), (20, 9)])) ctxR) (fun e => { e with sorts := [sortJob] })
def sortD0 : Dev := sortUp.dev
def sortXs : List SRec := match listsFrom sortD0 0 0xB000 1 0 [] with | .recs xs => xs | _ => []
def sortD : Dev :=
  let o := sortRun sortXs 1 false false false false 0
  (((vWrite sortD0 0 0xC000 (o.recs.flatMap recBytes)).bind (fun d => vWrite d 0 0xD000 o.header)).get?).getD sortD0
def sortNinth : SortCmd := { sortJob with id := 20, running := false }
def sortFull : State := withEng sortUp (fun e => { e with sorts := (List.range 8).map (fun i => { sortJob with id := 10 + i }) ++ [sortNinth] })
def selReq : Req := { rq 2 [(24, 3), (28, 64), (36, 2)] with stage := .select, busy := true, evid := [⟨5, 0, 0x3F800000, 0, 0, 0⟩, ⟨2, 0, 0x40000000, 0, 1, 0⟩] }
def selCmd : SortCmd := ⟨4, 0, 0, some 5, none, 0, [], none, 0, 0, true⟩
def selUp : State := withEng (withReq stock selReq) (fun e => { e with sorts := [selCmd] })
def selTight : Req := { selReq with desc := descOf 2 [(24, 3), (28, 32), (36, 2)] }
def selTightUp : State := withEng (withReq stock selTight) (fun e => { e with sorts := [selCmd] })
def strm : Stream := ⟨2, [1, 0, 1], 0, [], 0, none, [], 0, 1, 0, 0, 0, true, []⟩
def preReq : Req := { rq 5 [(24, 3), (28, 64), (36, 4)] with stage := .prefill, stream := some strm }
def preUp : State := withReq stock preReq
def preBusy : Req := { preReq with busy := true }
def prePass : Pass := ⟨7, 2, .prefill, [5], [[]], [2], 1, 0, 0, [], [], []⟩
def preEnd : State := withEng (withReq stock preBusy) (fun e => { e with passes := [prePass], nextId := 8 })
def decStrm : Stream := { strm with fed := 2 }
def decReq : Req := { preReq with stage := .decode, stream := some decStrm }
def decBusy : Req := { decReq with busy := true }
def decPass : Pass := { prePass with kind := .decode, counts := [1] }
def decEnd : State := withEng (withReq stock decBusy) (fun e => { e with passes := [decPass], nextId := 8 })
def h0 : Handle := ⟨3, 0, 0, .idle, false, false, [], false, [1], 1, 2, 7, 5, 6, 0, none, 1, 1, 0, none, []⟩
def withH (s : State) (h : Handle) : State := withDev s (fun d => { d with eng := { d.eng with handles := [h] } })
def hMoving : Handle := { h0 with moving := true, poolPages := 1 }
def hHeld : Handle := { h0 with st := .held, holds := [5] }
def hParked : Handle := { h0 with st := .parked, inPool := true, hbmPages := 0, poolPages := 1, expiry := some 500 }
def hBack : Handle := { hParked with moving := true }
def hHeldOut : Handle := { hParked with st := .held, holds := [5] }
def gathReq : Req := { rq 9 [(2, 1), (16, 2), (20, 24), (24, 3), (28, 64)] with stage := .tableCmd, pins := { (rq 9 []).pins with tables := [4] } }
def gathHdr : List Byte := mk 16 [(0, 2), (4, 4)]
def gathIn : List Byte := gathHdr ++ mk 8 [(0, 1), (4, 3)]
def gath0 : GathCmd := ⟨6, 0, some 5, none, 0, [], none, true, false, 4, .queued, 1, [], 0, 0, 0⟩
def gathBase : State := inHbm0 (inShore (withReq stock gathReq) 2 gathIn) 0x8000 (mk 16 [(4, 0x11), (12, 0x33)])
def gathUp : State := withEng gathBase (fun e => { e with gaths := [gath0] })
def gathRows : List (Nat × List Byte) := (gatherLoop gathUp.dev (reqGath gathUp.dev gath0 gathReq tableV gathHdr) none (some 12) 2 0 []).1
def sumQueued : GathCmd := { gath0 with id := 5, merge := true, phase := .summed, seq := 0 }
def gathBehind : State := withEng gathBase (fun e => { e with gaths := [sumQueued, gath0] })
/-- A SCATTER_MERGE that adds 1.0 to row 1 and 2.0 to row 3. -/
def mergeReq : Req := { rq 10 [(2, 1), (16, 2), (20, 88)] with stage := .tableCmd, pins := { (rq 9 []).pins with tables := [4] } }
def mergeIn : List Byte := gathHdr ++ mk 64 [(0, 1), (4, 3)] ++ mk 8 [(2, 0x80), (3, 0x3F), (7, 0x40)]
def merge0 : GathCmd := { gath0 with merge := true }
def mergeUp : State := withEng (inShore (withReq stock mergeReq) 2 mergeIn) (fun e => { e with gaths := [merge0] })
def mergeSums : List (Nat × List W32) := (mergeSum mergeUp.dev (reqGath mergeUp.dev merge0 mergeReq tableV gathHdr)).2.2
def mergeD : Dev := (mergeSum mergeUp.dev (reqGath mergeUp.dev merge0 mergeReq tableV gathHdr)).1
def mergeSummed : GathCmd := summedGath tableV 2 (mergeSums.take 1) merge0
def applyUp : State := withEng mergeUp (fun e => { e with gaths := [mergeSummed] })
def applyBehind : State := withEng mergeUp (fun e => { e with gaths := [sumQueued, mergeSummed] })
def applied : Dev × Nat × Option GStop := applyLoop (reqGath applyUp.dev mergeSummed mergeReq tableV gathHdr) none none applyUp.dev mergeSummed.sums 0
def cmdBytes : List Byte := mk 64 [(0, 1), (1, 4), (8, 2), (17, 0xA0), (25, 0xB0), (33, 0xC0)]
def cmdReq : Req := { rq 11 [(57, 0x20)] with pins := { (rq 9 []).pins with tables := [4] } }
def gathJob : GathCmd := ⟨6, 0, none, some 9, 0, cmdBytes, none, false, false, 0, .queued, 0, [], 0, 0, 0⟩
def cmdUp : State := withEng (withCtx (withReq stock cmdReq) ctxR) (fun e => { e with gaths := [gathJob] })
def cmdTaken : GathCmd := { gathJob with valid := true }
def cmdDone : State := withEng cmdUp (fun e => { e with gaths := [cmdTaken] })

/-- A bundle whose one slot is the given S slot, at PC 0x1000 in a code frame. -/
def sWord (sl : Nat) : Nat := 1 + sl * 65536
def codeCore (sl : Nat) : CoreSt := { coreK with x := [(1, 7), (2, 5)], pc := 0x1000, frames := [(1, ⟨true, false, true, some (0, 0)⟩)], tarn := Mem.writeL [] 0x1000 (natLe 32 (sWord sl)) }
/-- SUB x3, x1, x2: opcode 2, rd 3, rs1 1, rs2 2. -/
def subSlot : Nat := 2 + 3 * 256 + 1 * 8192 + 2 * 262144
def codeCtx (sl : Nat) : Ctx := { ctxR with cores := [codeCore sl] }
def coreUp (c : Ctx) : State := withCtx (withReq stock (rq 11 [(57, 0x20)])) c
def drawX : Xfer := ⟨2, true, 1, [(16, 0x2000, 8)], false, false, false, [], [], [], false, 0, 266, 0, []⟩
def drawCore : CoreSt := { coreK with xfers := [drawX] }
def drawCtx : Ctx := { ctxR with dbuf := Mem.writeL [] 16 [1, 2, 3, 4, 5, 6, 7, 8], cores := [drawCore] }
def earlyX : Xfer := { drawX with id := 1, pieces := [(64, 0x2000, 8)] }
def waitCore : CoreSt := { coreK with xfers := [earlyX, drawX] }
def waitCtx : Ctx := { drawCtx with cores := [waitCore] }
def retX : Xfer := ⟨2, false, 1, [(32, 0x2000, 4)], false, false, false, [9, 8, 7, 6], [], [], false, 0, 266, 0, []⟩
def retCore : CoreSt := { coreK with xfers := [retX] }
def retCtx : Ctx := { ctxR with cores := [retCore] }
def retEarly : Xfer := { retX with id := 1, data := [1, 1, 1, 1] }
def retWait : CoreSt := { coreK with xfers := [retEarly, retX] }
def retWaitCtx : Ctx := { ctxR with cores := [retWait] }
/-- TFILL of accumulator 0 with 5. -/
def tfill (started : Bool) : TileOp := ⟨1, 1 + 5 * 2 ^ 32, 0, 0, 0, 0, [], started, 0⟩
def tileCore (b : Bool) : CoreSt := { coreK with tiles := [tfill b] }
def tileCtx (b : Bool) : Ctx := { ctxR with cores := [tileCore b] }
def pipeCtx : Ctx := { ctxR with pipe := true, phase := .queued, place := [], joined := true, cores := [] }
def lateCtx : Ctx := { pipeCtx with id := 10, set := 10 }
def schedUp : State := withDev (withReq stock (rq 11 [(57, 0x20)])) (fun d => { d with jobs := { d.jobs with ctxs := [pipeCtx, lateCtx] } })
def pickOf (id : Nat) : SchedPick := ⟨id, [[270]], []⟩
def saving : Ctx := { ctxR with pipe := true, phase := .saving, cores := [] }
def savingTile : Ctx := { ctxR with phase := .saving, cores := [tileCore true] }
def fwp1Out : State := withDev stock (fun d => { setLiveN d .fwp 1 0x100 3 with jobs := { d.jobs with ctxs := [saving] } })
def endedCore : CoreSt := { coreK with ended := true, outLen := 12 }
def endedCtx : Ctx := { ctxR with cores := [endedCore] }
def jobReq : Req := { rq 11 [(57, 0x20)] with stage := .job }
def endedUp : State := withCtx (withReq stock jobReq) endedCtx

def actBytes (kind af : Nat) (sel target value mask : Nat) : List Byte :=
  natLe 1 kind ++ natLe 1 af ++ [0, 0] ++ natLe 4 sel ++ natLe 8 target ++ natLe 8 value ++ natLe 8 mask
def listOf (acts : List (List Byte)) : List Byte := natLe 2 acts.length ++ List.replicate 30 0 ++ acts.flatten
/-- A whole template record: one question segment. -/
def newTmpl : List Byte := mk 64 [(0, 0x54), (1, 0x4D), (2, 0x50), (3, 0x4C), (4, 1), (6, 1), (16, 2)]
/-- Switch template slot 0 to the descriptor at 0x3000. -/
def switchList : List Byte := listOf [actBytes 4 0 5 0x3000 0 0]
/-- A guard that template slot 0 has version number n. -/
def guardList (n : Nat) : List Byte := listOf [actBytes 6 3 5 0 n 0xFF]
def txnReq (l : List Byte) : Req := rq 12 [(16, 2), (20, l.length)]
def txnUp (l : List Byte) : State := withDev (inHbm0 (inShore (withReq stock (txnReq l)) 2 l) 0x3000 newTmpl)
  (fun d => { d with txn := { d.txn with waiting := [5], last := 6 }, host := { d.host with held := [⟨0, 2, 5, 0, false, false, false, false, []⟩] } })
def startRes (l : List Byte) : Except (Nat × Nat) State := stepThree (txnCx (txnUp l).dev (txnReq l) (inBytes (txnUp l).dev (txnReq l)) []) (txnUp l)
def okOf (x : Except (Nat × Nat) State) : State := match x with | .ok t => t | .error _ => State.reset
def runReq (l : List Byte) : Req := { txnReq l with stage := .txnRun, busy := true }
def activeUp (l : List Byte) : State := withDev (inHbm0 (inShore (withReq stock (runReq l)) 2 l) 0x3000 newTmpl)
  (fun d => { d with txn := { d.txn with active := [⟨5, l⟩], last := 6 } })
def commitCx (l : List Byte) : TxnCx := { txnCx (activeUp l).dev (runReq l) l [] with badPayload := fun _ _ => false }
def flushedUp (l : List Byte) : State := { activeUp l with dev := flushNew (activeUp l).dev (newExtents (commitCx l) (activeUp l)) }
def fullTxn : State := withDev (txnUp switchList) (fun d => { d with txn := { d.txn with active := (List.range 8).map (fun i => ⟨i + 10, []⟩) } })
def lockedTxn : State := withDev (txnUp switchList) (fun d => { d with txn := { d.txn with active := [⟨10, switchList⟩] } })
def oldV : Version := { tableV with superseded := some 5, keepUntil := 100 }
def oldUp : State := withDev stock (fun d => { d with txn := { d.txn with versions := [profV, modelV, indexV, oldV, tmplV] } })
def pinnedUp : State := withReq oldUp gathReq
def basin1 (st : Nat) : State := withDev stock (fun d => setLiveN d .bsn 1 0x100 st)
def silent1 : State := withDev (basin1 1) (fun d => { d with host := { d.host with numVFs := 3, comps := [⟨1,1,none,noTag,77,0,0,0,0,0,0⟩], held := [⟨1,3,9,9,true,false,false,false,[]⟩] } })
def noVfs : State := withDev (basin1 1) (fun d => { d with host := { d.host with numVFs := 0, ari := false } })
/-! flash -/
def ldUp (op : Nat) : State := withDev stock (fun d => setLiveN (setLiveN (setLiveN d .flc 0 0x100 op) .flc 0 0x108 0x2000) .flc 0 0x10C 0)
def trimCmd (early : Nat) : LoadCmd := ⟨5, 0, 0, 8192, 3, early, []⟩
def trimUp (early : Nat) : State := withDev stock (fun d => { d with flash := { d.flash with load := some (trimCmd early) }, mem := { d.mem with flash := Mem.writeL d.mem.flash 12290 [5, 6], alloc := [(0, 3), (0, 4)], dirty := [(0, 4), (1, 9)], wcache := Mem.writeL d.mem.wcache 16385 [9] } })
def ldArmed : State := withDev (ldUp 6) (fun d => armPage d (pageNo .flc 0) [])
/-- A model whose weight image takes the sectors from 3 on. -/
def claimV : Version := { modelV with uid := 8, desc := setAt (setAt modelV.desc 48 (3 : Byte)) 57 (0x20 : Byte) }
def trimClaimed : State := withDev (trimUp 0) (fun d => { d with txn := { d.txn with versions := d.txn.versions ++ [claimV] } })
def fwpOut (n : Nat) (s : State) : State := withDev s (fun d => setLiveN d .fwp n 0x100 2)
def rowUp : State := withEng stock (fun e => { e with rowCache := [(4, 2, true)], rowWrites := [(4, 2)] })
def loadV : Version := { modelV with resident := false, loading := true }
def wantV : Version := { modelV with resident := false }
def withModel (s : State) (v : Version) : State := withDev s (fun d => { d with txn := { d.txn with versions := [profV, v, indexV, tableV, tmplV] } })
def weirPass : Pass := { prePass with landed := 0, written := 1 }
def weirUp : State := withEng stock (fun e => { e with passes := [weirPass], prefetch := [(1, 2, 1, 50, 0)] })
def startPass : Pass := { prePass with landed := 0, written := 0 }
def weirStart : State := withEng stock (fun e => { e with passes := [startPass] })
def weirArmed : State := withDev weirStart (fun d => armPage d (pageNo .weir 2) [])
def flashUp : State := withDev stock (fun d => { setLiveN d .flc 0 0x28 0 with mem := { d.mem with flash := Mem.writeL d.mem.flash 12290 [5, 6], alloc := [(0, 3)] } })
def unreadUp : State := withDev flashUp (fun d => { d with mem := { d.mem with unreadable := [(0, 3)] } })
/-- The sector's die is dead and not relocated. -/
def deadSector : State := withDev flashUp (fun d => setDie d (sectorDie d 0 3) ⟨2, 1, 0⟩)
def dieUp (n : Nat) (x : Die) : State := withDev stock (fun d => setDie d n x)

def evt : LogEvent := ⟨1, 0, 77, 2, 0, 0x1234, 1, 0, 0⟩
/-- The log: enabled, one block (1,024 records) at block 512, the tail at t, the head at h. -/
def logUp (t h : Nat) : State := withDev stock (fun d => { setLiveN (setLiveN (setLiveN d .errlog 0 0x100 (0x80010000 + 512)) .errlog 0 0x108 t) .errlog 0 0x104 h with log := { d.log with events := [evt] } })
def logOff : State := withDev (logUp 3 0) (fun d => setLiveN d .errlog 0 0x100 0)
def coalOf (n : Nat) : LogCoal := ⟨1, 2, 30, n, evt⟩
def coalUp (n : Nat) : State := withDev (logUp 3 0) (fun d => { d with log := { d.log with coal := [coalOf n] } })
def fenced5 : State := withDev stock (fun d => { d with jobs := { d.jobs with quarantined := [269], coreReset := [269] } })
def savingUp : State := withCtx stock { ctxR with phase := .saving, place := [269] }
/-- Grid position 6 of mere 1 has no core; core 260 of the mere is a free spare. -/
def spareUp : State := withDev stock (fun d => setLiveN d .core (264 + 6) 0x104 0)
def askedUp : State := withDev spareUp (fun d => { d with jobs := { d.jobs with mapReq := [(264 + 260, 6)] } })

def logged : State := (extend (extend stock 12 5 0 0 0 0x1234) 3 2 1 0 0 0x77)
def fwBase (f : Dev → Dev) : State := withDev logged f
def restart1 : State := fwBase (fun d => { setLiveN d .fwp 4 0x100 1 with flash := { d.flash with restarts := [4] } })
def restart0 : State := fwBase (fun d => { setLiveN d .fwp 0 0x100 1 with flash := { d.flash with restarts := [4, 0] } })
def restartBad : State := withDev restart1 (fun d => { d with flash := { d.flash with images := SMap.set shipped d.flash.images (imageBase 0 4) 0 } })
def updating (res : Nat) : State := fwBase (fun d => { d with flash := { d.flash with update := some (2, 1, 128, 7, res) } })
/-- Power is off but for the Spring domain. -/
def cold : State := withDev stock (fun d => { d with power := { d.power with rails := .off, pwrEn := false, pwrGood := false, vin := true } })
def coldSoon : State := withDev cold (fun d => { d with power := { d.power with enFall := some 0 } })
def coldWaits : State := withDev coldSoon (fun d => { d with power := { d.power with riseWaits := true } })
def starting : State := withDev cold (fun d => { d with power := { d.power with rails := .starting, pwrEn := true } })
def railsUp : State := withDev cold (fun d => { d with power := { d.power with rails := .good, pwrEn := true } })
def bootable : State := withDev logged (fun d => { setLiveN d .rst 0 0x108 0 with power := { d.power with booting := true } })
def bootBad : State := withDev bootable (fun d => { d with flash := { d.flash with images := SMap.set shipped d.flash.images (imageBase 0 0) 0 } })
def inPerst : State := withDev stock (fun d => { d with power := { d.power with perst := true } })

def spdmReq (code : Nat) (n : Nat) (l : List (Nat × Nat)) : List Byte := mk n ((0, 0x12) :: (1, code) :: l)
def spdmAt (st fwp0 : Nat) : State := withDev logged (fun d => { setLiveN d .fwp 0 0x100 fwp0 with power := { d.power with spdmStep := st } })
def alertUp : State := withDev stock (fun d => setLiveN (setLiveN d .therm 0 0x28 0x10000) .therm 0 0x20 1)
/-- Mere 1's domain and the shore: state and floor. -/
def domUp (dom st floor : Nat) : State := withDev up (fun d => setLiveN (setLiveN d .pwr 0 0x118 (st * 4 ^ dom)) .pwr 0 (if dom = 4 then 0x110 else 0x100 + 4 * dom) floor)
def shoreL1 : State := withDev (domUp 4 1 2) (fun d => { d with power := { d.power with linkL1 := true } })
def s3Up : State := withDev (domUp 1 2 3) (fun d => { d with power := { d.power with s3 := [1] }, eng := { d.eng with prefetch := [(1, 2, 1, 0, 0), (2, 2, 1, 0, 0)] } })
def resumingUp : State := withDev (domUp 1 2 3) (fun d => { d with power := { d.power with resuming := [(1, 1)] } })
def deepAskedUp : State := withDev logged (fun d => { d with power := { d.power with deepAsked := true } })
def deepUp : State := withDev logged (fun d => { setLiveN d .spr 0 0x20 8 with power := { d.power with rails := .deep, pwrGood := false } })
/-- Wake entry 2: period 100, phase 40, lead 5, mere 1, pin. -/
def wakeUp : State := withDev up (fun d => setLiveN (setLiveN (setLiveN d .spr 0 0x220 40) .spr 0 0x228 100) .spr 0 0x22C (5 + 2 ^ 24 + 2 ^ 26 + 2 ^ 30))
/-- The three copies of the period of entry 2 all differ. -/
def wakeLostUp : State := withDev wakeUp (fun d => { d with regs := { d.regs with tmr := [⟨regA .spr 0 0x228, false, 1, 2⟩] } })
/-- The power page is armed. -/
def pwrArmed (s : State) : State := withDev s (fun d => armPage d (pageNo .pwr 0) [])
def heldUpS : State := withDev up (fun d => { d with power := { d.power with holds := [(2, 900, [1]), (3, 500, [])] } })
def lockUp : State := withDev up (fun d => { d with power := { d.power with relock := [1] } })
def sweep1 : Sweep := ⟨List.replicate 20 (some 30) ++ [some 110] ++ List.replicate 51 (some 30), List.replicate 12 (some 40), some 70, some 50⟩
def sweep2 : Sweep := ⟨List.replicate 72 none, [], none, some 50⟩
/-- This node is 3 of system 5; port 2 goes to node 7, state st, epoch 9. -/
def nodeUp (st : Nat) : State := withDev stock (fun d => setEpoch (setLink (setLiveN d .ndl 0 0x100 (5 * 65536 + 3)) 2 st 2 7) 2 9)
def frameOf' (typ seq dom key : Nat) (body : List Byte) : List Byte :=
  let h := frameHead typ 7 3 9 seq 0 dom key body
  h ++ natLe 4 (crc32 h)
def linkC : Ctx := { ctxR with link := some (4, 11, 7) }
def linkUp : State := withCtx (nodeUp 1) linkC
def downUp : State := withDev (nodeUp 0) (fun d => modPort d 2 (fun x => { x with downAt := some 0 }))
def heldFrames : State := withDev (nodeUp 1) (fun d => modPort d 2 (fun x => { x with held := [(1, [1]), (2, [2]), (3, [3])] }))
def poolUp (size : Nat) (lnk : Nat) : State := withDev stock (fun d => setLiveN (setLiveN d .fab 0 0x104 size) .fab 0 0x100 lnk)
def lostUp : State := withDev (poolUp 4 0) (fun d => { d with power := { d.power with cxlReleased := [0] } })
/-- Table rows in the pool: page 1 of basin 0 maps pool page 0, and row 2 of the table there is dirty. -/
def poolTab : Version := { tableV with desc := (mk 128 [(7, 3), (8, 4), (16, 4), (26, 1), (33, 0x90)]) }
def rowsUp : State := withDev (poolUp 4 1) (fun d => { d with txn := { d.txn with versions := [profV, modelV, indexV, poolTab, tmplV] }, mem := { d.mem with xlat := SMap.set (fun _ => 0) d.mem.xlat 0x4010040008 (w 0x7) }, eng := { d.eng with rowCache := [(4, 2, true)] } })

/-! Further operands and states, by the statement that they witness. -/
def f0 : Fire := ⟨2, [5], 0, false, 0⟩
def firingF : Fire := f0
def firingQueued : State := withDev firing (fun d => { d with regs := { d.regs with queued := [2] } })
def clkCtl : RegDef := (regAt .clk 0 0x100).getD { off := 0 }
def hbmBit : State := withDev up (fun d => setStat d .hbm 2 1)
def thermUp : State := withDev up (fun d => armPage (setStaged d (regA .therm 0 0x100) 5) 15 [])
def thermA : Arming := thermUp.dev.regs.armed.headD ⟨0, [], []⟩
def ringStaged : State := after (.regWrite 0 (regA .ring 0 0x208) 4 7 []) ringsUp
def armedRing : State := after (.apply 0 0 1) ringStaged
def offRing : State := withDev armedRing (fun d => setLiveN (setLiveN (setLiveN d .ring 0 0x20C 5) .ring 0 0x210 4) .ring 0 0x104 0)
def ringA : Arming := armedRing.dev.regs.armed.headD ⟨0, [], []⟩
def tailUp : State := after (.inTail 0 0 0 2) ringsUp
def comp0 : Comp := ⟨0, 1, some 5, 0x100005, 77, 0, 0, 10, 0, 1, 0⟩
def coal0 : Coal := ⟨0, 1, 1, 0⟩
def compUp : State := withDev tailUp (fun d => { d with host := { d.host with comps := [comp0], held := [⟨0, 3, 5, 9, true, false, false, false, []⟩], coal := [coal0] }, reqs := [{ req0 with ended := some 0 }] })
def compWrap : State := withDev compUp (fun d => setLiveN (setLiveN d .ring 0 0x428 (6 + 0x300 + 2 * 2 ^ 24)) .ring 0 0x430 63)
/-- The block is poisoned and its page not remapped. -/
def compPoison : State := withDev compUp (fun d => { d with host := { d.host with held := [⟨0, 3, 5, 9, true, true, false, false, []⟩] } })
def compOff : State := withDev compUp (fun d => setLiveN d .ring 0 0x104 0)
def fe (op : Nat) (l : List (Nat × Nat)) : Fetch := ⟨descOf op l, []⟩
/-- Profile slot 1 has no stages; tables may be merged and jobs run. -/
def profJob : Version := { ver 7 3 (mk 128 [(0, 0x11), (39, 0xFF), (46, 0xFF), (47, 0xFF)]) with slot := 1 }
def jobStock : State := withDev stock (fun d => { setLiveN d .bsn 0 0x104 6 with txn := { d.txn with versions := d.txn.versions ++ [profJob] } })
def handleUp : State := withH stock h0
def handleHeld : State := withH stock hHeld
def tgt : Req := { newReq stock.dev 0 0 6 1 (fe 1 [(1, 4)]) with awaiting := true }
def tgtBusy : Req := { tgt with busy := true }
def tgtQuiet : Req := { tgt with awaiting := false }
/-- A CONTINUE in slot 6 for slot 7. -/
def tgtCont : Req := newReq stock.dev 0 0 6 1 (fe 6 [(8, 7)])
def tgContUp : State := withReq stock tgtCont
def tgUp : State := withReq stock tgt
def tgBusyUp : State := withReq stock tgtBusy
def tgQuietUp : State := withReq stock tgtQuiet
def ctl (op : Nat) : Fetch := fe op [(8, 6), (10, 0x10)]
def oldFetch : Fetch := fe 8 [(8, 3)]
/-- The template's only segment is the passages'; nothing separates them. -/
def tmplP : Version := ver 5 5 (mk 64 [(6, 1), (16, 3)])
def packPassages : State := withDev packUp (fun d => { d with txn := { d.txn with versions := d.txn.versions.map (fun v => if v.uid = 5 then tmplP else v) } })
def noText (_ : Nat) : List Byte := []
def decDone : Req := (findReq (after (.passEnd ⟨7, []⟩) decEnd).dev 5).getD decBusy
def switchTxn : ActiveTxn := ⟨5, switchList⟩
def guardTxn : ActiveTxn := ⟨5, guardList 2⟩
def stepThreeAt (l : List Byte) : Except (Nat × Nat) State :=
  stepThree (commitCx l) (flushedUp l)
def switchDone : State := okOf (stepThreeAt switchList)
def ldBusy : State := withDev (ldUp 6) (fun d => { d with flash := { d.flash with load := some (trimCmd 0) } })
def loadUp : State := withModel stock loadV
def wantUp : State := withModel (withReq stock embBusy) wantV
def die63 : State := dieUp 7 ⟨0, 65535, 63⟩
def die64 : State := dieUp 7 ⟨2, 1, 64⟩
def dieQuar : State := withDev (dieUp 7 ⟨1, 1, 64⟩) (fun d => setLiveN d .flc 0 0x140 7)
def resetJob : State := withCtx fenced5 { ctxR with place := [269] }
def reqWaits : State := withReq logged req0
def basin5 : State := withDev logged (fun d => setLiveN d .bsn 5 0x100 1)
def wakeLate : State := withDev wakeUp (fun d => { d with now := 10 ^ 7 })
def wakeTick : Nat := (nextFire (wakeEntry wakeLate.dev 2) (sprNow wakeLate.dev)).getD 0
def badFrame : List Byte := setAt (frameOf' 0 1 0 0 []) 40 1
def shoreBusy : State := withReq shoreL1 req0
def genArmed : State := withDev decEnd (fun d => armPage d (pageNo .gen 0) [])
def genA : Arming := genArmed.dev.regs.armed.headD ⟨0, [], []⟩
def latchUp : State := withDev up (fun d => { d with now := 10 ^ 15, txn := { d.txn with last := 2 ^ 33 + 5 } })
/-- An active transaction writes CLK_MERE0. -/
def heldReg : State := withDev up (fun d => { d with txn := { d.txn with active := [⟨9, listOf [actBytes 1 0 0 (regA .clk 0 0x100) 500 0xFFFF]⟩] } })
def compReq : Req := { req0 with ended := some 0 }
def hwBit : HwSet := { bit := 3, basin := 0, tag := 0, d2 := 0, d3 := 0 }
def peer7 : Training := ⟨7, 5, 3, false⟩
def peer3 : Training := ⟨3, 5, 3, true⟩
def code2 : Nat × Nat := (2, 0)
def code3 : Nat × Nat := (3, 0)

/-! Those of the further clauses. -/
/-- The three copies of a register all differ in the field at bit n. -/
def differ (a n : Nat) (d : Dev) : Dev :=
  { d with regs := { d.regs with tmr := [⟨a, false, live d a ^^^ BitVec.ofNat 32 (2 ^ n), live d a ^^^ BitVec.ofNat 32 (2 ^ (n + 1))⟩] } }
/-- MEAS_EXT_DATA. -/
def extWord : RegDef := (regAt .meas 0 0x180).getD { off := 0 }
def selTie : Req := { selReq with evid := (List.range 5).map (fun i => ⟨i, 0, 0x40000000, 0, 0, 0⟩) }
def selShort : Req := { selReq with evid := [⟨5, 0, 0x3F800000, 0, 0, 0⟩] }
def selShortUp : State := withEng (withReq stock selShort) (fun e => { e with sorts := [selCmd] })
def selTieUp : State := withEng (withReq stock selTie) (fun e => { e with sorts := [selCmd] })
/-- A window of 2^40 bytes. -/
def wideV : Version := { modelV with desc := setAt modelV.desc 26 (1 : Byte), slotSizes := [2 ^ 40, 0, 0, 0] }
def lateStrm : Stream := { strm with ready := 5 }
def lateReq : Req := { preReq with stream := some lateStrm }
/-- The stream of slot 6 has been ready for longer, and its pass waits at the weir. -/
def weirQueue : State := withEng (withReq (withReq stock lateReq) { preReq with slot := 6 }) (fun e => { e with weirWait := [6] })
def retOld : Xfer := { retX with epoch := 5 }
def retOldCore : CoreSt := { coreK with xfers := [retOld] }
def retOldCtx : Ctx := { ctxR with cores := [retOldCore] }
/-- The request of the context is due to end. -/
def stopUp (c : Ctx) : State := withCtx (withReq stock { (rq 11 [(57, 0x20)]) with due := [0x11] }) c
/-- The job pool of mere 0 is 16 MiB. -/
def bigPool (r : Req) : State := withDev (withReq stock r) (fun d => setLiveN d .dbuf 0 0x100 15)
def writeCmd : LoadCmd := ⟨1, 0, 2, 4096, 3, 0, []⟩
def writeUp : State := withDev (inShore stock 2 [5, 6, 7]) (fun d => { d with flash := { d.flash with load := some writeCmd } })
def erasedUp : State := withDev flashUp (fun d => { d with flash := { d.flash with erased := [(0, 3)] } })
def heldRow : State := withEng rowUp (fun e => { e with rowsHeld := [(4, 2)] })
/-- Page 0x10 of a stack has two corrected words, a spare remains there, and a handle keeps its store in the page. -/
def remapIn (st : Nat) (kv : List Nat) : State := withDev (withH stock { h0 with kv := kv }) (fun d =>
  let d := setLiveN (setLiveN d .hbm st 0x200 0x20000) .hbm st 0x210 4
  { d with mem := { d.mem with suspect := [(0x38000 * st + 0x10, 0, false), (0x38000 * st + 0x10, 5, false)] } })
def relockUp : State := withDev stock (fun d => { d with power := { d.power with relock := [1] } })
def relockFenced : State := withDev fenced5 (fun d => { d with power := { d.power with relock := [1] } })
def fullLog : State := { logged with meas := { logged.meas with log := List.replicate 4096 [] } }
def fwpLost : State := withDev logged (differ (regA .fwp 4 0x104) 0)
def coldDark : State := withDev cold (fun d => { d with power := { d.power with vin := false } })
/-- One request, which holds nothing, with its outlet ring enabled. -/
def oneReq : Req := newReq ringsUp.dev 0 0 5 1 ⟨descOf 3 [], []⟩
def resetOne : State := withReq ringsUp oneReq
def bootNew : State := { bootable with meas := ⟨[], [], []⟩ }
/-- Core 5 of mere 1 is OFFLINE. -/
def offCore : State := withDev logged (fun d => setLiveN d .core (264 + 5) 0x10 1)
def smbBoot : State := withDev logged (fun d => { d with power := { d.power with booting := true } })
def s3Rows : State := withDev s3Up (fun d => { d with txn := rowsUp.dev.txn, mem := rowsUp.dev.mem, eng := { d.eng with rowCache := [(4, 2, true)], rowsHeld := [(4, 2)] } })
def deepRows : State := withDev deepAskedUp (fun d => { d with power := { d.power with resuming := [(1, 0)] } })
def sprArmed : State := withDev wakeUp (fun d => armPage d (pageNo .spr 0) [])
def wakeAsleep : State := withDev wakeUp (fun d => setLiveN d .pwr 0 0x118 (1 * 4 ^ 4))
def cxlUp : State := withDev (poolUp 4 0) (fun d => setLiveN d .fab 0 0x100 (256 + 16))
def rowsDown : State := withDev rowsUp (fun d => setLiveN d .fab 0 0x100 0)
def epochLostUp (st : Nat) : State := withDev (nodeUp st) (differ (regA .ndl 2 0x104) 16)

end Sys2Proof.Tests
end

