-- ==== Sys2Proof/WellFormed.lean ====
section
/-! DEFINITION. Well-formed commands: the ranges that the spec gives a command's operands. An ill-formed term names something
that the block does not have. -/

namespace Sys2Proof

namespace Wf

/-- A function: PF0 or VF 1 to 63 (R38, R99). -/
def fn (n : Nat) : Bool := decide (n < 64)

/-- A basin (R38). -/
def basin (n : Nat) : Bool := decide (n < 64)

/-- A ring of a basin (R69). -/
def ring (n : Nat) : Bool := decide (n < 16)

/-- A tag slot (R14). -/
def slot (n : Nat) : Bool := decide (n < 2 ^ 20)

/-- A mere. -/
def mere (n : Nat) : Bool := decide (n < 4)

/-- A core of a mere (Table 4-1). -/
def core (n : Nat) : Bool := decide (n < 264)

/-- A power domain: a mere or the shore (R414). -/
def domain (n : Nat) : Bool := decide (n < 5)

/-- An Ndelar port (R451). -/
def port (n : Nat) : Bool := decide (n < 8)

/-- A pool port (R447). -/
def pool (n : Nat) : Bool := decide (n < 2)

/-- A firmware processor (R435). -/
def fwp (n : Nat) : Bool := decide (n < 6)

/-- A flash die (R379). -/
def die (n : Nat) : Bool := decide (n < 256)

/-- A wake-table entry (R423). -/
def wake (n : Nat) : Bool := decide (n < 32)

/-- A ripple group (R107). -/
def group (n : Nat) : Bool := decide (n < 16)

/-- An erroneous word is 8 bytes at its place, with some bit in error (R388, Table 17-1). -/
def readError (e : ReadError) : Bool :=
  (decide (0 < e.bits) || e.path.isSome) && (match e.place with
    | .hbm a => decide (a % 8 = 0 ∧ a < 0x2A00000000)
    | .tarn o => decide (o % 8 = 0 ∧ o < 393216)
    | .dbuf o => decide (o % 8 = 0)
    | .shore o => decide (o % 8 = 0 ∧ o < 2 ^ 26)
    | .node i o => decide (i < 2 ^ 32 ∧ o % 8 = 0 ∧ o < 1024)
    | .cache o => decide (o % 8 = 0)
    | .save _ o => decide (o % 8 = 0)
    | .work s _ o => decide (s < 2 ^ 20 ∧ o % 8 = 0))

/-- Words that a command's reads meet in error. -/
def reads (r : Reads) : Bool := r.errs.all readError

/-- A place that an access of a firmware processor names. -/
def fwPlace : FwPlace → Bool
  | .memory n => decide (n < 6)
  | .mailbox f t => decide (f < 6 ∧ t < 6 ∧ f ≠ t)
  | .page p => decide (p < 2 ^ 14)
  | _ => true

/-- A debugger names a register of a core (Table 13-1), and bytes of a tarn. -/
def debugReg : DebugReg → Bool
  | .x n => decide (n < 32)
  | .v n => decide (n < 32)
  | .p n => decide (n < 8)
  | .t n => decide (n < 8)
  | .acc a n => decide (a < 2 ∧ n < 1024)
  | .pc => true

def debug : DebugOp → Bool
  | .start pc => decide (pc < 2 ^ 19)
  | .read r => debugReg r
  | .write r _ => debugReg r
  | .readTarn a n => decide (a + n ≤ 393216)
  | .writeTarn a v => decide (a + v.length ≤ 393216)
  | _ => true

/-- A page of BAR0, by number: BAR0 has 64 MiB of 4 KiB pages (Table 4-1). -/
def page (n : Nat) : Bool := decide (n < 2 ^ 14)

/-- A BAR0 access: 4 bytes at a multiple of 4, or 8 at a multiple of 8 (R102). -/
def access (off size : Nat) : Bool := (decide (size = 4) && decide (off % 4 = 0)) || (decide (size = 8) && decide (off % 8 = 0))

/-- A read in a page: 1, 2, 4 or 8 bytes inside it. Which of them have a defined access R102 says. -/
def read (off size : Nat) : Bool := decide (off + size ≤ 4096 ∧ (size = 1 ∨ size = 2 ∨ size = 4 ∨ size = 8))

/-- A fetched descriptor: 64 bytes (R69). -/
def fetch (f : Fetch) : Bool := decide (f.desc.length = 64) && decide (f.flags.length ≤ 2048)

/-- An Ndelar frame: 256 bytes (Table 20-5). -/
def frame (f : Frame) : Bool := decide (f.bytes.length = 256)

/-- A unit that holds an epoch (R402). -/
def unit : UnitId → Bool
  | .core m c => mere m && core c
  | .die d => die d
  | .fwp n => fwp n
  | .link p => port p

/-- What wakes the module in S4 (Table 18-6). -/
def source : WakeSource → Bool
  | .entry e => wake e
  | .pin => true
  | .mctp => true

/-- Status events of one cycle name status bits (R9, R121). -/
def events (hw : List HwSet) : Bool := hw.all (fun h => decide (h.bit < 32) && basin h.basin)

/-- Readings of 72 die sensors and 12 stacks (R478). -/
def sweep (r : Sweep) : Bool := decide (r.die.length = 72) && decide (r.stack.length = 12)

/-- The physical cores that a scheduler's choice names (R353). -/
def pick (p : SchedPick) : Bool := p.place.all (fun cs => cs.all (fun i => decide (i < 1056))) && p.errs.all readError

end Wf

/-- Every operand names something that the block has. -/
def Instr.wellFormed : Instr → Bool
  | .inTail f b r _ => Wf.fn f && Wf.basin b && Wf.ring r
  | .outHead f b r _ => Wf.fn f && Wf.basin b && Wf.ring r
  | .ringEnable f b _ => Wf.fn f && Wf.basin b
  | .apply f b _ => Wf.fn f && Wf.basin b
  | .ringApply b => Wf.basin b
  | .bar2Write f o bs => Wf.fn f && decide (o % 4096 + bs.length ≤ 4096 ∧ 0 < bs.length ∧ o + bs.length ≤ 2 ^ 26)
  | .regWrite f o z _ hw => Wf.fn f && Wf.access o z && Wf.events hw
  | .blkStatRc f r hw => Wf.fn f && Wf.page r.page && Wf.read r.off r.size && Wf.events hw
  | .txnLastLo r => Wf.fn r.fn && Wf.read r.off r.size
  | .sprNowLo r => Wf.fn r.fn && Wf.read r.off r.size
  | .measSel f _ => Wf.fn f
  | .measLogSel f _ => Wf.fn f
  | .thermPeak f _ => Wf.fn f
  | .rippleTmo f _ => Wf.fn f
  | .rippleFire f _ => Wf.fn f
  | .blockApply p => Wf.page p
  | .rippleSlow g l => Wf.group g && Wf.page l
  | .tmrScrub fs => fs.all (fun x => decide (x.copy < 3 ∧ x.off % 4 = 0 ∧ x.die < 256))
  | .descriptorFetchFail b r => Wf.basin b && Wf.ring r
  | .dmaWriteFail b r => Wf.basin b && Wf.ring r
  | .undefinedOpcode f s => Wf.fetch f && Wf.slot s
  | .query f s => Wf.fetch f && Wf.slot s
  | .search f s => Wf.fetch f && Wf.slot s
  | .embed f s => Wf.fetch f && Wf.slot s
  | .rerank f s => Wf.fetch f && Wf.slot s
  | .generate f s => Wf.fetch f && Wf.slot s
  | .continue f s => Wf.fetch f && Wf.slot s
  | .park f s => Wf.fetch f && Wf.slot s
  | .releaseHandle f s => Wf.fetch f && Wf.slot s
  | .gather f s => Wf.fetch f && Wf.slot s
  | .scatterMerge f s => Wf.fetch f && Wf.slot s
  | .runJob f s => Wf.fetch f && Wf.slot s
  | .txn f s => Wf.fetch f && Wf.slot s
  | .cancel f s => Wf.fetch f && Wf.slot s
  | .completionWrite b r => Wf.basin b && Wf.ring r
  | .coalUs b r => Wf.basin b && Wf.ring r
  | .inputIdle s => Wf.slot s
  | .inputTimeout s => Wf.slot s
  | .cutPiece s es => Wf.slot s && es.all Wf.readError
  | .stageJobDone r => Wf.slot r.id && Wf.reads r
  | .walkerContextGrant s => Wf.slot s
  | .distanceTableBuild r => Wf.slot r.id && Wf.reads r
  | .expansion s => Wf.slot s
  | .nodeReadArrival s es => Wf.slot s && es.all Wf.readError
  | .readBudgetExpiry s n => Wf.slot s && decide (n < 2 ^ 32)
  | .searchDeadline s => Wf.slot s
  | .sortCommand r => Wf.reads r
  | .flashReadDone b s _ => decide (b ≤ 64 ∧ s < 2 ^ 32)
  | .rerankDeadline s => Wf.slot s
  | .pack r => Wf.slot r.id && Wf.reads r
  | .modelDeadline s => Wf.slot s
  | .passStart m ss => Wf.mere m && ss.all Wf.slot && decide (ss.length ≤ 256)
  | .passEnd r => Wf.reads r
  | .handleParkIdle h => Wf.slot h
  | .handleParkDone r => Wf.slot r.id && Wf.reads r
  | .parkWriteFail h => Wf.slot h
  | .handleUnparkDone r => Wf.slot r.id && Wf.reads r
  | .handleTtlExpiry h => Wf.slot h
  | .txnStart es => es.all Wf.readError
  | .txnCommit s _ => Wf.slot s
  | .basinZeroDone n => Wf.basin n
  | .versionRetire _ _ => true
  | .flrVf n => Wf.fn n && decide (0 < n)
  | .flrPf0 => true
  | .numvfsLower n => Wf.fn n && decide (0 < n)
  | .gathCommand _ => true
  | .gatherRead _ es => es.all Wf.readError
  | .mergeSumDone _ es => es.all Wf.readError
  | .mergeApply r => Wf.reads r
  | .bundle _ c es => decide (c < 264) && es.all Wf.readError
  | .drawLands _ c _ es _ => decide (c < 264) && es.all Wf.readError
  | .returnCompletes _ c _ _ => decide (c < 264)
  | .tileOpStart _ c => decide (c < 264)
  | .tileOpEnd _ r => decide (r.id < 264) && Wf.reads r
  | .jobIssue s => Wf.slot s
  | .schedulingTick m p => Wf.mere m && Wf.pick p
  | .saveDone _ => true
  | .contextEnd _ => true
  | .heartbeat m b => Wf.mere m && decide (b.core ≤ 264)
  | .hbLost m c => Wf.mere m && decide (c ≤ 264)
  | .preemptStopTimeout m c => Wf.mere m && Wf.core c
  | .stale u e => Wf.unit u && decide (e < 2 ^ 16)
  | .mereHeartbeatLoss m => Wf.mere m
  | .spared m c g => Wf.mere m && Wf.core c && decide (g < 256)
  | .mereMap f m _ => Wf.fn f && Wf.mere m
  | .mereReadmit f m _ => Wf.fn f && Wf.mere m
  | .rstCore f _ => Wf.fn f
  | .layerLanded _ _ => true
  | .weirLayerWrite _ r => Wf.reads r
  | .prefetchDrop m => Wf.mere m
  | .modelLoadStart _ => true
  | .modelLoadDone _ => true
  | .loadFail _ _ => true
  | .writeBack _ _ _ => true
  | .hbmScrub k ws => decide (k < 12) && ws.all (fun w => decide (w.addr % 8 = 0 ∧ 0 < w.bits))
  | .pageRemap _ _ => true
  | .errlogRecord => true
  | .errlogCeMs k _ => decide (k < 256)
  | .errlogHead f _ => Wf.fn f
  | .flashWrite f r => Wf.fn f && r.errs.all Wf.readError
  | .flashRead f _ => Wf.fn f
  | .copyIn f r => Wf.fn f && r.errs.all Wf.readError
  | .copyOut f r => Wf.fn f && r.errs.all Wf.readError
  | .trim f => Wf.fn f
  | .flush f => Wf.fn f
  | .ldDone => true
  | .flashDieTimeout d => Wf.die d
  | .dieRelocated d => Wf.die d
  | .flcDieReadmit f _ => Wf.fn f
  | .autoPowerEntry d => Wf.domain d
  | .s3Entry m => Wf.mere m
  | .demandWake d => Wf.domain d
  | .domainResumed d => Wf.domain d
  | .pwrDeep f _ => Wf.fn f
  | .deepEntry => true
  | .deepExit x => Wf.source x
  | .wakeFire e => Wf.wake e
  | .wakeHoldExpiry => true
  | .wakePinEnd e => Wf.wake e
  | .pinIn => true
  | .xtalFail => true
  | .pllRelock m => Wf.mere m
  | .powerOnReset => true
  | .pwrEnRise => true
  | .railsGood => true
  | .pwrGoodRise => true
  | .pwrGoodLow => true
  | .pwrEnFall => true
  | .perstAssert => true
  | .perstDeassert => true
  | .deviceReset f _ => Wf.fn f
  | .boot => true
  | .watchdogExpiry n => Wf.fwp n
  | .restart f n _ => Wf.fn f && Wf.fwp n
  | .fwpRestartDone n => Wf.fwp n
  | .prot n _ place a => Wf.fwp n && Wf.fwPlace place && decide (a < 2 ^ 64)
  | .measExtGo f _ => Wf.fn f
  | .fwpUpdGo f _ _ => Wf.fn f
  | .getVersion _ _ => true
  | .getCapabilities _ _ => true
  | .negotiateAlgorithms _ _ => true
  | .getDigests _ _ => true
  | .getCertificate _ _ => true
  | .challenge _ _ => true
  | .getMeasurements _ _ => true
  | .spdmUnsupported _ _ => true
  | .setEndpointId _ => true
  | .mctpOther _ => true
  | .smbusTimeout => true
  | .alertResponse => true
  | .sensorSweep r => Wf.sweep r
  | .thermalTrip d => decide (d < 72)
  | .trst => true
  | .idcode => true
  | .samplePreload _ => true
  | .extest => true
  | .highz => true
  | .clamp => true
  | .coreDebug m c op => Wf.mere m && Wf.core c && Wf.debug op
  | .bypass => true
  | .poolAccessFail a e s => decide (a < 2 ^ 44 ∧ (e = 1 ∨ e = 2 ∨ e = 5)) && Wf.slot s
  | .fabTmo a s => decide (a < 2 ^ 44) && Wf.slot s
  | .wbHeld a _ => decide (a < 2 ^ 44)
  | .training p t => Wf.port p && decide (t.node < 2 ^ 16 ∧ t.system < 2 ^ 64 ∧ t.epoch < 2 ^ 16)
  | .ndlHeartbeat p f => Wf.port p && Wf.frame f
  | .ndlWrite p f => Wf.port p && Wf.frame f
  | .sem p f => Wf.port p && Wf.frame f
  | .ndlBar p f => Wf.port p && Wf.frame f
  | .ndlSet p f => Wf.port p && Wf.frame f
  | .route p f => Wf.port p && Wf.frame f
  | .crcReplay p _ => Wf.port p
  | .ndlHbMiss p => Wf.port p
  | .linkDownTimeout p => Wf.port p
  | .retrain f p _ => Wf.fn f && Wf.port p
  | .readmit f p _ => Wf.fn f && Wf.port p
  | .vfEnable n _ masks => Wf.fn n && decide (0 < n) && masks.all (fun m => Wf.fn m.1 && decide (m.2.1 < 32))
  | .linkExitFromL1 => true
  | .linkEntersL1 => true
  | .linkReachesL0 => true
  | .fabLinkDown q => Wf.pool q
  | .fabLinkRetrained q => Wf.pool q
  | .deviceEventRecord q => Wf.pool q
  | .ndlLinkDown p => Wf.port p
  | .lockLost k => decide (k < 12)
  | .vinRemoved => true
  | .pwrEnRiseActs => true
  | .fwpUpdDone => true
  | .patrol b s _ => Wf.basin b && decide (s < 2 ^ 32)
  | .progFail d p => Wf.die d && decide (p < 2 ^ 32)

end Sys2Proof
end

