-- ==== Sys2Proof/Tests/Slice0.lean ====
section
/-! SUPPORT. The tests: a term that each check of WellFormed refuses, the words of the table, some behaviours of single
commands, and, for every statement with hypotheses, states and operands that meet them all. -/

set_option Elab.async false
set_option maxRecDepth 20000

namespace Sys2Proof.Tests

open Sys2Proof Sys2Proof.Machine Sys2Proof.Claims

/-! ### Helpers -/

/-- A write lands, as a check. -/
def landsB (s : State) (fn : Nat) (k : Blk) (i off : Nat) (r : RegDef) : Bool :=
  decide (answers s.dev fn (pageNo k i) = true ∧ domState s.dev 4 = 0 ∧ domMoving s.dev 4 = false ∧
    writeTarget s.dev fn (regA k i off) = .reg k i off r ∧ regLocked s.dev (regA k i off) = false)

theorem lands_of {s : State} {fn : Nat} {k : Blk} {i off : Nat} {r : RegDef} (h : landsB s fn k i off r = true) :
    Lands s fn k i off r := by
  have h := of_decide_eq_true h
  exact ⟨⟨h.1, h.2.1, h.2.2.1⟩, h.2.2.2.1, h.2.2.2.2⟩

theorem landsOn_of {s : State} {fn : Nat} {k : Blk} {i off : Nat}
    (h : landsB s fn k i off ((regAt k i off).getD { off := 0 }) = true) : LandsOn s fn k i off :=
  ⟨_, lands_of h⟩

/-- What a check of a transaction gives, as a check. -/
def exB (x y : Except (Nat × Nat) State) : Bool :=
  match x, y with
  | .ok a, .ok b => decide (a = b)
  | .error a, .error b => decide (a = b)
  | _, _ => false

theorem ex_of {x y : Except (Nat × Nat) State} (h : exB x y = true) : x = y := by
  cases x <;> cases y <;> simp_all [exB]

/-! ### Witnesses -/

theorem witness_ReadAndClear_1 :
    Reach hbmBit 0 (pageNo Blk.hbm 2) ∧
      pageOf (pageNo Blk.hbm 2) = some (Blk.hbm, 2) ∧ reaches 0 Blk.hbm 2 = true ∧ hwBit.bit < 32 ∧ bitOf Blk.hbm.statMask hwBit.bit = true := ⟨by unfold Reach; decide +kernel, by decide +kernel⟩

theorem witness_ReadAndClear_2 :
    Sys2Proof.Machine.linkUp up.dev 0 = true ∧ isReady up.dev = true ∧ ¬(2 = 4 ∧ 0x24 % 4 = 0) ∧ ¬(2 = 8 ∧ 0x24 % 8 = 0) := by decide +kernel

theorem witness_ReadAndClear_3 :
    Sys2Proof.Machine.linkUp up.dev 0 = true ∧ isReady up.dev = true ∧ ¬(8 = 4 ∧ 0x104 % 4 = 0) ∧ ¬(8 = 8 ∧ 0x104 % 8 = 0) := by decide +kernel

theorem scrubbed_up : Scrubbed up.dev := by
  have h : up.dev.regs.tmr = [] := by decide +kernel
  have g : up.dev.flash.dieTmr = [] := by decide +kernel
  simp [Scrubbed, h, g]

theorem witness_ScrubRepairsOneCopy_1 :
    Scrubbed up.dev ∧ regA .spr 0 272 ≠ dieReg ∧ flipOk ⟨regA .spr 0 272, 0, true, 1, 3⟩ = true ∧ copiesOf up.dev true (regA .spr 0 272) = none :=
  ⟨scrubbed_up, by decide +kernel⟩

theorem witness_ScrubRepairsOneCopy_die : Scrubbed up.dev ∧ dieCopies up.dev 7 = none ∧ (0x10000 : W32).toNat / 65536 ≠ 0 :=
  ⟨scrubbed_up, by decide +kernel⟩

/-- A field of SPR's HOLD_MS whose copies come to differ, and an FWP_EPOCH that has no majority. -/
theorem witness_ScrubRepairsOneCopy_lost :
    Scrubbed up.dev ∧ pageOf (pageNo .spr 0) = some (.spr, 0) ∧ regA .spr 0 272 ≠ dieReg ∧ flipOk ⟨regA .spr 0 272, 0, true, 1, 1⟩ = true ∧
      (15, 0) ∈ tmrFields (regA .spr 0 272) ∧ copiesOf up.dev true (regA .spr 0 272) = none ∧
      (1 : W32) &&& ~~~ BitVec.ofNat 32 (fieldMask 15 0) = 0 ∧ (2 : W32) &&& ~~~ BitVec.ofNat 32 (fieldMask 15 0) = 0 :=
  ⟨scrubbed_up, by decide +kernel⟩

theorem witness_ScrubRepairsOneCopy_read :
    Reach fwpLost 0 (pageNo .fwp 4) ∧ pageOf (pageNo .fwp 4) = some (.fwp, 4) ∧ ((regAt .fwp 4 0x104).map (·.rws)) = some 0 ∧
      mirrorOf .fwp 4 0x104 = 4 ∧ regA .fwp 4 0x104 ≠ dieReg ∧ noMajority fwpLost.dev (regA .fwp 4 0x104) = true :=
  ⟨by unfold Reach; decide +kernel, by decide +kernel⟩

theorem witness_BundlesInError_1 :
    Fetches (coreUp (codeCtx subSlot)) 9 0 (codeCtx subSlot) (codeCore subSlot) (sWord subSlot) ∧ 0x1018 % 8 = 0 ∧
      (codeCore subSlot).pc ≤ 0x1018 ∧ 0x1018 < (codeCore subSlot).pc + 32 ∧ (codeCtx subSlot).fault = none ∧
        (codeCtx subSlot).basin < 64 := ⟨by unfold Fetches; decide +kernel, by decide +kernel⟩

theorem witness_NodeRecordsInError_1 :
    AtWork hitUp hitReq ∧ hitReq.stage = Stage.walk ∧ hitReq.walk = some hitWalk ∧
      Req.named hitUp.dev hitReq.pins.index = some indexV ∧ hitWalk.reads = [⟨0, 0, false, true⟩] :=
  ⟨by unfold AtWork; decide +kernel, by decide +kernel⟩

theorem witness_PathsInError_1 :
    findCtx (coreUp drawCtx).dev 9 = some drawCtx ∧ coreAt drawCtx 0 = some drawCore ∧
      basinWaits (coreUp drawCtx).dev drawCtx.basin = false ∧
        List.find? (fun y => decide (y.id = drawX.id) && y.draw) drawCore.xfers = some drawX ∧
          drawX.space = 1 ∧ drawX.pieces = [(16, 8192, 8)] ∧ drawCtx.phase = CtxPhase.running ∧ drawCtx.fault = none ∧
            mustWait (ordering (coreUp drawCtx).dev drawCtx drawCore) drawX = false ∧ 8 * 0 < 8 ∧ (coreUp drawCtx).dev.mem.poison = [] := by decide +kernel

/-- R389, R393: an uncorrectable word of a bundle, its last, ends the context. -/
theorem test_bundle_in_error :
    ((after (.bundle 9 0 [⟨.tarn 0x1018, 3, none⟩]) (coreUp (codeCtx subSlot))).dev.jobs.ctxs.map (·.fault)) = [some 0x40] := by decide +kernel

/-- R174: the read fails and the record is dropped. -/
theorem test_node_record_in_error :
    (let d := (after (.nodeReadArrival hitReq.slot [⟨.node 0 8, 3, none⟩]) hitUp).dev
     (d.eng.nodeCache, (findReq d hitReq.slot).map (·.ended))) = ([(indexV.uid, 0, [])], some (some 0x40)) := by decide +kernel

/-- R390: the word that was lost twice is poisoned. -/
theorem test_path_in_error :
    (after (.drawLands 9 0 2 [] [⟨0, 3, true⟩]) (coreUp drawCtx)).dev.mem.poison = [(.tarn 9 0, 0x400)] := by decide +kernel

/-- A result in three parts of which one is absent. -/
theorem parts_mid {α β γ : Type} {x : α × Option β × γ} (h : x.2.1.isNone = true) : x = (x.1, none, x.2.2) := by
  obtain ⟨a, b, c⟩ := x
  cases b <;> simp_all

theorem parts_end {α β γ : Type} {x : α × β × Option γ} (h : x.2.2.isNone = true) : x = (x.1, x.2.1, none) := by
  obtain ⟨a, b, c⟩ := x
  cases c <;> simp_all

/-- Whatever window a pipeline job has, a job pool of 16 MiB holds it. -/
theorem fits {n p : Nat} (h : p = 256 * 65536) : n % 257 * 65536 ≤ p := by omega

theorem witness_StepIdles_1 :
    up.pending = [] := by decide +kernel

theorem witness_WritesThatDoNotLand_1 :
    Reach up 0 (24560 / 4096) ∧ writeTarget up.dev 0 24560 = WriteTo.discard := ⟨by unfold Reach; decide +kernel, by decide +kernel⟩

theorem witness_WritesThatDoNotLand_2 :
    answers up.dev 5 (24560 / 4096) = false := by decide +kernel

theorem witness_WritesThatDoNotLand_3 :
    Reach up 1 (regA Blk.ring 1 20 / 4096) ∧
      regA Blk.ring 1 20 % 4 = 0 ∧ writeTarget up.dev 1 (regA Blk.ring 1 20) = WriteTo.bad := ⟨by unfold Reach; decide +kernel, by decide +kernel⟩

theorem witness_WritesThatDoNotLand_4 :
    Reach lockedUp 0 (regA Blk.clk 0 256 / 4096) ∧
      regA Blk.clk 0 256 % 4 = 0 ∧ writeTarget lockedUp.dev 0 (regA Blk.clk 0 256) = WriteTo.lockedOut := ⟨by unfold Reach; decide +kernel, by decide +kernel⟩

theorem witness_WritesThatDoNotLand_5 :
    Reach heldReg 0 (regA Blk.clk 0 256 / 4096) ∧
      regA Blk.clk 0 256 % 4 = 0 ∧
        writeTarget heldReg.dev 0 (regA Blk.clk 0 256) = WriteTo.reg Blk.clk 0 256 clkCtl ∧
          regLocked heldReg.dev (regA Blk.clk 0 256) = true := ⟨by unfold Reach; decide +kernel, by decide +kernel⟩

theorem witness_PlainRegisterWrites_1 :
    Lands up 0 Blk.clk 0 256 clkCtl ∧
      regA Blk.clk 0 256 % 4 = 0 ∧
        actWrite up 0 Blk.clk 0 256 (BitVec.setWidth 32 (w 500)) [] = none ∧
          clkCtl.rws ≠ 0 ∧
            7 ≠ regA Blk.clk 0 256 ∧ ∀ (w : Nat × Option Nat), w ∈ up.dev.regs.waiting → w.fst ≠ pageNo Blk.clk 0 := ⟨lands_of (by decide +kernel), by decide +kernel⟩

theorem witness_PlainRegisterWrites_2 :
    Lands up 0 Blk.meas 0 384 extWord ∧
      regA Blk.meas 0 384 % 4 = 0 ∧
        actWrite up 0 Blk.meas 0 384 (BitVec.setWidth 32 (w 500)) [] = none ∧
          extWord.rws = 0 ∧ extWord.w1c = 0 ∧ extWord.oneway = 0 ∧ extWord.rw ≠ 0 ∧ 7 ≠ regA Blk.meas 0 384 := ⟨lands_of (by decide +kernel), by decide +kernel⟩

theorem witness_LatchingReads_1 :
    Reach latchUp 0 2 ∧ Reach latchUp 0 3 := ⟨by unfold Reach; decide +kernel, by unfold Reach; decide +kernel⟩

theorem witness_ImmediateRows_1 :
    LandsOn up 0 Blk.therm 0 284 ∧ LandsOn up 0 Blk.errlog 0 260 := ⟨landsOn_of (by decide +kernel), landsOn_of (by decide +kernel)⟩

theorem witness_RippleThreshold_1 :
    LandsOn up 0 Blk.ripple 0 272 ∧ up.dev.regs.fires = [] := ⟨landsOn_of (by decide +kernel), by decide +kernel⟩

theorem witness_RippleThreshold_2 :
    LandsOn firingLate 0 Blk.ripple 0 272 ∧
      ∃ f,
        f ∈ firingLate.dev.regs.fires ∧
          overdue (setLiveN firingLate.dev Blk.ripple 0 272 (BitVec.toNat (w4 16) % 2 ^ 24)) f = true := ⟨landsOn_of (by decide +kernel), by decide +kernel⟩

theorem witness_RippleFires_1 :
    LandsOn fireUp 0 Blk.ripple 0 256 ∧
      4 = BitVec.ofNat 32 (2 ^ 2) ∧ (∀ (f : Fire), f ∈ fireUp.dev.regs.fires → f.group ≠ 2) ∧ membersOf fireUp.dev 2 ≠ [] := ⟨landsOn_of (by decide +kernel), by decide +kernel⟩

theorem witness_RippleFires_2 :
    LandsOn fireUp 0 Blk.ripple 0 256 ∧
      8 = BitVec.ofNat 32 (2 ^ 3) ∧ (∀ (f : Fire), f ∈ fireUp.dev.regs.fires → f.group ≠ 3) ∧ membersOf fireUp.dev 3 = [] := ⟨landsOn_of (by decide +kernel), by decide +kernel⟩

theorem witness_RippleFires_3 :
    LandsOn Tests.firing 0 Blk.ripple 0 256 ∧
      4 = BitVec.ofNat 32 (2 ^ 2) ∧ (∃ f, f ∈ Tests.firing.dev.regs.fires ∧ f.group = 2) ∧ ¬2 ∈ Tests.firing.dev.regs.queued := ⟨landsOn_of (by decide +kernel), by decide +kernel⟩

theorem witness_RippleFires_4 :
    LandsOn firingQueued 0 Blk.ripple 0 256 ∧
      4 = BitVec.ofNat 32 (2 ^ 2) ∧ (∃ f, f ∈ firingQueued.dev.regs.fires ∧ f.group = 2) ∧ 2 ∈ firingQueued.dev.regs.queued := ⟨landsOn_of (by decide +kernel), by decide +kernel⟩

theorem witness_RippleBecomesSlow_1 :
    List.find? (fun x => decide (x.group = firingF.group)) Tests.firing.dev.regs.fires = some firingF ∧
      firingF.slow = false ∧ 5 ∈ firingF.members ∧ liveN Tests.firing.dev Blk.ripple 0 272 % 2 ^ 24 ≠ 0 := by decide +kernel

theorem witness_BlockApplies_1 :
    pageOf genA.page = some (Blk.gen, 0) ∧
      List.find? (fun x => decide (x.page = genA.page)) genArmed.dev.regs.armed = some genA ∧
        atBoundary genArmed.dev Blk.gen 0 genA.values = false := by decide +kernel

theorem witness_BlockApplies_2 :
    pageOf thermA.page = some (Blk.therm, 0) ∧
      List.find? (fun x => decide (x.page = thermA.page)) thermUp.dev.regs.armed = some thermA ∧
        atBoundary thermUp.dev Blk.therm 0 thermA.values = true ∧
          Blk.therm ∈
              [Blk.pwr, Blk.therm, Blk.walk, Blk.sort, Blk.msort, Blk.tok, Blk.gen, Blk.gram, Blk.flc, Blk.sync, Blk.weir,
                Blk.hbm, Blk.ndl, Blk.fwp] ∧
            (List.map (fun x => x.fst) thermA.values).Nodup := by decide +kernel

theorem witness_RingArms_1 :
    LandsOn ringsUp 0 Blk.ring 0 256 ∧
      BitVec.getLsbD (w4 1) 0 = true ∧ isArmed ringsUp.dev Blk.ring 0 = false ∧ stagedWaits ringsUp.dev Blk.ring 0 = false := ⟨landsOn_of (by decide +kernel), by decide +kernel⟩

theorem witness_RingArms_2 :
    LandsOn armedRing 0 Blk.ring 0 256 ∧
      BitVec.getLsbD (w4 1) 0 = true ∧ (isArmed armedRing.dev Blk.ring 0 || stagedWaits armedRing.dev Blk.ring 0) = true := ⟨landsOn_of (by decide +kernel), by decide +kernel⟩

theorem witness_RingApplies_1 :
    ringA.page = pageNo Blk.ring 0 ∧
      List.find? (fun x => decide (x.page = ringA.page)) armedRing.dev.regs.armed = some ringA ∧
        atBoundary armedRing.dev Blk.ring 0 ringA.values = false := by decide +kernel

theorem witness_RingApplies_2 :
    ringA.page = pageNo Blk.ring 0 ∧
      List.find? (fun x => decide (x.page = ringA.page)) offRing.dev.regs.armed = some ringA ∧
        atBoundary offRing.dev Blk.ring 0 ringA.values = true := by decide +kernel

theorem witness_RingDoorbells_1 :
    LandsOn ringsUp 0 Blk.ring 0 (524 + 32 * 0) ∧ LandsOn ringsUp 0 Blk.ring 0 (1036 + 32 * 0) := ⟨landsOn_of (by decide +kernel), landsOn_of (by decide +kernel)⟩

theorem witness_RingEnables_1 :
    LandsOn ringsUp 0 Blk.ring 0 260 ∧
      0 ≠ regA Blk.ring 0 260 ∧
        1 ≠ regA Blk.ring 0 260 ∧
          2 ≠ regA Blk.ring 0 260 ∧
            3 ≠ regA Blk.ring 0 260 ∧
              7 ≠ regA Blk.ring 0 260 ∧
                64 ≠ regA Blk.ring 0 260 ∧
                  65536 ≠ regA Blk.ring 0 260 ∧
                    12552 ≠ regA Blk.ring 0 260 ∧
                      131328 ≠ regA Blk.ring 0 260 ∧ ∀ (x : Nat × Nat), x ∈ ringsUp.dev.host.failed → x.fst ≠ 0 := ⟨landsOn_of (by decide +kernel), by decide +kernel⟩

theorem witness_DmaFailures_1 :
    ringEnabled compUp.dev 0 0 = true ∧ inHead compUp.dev 0 0 ≠ inTailIdx compUp.dev 0 0 := by decide +kernel

theorem witness_DmaFailures_2 :
    writesFor compUp.dev 0 1 = true := by decide +kernel

theorem witness_CompletionsWritten_1 :
    outSize compUp.dev 0 1 ≤ 16 ∧
      List.find? (fun c => decide (c.basin = 0 ∧ c.ring = 1)) compUp.dev.host.comps = some comp0 ∧
        outReady compUp.dev 0 1 = true ∧
          (∀ (slot : Nat), comp0.slot = some slot → awaitsRemap compUp.dev slot = false) ∧
            comp0.slot = some 5 ∧
              findReq compUp.dev 5 = some compReq ∧
                List.find? (fun c => decide (c.basin = 0 ∧ c.ring = 1)) compUp.dev.host.coal = some coal0 ∧
                  bitsOf (liveN compUp.dev Blk.ring 0 (1032 + 32 * 1)) 31 24 = 0 := by decide +kernel

theorem witness_CompletionsWritten_2 :
    outSize compWrap.dev 0 1 ≤ 16 ∧
      List.find? (fun c => decide (c.basin = 0 ∧ c.ring = 1)) compWrap.dev.host.comps = some comp0 ∧
        (outReady compWrap.dev 0 1 = false ∨ ∃ slot, comp0.slot = some slot ∧ awaitsRemap compWrap.dev slot = true) ∧
          List.find? (fun c => decide (c.basin = 0 ∧ c.ring = 1)) compWrap.dev.host.coal = some coal0 ∧
            bitsOf (liveN compWrap.dev Blk.ring 0 (1032 + 32 * 1)) 31 24 ≠ 0 := by decide +kernel

theorem witness_CompletionsWritten_3 :
    outSize compOff.dev 0 1 ≤ 16 ∧
      List.find? (fun c => decide (c.basin = 0 ∧ c.ring = 1)) compOff.dev.host.comps = some comp0 ∧
        (outReady compOff.dev 0 1 = false ∨ ∃ slot, comp0.slot = some slot ∧ awaitsRemap compOff.dev slot = true) ∧
          List.find? (fun c => decide (c.basin = 0 ∧ c.ring = 1)) compOff.dev.host.coal = some coal0 ∧
            bitsOf (liveN compOff.dev Blk.ring 0 (1032 + 32 * 1)) 31 24 = 0 := by decide +kernel

theorem witness_ShoreWindowWrites_1 :
    Reach compUp 0 0 ∧
      [1, 2] ≠ [] ∧
        196613 + [1, 2].length ≤ 2 ^ 26 ∧
          196613 % 4096 + [1, 2].length ≤ 4096 ∧
            (0 = 0 ∨ basinState compUp.dev 0 ≠ 0 ∧ basinState compUp.dev 0 ≠ 3) ∧
              (isHeld compUp.dev 0 (196613 / 65536) || logHolds compUp.dev 0 (196613 / 65536)) = true := ⟨by unfold Reach; decide +kernel, by decide +kernel⟩

theorem witness_ShoreWindowWrites_2 :
    Reach compUp 0 0 ∧
      [1, 2] ≠ [] ∧
        262149 + [1, 2].length ≤ 2 ^ 26 ∧
          262149 % 4096 + [1, 2].length ≤ 4096 ∧
            (0 = 0 ∨ basinState compUp.dev 0 ≠ 0 ∧ basinState compUp.dev 0 ≠ 3) ∧
              (isHeld compUp.dev 0 (262149 / 65536) || logHolds compUp.dev 0 (262149 / 65536)) = false ∧
                (0 < 0 * 2 ^ 26 + 262149 ∨ 0 * 2 ^ 26 + 262149 + [1, 2].length ≤ 0) ∧
                  (1 < 0 * 2 ^ 26 + 262149 ∨ 0 * 2 ^ 26 + 262149 + [1, 2].length ≤ 1) ∧
                    (2 < 0 * 2 ^ 26 + 262149 ∨ 0 * 2 ^ 26 + 262149 + [1, 2].length ≤ 2) ∧
                      (3 < 0 * 2 ^ 26 + 262149 ∨ 0 * 2 ^ 26 + 262149 + [1, 2].length ≤ 3) ∧
                        (7 < 0 * 2 ^ 26 + 262149 ∨ 0 * 2 ^ 26 + 262149 + [1, 2].length ≤ 7) ∧
                          (64 < 0 * 2 ^ 26 + 262149 ∨ 0 * 2 ^ 26 + 262149 + [1, 2].length ≤ 64) ∧
                            (65536 < 0 * 2 ^ 26 + 262149 ∨ 0 * 2 ^ 26 + 262149 + [1, 2].length ≤ 65536) ∧
                              (12552 < 0 * 2 ^ 26 + 262149 ∨ 0 * 2 ^ 26 + 262149 + [1, 2].length ≤ 12552) ∧
                                (131328 < 0 * 2 ^ 26 + 262149 ∨ 0 * 2 ^ 26 + 262149 + [1, 2].length ≤ 131328) := ⟨by unfold Reach; decide +kernel, by decide +kernel⟩

theorem witness_RefusedDescriptors_1 :
    Turn stock (fe 1 [(3, 1)]) 5 0 0 1 ∧
      (1, Instr.query (fe 1 [(3, 1)]) 5) ∈
          [(0, Instr.undefinedOpcode (fe 1 [(3, 1)]) 5), (1, Instr.query (fe 1 [(3, 1)]) 5),
            (2, Instr.search (fe 1 [(3, 1)]) 5), (3, Instr.embed (fe 1 [(3, 1)]) 5), (4, Instr.rerank (fe 1 [(3, 1)]) 5),
            (5, Instr.generate (fe 1 [(3, 1)]) 5), (6, Instr.continue (fe 1 [(3, 1)]) 5), (7, Instr.park (fe 1 [(3, 1)]) 5),
            (8, Instr.releaseHandle (fe 1 [(3, 1)]) 5), (9, Instr.gather (fe 1 [(3, 1)]) 5),
            (10, Instr.scatterMerge (fe 1 [(3, 1)]) 5), (11, Instr.runJob (fe 1 [(3, 1)]) 5),
            (12, Instr.txn (fe 1 [(3, 1)]) 5), (13, Instr.cancel (fe 1 [(3, 1)]) 5)] ∧
        admitCheck stock.dev 0 (fe 1 [(3, 1)]) = some 17 := ⟨by unfold Turn; decide +kernel, by decide +kernel⟩

theorem witness_RefusedDescriptors_2 :
    Turn stock (fe 14 []) 5 0 0 0 ∧
      (0, Instr.undefinedOpcode (fe 14 []) 5) ∈
          [(0, Instr.undefinedOpcode (fe 14 []) 5), (1, Instr.query (fe 14 []) 5), (2, Instr.search (fe 14 []) 5),
            (3, Instr.embed (fe 14 []) 5), (4, Instr.rerank (fe 14 []) 5), (5, Instr.generate (fe 14 []) 5),
            (6, Instr.continue (fe 14 []) 5), (7, Instr.park (fe 14 []) 5), (8, Instr.releaseHandle (fe 14 []) 5),
            (9, Instr.gather (fe 14 []) 5), (10, Instr.scatterMerge (fe 14 []) 5), (11, Instr.runJob (fe 14 []) 5),
            (12, Instr.txn (fe 14 []) 5), (13, Instr.cancel (fe 14 []) 5)] ∧
        admitCheck stock.dev 0 (fe 14 []) = some 17 ∧ basinState stock.dev 0 = 1 := ⟨by unfold Turn; decide +kernel, by decide +kernel⟩

theorem witness_RefusedDescriptors_3 :
    Turn stock (fe 13 [(3, 1)]) 5 0 0 13 ∧
      (13, Instr.cancel (fe 13 [(3, 1)]) 5) ∈
          [(0, Instr.undefinedOpcode (fe 13 [(3, 1)]) 5), (1, Instr.query (fe 13 [(3, 1)]) 5),
            (2, Instr.search (fe 13 [(3, 1)]) 5), (3, Instr.embed (fe 13 [(3, 1)]) 5), (4, Instr.rerank (fe 13 [(3, 1)]) 5),
            (5, Instr.generate (fe 13 [(3, 1)]) 5), (6, Instr.continue (fe 13 [(3, 1)]) 5),
            (7, Instr.park (fe 13 [(3, 1)]) 5), (8, Instr.releaseHandle (fe 13 [(3, 1)]) 5),
            (9, Instr.gather (fe 13 [(3, 1)]) 5), (10, Instr.scatterMerge (fe 13 [(3, 1)]) 5),
            (11, Instr.runJob (fe 13 [(3, 1)]) 5), (12, Instr.txn (fe 13 [(3, 1)]) 5),
            (13, Instr.cancel (fe 13 [(3, 1)]) 5)] ∧
        admitCheck stock.dev 0 (fe 13 [(3, 1)]) = some 17 := ⟨by unfold Turn; decide +kernel, by decide +kernel⟩

theorem witness_RefusedDescriptors_4 :
    Turn stock (fe 9 [(3, 1)]) 5 0 0 9 ∧
      (9, Instr.gather (fe 9 [(3, 1)]) 5) ∈
          [(0, Instr.undefinedOpcode (fe 9 [(3, 1)]) 5), (1, Instr.query (fe 9 [(3, 1)]) 5),
            (2, Instr.search (fe 9 [(3, 1)]) 5), (3, Instr.embed (fe 9 [(3, 1)]) 5), (4, Instr.rerank (fe 9 [(3, 1)]) 5),
            (5, Instr.generate (fe 9 [(3, 1)]) 5), (6, Instr.continue (fe 9 [(3, 1)]) 5), (7, Instr.park (fe 9 [(3, 1)]) 5),
            (8, Instr.releaseHandle (fe 9 [(3, 1)]) 5), (9, Instr.gather (fe 9 [(3, 1)]) 5),
            (10, Instr.scatterMerge (fe 9 [(3, 1)]) 5), (11, Instr.runJob (fe 9 [(3, 1)]) 5),
            (12, Instr.txn (fe 9 [(3, 1)]) 5), (13, Instr.cancel (fe 9 [(3, 1)]) 5)] ∧
        admitCheck stock.dev 0 (fe 9 [(3, 1)]) = some 17 := ⟨by unfold Turn; decide +kernel, by decide +kernel⟩

theorem witness_Admissions_1 :
    Turn stock (fe 1 []) 5 0 0 1 ∧
      (1, Instr.query (fe 1 []) 5) ∈
          [(0, Instr.undefinedOpcode (fe 1 []) 5), (1, Instr.query (fe 1 []) 5), (2, Instr.search (fe 1 []) 5),
            (3, Instr.embed (fe 1 []) 5), (4, Instr.rerank (fe 1 []) 5), (5, Instr.generate (fe 1 []) 5),
            (6, Instr.continue (fe 1 []) 5), (7, Instr.park (fe 1 []) 5), (8, Instr.releaseHandle (fe 1 []) 5),
            (9, Instr.gather (fe 1 []) 5), (10, Instr.scatterMerge (fe 1 []) 5), (11, Instr.runJob (fe 1 []) 5),
            (12, Instr.txn (fe 1 []) 5), (13, Instr.cancel (fe 1 []) 5)] ∧
        admitCheck stock.dev 0 (fe 1 []) = none ∧
          (1 ∈ [2, 3, 4, 9, 10, 12] ∨ (1 = 1 ∨ 1 = 5) ∧ Desc.handle (fe 1 []).desc = 0) := ⟨by unfold Turn; decide +kernel, by decide +kernel⟩

theorem witness_Admissions_2 :
    Turn stock (fe 2 []) 5 0 0 2 ∧
      (2, Instr.search (fe 2 []) 5) ∈
          [(0, Instr.undefinedOpcode (fe 2 []) 5), (1, Instr.query (fe 2 []) 5), (2, Instr.search (fe 2 []) 5),
            (3, Instr.embed (fe 2 []) 5), (4, Instr.rerank (fe 2 []) 5), (5, Instr.generate (fe 2 []) 5),
            (6, Instr.continue (fe 2 []) 5), (7, Instr.park (fe 2 []) 5), (8, Instr.releaseHandle (fe 2 []) 5),
            (9, Instr.gather (fe 2 []) 5), (10, Instr.scatterMerge (fe 2 []) 5), (11, Instr.runJob (fe 2 []) 5),
            (12, Instr.txn (fe 2 []) 5), (13, Instr.cancel (fe 2 []) 5)] ∧
        admitCheck stock.dev 0 (fe 2 []) = none ∧
          (2 ∈ [2, 3, 4, 9, 10, 12] ∨ (2 = 1 ∨ 2 = 5) ∧ Desc.handle (fe 2 []).desc = 0) := ⟨by unfold Turn; decide +kernel, by decide +kernel⟩

theorem witness_Admissions_3 :
    Turn stock (fe 3 []) 5 0 0 3 ∧
      (3, Instr.embed (fe 3 []) 5) ∈
          [(0, Instr.undefinedOpcode (fe 3 []) 5), (1, Instr.query (fe 3 []) 5), (2, Instr.search (fe 3 []) 5),
            (3, Instr.embed (fe 3 []) 5), (4, Instr.rerank (fe 3 []) 5), (5, Instr.generate (fe 3 []) 5),
            (6, Instr.continue (fe 3 []) 5), (7, Instr.park (fe 3 []) 5), (8, Instr.releaseHandle (fe 3 []) 5),
            (9, Instr.gather (fe 3 []) 5), (10, Instr.scatterMerge (fe 3 []) 5), (11, Instr.runJob (fe 3 []) 5),
            (12, Instr.txn (fe 3 []) 5), (13, Instr.cancel (fe 3 []) 5)] ∧
        admitCheck stock.dev 0 (fe 3 []) = none ∧
          (3 ∈ [2, 3, 4, 9, 10, 12] ∨ (3 = 1 ∨ 3 = 5) ∧ Desc.handle (fe 3 []).desc = 0) := ⟨by unfold Turn; decide +kernel, by decide +kernel⟩

theorem witness_Admissions_4 :
    Turn stock (fe 4 []) 5 0 0 4 ∧
      (4, Instr.rerank (fe 4 []) 5) ∈
          [(0, Instr.undefinedOpcode (fe 4 []) 5), (1, Instr.query (fe 4 []) 5), (2, Instr.search (fe 4 []) 5),
            (3, Instr.embed (fe 4 []) 5), (4, Instr.rerank (fe 4 []) 5), (5, Instr.generate (fe 4 []) 5),
            (6, Instr.continue (fe 4 []) 5), (7, Instr.park (fe 4 []) 5), (8, Instr.releaseHandle (fe 4 []) 5),
            (9, Instr.gather (fe 4 []) 5), (10, Instr.scatterMerge (fe 4 []) 5), (11, Instr.runJob (fe 4 []) 5),
            (12, Instr.txn (fe 4 []) 5), (13, Instr.cancel (fe 4 []) 5)] ∧
        admitCheck stock.dev 0 (fe 4 []) = none ∧
          (4 ∈ [2, 3, 4, 9, 10, 12] ∨ (4 = 1 ∨ 4 = 5) ∧ Desc.handle (fe 4 []).desc = 0) := ⟨by unfold Turn; decide +kernel, by decide +kernel⟩

theorem witness_Admissions_5 :
    Turn stock (fe 5 []) 5 0 0 5 ∧
      (5, Instr.generate (fe 5 []) 5) ∈
          [(0, Instr.undefinedOpcode (fe 5 []) 5), (1, Instr.query (fe 5 []) 5), (2, Instr.search (fe 5 []) 5),
            (3, Instr.embed (fe 5 []) 5), (4, Instr.rerank (fe 5 []) 5), (5, Instr.generate (fe 5 []) 5),
            (6, Instr.continue (fe 5 []) 5), (7, Instr.park (fe 5 []) 5), (8, Instr.releaseHandle (fe 5 []) 5),
            (9, Instr.gather (fe 5 []) 5), (10, Instr.scatterMerge (fe 5 []) 5), (11, Instr.runJob (fe 5 []) 5),
            (12, Instr.txn (fe 5 []) 5), (13, Instr.cancel (fe 5 []) 5)] ∧
        admitCheck stock.dev 0 (fe 5 []) = none ∧
          (5 ∈ [2, 3, 4, 9, 10, 12] ∨ (5 = 1 ∨ 5 = 5) ∧ Desc.handle (fe 5 []).desc = 0) := ⟨by unfold Turn; decide +kernel, by decide +kernel⟩

theorem witness_Admissions_6 :
    Turn jobStock (fe 9 [(2, 1)]) 5 0 0 9 ∧
      (9, Instr.gather (fe 9 [(2, 1)]) 5) ∈
          [(0, Instr.undefinedOpcode (fe 9 [(2, 1)]) 5), (1, Instr.query (fe 9 [(2, 1)]) 5),
            (2, Instr.search (fe 9 [(2, 1)]) 5), (3, Instr.embed (fe 9 [(2, 1)]) 5), (4, Instr.rerank (fe 9 [(2, 1)]) 5),
            (5, Instr.generate (fe 9 [(2, 1)]) 5), (6, Instr.continue (fe 9 [(2, 1)]) 5), (7, Instr.park (fe 9 [(2, 1)]) 5),
            (8, Instr.releaseHandle (fe 9 [(2, 1)]) 5), (9, Instr.gather (fe 9 [(2, 1)]) 5),
            (10, Instr.scatterMerge (fe 9 [(2, 1)]) 5), (11, Instr.runJob (fe 9 [(2, 1)]) 5),
            (12, Instr.txn (fe 9 [(2, 1)]) 5), (13, Instr.cancel (fe 9 [(2, 1)]) 5)] ∧
        admitCheck jobStock.dev 0 (fe 9 [(2, 1)]) = none ∧
          (9 ∈ [2, 3, 4, 9, 10, 12] ∨ (9 = 1 ∨ 9 = 5) ∧ Desc.handle (fe 9 [(2, 1)]).desc = 0) ∧
            Desc.more (fe 9 [(2, 1)]).desc = false := ⟨by unfold Turn; decide +kernel, by decide +kernel⟩

theorem witness_Admissions_7 :
    Turn jobStock (fe 10 [(2, 1)]) 5 0 0 10 ∧
      (10, Instr.scatterMerge (fe 10 [(2, 1)]) 5) ∈
          [(0, Instr.undefinedOpcode (fe 10 [(2, 1)]) 5), (1, Instr.query (fe 10 [(2, 1)]) 5),
            (2, Instr.search (fe 10 [(2, 1)]) 5), (3, Instr.embed (fe 10 [(2, 1)]) 5), (4, Instr.rerank (fe 10 [(2, 1)]) 5),
            (5, Instr.generate (fe 10 [(2, 1)]) 5), (6, Instr.continue (fe 10 [(2, 1)]) 5),
            (7, Instr.park (fe 10 [(2, 1)]) 5), (8, Instr.releaseHandle (fe 10 [(2, 1)]) 5),
            (9, Instr.gather (fe 10 [(2, 1)]) 5), (10, Instr.scatterMerge (fe 10 [(2, 1)]) 5),
            (11, Instr.runJob (fe 10 [(2, 1)]) 5), (12, Instr.txn (fe 10 [(2, 1)]) 5),
            (13, Instr.cancel (fe 10 [(2, 1)]) 5)] ∧
        admitCheck jobStock.dev 0 (fe 10 [(2, 1)]) = none ∧
          (10 ∈ [2, 3, 4, 9, 10, 12] ∨ (10 = 1 ∨ 10 = 5) ∧ Desc.handle (fe 10 [(2, 1)]).desc = 0) ∧
            Desc.more (fe 10 [(2, 1)]).desc = false := ⟨by unfold Turn; decide +kernel, by decide +kernel⟩

theorem witness_Admissions_8 :
    Turn jobStock (fe 11 [(2, 1), (57, 32)]) 5 0 0 11 ∧
      (11, Instr.runJob (fe 11 [(2, 1), (57, 32)]) 5) ∈
          [(0, Instr.undefinedOpcode (fe 11 [(2, 1), (57, 32)]) 5), (1, Instr.query (fe 11 [(2, 1), (57, 32)]) 5),
            (2, Instr.search (fe 11 [(2, 1), (57, 32)]) 5), (3, Instr.embed (fe 11 [(2, 1), (57, 32)]) 5),
            (4, Instr.rerank (fe 11 [(2, 1), (57, 32)]) 5), (5, Instr.generate (fe 11 [(2, 1), (57, 32)]) 5),
            (6, Instr.continue (fe 11 [(2, 1), (57, 32)]) 5), (7, Instr.park (fe 11 [(2, 1), (57, 32)]) 5),
            (8, Instr.releaseHandle (fe 11 [(2, 1), (57, 32)]) 5), (9, Instr.gather (fe 11 [(2, 1), (57, 32)]) 5),
            (10, Instr.scatterMerge (fe 11 [(2, 1), (57, 32)]) 5), (11, Instr.runJob (fe 11 [(2, 1), (57, 32)]) 5),
            (12, Instr.txn (fe 11 [(2, 1), (57, 32)]) 5), (13, Instr.cancel (fe 11 [(2, 1), (57, 32)]) 5)] ∧
        admitCheck jobStock.dev 0 (fe 11 [(2, 1), (57, 32)]) = none ∧
          Desc.more (fe 11 [(2, 1), (57, 32)]).desc = false ∧
            (bindOf jobStock.dev 0).fst = 0 ∧ ∀ (x : Ctx), x ∈ jobStock.dev.jobs.ctxs → x.id ≠ jobStock.dev.eng.nextId := ⟨by unfold Turn; decide +kernel, by decide +kernel⟩

theorem witness_Admissions_9 :
    Turn jobStock (fe 12 []) 5 0 0 12 ∧
      (12, Instr.txn (fe 12 []) 5) ∈
          [(0, Instr.undefinedOpcode (fe 12 []) 5), (1, Instr.query (fe 12 []) 5), (2, Instr.search (fe 12 []) 5),
            (3, Instr.embed (fe 12 []) 5), (4, Instr.rerank (fe 12 []) 5), (5, Instr.generate (fe 12 []) 5),
            (6, Instr.continue (fe 12 []) 5), (7, Instr.park (fe 12 []) 5), (8, Instr.releaseHandle (fe 12 []) 5),
            (9, Instr.gather (fe 12 []) 5), (10, Instr.scatterMerge (fe 12 []) 5), (11, Instr.runJob (fe 12 []) 5),
            (12, Instr.txn (fe 12 []) 5), (13, Instr.cancel (fe 12 []) 5)] ∧
        admitCheck jobStock.dev 0 (fe 12 []) = none ∧
          (12 ∈ [2, 3, 4, 9, 10, 12] ∨ (12 = 1 ∨ 12 = 5) ∧ Desc.handle (fe 12 []).desc = 0) := ⟨by unfold Turn; decide +kernel, by decide +kernel⟩

theorem witness_Admissions_10 :
    Turn stock (fe 5 [(8, 3)]) 5 0 0 5 ∧
      (5, Instr.generate (fe 5 [(8, 3)]) 5) ∈
          [(0, Instr.undefinedOpcode (fe 5 [(8, 3)]) 5), (1, Instr.query (fe 5 [(8, 3)]) 5),
            (2, Instr.search (fe 5 [(8, 3)]) 5), (3, Instr.embed (fe 5 [(8, 3)]) 5), (4, Instr.rerank (fe 5 [(8, 3)]) 5),
            (5, Instr.generate (fe 5 [(8, 3)]) 5), (6, Instr.continue (fe 5 [(8, 3)]) 5), (7, Instr.park (fe 5 [(8, 3)]) 5),
            (8, Instr.releaseHandle (fe 5 [(8, 3)]) 5), (9, Instr.gather (fe 5 [(8, 3)]) 5),
            (10, Instr.scatterMerge (fe 5 [(8, 3)]) 5), (11, Instr.runJob (fe 5 [(8, 3)]) 5),
            (12, Instr.txn (fe 5 [(8, 3)]) 5), (13, Instr.cancel (fe 5 [(8, 3)]) 5)] ∧
        admitCheck stock.dev 0 (fe 5 [(8, 3)]) = none ∧
          Desc.handle (fe 5 [(8, 3)]).desc ≠ 0 ∧ findHandle stock.dev (Desc.handle (fe 5 [(8, 3)]).desc) 0 = none := ⟨by unfold Turn; decide +kernel, by decide +kernel⟩

theorem witness_Admissions_11 :
    Turn handleUp (fe 5 [(8, 3)]) 5 0 0 5 ∧
      (5, Instr.generate (fe 5 [(8, 3)]) 5) ∈
          [(0, Instr.undefinedOpcode (fe 5 [(8, 3)]) 5), (1, Instr.query (fe 5 [(8, 3)]) 5),
            (2, Instr.search (fe 5 [(8, 3)]) 5), (3, Instr.embed (fe 5 [(8, 3)]) 5), (4, Instr.rerank (fe 5 [(8, 3)]) 5),
            (5, Instr.generate (fe 5 [(8, 3)]) 5), (6, Instr.continue (fe 5 [(8, 3)]) 5), (7, Instr.park (fe 5 [(8, 3)]) 5),
            (8, Instr.releaseHandle (fe 5 [(8, 3)]) 5), (9, Instr.gather (fe 5 [(8, 3)]) 5),
            (10, Instr.scatterMerge (fe 5 [(8, 3)]) 5), (11, Instr.runJob (fe 5 [(8, 3)]) 5),
            (12, Instr.txn (fe 5 [(8, 3)]) 5), (13, Instr.cancel (fe 5 [(8, 3)]) 5)] ∧
        admitCheck handleUp.dev 0 (fe 5 [(8, 3)]) = none ∧
          Desc.handle (fe 5 [(8, 3)]).desc ≠ 0 ∧ findHandle handleUp.dev (Desc.handle (fe 5 [(8, 3)]).desc) 0 = some h0 := ⟨by unfold Turn; decide +kernel, by decide +kernel⟩

theorem witness_Admissions_12 :
    Turn jobStock (fe 9 [(2, 1), (1, 4)]) 5 0 0 9 ∧
      (9, Instr.gather (fe 9 [(2, 1), (1, 4)]) 5) ∈
          [(0, Instr.undefinedOpcode (fe 9 [(2, 1), (1, 4)]) 5), (1, Instr.query (fe 9 [(2, 1), (1, 4)]) 5),
            (2, Instr.search (fe 9 [(2, 1), (1, 4)]) 5), (3, Instr.embed (fe 9 [(2, 1), (1, 4)]) 5),
            (4, Instr.rerank (fe 9 [(2, 1), (1, 4)]) 5), (5, Instr.generate (fe 9 [(2, 1), (1, 4)]) 5),
            (6, Instr.continue (fe 9 [(2, 1), (1, 4)]) 5), (7, Instr.park (fe 9 [(2, 1), (1, 4)]) 5),
            (8, Instr.releaseHandle (fe 9 [(2, 1), (1, 4)]) 5), (9, Instr.gather (fe 9 [(2, 1), (1, 4)]) 5),
            (10, Instr.scatterMerge (fe 9 [(2, 1), (1, 4)]) 5), (11, Instr.runJob (fe 9 [(2, 1), (1, 4)]) 5),
            (12, Instr.txn (fe 9 [(2, 1), (1, 4)]) 5), (13, Instr.cancel (fe 9 [(2, 1), (1, 4)]) 5)] ∧
        admitCheck jobStock.dev 0 (fe 9 [(2, 1), (1, 4)]) = none ∧
          (9 ∈ [2, 3, 4, 9, 10, 12] ∨ (9 = 1 ∨ 9 = 5) ∧ Desc.handle (fe 9 [(2, 1), (1, 4)]).desc = 0) ∧
            Desc.more (fe 9 [(2, 1), (1, 4)]).desc = true := ⟨by unfold Turn; decide +kernel, by decide +kernel⟩

theorem witness_Admissions_13 :
    Turn jobStock (fe 10 [(2, 1), (1, 4)]) 5 0 0 10 ∧
      (10, Instr.scatterMerge (fe 10 [(2, 1), (1, 4)]) 5) ∈
          [(0, Instr.undefinedOpcode (fe 10 [(2, 1), (1, 4)]) 5), (1, Instr.query (fe 10 [(2, 1), (1, 4)]) 5),
            (2, Instr.search (fe 10 [(2, 1), (1, 4)]) 5), (3, Instr.embed (fe 10 [(2, 1), (1, 4)]) 5),
            (4, Instr.rerank (fe 10 [(2, 1), (1, 4)]) 5), (5, Instr.generate (fe 10 [(2, 1), (1, 4)]) 5),
            (6, Instr.continue (fe 10 [(2, 1), (1, 4)]) 5), (7, Instr.park (fe 10 [(2, 1), (1, 4)]) 5),
            (8, Instr.releaseHandle (fe 10 [(2, 1), (1, 4)]) 5), (9, Instr.gather (fe 10 [(2, 1), (1, 4)]) 5),
            (10, Instr.scatterMerge (fe 10 [(2, 1), (1, 4)]) 5), (11, Instr.runJob (fe 10 [(2, 1), (1, 4)]) 5),
            (12, Instr.txn (fe 10 [(2, 1), (1, 4)]) 5), (13, Instr.cancel (fe 10 [(2, 1), (1, 4)]) 5)] ∧
        admitCheck jobStock.dev 0 (fe 10 [(2, 1), (1, 4)]) = none ∧
          (10 ∈ [2, 3, 4, 9, 10, 12] ∨ (10 = 1 ∨ 10 = 5) ∧ Desc.handle (fe 10 [(2, 1), (1, 4)]).desc = 0) ∧
            Desc.more (fe 10 [(2, 1), (1, 4)]).desc = true := ⟨by unfold Turn; decide +kernel, by decide +kernel⟩

theorem witness_Admissions_14 :
    Turn jobStock (fe 11 [(2, 1), (1, 4), (57, 32)]) 5 0 0 11 ∧
      (11, Instr.runJob (fe 11 [(2, 1), (1, 4), (57, 32)]) 5) ∈
          [(0, Instr.undefinedOpcode (fe 11 [(2, 1), (1, 4), (57, 32)]) 5),
            (1, Instr.query (fe 11 [(2, 1), (1, 4), (57, 32)]) 5), (2, Instr.search (fe 11 [(2, 1), (1, 4), (57, 32)]) 5),
            (3, Instr.embed (fe 11 [(2, 1), (1, 4), (57, 32)]) 5), (4, Instr.rerank (fe 11 [(2, 1), (1, 4), (57, 32)]) 5),
            (5, Instr.generate (fe 11 [(2, 1), (1, 4), (57, 32)]) 5),
            (6, Instr.continue (fe 11 [(2, 1), (1, 4), (57, 32)]) 5), (7, Instr.park (fe 11 [(2, 1), (1, 4), (57, 32)]) 5),
            (8, Instr.releaseHandle (fe 11 [(2, 1), (1, 4), (57, 32)]) 5),
            (9, Instr.gather (fe 11 [(2, 1), (1, 4), (57, 32)]) 5),
            (10, Instr.scatterMerge (fe 11 [(2, 1), (1, 4), (57, 32)]) 5),
            (11, Instr.runJob (fe 11 [(2, 1), (1, 4), (57, 32)]) 5), (12, Instr.txn (fe 11 [(2, 1), (1, 4), (57, 32)]) 5),
            (13, Instr.cancel (fe 11 [(2, 1), (1, 4), (57, 32)]) 5)] ∧
        admitCheck jobStock.dev 0 (fe 11 [(2, 1), (1, 4), (57, 32)]) = none ∧
          Desc.more (fe 11 [(2, 1), (1, 4), (57, 32)]).desc = true := ⟨by unfold Turn; decide +kernel, by decide +kernel⟩

theorem witness_ControlDescriptors_1 :
    Turn tgBusyUp (ctl 6) 5 0 0 6 ∧
      (6, Instr.continue (ctl 6) 5) ∈
          [(0, Instr.undefinedOpcode (ctl 6) 5), (1, Instr.query (ctl 6) 5), (2, Instr.search (ctl 6) 5),
            (3, Instr.embed (ctl 6) 5), (4, Instr.rerank (ctl 6) 5), (5, Instr.generate (ctl 6) 5),
            (6, Instr.continue (ctl 6) 5), (7, Instr.park (ctl 6) 5), (8, Instr.releaseHandle (ctl 6) 5),
            (9, Instr.gather (ctl 6) 5), (10, Instr.scatterMerge (ctl 6) 5), (11, Instr.runJob (ctl 6) 5),
            (12, Instr.txn (ctl 6) 5), (13, Instr.cancel (ctl 6) 5)] ∧
        admitCheck tgBusyUp.dev 0 (ctl 6) = none ∧
          (List.map (fun x => x.slot) tgBusyUp.dev.reqs).Nodup ∧
            findReq tgBusyUp.dev (Desc.target (ctl 6).desc % 2 ^ 20) = some tgtBusy ∧
              BitVec.toNat tgtBusy.tag = Desc.target (ctl 6).desc ∧
                tgtBusy.basin = 0 ∧
                  tgtBusy.live = true ∧
                    tgtBusy.awaiting = true ∧
                      tgBusyUp.dev.now < tgtBusy.lastInput + msCycles (Prof.inputTtl (Req.prof tgBusyUp.dev tgtBusy)) := ⟨by unfold Turn; decide +kernel, by decide +kernel⟩

theorem witness_ControlDescriptors_2 :
    Turn tgBusyUp (ctl 7) 5 0 0 7 ∧
      (7, Instr.park (ctl 7) 5) ∈
          [(0, Instr.undefinedOpcode (ctl 7) 5), (1, Instr.query (ctl 7) 5), (2, Instr.search (ctl 7) 5),
            (3, Instr.embed (ctl 7) 5), (4, Instr.rerank (ctl 7) 5), (5, Instr.generate (ctl 7) 5),
            (6, Instr.continue (ctl 7) 5), (7, Instr.park (ctl 7) 5), (8, Instr.releaseHandle (ctl 7) 5),
            (9, Instr.gather (ctl 7) 5), (10, Instr.scatterMerge (ctl 7) 5), (11, Instr.runJob (ctl 7) 5),
            (12, Instr.txn (ctl 7) 5), (13, Instr.cancel (ctl 7) 5)] ∧
        admitCheck tgBusyUp.dev 0 (ctl 7) = none ∧
          (List.map (fun x => x.slot) tgBusyUp.dev.reqs).Nodup ∧
            findReq tgBusyUp.dev (Desc.target (ctl 7).desc % 2 ^ 20) = some tgtBusy ∧
              BitVec.toNat tgtBusy.tag = Desc.target (ctl 7).desc ∧
                tgtBusy.basin = 0 ∧ tgtBusy.live = true ∧ tgtBusy.op ≠ 6 ∧ tgtBusy.hold = none := ⟨by unfold Turn; decide +kernel, by decide +kernel⟩

theorem witness_ControlDescriptors_3 :
    Turn tgQuietUp (ctl 7) 5 0 0 7 ∧
      (7, Instr.park (ctl 7) 5) ∈
          [(0, Instr.undefinedOpcode (ctl 7) 5), (1, Instr.query (ctl 7) 5), (2, Instr.search (ctl 7) 5),
            (3, Instr.embed (ctl 7) 5), (4, Instr.rerank (ctl 7) 5), (5, Instr.generate (ctl 7) 5),
            (6, Instr.continue (ctl 7) 5), (7, Instr.park (ctl 7) 5), (8, Instr.releaseHandle (ctl 7) 5),
            (9, Instr.gather (ctl 7) 5), (10, Instr.scatterMerge (ctl 7) 5), (11, Instr.runJob (ctl 7) 5),
            (12, Instr.txn (ctl 7) 5), (13, Instr.cancel (ctl 7) 5)] ∧
        admitCheck tgQuietUp.dev 0 (ctl 7) = none ∧
          (List.map (fun x => x.slot) tgQuietUp.dev.reqs).Nodup ∧
            findReq tgQuietUp.dev (Desc.target (ctl 7).desc % 2 ^ 20) = some tgtQuiet ∧
              BitVec.toNat tgtQuiet.tag = Desc.target (ctl 7).desc ∧
                tgtQuiet.basin = 0 ∧ tgtQuiet.live = true ∧ tgtQuiet.op ≠ 6 ∧ tgtQuiet.hold = none := ⟨by unfold Turn; decide +kernel, by decide +kernel⟩

theorem witness_ControlDescriptors_4 :
    Turn tgUp (ctl 13) 5 0 0 13 ∧
      (13, Instr.cancel (ctl 13) 5) ∈
          [(0, Instr.undefinedOpcode (ctl 13) 5), (1, Instr.query (ctl 13) 5), (2, Instr.search (ctl 13) 5),
            (3, Instr.embed (ctl 13) 5), (4, Instr.rerank (ctl 13) 5), (5, Instr.generate (ctl 13) 5),
            (6, Instr.continue (ctl 13) 5), (7, Instr.park (ctl 13) 5), (8, Instr.releaseHandle (ctl 13) 5),
            (9, Instr.gather (ctl 13) 5), (10, Instr.scatterMerge (ctl 13) 5), (11, Instr.runJob (ctl 13) 5),
            (12, Instr.txn (ctl 13) 5), (13, Instr.cancel (ctl 13) 5)] ∧
        admitCheck tgUp.dev 0 (ctl 13) = none ∧
          (List.map (fun x => x.slot) tgUp.dev.reqs).Nodup ∧
            findReq tgUp.dev (Desc.target (ctl 13).desc % 2 ^ 20) = some tgt ∧
              BitVec.toNat tgt.tag = Desc.target (ctl 13).desc ∧
                tgt.basin = 0 ∧ tgt.live = true ∧ tgt.op ≠ 6 ∧ tgt.busy = false ∧ tgt.silent = false := ⟨by unfold Turn; decide +kernel, by decide +kernel⟩

theorem witness_ControlDescriptors_5 :
    Turn tgBusyUp (ctl 13) 5 0 0 13 ∧
      (13, Instr.cancel (ctl 13) 5) ∈
          [(0, Instr.undefinedOpcode (ctl 13) 5), (1, Instr.query (ctl 13) 5), (2, Instr.search (ctl 13) 5),
            (3, Instr.embed (ctl 13) 5), (4, Instr.rerank (ctl 13) 5), (5, Instr.generate (ctl 13) 5),
            (6, Instr.continue (ctl 13) 5), (7, Instr.park (ctl 13) 5), (8, Instr.releaseHandle (ctl 13) 5),
            (9, Instr.gather (ctl 13) 5), (10, Instr.scatterMerge (ctl 13) 5), (11, Instr.runJob (ctl 13) 5),
            (12, Instr.txn (ctl 13) 5), (13, Instr.cancel (ctl 13) 5)] ∧
        admitCheck tgBusyUp.dev 0 (ctl 13) = none ∧
          (List.map (fun x => x.slot) tgBusyUp.dev.reqs).Nodup ∧
            findReq tgBusyUp.dev (Desc.target (ctl 13).desc % 2 ^ 20) = some tgtBusy ∧
              BitVec.toNat tgtBusy.tag = Desc.target (ctl 13).desc ∧
                tgtBusy.basin = 0 ∧ tgtBusy.live = true ∧ tgtBusy.op ≠ 6 ∧ tgtBusy.busy = true := ⟨by unfold Turn; decide +kernel, by decide +kernel⟩

theorem witness_ControlDescriptors_6 :
    Turn stock (ctl 13) 5 0 0 13 ∧
      (13, Instr.cancel (ctl 13) 5) ∈
          [(0, Instr.undefinedOpcode (ctl 13) 5), (1, Instr.query (ctl 13) 5), (2, Instr.search (ctl 13) 5),
            (3, Instr.embed (ctl 13) 5), (4, Instr.rerank (ctl 13) 5), (5, Instr.generate (ctl 13) 5),
            (6, Instr.continue (ctl 13) 5), (7, Instr.park (ctl 13) 5), (8, Instr.releaseHandle (ctl 13) 5),
            (9, Instr.gather (ctl 13) 5), (10, Instr.scatterMerge (ctl 13) 5), (11, Instr.runJob (ctl 13) 5),
            (12, Instr.txn (ctl 13) 5), (13, Instr.cancel (ctl 13) 5)] ∧
        admitCheck stock.dev 0 (ctl 13) = none ∧
          (List.map (fun x => x.slot) stock.dev.reqs).Nodup ∧
            ∀ (x : Req),
              x ∈ stock.dev.reqs → ¬(BitVec.toNat x.tag = Desc.target (ctl 13).desc ∧ x.basin = 0 ∧ x.live = true) := ⟨by unfold Turn; decide +kernel, by decide +kernel⟩

theorem witness_ControlDescriptors_7 :
    Turn stock (ctl 6) 5 0 0 6 ∧
      (6, Instr.continue (ctl 6) 5) ∈
          [(0, Instr.undefinedOpcode (ctl 6) 5), (1, Instr.query (ctl 6) 5), (2, Instr.search (ctl 6) 5),
            (3, Instr.embed (ctl 6) 5), (4, Instr.rerank (ctl 6) 5), (5, Instr.generate (ctl 6) 5),
            (6, Instr.continue (ctl 6) 5), (7, Instr.park (ctl 6) 5), (8, Instr.releaseHandle (ctl 6) 5),
            (9, Instr.gather (ctl 6) 5), (10, Instr.scatterMerge (ctl 6) 5), (11, Instr.runJob (ctl 6) 5),
            (12, Instr.txn (ctl 6) 5), (13, Instr.cancel (ctl 6) 5)] ∧
        admitCheck stock.dev 0 (ctl 6) = none ∧
          (List.map (fun x => x.slot) stock.dev.reqs).Nodup ∧
            ∀ (x : Req), x ∈ stock.dev.reqs → ¬(BitVec.toNat x.tag = Desc.target (ctl 6).desc ∧ x.basin = 0 ∧ x.live = true) := ⟨by unfold Turn; decide +kernel, by decide +kernel⟩

theorem witness_ControlDescriptors_8 :
    Turn stock (ctl 7) 5 0 0 7 ∧
      (7, Instr.park (ctl 7) 5) ∈
          [(0, Instr.undefinedOpcode (ctl 7) 5), (1, Instr.query (ctl 7) 5), (2, Instr.search (ctl 7) 5),
            (3, Instr.embed (ctl 7) 5), (4, Instr.rerank (ctl 7) 5), (5, Instr.generate (ctl 7) 5),
            (6, Instr.continue (ctl 7) 5), (7, Instr.park (ctl 7) 5), (8, Instr.releaseHandle (ctl 7) 5),
            (9, Instr.gather (ctl 7) 5), (10, Instr.scatterMerge (ctl 7) 5), (11, Instr.runJob (ctl 7) 5),
            (12, Instr.txn (ctl 7) 5), (13, Instr.cancel (ctl 7) 5)] ∧
        admitCheck stock.dev 0 (ctl 7) = none ∧
          (List.map (fun x => x.slot) stock.dev.reqs).Nodup ∧
            ∀ (x : Req), x ∈ stock.dev.reqs → ¬(BitVec.toNat x.tag = Desc.target (ctl 7).desc ∧ x.basin = 0 ∧ x.live = true) := ⟨by unfold Turn; decide +kernel, by decide +kernel⟩

theorem witness_ControlDescriptors_9 :
    Turn stock oldFetch 5 0 0 8 ∧
      (8, Instr.releaseHandle oldFetch 5) ∈
          [(0, Instr.undefinedOpcode oldFetch 5), (1, Instr.query oldFetch 5), (2, Instr.search oldFetch 5),
            (3, Instr.embed oldFetch 5), (4, Instr.rerank oldFetch 5), (5, Instr.generate oldFetch 5),
            (6, Instr.continue oldFetch 5), (7, Instr.park oldFetch 5), (8, Instr.releaseHandle oldFetch 5),
            (9, Instr.gather oldFetch 5), (10, Instr.scatterMerge oldFetch 5), (11, Instr.runJob oldFetch 5),
            (12, Instr.txn oldFetch 5), (13, Instr.cancel oldFetch 5)] ∧
        admitCheck stock.dev 0 oldFetch = none ∧
          (List.map (fun x => x.slot) stock.dev.reqs).Nodup ∧ findHandle stock.dev (Desc.handle oldFetch.desc) 0 = none := ⟨by unfold Turn; decide +kernel, by decide +kernel⟩

theorem witness_ControlDescriptors_10 :
    Turn handleUp oldFetch 5 0 0 8 ∧
      (8, Instr.releaseHandle oldFetch 5) ∈
          [(0, Instr.undefinedOpcode oldFetch 5), (1, Instr.query oldFetch 5), (2, Instr.search oldFetch 5),
            (3, Instr.embed oldFetch 5), (4, Instr.rerank oldFetch 5), (5, Instr.generate oldFetch 5),
            (6, Instr.continue oldFetch 5), (7, Instr.park oldFetch 5), (8, Instr.releaseHandle oldFetch 5),
            (9, Instr.gather oldFetch 5), (10, Instr.scatterMerge oldFetch 5), (11, Instr.runJob oldFetch 5),
            (12, Instr.txn oldFetch 5), (13, Instr.cancel oldFetch 5)] ∧
        admitCheck handleUp.dev 0 oldFetch = none ∧
          (List.map (fun x => x.slot) handleUp.dev.reqs).Nodup ∧
            findHandle handleUp.dev (Desc.handle oldFetch.desc) 0 = some h0 ∧ h0.holds = [] := ⟨by unfold Turn; decide +kernel, by decide +kernel⟩

theorem witness_ControlDescriptors_11 :
    Turn handleHeld oldFetch 5 0 0 8 ∧
      (8, Instr.releaseHandle oldFetch 5) ∈
          [(0, Instr.undefinedOpcode oldFetch 5), (1, Instr.query oldFetch 5), (2, Instr.search oldFetch 5),
            (3, Instr.embed oldFetch 5), (4, Instr.rerank oldFetch 5), (5, Instr.generate oldFetch 5),
            (6, Instr.continue oldFetch 5), (7, Instr.park oldFetch 5), (8, Instr.releaseHandle oldFetch 5),
            (9, Instr.gather oldFetch 5), (10, Instr.scatterMerge oldFetch 5), (11, Instr.runJob oldFetch 5),
            (12, Instr.txn oldFetch 5), (13, Instr.cancel oldFetch 5)] ∧
        admitCheck handleHeld.dev 0 oldFetch = none ∧
          (List.map (fun x => x.slot) handleHeld.dev.reqs).Nodup ∧
            findHandle handleHeld.dev (Desc.handle oldFetch.desc) 0 = some hHeld ∧ hHeld.holds ≠ [] := ⟨by unfold Turn; decide +kernel, by decide +kernel⟩

theorem witness_ControlDescriptors_12 :
    Turn tgContUp (ctl 13) 5 0 0 13 ∧
      (13, Instr.cancel (ctl 13) 5) ∈
          [(0, Instr.undefinedOpcode (ctl 13) 5), (1, Instr.query (ctl 13) 5), (2, Instr.search (ctl 13) 5),
            (3, Instr.embed (ctl 13) 5), (4, Instr.rerank (ctl 13) 5), (5, Instr.generate (ctl 13) 5),
            (6, Instr.continue (ctl 13) 5), (7, Instr.park (ctl 13) 5), (8, Instr.releaseHandle (ctl 13) 5),
            (9, Instr.gather (ctl 13) 5), (10, Instr.scatterMerge (ctl 13) 5), (11, Instr.runJob (ctl 13) 5),
            (12, Instr.txn (ctl 13) 5), (13, Instr.cancel (ctl 13) 5)] ∧
        admitCheck tgContUp.dev 0 (ctl 13) = none ∧
          (List.map (fun x => x.slot) tgContUp.dev.reqs).Nodup ∧
            findReq tgContUp.dev (Desc.target (ctl 13).desc % 2 ^ 20) = some tgtCont ∧
              BitVec.toNat tgtCont.tag = Desc.target (ctl 13).desc ∧
                tgtCont.basin = 0 ∧ tgtCont.live = true ∧ tgtCont.op = 6 ∧ Desc.target tgtCont.desc % 2 ^ 20 ≠ 5 := ⟨by unfold Turn; decide +kernel, by decide +kernel⟩

theorem witness_StreamedInputStops_1 :
    findReq tgUp.dev 6 = some tgt ∧
      tgt.live = true ∧
        tgt.awaiting = true ∧
          tgt.parked = false ∧ tgt.silent = false ∧ tgt.due = [] ∧ (List.map (fun x => x.slot) tgUp.dev.reqs).Nodup := by decide +kernel

theorem witness_StreamedInputStops_2 :
    findReq tgQuietUp.dev 6 = some tgtQuiet ∧ tgtQuiet.awaiting = false := by decide +kernel

theorem witness_InputsAreCut_1 :
    AtWork embedText embedReq ∧
      embedReq.stage = Stage.input ∧
        embedReq.bufs = [embedReq.slot] ∧
          embedReq.awaiting = false ∧
            (embedReq.op = 2 ∨ embedReq.op = 3) ∧
              embedReq.pins.enc = some 2 ∧
                findVer embedText.dev 2 = some modelV ∧
                  vocabOf embedText.dev modelV = Acc.ok vocV ∧
                    embedReq.cuts = [] ∧
                      embedReq.input = [] ∧
                        inPoison embedText.dev embedReq = false ∧
                          isArmed embedText.dev Blk.tok 0 = false ∧
                            (cutPiece vocV false true [] (inBytes embedText.dev embedReq)).tokens.length ≤
                                Prof.maxIn (Req.prof embedText.dev embedReq) ∧
                              embedText.dev.host.failed.contains (embedReq.basin, embedReq.outRing) = false := ⟨by unfold AtWork; decide +kernel, by decide +kernel⟩

theorem witness_InputsAreCut_2 :
    AtWork embedArmed embedReq ∧
      embedReq.stage = Stage.input ∧
        embedReq.bufs = [embedReq.slot] ∧
          embedReq.awaiting = false ∧
            (embedReq.op = 2 ∨ embedReq.op = 3) ∧
              embedReq.pins.enc = some 2 ∧
                findVer embedArmed.dev 2 = some modelV ∧
                  vocabOf embedArmed.dev modelV = Acc.ok vocV ∧
                    embedReq.cuts = [] ∧
                      embedReq.input = [] ∧
                        inPoison embedArmed.dev embedReq = false ∧ isArmed embedArmed.dev Blk.tok 0 = true := ⟨by unfold AtWork; decide +kernel, by decide +kernel⟩

theorem witness_InputsAreCut_3 :
    AtWork embedLong embedReq ∧
      embedReq.stage = Stage.input ∧
        embedReq.bufs = [embedReq.slot] ∧
          embedReq.awaiting = false ∧
            (embedReq.op = 2 ∨ embedReq.op = 3) ∧
              embedReq.pins.enc = some 2 ∧
                findVer embedLong.dev 2 = some modelV ∧
                  vocabOf embedLong.dev modelV = Acc.ok vocV ∧
                    embedReq.cuts = [] ∧
                      embedReq.input = [] ∧
                        inPoison embedLong.dev embedReq = false ∧
                          isArmed embedLong.dev Blk.tok 0 = false ∧
                            Prof.maxIn (Req.prof embedLong.dev embedReq) <
                              (cutPiece vocV false true [] (inBytes embedLong.dev embedReq)).tokens.length := ⟨by unfold AtWork; decide +kernel, by decide +kernel⟩

theorem witness_EmbeddingEnds_1 :
    AtWork (withReq stock embBusy) embBusy ∧
      embBusy.busy = true ∧
        embBusy.stage = Stage.embed ∧
          workPoison (withReq stock embBusy).dev embBusy WorkWord.weights = none ∧
            embBusy.op = 3 ∧ 16 + 4 * (encodeVec (withReq stock embBusy).dev embBusy).length ≤ Desc.outCap embBusy.desc := ⟨by unfold AtWork; decide +kernel, by decide +kernel⟩

theorem witness_EmbeddingEnds_2 :
    AtWork (withReq stock embTight) embTight ∧
      embTight.busy = true ∧
        embTight.stage = Stage.embed ∧
          workPoison (withReq stock embTight).dev embTight WorkWord.weights = none ∧
            embTight.op = 3 ∧ Desc.outCap embTight.desc < 16 + 4 * (encodeVec (withReq stock embTight).dev embTight).length := ⟨by unfold AtWork; decide +kernel, by decide +kernel⟩

theorem witness_EmbeddingEnds_3 :
    AtWork (withReq stock embSearch) embSearch ∧
      embSearch.busy = true ∧
        embSearch.stage = Stage.embed ∧
          workPoison (withReq stock embSearch).dev embSearch WorkWord.weights = none ∧
            embSearch.op ≤ 2 ∧ Prof.cheap (Req.prof (withReq stock embSearch).dev embSearch) 0 = false := ⟨by unfold AtWork; decide +kernel, by decide +kernel⟩

theorem witness_EmbeddingEnds_4 :
    AtWork (withReq stock embIdle) embIdle ∧ embIdle.busy = false := ⟨by unfold AtWork; decide +kernel, by decide +kernel⟩

theorem witness_WalkStages_1 :
    AtWork granted grantReq ∧
      grantReq.stage = Stage.grant ∧
        granted.dev.eng.walkWait.head? = some grantReq.slot ∧
          isArmed granted.dev Blk.walk 0 = false ∧
            walkContexts granted.dev < 1024 ∧ walkSlots granted.dev + slotsFor granted.dev grantReq ≤ 1536 := ⟨by unfold AtWork; decide +kernel, by decide +kernel⟩

theorem witness_WalkStages_2 :
    AtWork behind grantReq ∧
      grantReq.stage = Stage.grant ∧
        (behind.dev.eng.walkWait.head? ≠ some grantReq.slot ∨ isArmed behind.dev Blk.walk 0 = true) := ⟨by unfold AtWork; decide +kernel, by decide +kernel⟩

theorem witness_WalkStages_3 :
    AtWork (withReq stock tableReq) tableReq ∧
      tableReq.walk = some noWalk ∧
        Req.named (withReq stock tableReq).dev tableReq.pins.index = some indexV ∧
          tableReq.stage = Stage.table ∧
            vRead (withReq stock tableReq).dev tableReq.basin (Idx.codebook indexV.desc) (512 * Idx.D indexV.desc) =
                Acc.ok cbV ∧
              (have bt := buildTable (Idx.metric indexV.desc) (Idx.M indexV.desc) (Idx.D indexV.desc) tableReq.qvec cbV;
                startQueue (withReq stock tableReq).dev indexV
                    { table := bt.fst, scale := bt.snd.fst, dmin := bt.snd.snd, queue := noWalk.queue,
                      visited := noWalk.visited, pool := noWalk.pool, window := noWalk.window,
                      expansions := noWalk.expansions, rewalks := noWalk.rewalks, reads := noWalk.reads }
                    (Idx.entries indexV.desc) =
                  Acc.ok walk0) ∧
                ((List.take walk0.window walk0.queue).any fun e => decide (e.st = QState.opened)) = true ∧
                  walk0.expansions < Prof.hopLimit (Req.prof (withReq stock tableReq).dev tableReq) := ⟨by unfold AtWork; decide +kernel, by decide +kernel⟩

theorem witness_WalkStages_4 :
    AtWork (withReq stock walkReq) walkReq ∧
      walkReq.walk = some walk1 ∧
        Req.named (withReq stock walkReq).dev walkReq.pins.index = some indexV ∧
          walkReq.stage = Stage.walk ∧ walk1.reads = [] := ⟨by unfold AtWork; decide +kernel, by decide +kernel⟩

theorem witness_WalkStages_5 :
    AtWork (withReq stock readReq) readReq ∧
      readReq.walk = some walkReading ∧
        Req.named (withReq stock readReq).dev readReq.pins.index = some indexV ∧
          readReq.stage = Stage.walk ∧
            walkReading.reads ≠ [] ∧
              List.foldl (applyRecord readReq indexV) ((withReq stock readReq).dev, walkReading, none) walkReading.reads =
                  ((arrived walkReading readReq).fst, (arrived walkReading readReq).snd.fst, none) ∧
                ((List.take (arrived walkReading readReq).snd.fst.window (arrived walkReading readReq).snd.fst.queue).any
                      fun e => decide (e.st = QState.opened)) =
                    true ∧
                  (arrived walkReading readReq).snd.fst.expansions + 1 <
                    Prof.hopLimit (Req.prof (withReq stock readReq).dev readReq) := ⟨by unfold AtWork; decide +kernel, by decide +kernel⟩

theorem witness_BudgetsAndDeadlines_1 :
    AtWork budgetUp twoReq ∧
      twoReq.stage = Stage.walk ∧
        twoReq.walk = some walkTwo ∧
          List.find? (fun y => decide (y.id = 0) && !y.late) walkTwo.reads =
              some { id := 0, issued := 0, late := false, hit := true } ∧
            Prof.readBudget (Req.prof budgetUp.dev twoReq) ≠ 0 ∧
              Prof.cheap (Req.prof budgetUp.dev twoReq) 0 = false ∧ ∃ y, y ∈ walkTwo.reads ∧ y.id ≠ 0 ∧ y.late = false := ⟨by unfold AtWork; decide +kernel, by decide +kernel⟩

theorem witness_BudgetsAndDeadlines_2 :
    AtWork dlUp dlReq ∧
      dlReq.dlSearch = some 1000 ∧
        Prof.cheap (Req.prof dlUp.dev dlReq) 0 = true ∧
          (dlReq.stage = Stage.grant ∨ dlReq.stage = Stage.table ∨ dlReq.stage = Stage.walk) := ⟨by unfold AtWork; decide +kernel, by decide +kernel⟩

theorem witness_BudgetsAndDeadlines_3 :
    AtWork dlHard dlReq ∧ dlReq.dlSearch = some 1000 ∧ Prof.cheap (Req.prof dlHard.dev dlReq) 0 = false := ⟨by unfold AtWork; decide +kernel, by decide +kernel⟩

theorem witness_BudgetsAndDeadlines_4 :
    AtWork rankUp rankReq ∧
      rankReq.dlRerank = some 1000 ∧
        Prof.cheap (Req.prof rankUp.dev rankReq) 1 = true ∧
          rankReq.stage = Stage.fetchRank ∧ rankReq.op = 1 ∧ 16 + 16 * rankReq.evid.length ≤ Desc.outCap rankReq.desc := ⟨by unfold AtWork; decide +kernel, by decide +kernel⟩

theorem witness_BudgetsAndDeadlines_5 :
    AtWork (withReq stock rankReq) rankReq ∧
      rankReq.dlRerank = some 1000 ∧
        (rankReq.stage ≠ Stage.fetchRank ∨ Prof.cheap (Req.prof (withReq stock rankReq).dev rankReq) 1 = false) := ⟨by unfold AtWork; decide +kernel, by decide +kernel⟩

theorem witness_BudgetsAndDeadlines_6 :
    AtWork modelUp modelReq ∧
      modelReq.dlModel = some 1000 ∧
        modelReq.stage = Stage.model ∧
          modelReq.op = 1 ∧
            modelReq.hold = none ∧
              modelReq.stream = none ∧
                modelReq.pins.gen = some 2 ∧
                  isResident modelUp.dev (some 2) = false ∧
                    Prof.cheap (Req.prof modelUp.dev modelReq) 2 = true ∧
                      modelReq.pins.fb = some 6 ∧
                        findVer modelUp.dev 6 = some fbV ∧
                          modelReq.prompt.length ≤ Mdl.maxCtx fbV.desc ∧
                            fitsHbm modelUp.dev modelReq.basin (Mdl.kvPages fbV.desc modelReq.prompt.length) = true := ⟨by unfold AtWork; decide +kernel, by decide +kernel⟩

theorem witness_BudgetsAndDeadlines_7 :
    AtWork modelHard modelReq ∧
      modelReq.dlModel = some 1000 ∧
        (modelReq.stage ≠ Stage.model ∨
          isResident modelHard.dev modelReq.pins.gen = false ∧ Prof.cheap (Req.prof modelHard.dev modelReq) 2 = false) := ⟨by unfold AtWork; decide +kernel, by decide +kernel⟩

theorem witness_PromptsPacked_1 :
    AtWork packUp packReq ∧
      packReq.stage = Stage.pack ∧
        packReq.busy = true ∧
          Req.named packUp.dev packReq.pins.index = some indexV ∧
            Req.named packUp.dev packReq.pins.gen = some asleepV ∧
              Req.named packUp.dev packReq.pins.tmpl = some tmplV ∧
                vocabOf packUp.dev asleepV = Acc.ok vocV ∧
                  (∀ (e : Evid),
                      e ∈ packReq.evid → (passageText packUp.dev packReq indexV e.id).snd = Acc.ok (noText e.id)) ∧
                    asleepV.resident = false ∧ Prof.cheap (Req.prof packUp.dev packReq) 2 = false := ⟨by unfold AtWork; decide +kernel, by decide +kernel⟩

theorem witness_PromptsPacked_2 :
    AtWork packPassages packReq ∧
      packReq.stage = Stage.pack ∧
        packReq.busy = true ∧
          Req.named packPassages.dev packReq.pins.index = some indexV ∧
            Req.named packPassages.dev packReq.pins.gen = some asleepV ∧
              Req.named packPassages.dev packReq.pins.tmpl = some tmplP ∧
                vocabOf packPassages.dev asleepV = Acc.ok vocV ∧
                  (∀ (e : Evid),
                      e ∈ packReq.evid → (passageText packPassages.dev packReq indexV e.id).snd = Acc.ok (noText e.id)) ∧
                    asleepV.resident = false ∧ Prof.cheap (Req.prof packPassages.dev packReq) 2 = false := ⟨by unfold AtWork; decide +kernel, by decide +kernel⟩

theorem witness_SortCommands_1 :
    List.find? (fun y => decide (y.id = 3)) sortUp.dev.eng.sorts = some sortJob ∧
      (∀ (y : SortCmd), y ∈ sortUp.dev.eng.sorts → sortStarts sortUp.dev y = false) ∧
        sortJob.running = true ∧
          sortJob.slot = none ∧
            sortJob.bad = none ∧
              sortFieldBad sortJob.bytes = none ∧
                bitOf (SortC.mode sortJob.bytes) 4 = false ∧
                  listsFrom sortUp.dev sortJob.basin (SortC.listAddr sortJob.bytes) (SortC.nList sortJob.bytes) 0 [] =
                      SortIn.recs sortXs ∧
                    ((vWrite sortUp.dev sortJob.basin (SortC.outAddr sortJob.bytes)
                            (List.flatMap recBytes
                              (sortRun sortXs (SortC.k sortJob.bytes) (bitOf (SortC.mode sortJob.bytes) 0)
                                  (bitOf (SortC.mode sortJob.bytes) 1) (bitOf (SortC.mode sortJob.bytes) 2)
                                  (bitOf (SortC.mode sortJob.bytes) 3) (SortC.temp sortJob.bytes)).recs)).bind
                        fun d =>
                        vWrite d sortJob.basin (SortC.hdrAddr sortJob.bytes)
                          (sortRun sortXs (SortC.k sortJob.bytes) (bitOf (SortC.mode sortJob.bytes) 0)
                              (bitOf (SortC.mode sortJob.bytes) 1) (bitOf (SortC.mode sortJob.bytes) 2)
                              (bitOf (SortC.mode sortJob.bytes) 3) (SortC.temp sortJob.bytes)).header) =
                      Acc.ok sortD := by decide +kernel

theorem witness_SortCommands_2 :
    AtWork selUp selReq ∧
      List.find? (fun y => decide (y.id = 4)) selUp.dev.eng.sorts = some selCmd ∧
        (∀ (y : SortCmd), y ∈ selUp.dev.eng.sorts → sortStarts selUp.dev y = false) ∧
          selCmd.running = true ∧
            selCmd.slot = some selReq.slot ∧ selReq.stage = Stage.select ∧ selReq.op = 2 ∧ 16 ≤ Desc.outCap selReq.desc := ⟨by unfold AtWork; decide +kernel, by decide +kernel⟩

theorem witness_SortCommands_3 :
    AtWork selTightUp selTight ∧
      List.find? (fun y => decide (y.id = 4)) selTightUp.dev.eng.sorts = some selCmd ∧
        (∀ (y : SortCmd), y ∈ selTightUp.dev.eng.sorts → sortStarts selTightUp.dev y = false) ∧
          selCmd.running = true ∧
            selCmd.slot = some selTight.slot ∧
              selTight.stage = Stage.select ∧ selTight.op = 2 ∧ 16 ≤ Desc.outCap selTight.desc := ⟨by unfold AtWork; decide +kernel, by decide +kernel⟩

theorem witness_SortCommands_4 :
    List.find? (fun y => decide (y.id = 20)) sortFull.dev.eng.sorts = some sortNinth ∧
      (∀ (y : SortCmd), y ∈ sortFull.dev.eng.sorts → sortStarts sortFull.dev y = false) ∧ sortNinth.running = false := by decide +kernel

theorem witness_SortCommands_5 :
    AtWork selTieUp selTie ∧
      List.find? (fun y => decide (y.id = 4)) selTieUp.dev.eng.sorts = some selCmd ∧
        (∀ (y : SortCmd), y ∈ selTieUp.dev.eng.sorts → sortStarts selTieUp.dev y = false) ∧
          selCmd.running = true ∧
            selCmd.slot = some selTie.slot ∧
              selTie.stage = Stage.select ∧
                selTie.op = 2 ∧
                  (sortRun (selectRecs selTie) (searchK selTie (Req.prof selTieUp.dev selTie)) false false false
                          (Prof.ctl (Req.prof selTieUp.dev selTie) 1) 0).tie =
                      true ∧
                    16 ≤ Desc.outCap selTie.desc := ⟨by unfold AtWork; decide +kernel, by decide +kernel⟩

theorem witness_SortCommands_6 :
    AtWork selShortUp selShort ∧
      List.find? (fun y => decide (y.id = 4)) selShortUp.dev.eng.sorts = some selCmd ∧
        (∀ (y : SortCmd), y ∈ selShortUp.dev.eng.sorts → sortStarts selShortUp.dev y = false) ∧
          selCmd.running = true ∧
            selCmd.slot = some selShort.slot ∧
              selShort.stage = Stage.select ∧
                selShort.op = 2 ∧
                  (sortRun (selectRecs selShort) (searchK selShort (Req.prof selShortUp.dev selShort)) false false false
                          (Prof.ctl (Req.prof selShortUp.dev selShort) 1) 0).short =
                      true ∧
                    16 ≤ Desc.outCap selShort.desc := ⟨by unfold AtWork; decide +kernel, by decide +kernel⟩

theorem witness_Passes_1 :
    AtWork preUp preReq ∧
      preReq.stream = some strm ∧
        findVer preUp.dev strm.model = some modelV ∧
          preReq.busy = false ∧
            (preReq.stage = Stage.prefill ∨ preReq.stage = Stage.decode) ∧
              verFits preUp.dev modelV = true ∧
                (∀ (p : Pass), p ∈ preUp.dev.eng.passes → p.id ≠ preUp.dev.eng.nextId) ∧
                  readyKind preReq = some PassKind.prefill ∧
                    modelV.resident = true ∧
                      isArmed preUp.dev Blk.gen 0 = false ∧
                        storeHere preUp.dev preReq = true ∧
                          weirRoom preUp.dev modelV = true ∧
                            weirBefore preUp.dev modelV [preReq.slot] = false ∧
                              firstReady preUp.dev PassKind.prefill modelV.uid preReq.basin [preReq.slot] = true ∧
                                (PassKind.prefill = PassKind.prefill ∨
                                    takesUp preUp.dev preReq.basin (undriven preUp.dev [preReq.slot]) = true) ∧
                                  0 = newPositions PassKind.prefill strm ∧
                                    Mdl.kvPages modelV.desc (strm.fed + 0) - strm.shared ≤ strm.pages := ⟨by unfold AtWork; decide +kernel, by decide +kernel⟩

theorem witness_Passes_2 :
    AtWork (Tests.asleep preUp) preReq ∧
      preReq.stream = some strm ∧
        findVer (Tests.asleep preUp).dev strm.model = some asleepV ∧
          preReq.busy = false ∧
            (preReq.stage = Stage.prefill ∨ preReq.stage = Stage.decode) ∧
              verFits (Tests.asleep preUp).dev asleepV = true ∧
                (∀ (p : Pass), p ∈ (Tests.asleep preUp).dev.eng.passes → p.id ≠ (Tests.asleep preUp).dev.eng.nextId) ∧
                  weirRoom (Tests.asleep preUp).dev asleepV = true ∧
                    weirBefore (Tests.asleep preUp).dev asleepV [preReq.slot] = false ∧ asleepV.resident = false := ⟨by unfold AtWork; decide +kernel, by decide +kernel⟩

theorem witness_Passes_3 :
    AtWork (withReq stock decReq) decReq ∧
      decReq.stream = some decStrm ∧
        findVer (withReq stock decReq).dev decStrm.model = some modelV ∧
          decReq.busy = false ∧
            (decReq.stage = Stage.prefill ∨ decReq.stage = Stage.decode) ∧
              verFits (withReq stock decReq).dev modelV = true ∧
                (∀ (p : Pass), p ∈ (withReq stock decReq).dev.eng.passes → p.id ≠ (withReq stock decReq).dev.eng.nextId) ∧
                  readyKind decReq = some PassKind.decode ∧
                    modelV.resident = true ∧
                      isArmed (withReq stock decReq).dev Blk.gen 0 = false ∧
                        storeHere (withReq stock decReq).dev decReq = true ∧
                          weirRoom (withReq stock decReq).dev modelV = true ∧
                            weirBefore (withReq stock decReq).dev modelV [decReq.slot] = false ∧
                              firstReady (withReq stock decReq).dev PassKind.decode modelV.uid decReq.basin [decReq.slot] =
                                  true ∧
                                (PassKind.decode = PassKind.prefill ∨
                                    takesUp (withReq stock decReq).dev decReq.basin
                                        (undriven (withReq stock decReq).dev [decReq.slot]) =
                                      true) ∧
                                  1 = newPositions PassKind.decode decStrm ∧
                                    Mdl.kvPages modelV.desc (decStrm.fed + 1) - decStrm.shared ≤ decStrm.pages := ⟨by unfold AtWork; decide +kernel, by decide +kernel⟩

theorem witness_Passes_4 :
    AtWork preEnd preBusy ∧
      preBusy.stream = some strm ∧
        findVer preEnd.dev strm.model = some modelV ∧
          List.find? (fun p => decide (p.id = prePass.id)) preEnd.dev.eng.passes = some prePass ∧
            prePass.slots = [preBusy.slot] ∧
              prePass.model = strm.model ∧
                prePass.bad = [] ∧
                  workPoison preEnd.dev preBusy WorkWord.kv = none ∧
                    vocabOf preEnd.dev modelV = Acc.ok vocV ∧
                      prePass.kind = PassKind.prefill ∧
                        prePass.props = [[]] ∧ prePass.counts = [2] ∧ strm.fed + 2 < strm.prompt.length := ⟨by unfold AtWork; decide +kernel, by decide +kernel⟩

theorem witness_Passes_5 :
    AtWork decEnd decBusy ∧
      decBusy.stream = some decStrm ∧
        findVer decEnd.dev decStrm.model = some modelV ∧
          List.find? (fun p => decide (p.id = decPass.id)) decEnd.dev.eng.passes = some decPass ∧
            decPass.slots = [decBusy.slot] ∧
              decPass.model = decStrm.model ∧
                decPass.bad = [] ∧
                  workPoison decEnd.dev decBusy WorkWord.kv = none ∧
                    vocabOf decEnd.dev modelV = Acc.ok vocV ∧
                      decPass.kind = PassKind.decode ∧
                        decPass.props = [[]] ∧
                          decPass.counts = [1] ∧
                            decBusy.op = 5 ∧
                              Prof.spec (Req.prof decEnd.dev decBusy) ≠ 2 ∧
                                Prof.sampling (Req.prof decEnd.dev decBusy) = 0 ∧
                                  Req.named decEnd.dev decBusy.pins.grammar = none ∧
                                    vocV.tokens ≠ [] ∧
                                      decStrm.gen.length + 1 <
                                          tokenLimit decBusy (Req.prof decEnd.dev decBusy) decStrm modelV ∧
                                        Mdl.kvPages modelV.desc (decStrm.fed + 1) - decStrm.shared ≤ decStrm.pages ∧
                                          0 ≠ vocV.eos ∧ decStrm.answer + (spellOf vocV 0).length ≤ Desc.outCap decBusy.desc := ⟨by unfold AtWork; decide +kernel, by decide +kernel⟩

theorem witness_Passes_6 :
    AtWork
        (withDev preUp fun d =>
          { now := d.now, fresh := d.fresh, regs := d.regs, host := d.host,
            txn :=
              let __src := d.txn;
              { waiting := __src.waiting, active := __src.active, held := __src.held, last := __src.last,
                unsure := __src.unsure, versions := [profV, wideV, indexV], nextUid := __src.nextUid },
            tagCounts := d.tagCounts, reqs := d.reqs, eng := d.eng, mem := d.mem, log := d.log, jobs := d.jobs,
            links := d.links, flash := d.flash, power := d.power })
        preReq ∧
      preReq.stream = some strm ∧
        findVer
              (withDev preUp fun d =>
                  { now := d.now, fresh := d.fresh, regs := d.regs, host := d.host,
                    txn :=
                      let __src := d.txn;
                      { waiting := __src.waiting, active := __src.active, held := __src.held, last := __src.last,
                        unsure := __src.unsure, versions := [profV, wideV, indexV], nextUid := __src.nextUid },
                    tagCounts := d.tagCounts, reqs := d.reqs, eng := d.eng, mem := d.mem, log := d.log, jobs := d.jobs,
                    links := d.links, flash := d.flash, power := d.power }).dev
              strm.model =
            some wideV ∧
          verFits
              (withDev preUp fun d =>
                  { now := d.now, fresh := d.fresh, regs := d.regs, host := d.host,
                    txn :=
                      let __src := d.txn;
                      { waiting := __src.waiting, active := __src.active, held := __src.held, last := __src.last,
                        unsure := __src.unsure, versions := [profV, wideV, indexV], nextUid := __src.nextUid },
                    tagCounts := d.tagCounts, reqs := d.reqs, eng := d.eng, mem := d.mem, log := d.log, jobs := d.jobs,
                    links := d.links, flash := d.flash, power := d.power }).dev
              wideV =
            false := ⟨by unfold AtWork; decide +kernel, by decide +kernel⟩

theorem witness_Passes_7 :
    AtWork weirQueue lateReq ∧
      lateReq.stream = some lateStrm ∧
        findVer weirQueue.dev lateStrm.model = some modelV ∧
          lateReq.busy = false ∧
            (lateReq.stage = Stage.prefill ∨ lateReq.stage = Stage.decode) ∧
              verFits weirQueue.dev modelV = true ∧
                (∀ (p : Pass), p ∈ weirQueue.dev.eng.passes → p.id ≠ weirQueue.dev.eng.nextId) ∧
                  (weirRoom weirQueue.dev modelV = false ∨ weirBefore weirQueue.dev modelV [lateReq.slot] = true) := ⟨by unfold AtWork; decide +kernel, by decide +kernel⟩

theorem witness_HandleMoves_1 :
    findHandleIdx (withH stock hMoving).dev 3 = some hMoving ∧
      hMoving.moving = true ∧ hMoving.inPool = false ∧ hMoving.holds = [] ∧ hMoving.expiry = none := by decide +kernel

theorem witness_HandleMoves_2 :
    findHandleIdx (withH stock hHeld).dev 3 = some hHeld ∧ hHeld.st ≠ HandleState.idle ∧ hHeld.expiry = none := by decide +kernel

theorem witness_HandleMoves_3 :
    findHandleIdx (withH stock hParked).dev 3 = some hParked ∧
      hParked.st ≠ HandleState.idle ∧ hParked.expiry = some 500 ∧ hParked.released = false ∧ hParked.holds = [] := by decide +kernel

theorem witness_HandleMoves_4 :
    findHandleIdx (withH stock hBack).dev 3 = some hBack ∧
      hBack.st ≠ HandleState.idle ∧
        hBack.moving = true ∧ hBack.inPool = true ∧ hBack.holds = [] ∧ hBack.expiry = some 500 ∧ hBack.released = false := by decide +kernel

theorem witness_HandleMoves_5 :
    findHandleIdx (withH stock hHeldOut).dev 3 = some hHeldOut ∧
      hHeldOut.st ≠ HandleState.idle ∧ hHeldOut.expiry = some 500 ∧ hHeldOut.released = false ∧ hHeldOut.holds ≠ [] := by decide +kernel

theorem witness_GathersRead_1 :
    List.find? (fun x => decide (x.id = 6)) gathUp.dev.eng.gaths = some gath0 ∧
      gath0.merge = false ∧
        gathReady gathUp.dev gath0 = true ∧
          gathPortsUp gathUp.dev gath0 = true ∧
            findVer gathUp.dev gath0.ver = some tableV ∧
              gath0.slot = some gathReq.slot ∧
                findReq gathUp.dev gathReq.slot = some gathReq ∧
                  gathReq.live = true ∧
                    gathReq.due = [] ∧
                      gathReq.silent = false ∧
                        (List.map (fun x => x.slot) gathUp.dev.reqs).Nodup ∧
                          inPart gathUp.dev gathReq 0 (min 16 gathReq.inLen) = Acc.ok gathHdr ∧
                            gathHeaderOk false gathReq.inLen 0 gathHdr = true ∧
                              applyWaits gathUp.dev tableV.uid = false ∧
                                16 ≤ Desc.outCap gathReq.desc ∧
                                  gatherLoop gathUp.dev (reqGath gathUp.dev gath0 gathReq tableV gathHdr) none
                                      (some ((Desc.outCap gathReq.desc - 16) / Tbl.rowBytes tableV.desc))
                                      (fieldN gathHdr 0 4) 0 [] =
                                    (gathRows, none) := by decide +kernel

theorem witness_GathersRead_2 :
    List.find? (fun x => decide (x.id = 6)) gathBehind.dev.eng.gaths = some gath0 ∧
      gath0.merge = false ∧
        gathReady gathBehind.dev gath0 = true ∧
          gathPortsUp gathBehind.dev gath0 = true ∧
            findVer gathBehind.dev gath0.ver = some tableV ∧
              gath0.slot = some gathReq.slot ∧
                findReq gathBehind.dev gathReq.slot = some gathReq ∧
                  gathReq.live = true ∧
                    gathReq.due = [] ∧
                      gathReq.silent = false ∧
                        (List.map (fun x => x.slot) gathBehind.dev.reqs).Nodup ∧
                          inPart gathBehind.dev gathReq 0 (min 16 gathReq.inLen) = Acc.ok gathHdr ∧
                            gathHeaderOk false gathReq.inLen 0 gathHdr = true ∧ applyWaits gathBehind.dev tableV.uid = true := by decide +kernel

theorem witness_GathersRead_3 :
    List.find? (fun x => decide (x.id = 6)) mergeUp.dev.eng.gaths = some merge0 ∧
      (merge0.merge = true ∨ gathReady mergeUp.dev merge0 = false ∨ gathPortsUp mergeUp.dev merge0 = false) := by decide +kernel

theorem witness_MergesSumThenApply_1 :
    List.find? (fun x => decide (x.id = 6)) mergeUp.dev.eng.gaths = some merge0 ∧
      merge0.merge = true ∧
        gathReady mergeUp.dev merge0 = true ∧
          findVer mergeUp.dev merge0.ver = some tableV ∧
            merge0.slot = some mergeReq.slot ∧
              findReq mergeUp.dev mergeReq.slot = some mergeReq ∧
                mergeReq.live = true ∧
                  mergeReq.due = [] ∧
                    mergeReq.silent = false ∧
                      (List.map (fun x => x.slot) mergeUp.dev.reqs).Nodup ∧
                        inPart mergeUp.dev mergeReq 0 (min 16 mergeReq.inLen) = Acc.ok gathHdr ∧
                          merge0.phase = GathPhase.queued ∧
                            gathHeaderOk true mergeReq.inLen (Tbl.elems tableV.desc) gathHdr = true ∧
                              mergeSum mergeUp.dev (reqGath mergeUp.dev merge0 mergeReq tableV gathHdr) =
                                (mergeD, none, mergeSums) := ⟨by decide +kernel, by decide +kernel, by decide +kernel, by decide +kernel, by decide +kernel, by decide +kernel, by decide +kernel, by decide +kernel, by decide +kernel, by decide +kernel, by decide +kernel, by decide +kernel, by decide +kernel, parts_mid (by decide +kernel)⟩

theorem witness_MergesSumThenApply_2 :
    List.find? (fun x => decide (x.id = 6)) applyUp.dev.eng.gaths = some mergeSummed ∧
      mergeSummed.merge = true ∧
        gathReady applyUp.dev mergeSummed = true ∧
          findVer applyUp.dev mergeSummed.ver = some tableV ∧
            mergeSummed.slot = some mergeReq.slot ∧
              findReq applyUp.dev mergeReq.slot = some mergeReq ∧
                mergeReq.live = true ∧
                  mergeReq.due = [] ∧
                    mergeReq.silent = false ∧
                      (List.map (fun x => x.slot) applyUp.dev.reqs).Nodup ∧
                        inPart applyUp.dev mergeReq 0 (min 16 mergeReq.inLen) = Acc.ok gathHdr ∧
                          mergeSummed.phase = GathPhase.summed ∧
                            gathPortsUp applyUp.dev mergeSummed = true ∧
                              inPart applyUp.dev mergeReq 0 16 = Acc.ok gathHdr ∧
                                Machine.applyBehind applyUp.dev mergeSummed = false ∧
                                  applyLoop (reqGath applyUp.dev mergeSummed mergeReq tableV gathHdr) none none applyUp.dev
                                      mergeSummed.sums 0 =
                                    (applied.fst, applied.snd.fst, none) := ⟨by decide +kernel, by decide +kernel, by decide +kernel, by decide +kernel, by decide +kernel, by decide +kernel, by decide +kernel, by decide +kernel, by decide +kernel, by decide +kernel, by decide +kernel, by decide +kernel, by decide +kernel, by decide +kernel, by decide +kernel, parts_end (by decide +kernel)⟩

theorem witness_MergesSumThenApply_3 :
    List.find? (fun x => decide (x.id = 6)) Tests.applyBehind.dev.eng.gaths = some mergeSummed ∧
      mergeSummed.merge = true ∧
        gathReady Tests.applyBehind.dev mergeSummed = true ∧
          findVer Tests.applyBehind.dev mergeSummed.ver = some tableV ∧
            mergeSummed.slot = some mergeReq.slot ∧
              findReq Tests.applyBehind.dev mergeReq.slot = some mergeReq ∧
                mergeReq.live = true ∧
                  mergeReq.due = [] ∧
                    mergeReq.silent = false ∧
                      (List.map (fun x => x.slot) Tests.applyBehind.dev.reqs).Nodup ∧
                        inPart Tests.applyBehind.dev mergeReq 0 (min 16 mergeReq.inLen) = Acc.ok gathHdr ∧
                          mergeSummed.phase = GathPhase.summed ∧
                            gathPortsUp Tests.applyBehind.dev mergeSummed = true ∧
                              inPart Tests.applyBehind.dev mergeReq 0 16 = Acc.ok gathHdr ∧
                                Machine.applyBehind Tests.applyBehind.dev mergeSummed = true := by decide +kernel

theorem witness_TableCommandsTaken_1 :
    List.find? (fun x => decide (x.id = 6)) cmdUp.dev.eng.gaths = some gathJob ∧
      gathJob.ctx = some 9 ∧
        findCtx cmdUp.dev 9 = some ctxR ∧
          gathJob.valid = false ∧
            gathRunning cmdUp.dev gathJob = true ∧
              gathJob.bad = none ∧
                findReq cmdUp.dev ctxR.slot = some cmdReq ∧
                  jobTable cmdUp.dev cmdReq (GathC.slot gathJob.bytes) = some tableV ∧
                    gathFieldBad gathJob.bytes cmdReq.train (some tableV) = none := by decide +kernel

theorem witness_TableCommandsTaken_2 :
    List.find? (fun x => decide (x.id = 6)) cmdDone.dev.eng.gaths = some cmdTaken ∧
      cmdTaken.ctx = some 9 ∧
        findCtx cmdDone.dev 9 = some ctxR ∧ (cmdTaken.valid = true ∨ gathRunning cmdDone.dev cmdTaken = false) := by decide +kernel

theorem witness_ScalarBundles_1 :
    Fetches (coreUp (codeCtx subSlot)) 9 0 (codeCtx subSlot) (codeCore subSlot) (sWord subSlot) ∧
      sWord subSlot % 65536 = 1 ∧
        sWord subSlot / 2 ^ 64 = 0 ∧
          1 ≤ SS.op (Bundle.slotS (sWord subSlot)) ∧
            SS.op (Bundle.slotS (sWord subSlot)) ≤ 22 ∧ SS.op (Bundle.slotS (sWord subSlot)) ≠ 15 := ⟨by unfold Fetches; decide +kernel, by decide +kernel⟩

theorem witness_ScalarBundles_2 :
    Fetches (coreUp (codeCtx 22)) 9 0 (codeCtx 22) (codeCore 22) (sWord 22) ∧
      sWord 22 % 65536 = 1 ∧
        sWord 22 / 2 ^ 64 = 0 ∧
          1 ≤ SS.op (Bundle.slotS (sWord 22)) ∧ SS.op (Bundle.slotS (sWord 22)) ≤ 22 ∧ SS.op (Bundle.slotS (sWord 22)) ≠ 15 := ⟨by unfold Fetches; decide +kernel, by decide +kernel⟩

theorem witness_IllegalBundles_1 :
    Fetches (coreUp (codeCtx 255)) 9 0 (codeCtx 255) (codeCore 255) (sWord 255) ∧
      sWord 255 % 65536 = 1 ∧
        sWord 255 / 2 ^ 64 = 0 ∧ sDefined (SS.op (Bundle.slotS (sWord 255))) = false ∧ (codeCtx 255).fault = none := ⟨by unfold Fetches; decide +kernel, by decide +kernel⟩

theorem witness_DrawsLand_1 :
    findCtx (coreUp drawCtx).dev 9 = some drawCtx ∧
      coreAt drawCtx 0 = some drawCore ∧
        basinWaits (coreUp drawCtx).dev drawCtx.basin = false ∧
          List.find? (fun y => decide (y.id = drawX.id) && y.draw) drawCore.xfers = some drawX ∧
            drawX.space = 1 ∧
              drawX.pieces = [(16, 8192, 8)] ∧
                drawCtx.phase = CtxPhase.running ∧
                  stopping (coreUp drawCtx).dev drawCtx = false ∧
                    mustWait (ordering (coreUp drawCtx).dev drawCtx drawCore) drawX = false := by decide +kernel

theorem witness_DrawsLand_2 :
    findCtx (coreUp waitCtx).dev 9 = some waitCtx ∧
      coreAt waitCtx 0 = some waitCore ∧
        basinWaits (coreUp waitCtx).dev waitCtx.basin = false ∧
          List.find? (fun y => decide (y.id = drawX.id) && y.draw) waitCore.xfers = some drawX ∧
            (mustWait (ordering (coreUp waitCtx).dev waitCtx waitCore) drawX = true ∨
              stopping (coreUp waitCtx).dev waitCtx = true) := by decide +kernel

theorem witness_DrawsLand_3 :
    findCtx (stopUp drawCtx).dev 9 = some drawCtx ∧
      coreAt drawCtx 0 = some drawCore ∧
        basinWaits (stopUp drawCtx).dev drawCtx.basin = false ∧
          List.find? (fun y => decide (y.id = drawX.id) && y.draw) drawCore.xfers = some drawX ∧
            (mustWait (ordering (stopUp drawCtx).dev drawCtx drawCore) drawX = true ∨
              stopping (stopUp drawCtx).dev drawCtx = true) := by decide +kernel

theorem witness_ReturnsComplete_1 :
    findCtx (coreUp retCtx).dev 9 = some retCtx ∧
      coreAt retCtx 0 = some retCore ∧
        basinWaits (coreUp retCtx).dev retCtx.basin = false ∧
          List.find? (fun y => decide (y.id = retX.id) && !y.draw) retCore.xfers = some retX ∧
            retX.space = 1 ∧
              retX.pieces = [(32, 8192, 4)] ∧
                retX.data.length = 4 ∧
                  retCtx.link = none ∧
                    mustWait (ordering (coreUp retCtx).dev retCtx retCore) retX = false ∧
                      retX.sent = [] ∧
                        noMajority (coreUp retCtx).dev (regA Blk.core retX.core 264) = false ∧
                          retX.epoch = reg (coreUp retCtx) Blk.core retX.core 264 ∧
                            (retCtx.phase ≠ CtxPhase.saved ∨ ∀ (r : Req), r ∈ (coreUp retCtx).dev.reqs → r.due = []) := by decide +kernel

theorem witness_ReturnsComplete_2 :
    findCtx (coreUp retWaitCtx).dev 9 = some retWaitCtx ∧
      coreAt retWaitCtx 0 = some retWait ∧
        basinWaits (coreUp retWaitCtx).dev retWaitCtx.basin = false ∧
          List.find? (fun y => decide (y.id = retX.id) && !y.draw) retWait.xfers = some retX ∧
            mustWait (ordering (coreUp retWaitCtx).dev retWaitCtx retWait) retX = true := by decide +kernel

theorem witness_ReturnsComplete_3 :
    findCtx (coreUp retOldCtx).dev 9 = some retOldCtx ∧
      coreAt retOldCtx 0 = some retOldCore ∧
        basinWaits (coreUp retOldCtx).dev retOldCtx.basin = false ∧
          List.find? (fun y => decide (y.id = retOld.id) && !y.draw) retOldCore.xfers = some retOld ∧
            retOld.space = 1 ∧
              retOld.sent = [] ∧
                mustWait (ordering (coreUp retOldCtx).dev retOldCtx retOldCore) retOld = false ∧
                  noMajority (coreUp retOldCtx).dev (regA Blk.core retOld.core 264) = false ∧
                    retOld.epoch ≠ reg (coreUp retOldCtx) Blk.core retOld.core 264 ∧
                      (retOldCtx.phase ≠ CtxPhase.saved ∨ ∀ (r : Req), r ∈ (coreUp retOldCtx).dev.reqs → r.due = []) := by decide +kernel

theorem witness_TileOperations_1 :
    findCtx (coreUp (tileCtx true)).dev 9 = some (tileCtx true) ∧
      coreAt (tileCtx true) 0 = some (tileCore true) ∧
        (tileCore true).tiles = [tfill true] ∧
          (tileCtx true).phase = CtxPhase.running ∧
            (coreUp (tileCtx true)).dev.power.relock.contains (tileCtx true).mere = false ∧
              (tfill true).started = true ∧
                stopping (coreUp (tileCtx true)).dev (tileCtx true) = false ∧
                  TS.op (tfill true).word = 1 ∧ 1 ≠ TS.ad (tfill true).word := by decide +kernel

theorem witness_TileOperations_2 :
    findCtx (coreUp (tileCtx false)).dev 9 = some (tileCtx false) ∧
      coreAt (tileCtx false) 0 = some (tileCore false) ∧
        (tileCore false).tiles = [tfill false] ∧
          (tileCtx false).phase = CtxPhase.running ∧
            (coreUp (tileCtx false)).dev.power.relock.contains (tileCtx false).mere = false ∧
              (tfill false).started = false ∧
                stopping (coreUp (tileCtx false)).dev (tileCtx false) = false ∧ mereWide (TS.op (tfill false).word) = false := by decide +kernel

theorem witness_TileOperations_3 :
    findCtx (stopUp (tileCtx false)).dev 9 = some (tileCtx false) ∧
      coreAt (tileCtx false) 0 = some (tileCore false) ∧
        (tileCore false).tiles = [tfill false] ∧
          (tileCtx false).phase = CtxPhase.running ∧
            (stopUp (tileCtx false)).dev.power.relock.contains (tileCtx false).mere = false ∧
              stopping (stopUp (tileCtx false)).dev (tileCtx false) = true := by decide +kernel

theorem witness_JobsIssue_1 :
    findReq endedUp.dev jobReq.slot = some jobReq ∧
      basinWaits endedUp.dev jobReq.basin = false ∧
        jobReq.live = true ∧ ∃ c, c ∈ endedUp.dev.jobs.ctxs ∧ c.slot = jobReq.slot := by decide +kernel

theorem witness_JobsIssue_2 :
    findReq (bigPool embBusy).dev embBusy.slot = some embBusy ∧
      basinWaits (bigPool embBusy).dev embBusy.basin = false ∧
        embBusy.live = true ∧
          (∀ (c : Ctx),
              c ∈ (bigPool embBusy).dev.jobs.ctxs → c.slot ≠ embBusy.slot ∧ c.set ≠ (bigPool embBusy).dev.eng.nextId) ∧
            embBusy.busy = true ∧
              (embBusy.stage = Stage.embed ∨ embBusy.stage = Stage.fetchRank ∨ embBusy.stage = Stage.table) ∧
                ∃ m, m < 4 ∧ Config.pipeDbuf embBusy.slot % 257 * 65536 ≤ jobPool (bigPool embBusy).dev m := ⟨by decide +kernel, by decide +kernel, by decide +kernel, by decide +kernel, by decide +kernel, by decide +kernel, 0, by decide, fits (by decide +kernel)⟩

theorem witness_JobsIssue_3 :
    findReq (bigPool preBusy).dev preBusy.slot = some preBusy ∧
      basinWaits (bigPool preBusy).dev preBusy.basin = false ∧
        preBusy.live = true ∧
          (∀ (c : Ctx),
              c ∈ (bigPool preBusy).dev.jobs.ctxs → c.slot ≠ preBusy.slot ∧ c.set ≠ (bigPool preBusy).dev.eng.nextId) ∧
            preBusy.busy = true ∧
              (preBusy.stage = Stage.prefill ∨ preBusy.stage = Stage.decode) ∧
                (bigPool preBusy).dev.jobs.deadMeres = [] ∧
                  ∃ m, m < 4 ∧ Config.pipeDbuf preBusy.slot % 257 * 65536 ≤ jobPool (bigPool preBusy).dev m := ⟨by decide +kernel, by decide +kernel, by decide +kernel, by decide +kernel, by decide +kernel, by decide +kernel, by decide +kernel, 0, by decide, fits (by decide +kernel)⟩

theorem witness_SchedulingTick_1 :
    findCtx schedUp.dev (pickOf 9).ctx = some pipeCtx ∧
      headOf schedUp.dev pipeCtx.basin = some pipeCtx ∧
        pipeCtx = pipeCtx ∧
          basinWaits schedUp.dev pipeCtx.basin = false ∧
            nextBasin schedUp.dev = some pipeCtx.basin ∧
              pipeCtx.joined = true ∧
                pipeCtx.pipe = true ∧
                  pipeCtx.phase = CtxPhase.queued ∧
                    setJobs schedUp.dev pipeCtx.set = [pipeCtx] ∧
                      (pickOf 9).place = [[270]] ∧
                        placeOk schedUp.dev (needOf schedUp.dev pipeCtx) [270] = true ∧
                          (∀ (q : Pass), q ∈ schedUp.dev.eng.passes → ¬pipeCtx.slot ∈ q.slots) ∧
                            10 ≠ pipeCtx.id ∧ findCtx schedUp.dev 10 = some lateCtx := by decide +kernel

theorem witness_SchedulingTick_2 :
    findCtx schedUp.dev (pickOf 10).ctx = some lateCtx ∧
      headOf schedUp.dev lateCtx.basin = some pipeCtx ∧ pipeCtx.id ≠ lateCtx.id := by decide +kernel

theorem witness_ContextsLeave_1 :
    findCtx fwp1Out.dev saving.id = some saving ∧
      saving.phase = CtxPhase.saving ∧
        fwp1Out.dev.power.relock.contains saving.mere = false ∧
          (∀ (k : CoreSt), k ∈ saving.cores → k.tiles = []) ∧ saving.pipe = true ∧ fwpRuns fwp1Out.dev 1 = false := by decide +kernel

theorem witness_ContextsLeave_2 :
    findCtx (coreUp savingTile).dev savingTile.id = some savingTile ∧ ∃ k, k ∈ savingTile.cores ∧ k.tiles ≠ [] := by decide +kernel

theorem witness_ContextsLeave_3 :
    findCtx endedUp.dev endedCtx.id = some endedCtx ∧
      endedCtx.pipe = false ∧
        endedCtx.fault = none ∧
          endedCtx.link = none ∧
            allEnded endedCtx = true ∧
              coreAt endedCtx 0 = some endedCore ∧
                (List.map (fun x => x.slot) endedUp.dev.reqs).Nodup ∧
                  findReq endedUp.dev endedCtx.slot = some jobReq ∧
                    jobReq.live = true ∧ jobReq.silent = false ∧ jobReq.due = [] ∧ jobReq.hold = none ∧ jobReq.op = 11 := by decide +kernel

theorem witness_TransactionsStart_1 :
    stepThree (txnCx (txnUp switchList).dev (txnReq switchList) (inBytes (txnUp switchList).dev (txnReq switchList)) [])
          (txnUp switchList) =
        Except.ok (okOf (startRes switchList)) ∧
      (txnUp switchList).dev.txn.waiting = [(txnReq switchList).slot] ∧
        findReq (txnUp switchList).dev (txnReq switchList).slot = some (txnReq switchList) ∧
          (txnReq switchList).live = true ∧
            (txnReq switchList).silent = false ∧
              (List.map (fun x => x.slot) (txnUp switchList).dev.reqs).Nodup ∧
                (txnUp switchList).dev.txn.active.length < 8 ∧
                  listPoison (txnUp switchList).dev
                        (shoreAddr (txnReq switchList).basin (Desc.inBlock (txnReq switchList).desc) 0)
                        (inBytes (txnUp switchList).dev (txnReq switchList))
                        (stepOne (txnUp switchList).dev (txnReq switchList).basin
                          (inBytes (txnUp switchList).dev (txnReq switchList))) =
                      none ∧
                    stepOne (txnUp switchList).dev (txnReq switchList).basin
                          (inBytes (txnUp switchList).dev (txnReq switchList)) =
                        none ∧
                      txnWaits (txnUp switchList).dev (inBytes (txnUp switchList).dev (txnReq switchList)) = false ∧
                        stepTwo (txnUp switchList).dev (inBytes (txnUp switchList).dev (txnReq switchList)) = none ∧
                          (txnUp switchList).dev.host.failed.contains
                              ((txnReq switchList).basin, (txnReq switchList).outRing) =
                            false := ⟨ex_of (by decide +kernel), by decide +kernel⟩

theorem witness_TransactionsStart_2 :
    (txnUp (guardList 2)).dev.txn.waiting = [(txnReq (guardList 2)).slot] ∧
      findReq (txnUp (guardList 2)).dev (txnReq (guardList 2)).slot = some (txnReq (guardList 2)) ∧
        (txnReq (guardList 2)).live = true ∧
          (txnReq (guardList 2)).silent = false ∧
            (List.map (fun x => x.slot) (txnUp (guardList 2)).dev.reqs).Nodup ∧
              (txnUp (guardList 2)).dev.txn.active.length < 8 ∧
                listPoison (txnUp (guardList 2)).dev
                      (shoreAddr (txnReq (guardList 2)).basin (Desc.inBlock (txnReq (guardList 2)).desc) 0)
                      (inBytes (txnUp (guardList 2)).dev (txnReq (guardList 2)))
                      (stepOne (txnUp (guardList 2)).dev (txnReq (guardList 2)).basin
                        (inBytes (txnUp (guardList 2)).dev (txnReq (guardList 2)))) =
                    none ∧
                  code2.fst < 8 ∧
                    (stepOne (txnUp (guardList 2)).dev (txnReq (guardList 2)).basin
                          (inBytes (txnUp (guardList 2)).dev (txnReq (guardList 2))) =
                        some code2 ∨
                      stepOne (txnUp (guardList 2)).dev (txnReq (guardList 2)).basin
                            (inBytes (txnUp (guardList 2)).dev (txnReq (guardList 2))) =
                          none ∧
                        txnWaits (txnUp (guardList 2)).dev (inBytes (txnUp (guardList 2)).dev (txnReq (guardList 2))) =
                            false ∧
                          (stepTwo (txnUp (guardList 2)).dev (inBytes (txnUp (guardList 2)).dev (txnReq (guardList 2))) =
                              some code2 ∨
                            stepTwo (txnUp (guardList 2)).dev (inBytes (txnUp (guardList 2)).dev (txnReq (guardList 2))) =
                                none ∧
                              stepThree
                                  (txnCx (txnUp (guardList 2)).dev (txnReq (guardList 2))
                                    (inBytes (txnUp (guardList 2)).dev (txnReq (guardList 2))) [])
                                  (txnUp (guardList 2)) =
                                Except.error code2)) := ⟨by decide +kernel, by decide +kernel, by decide +kernel, by decide +kernel, by decide +kernel, by decide +kernel, by decide +kernel, by decide +kernel, .inr ⟨by decide +kernel, by decide +kernel, .inr ⟨by decide +kernel, ex_of (by decide +kernel)⟩⟩⟩

theorem witness_TransactionsStart_3 :
    fullTxn.dev.txn.waiting = [(txnReq switchList).slot] ∧
      findReq fullTxn.dev (txnReq switchList).slot = some (txnReq switchList) ∧
        (txnReq switchList).live = true ∧
          (txnReq switchList).silent = false ∧
            (List.map (fun x => x.slot) fullTxn.dev.reqs).Nodup ∧ 8 ≤ fullTxn.dev.txn.active.length := by decide +kernel

theorem witness_TransactionsStart_4 :
    lockedTxn.dev.txn.waiting = [(txnReq switchList).slot] ∧
      findReq lockedTxn.dev (txnReq switchList).slot = some (txnReq switchList) ∧
        (txnReq switchList).live = true ∧
          (txnReq switchList).silent = false ∧
            (List.map (fun x => x.slot) lockedTxn.dev.reqs).Nodup ∧
              lockedTxn.dev.txn.active.length < 8 ∧
                listPoison lockedTxn.dev (shoreAddr (txnReq switchList).basin (Desc.inBlock (txnReq switchList).desc) 0)
                      (inBytes lockedTxn.dev (txnReq switchList))
                      (stepOne lockedTxn.dev (txnReq switchList).basin (inBytes lockedTxn.dev (txnReq switchList))) =
                    none ∧
                  code3.fst < 8 ∧
                    (stepOne lockedTxn.dev (txnReq switchList).basin (inBytes lockedTxn.dev (txnReq switchList)) =
                        some code3 ∨
                      stepOne lockedTxn.dev (txnReq switchList).basin (inBytes lockedTxn.dev (txnReq switchList)) = none ∧
                        txnWaits lockedTxn.dev (inBytes lockedTxn.dev (txnReq switchList)) = false ∧
                          (stepTwo lockedTxn.dev (inBytes lockedTxn.dev (txnReq switchList)) = some code3 ∨
                            stepTwo lockedTxn.dev (inBytes lockedTxn.dev (txnReq switchList)) = none ∧
                              stepThree
                                  (txnCx lockedTxn.dev (txnReq switchList) (inBytes lockedTxn.dev (txnReq switchList)) [])
                                  lockedTxn =
                                Except.error code3)) := ⟨by decide +kernel, by decide +kernel, by decide +kernel, by decide +kernel, by decide +kernel, by decide +kernel, by decide +kernel, by decide +kernel, .inr ⟨by decide +kernel, by decide +kernel, .inl (by decide +kernel)⟩⟩

theorem witness_TransactionsCommit_1 :
    stepThree
          (have __src := txnCx (activeUp switchList).dev (runReq switchList) switchTxn.list [];
          { src := __src.src, slot := __src.slot, num := __src.num, retain := __src.retain, list := __src.list,
            badPayload := fun x x_1 => false, flags := __src.flags })
          (flushedUp switchList) =
        Except.ok switchDone ∧
      List.find? (fun a => decide (a.slot = 5)) (activeUp switchList).dev.txn.active = some switchTxn ∧
        findReq (activeUp switchList).dev 5 = some (runReq switchList) ∧
          (runReq switchList).live = true ∧
            (runReq switchList).silent = false ∧
              (runReq switchList).busy = true ∧
                (runReq switchList).op = 12 ∧
                  newExtents (commitCx switchList) (activeUp switchList) =
                      newExtents
                        (have __src := txnCx (activeUp switchList).dev (runReq switchList) switchTxn.list [];
                        { src := __src.src, slot := __src.slot, num := __src.num, retain := __src.retain,
                          list := __src.list, badPayload := fun x x_1 => false, flags := __src.flags })
                        (activeUp switchList) ∧
                    flushedUp switchList =
                        { pending := (activeUp switchList).pending,
                          dev :=
                            flushNew (activeUp switchList).dev (newExtents (commitCx switchList) (activeUp switchList)),
                          meas := (activeUp switchList).meas, tap := (activeUp switchList).tap } ∧
                      txnWaits (flushedUp switchList).dev switchTxn.list = false ∧
                        recordWaits (flushedUp switchList).dev switchTxn.list = false ∧
                          flushWaits (flushedUp switchList).dev (newExtents (commitCx switchList) (activeUp switchList)) =
                              false ∧
                            (activeUp switchList).dev.txn.held = [] ∧
                              (∀ (x : Nat × Act), x ∈ actsOf switchTxn.list → x.snd.kind ≠ 2) ∧
                                (List.map (fun x => x.slot) (activeUp switchList).dev.reqs).Nodup := ⟨ex_of (by decide +kernel), by decide +kernel⟩

theorem witness_TransactionsCommit_2 :
    stepThree
          (have __src := txnCx (activeUp (guardList 2)).dev (runReq (guardList 2)) guardTxn.list [];
          { src := __src.src, slot := __src.slot, num := __src.num, retain := __src.retain, list := __src.list,
            badPayload := fun x x_1 => false, flags := __src.flags })
          (flushedUp (guardList 2)) =
        Except.error code2 ∧
      List.find? (fun a => decide (a.slot = 5)) (activeUp (guardList 2)).dev.txn.active = some guardTxn ∧
        findReq (activeUp (guardList 2)).dev 5 = some (runReq (guardList 2)) ∧
          (runReq (guardList 2)).live = true ∧
            (runReq (guardList 2)).silent = false ∧
              (runReq (guardList 2)).busy = true ∧
                (runReq (guardList 2)).op = 12 ∧
                  newExtents (commitCx (guardList 2)) (activeUp (guardList 2)) =
                      newExtents
                        (have __src := txnCx (activeUp (guardList 2)).dev (runReq (guardList 2)) guardTxn.list [];
                        { src := __src.src, slot := __src.slot, num := __src.num, retain := __src.retain,
                          list := __src.list, badPayload := fun x x_1 => false, flags := __src.flags })
                        (activeUp (guardList 2)) ∧
                    flushedUp (guardList 2) =
                        { pending := (activeUp (guardList 2)).pending,
                          dev :=
                            flushNew (activeUp (guardList 2)).dev
                              (newExtents (commitCx (guardList 2)) (activeUp (guardList 2))),
                          meas := (activeUp (guardList 2)).meas, tap := (activeUp (guardList 2)).tap } ∧
                      txnWaits (flushedUp (guardList 2)).dev guardTxn.list = false ∧
                        recordWaits (flushedUp (guardList 2)).dev guardTxn.list = false ∧
                          flushWaits (flushedUp (guardList 2)).dev
                                (newExtents (commitCx (guardList 2)) (activeUp (guardList 2))) =
                              false ∧
                            (activeUp (guardList 2)).dev.txn.held = [] ∧
                              (∀ (x : Nat × Act), x ∈ actsOf guardTxn.list → x.snd.kind ≠ 2) ∧
                                (List.map (fun x => x.slot) (activeUp (guardList 2)).dev.reqs).Nodup ∧ code2.fst < 8 := ⟨ex_of (by decide +kernel), by decide +kernel⟩

theorem witness_TransactionsCommit_3 :
    List.find? (fun a => decide (a.slot = 5)) stock.dev.txn.active = none := by decide +kernel

theorem witness_VersionsRetire_1 :
    findVer oldUp.dev 4 = some oldV ∧
      oldV.superseded ≠ none ∧
        oldV.retired = false ∧
          (∀ (r : Req), r ∈ oldUp.dev.reqs → pinsVersion r 4 = false) ∧
            (oldV.cls = 1 → ∀ (e : Nat × Nat × Bool), e ∈ oldUp.dev.eng.rowCache → e.fst = 4 → e.snd.snd = false) := by decide +kernel

theorem witness_VersionsRetire_2 :
    findVer pinnedUp.dev 4 = some oldV ∧
      (oldV.superseded = none ∨ oldV.retired = true ∨ ∃ r, r ∈ pinnedUp.dev.reqs ∧ pinsVersion r 4 = true) := by decide +kernel

theorem witness_BasinsAndFunctions_1 :
    basinState (basin1 3).dev 1 = 3 ∧
      configAnswers (basin1 3).dev = true ∧
        1 ≤ (basin1 3).dev.host.numVFs ∧
          (basinState (basin1 3).dev 1 = 0 ∨ basinState (basin1 3).dev 1 = 3) ∧ (basin1 3).dev.txn.held = [] := by decide +kernel

theorem witness_BasinsAndFunctions_2 :
    basinState silent1.dev 1 ≠ 3 ∧
      configAnswers silent1.dev = true ∧
        1 ≤ silent1.dev.host.numVFs ∧
          (basinState silent1.dev 1 = 1 ∨ basinState silent1.dev 1 = 2) ∧
            silent1.dev.txn.held = [] ∧ basinState silent1.dev 1 = 1 := by decide +kernel

theorem witness_BasinsAndFunctions_3 :
    basinState noVfs.dev 1 ≠ 3 ∧
      configAnswers noVfs.dev = true ∧ noVfs.dev.host.numVFs < 1 ∧ noVfs.dev.txn.held = [] ∧ basinState noVfs.dev 1 = 1 := by decide +kernel

theorem witness_BasinsAndFunctions_4 :
    basinState inPerst.dev 1 ≠ 3 ∧ configAnswers inPerst.dev = false ∧ inPerst.dev.txn.held = [] := by decide +kernel

theorem witness_BasinsAndFunctions_5 :
    basinState silent1.dev 2 ≠ 3 ∧
      configAnswers silent1.dev = true ∧
        2 ≤ silent1.dev.host.numVFs ∧
          (basinState silent1.dev 2 = 0 ∨ basinState silent1.dev 2 = 3) ∧ silent1.dev.txn.held = [] := by decide +kernel

theorem witness_BasinsAndFunctions_6 :
    basinState silent1.dev 1 ≠ 3 ∧
      configAnswers silent1.dev = true ∧
        1 ≤ silent1.dev.host.numVFs ∧
          (basinState silent1.dev 1 = 1 ∨ basinState silent1.dev 1 = 2) ∧
            silent1.dev.txn.held = [] ∧ basinState silent1.dev 1 = 1 := by decide +kernel

theorem witness_BasinsAndFunctions_7 :
    basinState silent1.dev 1 ≠ 3 ∧
      configAnswers silent1.dev = true ∧
        1 ≤ silent1.dev.host.numVFs ∧
          (basinState silent1.dev 1 = 1 ∨ basinState silent1.dev 1 = 2) ∧
            basinState silent1.dev 1 = 1 ∧ silent1.dev.txn.held = [] := by decide +kernel

theorem witness_LoadCommandsStart_1 :
    LandsOn (ldUp 1) 0 Blk.flc 0 276 ∧
      (1, (⟨[], []⟩ : LoadReads), Instr.flashWrite 0 (⟨[], []⟩ : LoadReads)) ∈
          [(1, (⟨[], []⟩ : LoadReads), Instr.flashWrite 0 (⟨[], []⟩ : LoadReads)),
            (2, (⟨[], []⟩ : LoadReads),
              Instr.flashRead 0 []),
            (3, (⟨[], []⟩ : LoadReads), Instr.copyIn 0 (⟨[], []⟩ : LoadReads)),
            (4, (⟨[], []⟩ : LoadReads), Instr.copyOut 0 (⟨[], []⟩ : LoadReads)),
            (5, (⟨[], []⟩ : LoadReads), Instr.trim 0), (6, (⟨[], []⟩ : LoadReads), Instr.flush 0)] ∧
        ldOp (ldUp 1).dev = 1 ∧ isArmed (ldUp 1).dev Blk.flc 0 = false ∧ (ldUp 1).dev.flash.load = none := ⟨landsOn_of (by decide +kernel), by decide +kernel⟩

theorem witness_LoadCommandsStart_2 :
    LandsOn (ldUp 3) 0 Blk.flc 0 276 ∧
      (3, (⟨[], []⟩ : LoadReads), Instr.copyIn 0 (⟨[], []⟩ : LoadReads)) ∈
          [(1, (⟨[], []⟩ : LoadReads), Instr.flashWrite 0 (⟨[], []⟩ : LoadReads)),
            (2, (⟨[], []⟩ : LoadReads),
              Instr.flashRead 0 []),
            (3, (⟨[], []⟩ : LoadReads), Instr.copyIn 0 (⟨[], []⟩ : LoadReads)),
            (4, (⟨[], []⟩ : LoadReads), Instr.copyOut 0 (⟨[], []⟩ : LoadReads)),
            (5, (⟨[], []⟩ : LoadReads), Instr.trim 0), (6, (⟨[], []⟩ : LoadReads), Instr.flush 0)] ∧
        ldOp (ldUp 3).dev = 3 ∧ isArmed (ldUp 3).dev Blk.flc 0 = false ∧ (ldUp 3).dev.flash.load = none := ⟨landsOn_of (by decide +kernel), by decide +kernel⟩

theorem witness_LoadCommandsStart_3 :
    LandsOn (ldUp 4) 0 Blk.flc 0 276 ∧
      (4, (⟨[], []⟩ : LoadReads), Instr.copyOut 0 (⟨[], []⟩ : LoadReads)) ∈
          [(1, (⟨[], []⟩ : LoadReads), Instr.flashWrite 0 (⟨[], []⟩ : LoadReads)),
            (2, (⟨[], []⟩ : LoadReads),
              Instr.flashRead 0 []),
            (3, (⟨[], []⟩ : LoadReads), Instr.copyIn 0 (⟨[], []⟩ : LoadReads)),
            (4, (⟨[], []⟩ : LoadReads), Instr.copyOut 0 (⟨[], []⟩ : LoadReads)),
            (5, (⟨[], []⟩ : LoadReads), Instr.trim 0), (6, (⟨[], []⟩ : LoadReads), Instr.flush 0)] ∧
        ldOp (ldUp 4).dev = 4 ∧ isArmed (ldUp 4).dev Blk.flc 0 = false ∧ (ldUp 4).dev.flash.load = none := ⟨landsOn_of (by decide +kernel), by decide +kernel⟩

theorem witness_LoadCommandsStart_4 :
    LandsOn (ldUp 2) 0 Blk.flc 0 276 ∧
      (2, (⟨[], []⟩ : LoadReads), Instr.flashRead 0 []) ∈
          [(1, (⟨[], []⟩ : LoadReads), Instr.flashWrite 0 (⟨[], []⟩ : LoadReads)),
            (2, (⟨[], []⟩ : LoadReads),
              Instr.flashRead 0 []),
            (3, (⟨[], []⟩ : LoadReads), Instr.copyIn 0 (⟨[], []⟩ : LoadReads)),
            (4, (⟨[], []⟩ : LoadReads), Instr.copyOut 0 (⟨[], []⟩ : LoadReads)),
            (5, (⟨[], []⟩ : LoadReads), Instr.trim 0), (6, (⟨[], []⟩ : LoadReads), Instr.flush 0)] ∧
        ldOp (ldUp 2).dev = 2 ∧ isArmed (ldUp 2).dev Blk.flc 0 = false ∧ (ldUp 2).dev.flash.load = none := ⟨landsOn_of (by decide +kernel), by decide +kernel⟩

theorem witness_LoadCommandsStart_5 :
    LandsOn (ldUp 5) 0 Blk.flc 0 276 ∧
      (5, (⟨[], []⟩ : LoadReads), Instr.trim 0) ∈
          [(1, (⟨[], []⟩ : LoadReads), Instr.flashWrite 0 (⟨[], []⟩ : LoadReads)),
            (2, (⟨[], []⟩ : LoadReads),
              Instr.flashRead 0 []),
            (3, (⟨[], []⟩ : LoadReads), Instr.copyIn 0 (⟨[], []⟩ : LoadReads)),
            (4, (⟨[], []⟩ : LoadReads), Instr.copyOut 0 (⟨[], []⟩ : LoadReads)),
            (5, (⟨[], []⟩ : LoadReads), Instr.trim 0), (6, (⟨[], []⟩ : LoadReads), Instr.flush 0)] ∧
        ldOp (ldUp 5).dev = 5 ∧ isArmed (ldUp 5).dev Blk.flc 0 = false ∧ (ldUp 5).dev.flash.load = none := ⟨landsOn_of (by decide +kernel), by decide +kernel⟩

theorem witness_LoadCommandsStart_6 :
    LandsOn (ldUp 6) 0 Blk.flc 0 276 ∧
      (6, (⟨[], []⟩ : LoadReads), Instr.flush 0) ∈
          [(1, (⟨[], []⟩ : LoadReads), Instr.flashWrite 0 (⟨[], []⟩ : LoadReads)),
            (2, (⟨[], []⟩ : LoadReads),
              Instr.flashRead 0 []),
            (3, (⟨[], []⟩ : LoadReads), Instr.copyIn 0 (⟨[], []⟩ : LoadReads)),
            (4, (⟨[], []⟩ : LoadReads), Instr.copyOut 0 (⟨[], []⟩ : LoadReads)),
            (5, (⟨[], []⟩ : LoadReads), Instr.trim 0), (6, (⟨[], []⟩ : LoadReads), Instr.flush 0)] ∧
        ldOp (ldUp 6).dev = 6 ∧ isArmed (ldUp 6).dev Blk.flc 0 = false ∧ (ldUp 6).dev.flash.load = none := ⟨landsOn_of (by decide +kernel), by decide +kernel⟩

theorem witness_LoadCommandsStart_7 :
    (6, (⟨[], []⟩ : LoadReads), Instr.flush 0) ∈
        [(1, (⟨[], []⟩ : LoadReads), Instr.flashWrite 0 (⟨[], []⟩ : LoadReads)),
          (2, (⟨[], []⟩ : LoadReads),
            Instr.flashRead 0 []),
          (3, (⟨[], []⟩ : LoadReads), Instr.copyIn 0 (⟨[], []⟩ : LoadReads)),
          (4, (⟨[], []⟩ : LoadReads), Instr.copyOut 0 (⟨[], []⟩ : LoadReads)),
          (5, (⟨[], []⟩ : LoadReads), Instr.trim 0), (6, (⟨[], []⟩ : LoadReads), Instr.flush 0)] ∧
      ldOp (ldUp 5).dev ≠ 6 := by decide +kernel

theorem witness_LoadCommandsStart_8 :
    LandsOn ldBusy 0 Blk.flc 0 276 ∧
      (6, (⟨[], []⟩ : LoadReads), Instr.flush 0) ∈
          [(1, (⟨[], []⟩ : LoadReads), Instr.flashWrite 0 (⟨[], []⟩ : LoadReads)),
            (2, (⟨[], []⟩ : LoadReads),
              Instr.flashRead 0 []),
            (3, (⟨[], []⟩ : LoadReads), Instr.copyIn 0 (⟨[], []⟩ : LoadReads)),
            (4, (⟨[], []⟩ : LoadReads), Instr.copyOut 0 (⟨[], []⟩ : LoadReads)),
            (5, (⟨[], []⟩ : LoadReads), Instr.trim 0), (6, (⟨[], []⟩ : LoadReads), Instr.flush 0)] ∧
        ldOp ldBusy.dev = 6 ∧ isArmed ldBusy.dev Blk.flc 0 = false ∧ ldBusy.dev.flash.load ≠ none := ⟨landsOn_of (by decide +kernel), by decide +kernel⟩

theorem witness_LoadCommandsStart_9 :
    LandsOn ldArmed 0 Blk.flc 0 276 ∧
      (6, (⟨[], []⟩ : LoadReads), Instr.flush 0) ∈
          [(1, (⟨[], []⟩ : LoadReads), Instr.flashWrite 0 (⟨[], []⟩ : LoadReads)),
            (2, (⟨[], []⟩ : LoadReads),
              Instr.flashRead 0 []),
            (3, (⟨[], []⟩ : LoadReads), Instr.copyIn 0 (⟨[], []⟩ : LoadReads)),
            (4, (⟨[], []⟩ : LoadReads), Instr.copyOut 0 (⟨[], []⟩ : LoadReads)),
            (5, (⟨[], []⟩ : LoadReads), Instr.trim 0), (6, (⟨[], []⟩ : LoadReads), Instr.flush 0)] ∧
        ldOp ldArmed.dev = 6 ∧ isArmed ldArmed.dev Blk.flc 0 = true := ⟨landsOn_of (by decide +kernel), by decide +kernel⟩

theorem witness_LoadCommandsEnd_1 :
    (trimUp 0).dev.flash.load = some (trimCmd 0) ∧
      ((trimCmd 0).op ≠ 1 ∧ (trimCmd 0).op ≠ 5 ∧ (trimCmd 0).op ≠ 6 ∨ fwpRuns (trimUp 0).dev 2 = true) ∧
        (trimCmd 0).early = 0 ∧
          (trimCmd 0).op = 5 ∧
            ldClaimed (trimUp 0).dev (trimCmd 0).basin (trimCmd 0).dst ((trimCmd 0).len / 4096) = false ∧
              (trimCmd 0).dst * 4096 ≤ 12290 ∧
                12290 < ((trimCmd 0).dst + (trimCmd 0).len / 4096) * 4096 ∧
                  ((trimCmd 0).dst + (trimCmd 0).len / 4096) * 4096 ≤ 2 ^ 50 := by decide +kernel

theorem witness_LoadCommandsEnd_2 :
    (trimUp 0).dev.flash.load = some (trimCmd 0) ∧
      ((trimCmd 0).op ≠ 1 ∧ (trimCmd 0).op ≠ 5 ∧ (trimCmd 0).op ≠ 6 ∨ fwpRuns (trimUp 0).dev 2 = true) ∧
        (trimCmd 0).early = 0 ∧
          (trimCmd 0).op = 5 ∧
            ldClaimed (trimUp 0).dev (trimCmd 0).basin (trimCmd 0).dst ((trimCmd 0).len / 4096) = false ∧
              ((trimCmd 0).dst + (trimCmd 0).len / 4096) * 4096 ≤ 2 ^ 50 ∧
                (0 ≠ (trimCmd 0).basin ∨
                  20480 < (trimCmd 0).dst * 4096 ∨ ((trimCmd 0).dst + (trimCmd 0).len / 4096) * 4096 ≤ 20480) := by decide +kernel

theorem witness_LoadCommandsEnd_3 :
    (trimUp 4).dev.flash.load = some (trimCmd 4) ∧
      ((trimCmd 4).op ≠ 1 ∧ (trimCmd 4).op ≠ 5 ∧ (trimCmd 4).op ≠ 6 ∨ fwpRuns (trimUp 4).dev 2 = true) ∧
        (trimCmd 4).early ≠ 0 ∧ (trimCmd 4).early < 16 := by decide +kernel

theorem witness_LoadCommandsEnd_4 :
    (fwpOut 2 (trimUp 0)).dev.flash.load = some (trimCmd 0) ∧
      ((trimCmd 0).op = 1 ∨ (trimCmd 0).op = 5 ∨ (trimCmd 0).op = 6) ∧ fwpRuns (fwpOut 2 (trimUp 0)).dev 2 = false := by decide +kernel

theorem witness_LoadCommandsEnd_5 :
    trimClaimed.dev.flash.load = some (trimCmd 0) ∧
      ((trimCmd 0).op ≠ 1 ∧ (trimCmd 0).op ≠ 5 ∧ (trimCmd 0).op ≠ 6 ∨ fwpRuns trimClaimed.dev 2 = true) ∧
        (trimCmd 0).early = 0 ∧
          ((trimCmd 0).op = 5 ∨ (trimCmd 0).op = 1 ∧ (trimCmd 0).errs = []) ∧
            ldClaimed trimClaimed.dev (trimCmd 0).basin (trimCmd 0).dst ((trimCmd 0).len / 4096) = true := by decide +kernel

theorem witness_LoadCommandsEnd_6 :
    writeUp.dev.flash.load = some writeCmd ∧
      (writeCmd.op ≠ 1 ∧ writeCmd.op ≠ 5 ∧ writeCmd.op ≠ 6 ∨ fwpRuns writeUp.dev 2 = true) ∧
        writeCmd.early = 0 ∧
          writeCmd.op = 1 ∧
            writeCmd.errs = [] ∧
              ldClaimed writeUp.dev writeCmd.basin writeCmd.dst (writeCmd.len / 4096) = false ∧
                (writeCmd.dst + writeCmd.len / 4096) * 4096 ≤ 2 ^ 50 ∧
                  writeCmd.len < 2 ^ 32 ∧
                    (∀ (i : Nat),
                        i < writeCmd.len / 4096 →
                          shorePoison writeUp.dev (shoreAddr 0 writeCmd.block (i * 4096)) 4096 = false) ∧
                      0 < writeCmd.len / 4096 := by decide +kernel

theorem witness_LoadCommandsEnd_7 :
    writeUp.dev.flash.load = some writeCmd ∧
      (writeCmd.op ≠ 1 ∧ writeCmd.op ≠ 5 ∧ writeCmd.op ≠ 6 ∨ fwpRuns writeUp.dev 2 = true) ∧
        writeCmd.early = 0 ∧
          writeCmd.op = 1 ∧
            writeCmd.errs = [] ∧
              ldClaimed writeUp.dev writeCmd.basin writeCmd.dst (writeCmd.len / 4096) = false ∧
                (writeCmd.dst + writeCmd.len / 4096) * 4096 ≤ 2 ^ 50 ∧
                  writeCmd.len < 2 ^ 32 ∧
                    (∀ (i : Nat),
                        i < writeCmd.len / 4096 →
                          shorePoison writeUp.dev (shoreAddr 0 writeCmd.block (i * 4096)) 4096 = false) ∧
                      0 < writeCmd.len / 4096 ∧
                        (0 ≠ writeCmd.basin ∨
                          20480 < writeCmd.dst * 4096 ∨ (writeCmd.dst + writeCmd.len / 4096) * 4096 ≤ 20480) := by decide +kernel

theorem witness_WriteBacks_1 :
    fwpRuns (trimUp 0).dev 2 = true ∧
      (trimUp 0).dev.mem.dirty.head? = some (0, 4) ∧
        (oldestRow (trimUp 0).dev 0 ≠ some (0, 4) ∨ (trimUp 0).dev.eng.rowsHeld.contains (0, 4) = true) := by decide +kernel

theorem witness_WriteBacks_2 :
    fwpRuns (fwpOut 2 (trimUp 0)).dev 2 = false ∧
      (fwpOut 2 (trimUp 0)).dev.mem.dirty.head? ≠ some (1, 9) ∧
        (oldestRow (fwpOut 2 (trimUp 0)).dev 1 ≠ some (1, 9) ∨
          (fwpOut 2 (trimUp 0)).dev.eng.rowsHeld.contains (1, 9) = true) := by decide +kernel

theorem witness_WriteBacks_3 :
    rowUp.dev.mem.dirty.head? ≠ some (4, 2) ∧
      rowPortsUp rowUp.dev 4 = true ∧ rowUp.dev.eng.rowsHeld.contains (4, 2) = false ∧ oldestRow rowUp.dev 4 = some (4, 2) := by decide +kernel

theorem witness_WriteBacks_4 :
    heldRow.dev.mem.dirty.head? ≠ some (4, 2) ∧
      (oldestRow heldRow.dev 4 ≠ some (4, 2) ∨ heldRow.dev.eng.rowsHeld.contains (4, 2) = true) := by decide +kernel

theorem witness_ModelLoads_1 :
    findVer wantUp.dev 2 = some wantV ∧
      wantV.cls = 4 ∧
        wantV.kept = true ∧
          wantV.resident = false ∧
            wantV.loading = false ∧
              wanted wantUp.dev 2 = true ∧ fitsHbm wantUp.dev wantV.basin (Mdl.hbmPages wantV.desc) = true := by decide +kernel

theorem witness_ModelLoads_2 :
    findVer loadUp.dev 2 = some loadV ∧
      loadV.loading = true ∧
        readWeights loadUp.dev loadV.basin loadV.desc = Acc.ok ((readWeights loadUp.dev 0 loadV.desc).get?.getD []) ∧
          (∀ (r : Req), r ∈ loadUp.dev.reqs → r.live = false) ∧
            nsRead loadUp.dev loadV.basin (Mdl.imgSector loadV.desc * 4096) (64 + 8 * Mdl.nLayer loadV.desc) =
                Acc.ok
                  ((nsRead loadUp.dev 0 (Mdl.imgSector loadV.desc * 4096) (64 + 8 * Mdl.nLayer loadV.desc)).get?.getD []) ∧
              (List.map (fun x => x.slot) loadUp.dev.reqs).Nodup ∧ ∀ (r : Req), r ∈ loadUp.dev.reqs → waitsFor r 2 = false := by decide +kernel

theorem witness_WeirLayers_1 :
    List.find? (fun q => decide (q.id = weirPass.id)) weirUp.dev.eng.passes = some weirPass ∧
      findVer weirUp.dev weirPass.model = some modelV ∧
        0 = weirPass.landed ∧
          0 < weirPass.written ∧
            (0 ≠ weirPass.written ∨ ∃ m, m < 4 ∧ isArmed weirUp.dev Blk.weir m = true) ∧
              List.find? (fun q => decide (q.fst = 1)) weirUp.dev.eng.prefetch = some (1, 2, 1, 50, 0) := by decide +kernel

theorem witness_WeirLayers_2 :
    List.find? (fun q => decide (q.id = weirPass.id)) weirUp.dev.eng.passes = some weirPass ∧
      (1 ≠ weirPass.landed ∨ weirPass.written ≤ 1) ∧
        List.find? (fun q => decide (q.fst = 1)) weirUp.dev.eng.prefetch = some (1, 2, 1, 50, 0) := by decide +kernel

theorem witness_WeirLayers_3 :
    List.find? (fun q => decide (q.id = startPass.id)) weirStart.dev.eng.passes = some startPass ∧
      (0 ≠ startPass.landed ∨ startPass.written ≤ 0) ∧
        findVer weirStart.dev startPass.model = some modelV ∧
          0 = startPass.written ∧
            0 < layerLimit weirStart.dev modelV ∧
              0 < startPass.landed + Mdl.window modelV.desc ∧ ∀ (m : Nat), m < 4 → isArmed weirStart.dev Blk.weir m = false := by decide +kernel

theorem witness_WeirLayers_4 :
    List.find? (fun q => decide (q.id = startPass.id)) weirArmed.dev.eng.passes = some startPass ∧
      (0 ≠ startPass.landed ∨ startPass.written ≤ 0) ∧
        (0 ≠ startPass.written ∨ ∃ m, m < 4 ∧ isArmed weirArmed.dev Blk.weir m = true) := by decide +kernel

theorem witness_SectorReads_1 :
    onFlash flashUp.dev 0 3 = true ∧
      (flashUp.dev.mem.unreadable.contains (0, 3) = false ∨ FlashRead.clean = FlashRead.unreadable) ∧
        FlashRead.clean = FlashRead.clean ∧
          (dieAt flashUp.dev (sectorDie flashUp.dev 0 3)).state ≠ 2 ∧
            flashUp.dev.flash.erased.contains (0, 3) = false ∧
              ctlBit flashUp.dev Blk.flc 0 0 = true ∧ fwpRuns flashUp.dev 2 = true := by decide +kernel

theorem witness_SectorReads_2 :
    onFlash unreadUp.dev 0 3 = true ∧
      (unreadUp.dev.mem.unreadable.contains (0, 3) = false ∨ FlashRead.unreadable = FlashRead.unreadable) ∧
        FlashRead.unreadable = FlashRead.unreadable ∧ ctlBit unreadUp.dev Blk.flc 0 0 = true ∧ fwpRuns unreadUp.dev 2 = true := by decide +kernel

theorem witness_SectorReads_3 :
    onFlash deadSector.dev 0 3 = true ∧
      (deadSector.dev.mem.unreadable.contains (0, 3) = false ∨ FlashRead.clean = FlashRead.unreadable) ∧
        FlashRead.clean ≠ FlashRead.unreadable ∧
          ((dieAt deadSector.dev (sectorDie deadSector.dev 0 3)).state = 2 ∨
              deadSector.dev.flash.erased.contains (0, 3) = true) ∧
            ctlBit deadSector.dev Blk.flc 0 0 = true ∧ fwpRuns deadSector.dev 2 = true := by decide +kernel

theorem witness_SectorReads_4 :
    onFlash erasedUp.dev 0 3 = true ∧
      (erasedUp.dev.mem.unreadable.contains (0, 3) = false ∨ FlashRead.clean = FlashRead.unreadable) ∧
        FlashRead.clean ≠ FlashRead.unreadable ∧
          ((dieAt erasedUp.dev (sectorDie erasedUp.dev 0 3)).state = 2 ∨ erasedUp.dev.flash.erased.contains (0, 3) = true) ∧
            ctlBit erasedUp.dev Blk.flc 0 0 = true ∧ fwpRuns erasedUp.dev 2 = true := by decide +kernel

theorem witness_FlashDies_1 :
    (dieAt stock.dev 7).state = 0 ∧ dieEpoch stock.dev 7 ≠ none := by decide +kernel

theorem witness_FlashDies_2 :
    (dieAt die63.dev 7).state = 0 ∧ dieEpoch die63.dev 7 ≠ none := by decide +kernel

theorem witness_FlashDies_3 :
    (dieAt die64.dev 7).state = 2 ∧ fwpRuns die64.dev 2 = true ∧ flashReadOnly die64.dev = false ∧ onDie die64.dev 7 = [] := by decide +kernel

theorem witness_FlashDies_4 :
    LandsOn dieQuar 0 Blk.flc 0 328 ∧
      reg dieQuar Blk.flc 0 320 % 256 = 7 ∧
        (dieAt dieQuar.dev 7).state ≠ 0 ∧ fwpRuns dieQuar.dev 2 = true ∧ onDie dieQuar.dev 7 = [] := ⟨landsOn_of (by decide +kernel), by decide +kernel⟩

theorem witness_HbmScrub_1 :
    stackOf 64 = some 0 := by decide +kernel

theorem witness_PageRemaps_3 :
    stackOf (16 * 65536) = some 0 ∧ (fwpRuns stock.dev 4 = false ∨ remapDue stock.dev 16 0 = false) := by decide +kernel

theorem witness_PageRemaps_4 :
    stackOf (16 * 65536) = some 0 ∧ reg (remapIn 0 []) Blk.hbm 0 528 ≠ 0 ∧ stackOf (229376 * 65536) ≠ some 0 := by decide +kernel

theorem witness_ErrorLogRecords_1 :
    (logUp 3 0).dev.log.events = [evt] ∧
      fwpRuns (logUp 3 0).dev 4 = true ∧
        logEnabled (logUp 3 0).dev = true ∧
          logSize (logUp 3 0).dev ≠ 0 ∧ (logTail (logUp 3 0).dev + 1) % logSize (logUp 3 0).dev ≠ logHead (logUp 3 0).dev := by decide +kernel

theorem witness_ErrorLogRecords_2 :
    (logUp 1023 0).dev.log.events = [evt] ∧
      fwpRuns (logUp 1023 0).dev 4 = true ∧
        logEnabled (logUp 1023 0).dev = true ∧
          logSize (logUp 1023 0).dev ≠ 0 ∧
            (logTail (logUp 1023 0).dev + 1) % logSize (logUp 1023 0).dev = logHead (logUp 1023 0).dev := by decide +kernel

theorem witness_ErrorLogRecords_3 :
    logOff.dev.log.events = [] ∨ fwpRuns logOff.dev 4 = false ∨ logEnabled logOff.dev = false := by decide +kernel

theorem witness_Coalescing_1 :
    List.find? (fun x => decide (x.kind = (coalOf 0).kind ∧ x.source = (coalOf 0).source)) (coalUp 0).dev.log.coal =
        some (coalOf 0) ∧
      (coalOf 0).since = 0 := by decide +kernel

theorem witness_Coalescing_2 :
    List.find? (fun x => decide (x.kind = (coalOf 4).kind ∧ x.source = (coalOf 4).source)) (coalUp 4).dev.log.coal =
        some (coalOf 4) ∧
      (coalOf 4).since ≠ 0 ∧ fwpRuns (coalUp 4).dev 4 = true ∧ logEnabled (coalUp 4).dev = true := by decide +kernel

theorem witness_CoresFenced_1 :
    isQuarantined stock.dev (264 * 1 + 5) = false ∧
      noMajority stock.dev (regA Blk.core (264 * 1 + 5) 264) = false ∧
        domState stock.dev 1 = 0 ∧
          stock.dev.power.relock.contains 1 = false ∧
            ¬1 ∈ stock.dev.jobs.deadMeres ∧
              ∀ (k : Nat), k < 264 → noMajority stock.dev (regA Blk.core (264 * 1 + k) 264) = false := by decide +kernel

theorem witness_CoresFenced_2 :
    isQuarantined fenced5.dev (264 * 1 + 5) = true ∧
      domState fenced5.dev 1 = 0 ∧
        fenced5.dev.power.relock.contains 1 = false ∧
          ¬1 ∈ fenced5.dev.jobs.deadMeres ∧
            ∀ (k : Nat), k < 264 → noMajority fenced5.dev (regA Blk.core (264 * 1 + k) 264) = false := by decide +kernel

theorem witness_CoresFenced_3 :
    isQuarantined savingUp.dev (264 * 1 + 5) = false ∧
      noMajority savingUp.dev (regA Blk.core (264 * 1 + 5) 264) = false ∧
        domState savingUp.dev 1 = 0 ∧
          savingUp.dev.power.relock.contains 1 = false ∧
            (∃ c, c ∈ savingUp.dev.jobs.ctxs ∧ c.phase = CtxPhase.saving ∧ 264 * 1 + 5 ∈ c.place) ∧
              ¬1 ∈ savingUp.dev.jobs.deadMeres ∧
                ∀ (k : Nat), k < 264 → noMajority savingUp.dev (regA Blk.core (264 * 1 + k) 264) = false := by decide +kernel

theorem witness_CoresFenced_4 :
    (domState relockUp.dev 1 ≠ 0 ∨ relockUp.dev.power.relock.contains 1 = true) ∧
      ¬1 ∈ relockUp.dev.jobs.deadMeres ∧
        ∀ (k : Nat), k < 264 → noMajority relockUp.dev (regA Blk.core (264 * 1 + k) 264) = false := by decide +kernel

theorem witness_StaleMessages_1 :
    reg stock Blk.core (264 * 1 + 5) 264 = 0 ∧
      isQuarantined stock.dev (264 * 1 + 5) = false ∧ domState stock.dev 1 = 0 ∧ stock.dev.power.relock.contains 1 = false := by decide +kernel

theorem witness_StaleMessages_2 :
    reg fenced5 Blk.core (264 * 1 + 5) 264 ≠ 9 ∧
      noMajority fenced5.dev (regA Blk.core (264 * 1 + 5) 264) = false ∧ isQuarantined fenced5.dev (264 * 1 + 5) = true := by decide +kernel

theorem witness_StaleMessages_3 :
    reg relockUp Blk.core (264 * 1 + 5) 264 = 0 ∧
      isQuarantined relockUp.dev (264 * 1 + 5) = false ∧
        (domState relockUp.dev 1 ≠ 0 ∨ relockUp.dev.power.relock.contains 1 = true) := by decide +kernel

theorem witness_StaleMessages_4 :
    reg relockFenced Blk.core (264 * 1 + 5) 264 ≠ 9 ∧
      noMajority relockFenced.dev (regA Blk.core (264 * 1 + 5) 264) = false ∧
        isQuarantined relockFenced.dev (264 * 1 + 5) = true := by decide +kernel

theorem witness_SparesAndReadmission_1 :
    LandsOn stock 0 Blk.mere 1 532 ∧
      BitVec.getLsbD (w4 2147877124) 31 = true ∧
        BitVec.toNat (w4 2147877124) % 512 = 260 ∧
          bitsOf (BitVec.toNat (w4 2147877124)) 23 16 = 6 ∧
            (¬264 * 1 + 260 ∈ freeSpares stock.dev 1 ∨ ¬6 ∈ unmapped stock.dev 1) := ⟨landsOn_of (by decide +kernel), by decide +kernel⟩

theorem witness_SparesAndReadmission_2 :
    LandsOn spareUp 0 Blk.mere 1 532 ∧
      BitVec.getLsbD (w4 2147877124) 31 = true ∧
        BitVec.toNat (w4 2147877124) % 512 = 260 ∧
          bitsOf (BitVec.toNat (w4 2147877124)) 23 16 = 6 ∧
            264 * 1 + 260 ∈ freeSpares spareUp.dev 1 ∧ 6 ∈ unmapped spareUp.dev 1 ∧ spareUp.dev.jobs.mapReq = [] := ⟨landsOn_of (by decide +kernel), by decide +kernel⟩

theorem witness_SparesAndReadmission_3 :
    (264 * 1 + 260, 6) ∈ askedUp.dev.jobs.mapReq ∧
      264 * 1 + 260 ∈ freeSpares askedUp.dev 1 ∧
        6 ∈ unmapped askedUp.dev 1 ∧ fwpRuns askedUp.dev 4 = true ∧ mereEmpty askedUp.dev 1 = true := by decide +kernel

theorem witness_SparesAndReadmission_4 :
    LandsOn fenced5 0 Blk.mere 1 516 ∧
      BitVec.getLsbD (w4 2147483653) 31 = true ∧
        BitVec.toNat (w4 2147483653) % 512 = 5 ∧
          isQuarantined fenced5.dev (264 * 1 + 5) = true ∧
            264 * 1 + 5 ∈ fenced5.dev.jobs.coreReset ∧ ¬1 ∈ fenced5.dev.jobs.deadMeres := ⟨landsOn_of (by decide +kernel), by decide +kernel⟩

theorem witness_SparesAndReadmission_5 :
    LandsOn resetJob 0 Blk.mere 1 516 ∧
      LandsOn resetJob 0 Blk.rst 0 272 ∧
        BitVec.getLsbD (w4 2147484165) 31 = true ∧
          BitVec.toNat (w4 2147484165) % 512 = 5 ∧
            isQuarantined resetJob.dev (264 * 1 + 5) = true ∧
              264 * 1 + 5 ∈ resetJob.dev.jobs.coreReset ∧
                ¬1 ∈ resetJob.dev.jobs.deadMeres ∧ bitsOf (BitVec.toNat (w4 2147484165)) 10 9 = 1 := ⟨landsOn_of (by decide +kernel), landsOn_of (by decide +kernel), by decide +kernel⟩

theorem witness_MeasurementLatches_1 :
    LandsOn logged 0 Blk.meas 0 256 ∧ LandsOn logged 0 Blk.meas 0 260 := ⟨landsOn_of (by decide +kernel), landsOn_of (by decide +kernel)⟩

theorem witness_HostExtensions_1 :
    LandsOn logged 0 Blk.meas 0 264 ∧
      BitVec.getLsbD (w4 2147483660) 31 = true ∧
        10 ≤ BitVec.toNat (w4 2147483660) % 16 ∧
          fwpRuns logged.dev 0 = true ∧ 3 ≠ BitVec.toNat (w4 2147483660) % 16 ∧ logged.meas.log.length < 4096 := ⟨landsOn_of (by decide +kernel), by decide +kernel⟩

theorem witness_HostExtensions_2 :
    LandsOn logged 0 Blk.meas 0 264 ∧ BitVec.getLsbD (w4 2147483651) 31 = true ∧ BitVec.toNat (w4 2147483651) % 16 < 10 := ⟨landsOn_of (by decide +kernel), by decide +kernel⟩

theorem witness_HostExtensions_3 :
    LandsOn (fwpOut 0 logged) 0 Blk.meas 0 264 ∧
      BitVec.getLsbD (w4 2147483660) 31 = true ∧
        10 ≤ BitVec.toNat (w4 2147483660) % 16 ∧ fwpRuns (fwpOut 0 logged).dev 0 = false := ⟨landsOn_of (by decide +kernel), by decide +kernel⟩

theorem witness_FirmwareUpdates_1 :
    LandsOn (updating 3) 0 Blk.fwp 0 524 ∧
      (updating 3).dev.flash.update ≠ none ∧
        (updating 3).dev.flash.update = some (2, 1, 128, 7, 3) ∧ fwpRuns (updating 3).dev 0 = true := ⟨landsOn_of (by decide +kernel), by decide +kernel⟩

theorem witness_FirmwareUpdates_2 :
    LandsOn (updating 0) 0 Blk.fwp 0 524 ∧
      (updating 0).dev.flash.update ≠ none ∧
        (updating 0).dev.flash.update = some (2, 1, 128, 7, 0) ∧ fwpRuns (updating 0).dev 0 = true := ⟨landsOn_of (by decide +kernel), by decide +kernel⟩

theorem witness_FirmwareRestarts_1 :
    LandsOn logged 0 Blk.fwp 4 264 ∧
      isReady logged.dev = true ∧
        reg logged Blk.fwp 4 256 % 4 ≠ 1 ∧
          ¬(0, 18) ∈ logged.dev.host.masked ∧ noMajority logged.dev (regA Blk.fwp 4 260) = false := ⟨landsOn_of (by decide +kernel), by decide +kernel⟩

theorem witness_FirmwareRestarts_2 :
    LandsOn restart1 0 Blk.fwp 4 264 ∧ isReady restart1.dev = true ∧ reg restart1 Blk.fwp 4 256 % 4 = 1 := ⟨landsOn_of (by decide +kernel), by decide +kernel⟩

theorem witness_FirmwareRestarts_3 :
    LandsOn fwpLost 0 Blk.fwp 4 264 ∧
      isReady fwpLost.dev = true ∧ reg fwpLost Blk.fwp 4 256 % 4 ≠ 1 ∧ noMajority fwpLost.dev (regA Blk.fwp 4 260) = true := ⟨landsOn_of (by decide +kernel), by decide +kernel⟩

theorem witness_RestartCompletes_1 :
    nextRestart restart1.dev = some 4 ∧
      (4 = 0 ∨ fwpRuns restart1.dev 0 = true) ∧
        noMajority restart1.dev (regA Blk.rst 0 268) = false ∧
          imageSound restart1.dev (reg restart1 Blk.rst 0 268 % 2) 4 = true := by decide +kernel

theorem witness_RestartCompletes_2 :
    nextRestart restart1.dev ≠ some 3 := by decide +kernel

theorem witness_RestartCompletes_3 :
    nextRestart restartBad.dev = some 4 ∧
      (4 = 0 ∨ fwpRuns restartBad.dev 0 = true) ∧
        noMajority restartBad.dev (regA Blk.rst 0 268) = false ∧
          imageSound restartBad.dev (reg restartBad Blk.rst 0 268 % 2) 4 = false := by decide +kernel

theorem witness_RestartCompletes_4 :
    nextRestart restart0.dev = some 0 ∧
      (0 = 0 ∨ fwpRuns restart0.dev 0 = true) ∧
        noMajority restart0.dev (regA Blk.rst 0 268) = false ∧
          imageSound restart0.dev (reg restart0 Blk.rst 0 268 % 2) 0 = true := by decide +kernel






theorem witness_RailSequence_1 :
    cold.dev.power.vin = true ∧
      cold.dev.power.pwrEn = false ∧
        cold.dev.power.riseWaits = false ∧ ∀ (t0 : Nat), cold.dev.power.enFall = some t0 → t0 + msCycles 50 ≤ cold.dev.now := by decide +kernel

theorem witness_RailSequence_2 :
    coldSoon.dev.power.vin = true ∧
      coldSoon.dev.power.pwrEn = false ∧
        coldSoon.dev.power.riseWaits = false ∧ coldSoon.dev.power.enFall = some 0 ∧ coldSoon.dev.now < 0 + msCycles 50 := by decide +kernel

theorem witness_RailSequence_3 :
    coldWaits.dev.power.riseWaits = true ∧ coldWaits.dev.power.enFall = some 0 := by decide +kernel

theorem witness_RailSequence_4 :
    starting.dev.power.rails = Rails.starting := by decide +kernel

theorem witness_RailSequence_5 :
    railsUp.dev.power.rails = Rails.good ∧ railsUp.dev.power.tripped = false := by decide +kernel

theorem witness_RailSequence_6 :
    logged.dev.power.rails = Rails.good ∧
      logged.dev.power.tripped = false ∧ logged.dev.power.pwrGood = true ∧ logged.dev.power.booting = false := by decide +kernel

theorem witness_RailSequence_7 :
    coldDark.dev.power.vin = false ∧ coldDark.dev.power.pwrEn = false ∧ coldDark.dev.power.riseWaits = false := by decide +kernel

theorem witness_PowerLosses_1 :
    logged.dev.power.vin = true ∧
      logged.dev.power.riseWaits = false ∧
        logged.dev.power.pwrEn = true ∧
          logged.dev.txn.unsure = [] ∧
            (0 = 0 ∨ ∃ r, r ∈ logged.dev.flash.records ∧ r.fst = 0) ∧
              springHeld 12544 = true ∧
                logged.dev.power.tripped = false ∧
                  (logged.dev.power.rails = Rails.good ∨ logged.dev.power.rails = Rails.starting) := by decide +kernel

theorem witness_Resets_1 :
    LandsOn logged 0 Blk.rst 0 256 ∧
      running logged.dev = true ∧
        logged.dev.power.perst = false ∧
          logged.dev.power.booting = false ∧
            logged.dev.txn.unsure = [] ∧
              (0 = 0 ∨ ∃ r, r ∈ logged.dev.flash.records ∧ r.fst = 0) ∧
                springHeld 12552 = true ∧
                  12552 ≠ regA Blk.rst 0 260 ∧
                    12552 ≠ regA Blk.rst 0 276 ∧
                      isReady logged.dev = true ∧
                        BitVec.getLsbD (w4 42241) 0 = true ∧ bitsOf (BitVec.toNat (w4 42241)) 15 8 = 165 := ⟨landsOn_of (by decide +kernel), by decide +kernel⟩

theorem witness_Resets_2 :
    LandsOn resetOne 0 Blk.rst 0 256 ∧
      running resetOne.dev = true ∧
        resetOne.dev.power.perst = false ∧
          resetOne.dev.power.booting = false ∧
            resetOne.dev.txn.unsure = [] ∧
              (0 = 0 ∨ ∃ r, r ∈ resetOne.dev.flash.records ∧ r.fst = 0) ∧
                springHeld 12552 = true ∧
                  12552 ≠ regA Blk.rst 0 260 ∧
                    12552 ≠ regA Blk.rst 0 276 ∧
                      isReady resetOne.dev = true ∧
                        BitVec.getLsbD (w4 42241) 0 = true ∧
                          bitsOf (BitVec.toNat (w4 42241)) 15 8 = 165 ∧
                            resetOne.dev.reqs = [oneReq] ∧
                              oneReq.live = true ∧
                                oneReq.silent = false ∧
                                  oneReq.hold = none ∧
                                    resetOne.dev.host.comps = [] ∧
                                      resetOne.dev.host.held = [] ∧
                                        resetOne.dev.jobs.ctxs = [] ∧
                                          outReady resetOne.dev oneReq.basin oneReq.outRing = true := ⟨landsOn_of (by decide +kernel), by decide +kernel⟩

theorem witness_Boot_1 :
    logged.dev.power.booting = false := by decide +kernel

theorem witness_Boot_2 :
    bootable.dev.power.booting = true ∧
      running bootable.dev = true ∧
        bootable.dev.power.perst = false ∧
          reg bootable Blk.rst 0 264 = 0 ∧
            noMajority bootable.dev (regA Blk.rst 0 268) = false ∧
              imageSound bootable.dev (reg bootable Blk.rst 0 268 % 2) 0 = true ∧ bootable.dev.power.mctpWait = [] := by decide +kernel

theorem witness_Boot_3 :
    bootBad.dev.power.booting = true ∧
      running bootBad.dev = true ∧
        bootBad.dev.power.perst = false ∧
          reg bootBad Blk.rst 0 264 = 0 ∧
            noMajority bootBad.dev (regA Blk.rst 0 268) = false ∧
              imageSound bootBad.dev (reg bootBad Blk.rst 0 268 % 2) 0 = false := by decide +kernel

theorem witness_Boot_4 :
    bootNew.dev.power.booting = true ∧
      running bootNew.dev = true ∧
        bootNew.dev.power.perst = false ∧
          reg bootNew Blk.rst 0 264 = 0 ∧
            noMajority bootNew.dev (regA Blk.rst 0 268) = false ∧
              bootNew.meas = { slots := [], log := [], waiting := [] } ∧
                imageSound bootNew.dev (reg bootNew Blk.rst 0 268 % 2) 0 = true ∧ bootNew.dev.power.mctpWait = [] := by decide +kernel

theorem witness_TapInstructions_1 :
    logged.dev.power.rails = Rails.good ∧ coreStateWord logged.dev (264 * 1 + 5) ≠ 5 := by decide +kernel

theorem witness_TapInstructions_2 :
    inPerst.dev.power.rails = Rails.good ∧ coreStateWord inPerst.dev (264 * 1 + 5) ≠ 5 := by decide +kernel

theorem witness_TapInstructions_3 :
    offCore.dev.power.rails = Rails.good ∧ coreStateWord offCore.dev (264 * 1 + 5) = 5 ∧ (List.replicate 8 7).length = 8 := by decide +kernel

theorem witness_TapInstructions_4 :
    cold.dev.power.rails ≠ Rails.good ∧
      Instr.coreDebug 1 5 DebugOp.halt ∈
        [Instr.trst, Instr.idcode, Instr.bypass, Instr.samplePreload [true, false, true], Instr.extest, Instr.highz,
          Instr.clamp, Instr.coreDebug 1 5 DebugOp.halt] := by decide +kernel

theorem witness_AttestationAnswers_1 :
    Serves (spdmAt 3 1) Via.smbus ∧
      (Instr.getDigests Via.smbus (spdmReq 129 4 []), byteAt (spdmReq 129 4 []) 1) ∈
          [(Instr.getVersion Via.smbus (spdmReq 129 4 []), 132), (Instr.getCapabilities Via.smbus (spdmReq 129 4 []), 225),
            (Instr.negotiateAlgorithms Via.smbus (spdmReq 129 4 []), 227),
            (Instr.getDigests Via.smbus (spdmReq 129 4 []), 129), (Instr.getCertificate Via.smbus (spdmReq 129 4 []), 130),
            (Instr.challenge Via.smbus (spdmReq 129 4 []), 131),
            (Instr.getMeasurements Via.smbus (spdmReq 129 4 []), 224)] ∧
        reg (spdmAt 3 1) Blk.fwp 0 256 % 4 = 1 := ⟨by unfold Serves; decide +kernel, by decide +kernel⟩

theorem witness_AttestationAnswers_2 :
    Serves (spdmAt 3 2) Via.smbus ∧
      (Instr.getDigests Via.smbus (spdmReq 129 4 []), byteAt (spdmReq 129 4 []) 1) ∈
          [(Instr.getVersion Via.smbus (spdmReq 129 4 []), 132), (Instr.getCapabilities Via.smbus (spdmReq 129 4 []), 225),
            (Instr.negotiateAlgorithms Via.smbus (spdmReq 129 4 []), 227),
            (Instr.getDigests Via.smbus (spdmReq 129 4 []), 129), (Instr.getCertificate Via.smbus (spdmReq 129 4 []), 130),
            (Instr.challenge Via.smbus (spdmReq 129 4 []), 131),
            (Instr.getMeasurements Via.smbus (spdmReq 129 4 []), 224)] ∧
        2 ≤ reg (spdmAt 3 2) Blk.fwp 0 256 % 4 := ⟨by unfold Serves; decide +kernel, by decide +kernel⟩

theorem witness_AttestationAnswers_3 :
    Serves (spdmAt 0 0) Via.smbus ∧ reg (spdmAt 0 0) Blk.fwp 0 256 % 4 = 0 ∧ byteAt (spdmReq 132 4 [(0, 16)]) 1 = 132 := ⟨by unfold Serves; decide +kernel, by decide +kernel⟩

theorem witness_AttestationAnswers_4 :
    Serves (spdmAt 1 0) Via.smbus ∧
      reg (spdmAt 1 0) Blk.fwp 0 256 % 4 = 0 ∧ byteAt (spdmReq 225 20 []) 0 = 18 ∧ byteAt (spdmReq 225 20 []) 1 = 225 := ⟨by unfold Serves; decide +kernel, by decide +kernel⟩

theorem witness_AttestationAnswers_5 :
    Serves (spdmAt 2 0) Via.smbus ∧
      reg (spdmAt 2 0) Blk.fwp 0 256 % 4 = 0 ∧ byteAt (spdmReq 227 32 []) 0 = 18 ∧ byteAt (spdmReq 227 32 []) 1 = 227 := ⟨by unfold Serves; decide +kernel, by decide +kernel⟩

theorem witness_AttestationAnswers_6 :
    Serves (spdmAt 3 0) Via.smbus ∧
      reg (spdmAt 3 0) Blk.fwp 0 256 % 4 = 0 ∧
        byteAt (spdmReq 129 4 []) 0 = 18 ∧ (spdmAt 3 0).dev.power.spdmStep = 3 ∧ byteAt (spdmReq 129 4 []) 1 = 129 := ⟨by unfold Serves; decide +kernel, by decide +kernel⟩

theorem witness_AttestationAnswers_7 :
    Serves (spdmAt 3 0) Via.smbus ∧
      reg (spdmAt 3 0) Blk.fwp 0 256 % 4 = 0 ∧
        byteAt (spdmReq 130 8 [(6, 64)]) 0 = 18 ∧
          (spdmAt 3 0).dev.power.spdmStep = 3 ∧ byteAt (spdmReq 130 8 [(6, 64)]) 1 = 130 := ⟨by unfold Serves; decide +kernel, by decide +kernel⟩

theorem witness_AttestationAnswers_8 :
    Serves (spdmAt 3 0) Via.smbus ∧
      reg (spdmAt 3 0) Blk.fwp 0 256 % 4 = 0 ∧
        byteAt (spdmReq 131 36 [(3, 255)]) 0 = 18 ∧
          (spdmAt 3 0).dev.power.spdmStep = 3 ∧
            byteAt (spdmReq 131 36 [(3, 255)]) 1 = 131 ∧
              byteAt (spdmReq 131 36 [(3, 255)]) 2 % 16 = 0 ∧ byteAt (spdmReq 131 36 [(3, 255)]) 3 ∈ [0, 1, 255] := ⟨by unfold Serves; decide +kernel, by decide +kernel⟩

theorem witness_AttestationAnswers_9 :
    Serves (spdmAt 3 0) Via.smbus ∧
      reg (spdmAt 3 0) Blk.fwp 0 256 % 4 = 0 ∧
        byteAt (spdmReq 224 37 [(2, 1), (3, 255)]) 0 = 18 ∧
          (spdmAt 3 0).dev.power.spdmStep = 3 ∧
            byteAt (spdmReq 224 37 [(2, 1), (3, 255)]) 1 = 224 ∧
              (byteAt (spdmReq 224 37 [(2, 1), (3, 255)]) 3 ≤ 16 ∨ byteAt (spdmReq 224 37 [(2, 1), (3, 255)]) 3 = 255) ∧
                bitOf (byteAt (spdmReq 224 37 [(2, 1), (3, 255)]) 2) 0 = true ∧
                  byteAt (spdmReq 224 37 [(2, 1), (3, 255)]) 36 % 16 = 0 := ⟨by unfold Serves; decide +kernel, by decide +kernel⟩

theorem witness_AttestationAnswers_10 :
    Serves (spdmAt 3 0) Via.smbus ∧
      reg (spdmAt 3 0) Blk.fwp 0 256 % 4 = 0 ∧ ¬byteAt (spdmReq 144 4 []) 1 ∈ [132, 225, 227, 129, 130, 131, 224] := ⟨by unfold Serves; decide +kernel, by decide +kernel⟩

theorem witness_AttestationAnswers_11 :
    Serves (spdmAt 3 0) Via.vdm ∧
      reg (spdmAt 3 0) Blk.fwp 0 256 % 4 = 0 ∧
        byteAt (spdmReq 129 4 []) 0 = 18 ∧ (spdmAt 3 0).dev.power.spdmStep = 3 ∧ byteAt (spdmReq 129 4 []) 1 = 129 := ⟨by unfold Serves; decide +kernel, by decide +kernel⟩

theorem witness_AttestationAnswers_12 :
    Serves (spdmAt 3 0) Via.doe ∧
      reg (spdmAt 3 0) Blk.fwp 0 256 % 4 = 0 ∧
        byteAt (spdmReq 129 4 []) 0 = 18 ∧ (spdmAt 3 0).dev.power.spdmStep = 3 ∧ byteAt (spdmReq 129 4 []) 1 = 129 := ⟨by unfold Serves; decide +kernel, by decide +kernel⟩

theorem witness_ManagementBus_1 :
    Serves logged Via.smbus ∧
      byteAt (mk 4 [(0, 128), (1, 1), (3, 9)]) 1 = 1 ∧
        byteAt (mk 4 [(0, 128), (1, 1), (3, 9)]) 2 % 4 ≤ 1 ∧ alertLow logged.dev = false := ⟨by unfold Serves; decide +kernel, by decide +kernel⟩

theorem witness_ManagementBus_2 :
    Serves alertUp Via.smbus ∧ alertLow alertUp.dev = true := ⟨by unfold Serves; decide +kernel, by decide +kernel⟩

theorem witness_ManagementBus_3 :
    smbBoot.dev.power.vin = true ∧
      smbBoot.dev.power.tripped = false ∧
        smbBoot.dev.power.rails ≠ Rails.off ∧
          smbBoot.dev.power.booting = true ∧
            byteAt (mk 4 [(0, 1)]) 0 % 128 ≠ 0 ∧ byteAt (mk 4 [(0, 1)]) 0 % 128 ≠ 5 ∧ alertLow smbBoot.dev = false := by decide +kernel

theorem witness_ManagementBus_4 :
    Serves logged Via.smbus ∧
      ¬byteAt (mk 4 [(0, 128), (1, 9)]) 1 ∈ [1, 4, 5] ∧ byteAt (mk 4 [(0, 128), (1, 9)]) 1 ≠ 2 ∧ alertLow logged.dev = false := ⟨by unfold Serves; decide +kernel, by decide +kernel⟩

theorem witness_ManagementBus_5 :
    Serves logged Via.smbus ∧
      ¬byteAt (mk 4 [(0, 128), (1, 2)]) 1 ∈ [1, 4, 5] ∧ byteAt (mk 4 [(0, 128), (1, 2)]) 1 = 2 ∧ alertLow logged.dev = false := ⟨by unfold Serves; decide +kernel, by decide +kernel⟩

theorem witness_AutomaticEntry_1 :
    running (domUp 1 1 3).dev = true ∧
      (domUp 1 1 3).dev.power.booting = false ∧
        domMoving (domUp 1 1 3).dev 1 = false ∧
          domIdle (domUp 1 1 3).dev 1 = true ∧
            transHeld (domUp 1 1 3).dev = false ∧
              noMajority (domUp 1 1 3).dev (regA Blk.pwr 0 (if 1 = 4 then 272 else 256 + 4 * 1)) = false ∧
                domState (domUp 1 1 3).dev 1 < floorOf (domUp 1 1 3).dev 1 ∧
                  domState (domUp 1 1 3).dev 1 < 2 ∧
                    (domState (domUp 1 1 3).dev 1 = 1 →
                      heldUp (domUp 1 1 3).dev 1 = false ∧
                        (1 = 4 → (domUp 1 1 3).dev.power.linkL1 = true) ∧ (1 < 4 → hbmUsed (domUp 1 1 3).dev = false)) := by decide +kernel

theorem witness_AutomaticEntry_2 :
    running shoreL1.dev = true ∧
      shoreL1.dev.power.booting = false ∧
        domMoving shoreL1.dev 4 = false ∧
          domIdle shoreL1.dev 4 = true ∧
            transHeld shoreL1.dev = false ∧
              noMajority shoreL1.dev (regA Blk.pwr 0 (if 4 = 4 then 272 else 256 + 4 * 4)) = false ∧
                domState shoreL1.dev 4 < floorOf shoreL1.dev 4 ∧
                  domState shoreL1.dev 4 < 2 ∧
                    (domState shoreL1.dev 4 = 1 →
                      heldUp shoreL1.dev 4 = false ∧
                        (4 = 4 → shoreL1.dev.power.linkL1 = true) ∧ (4 < 4 → hbmUsed shoreL1.dev = false)) := by decide +kernel

theorem witness_AutomaticEntry_3 :
    running shoreBusy.dev = true ∧
      shoreBusy.dev.power.booting = false ∧ domMoving shoreBusy.dev 4 = false ∧ domIdle shoreBusy.dev 4 = false := by decide +kernel

theorem witness_AutomaticEntry_4 :
    running (pwrArmed (domUp 1 1 3)).dev = true ∧
      (pwrArmed (domUp 1 1 3)).dev.power.booting = false ∧
        domMoving (pwrArmed (domUp 1 1 3)).dev 1 = false ∧ transHeld (pwrArmed (domUp 1 1 3)).dev = true := by decide +kernel

theorem witness_DeepestMereEntry_1 :
    1 ∈ s3Up.dev.power.s3 ∧
      fwpRuns s3Up.dev 1 = true ∧ fwpRuns s3Up.dev 2 = true ∧ fwpRuns s3Up.dev 3 = true ∧ rowsHeld s3Up.dev = false := by decide +kernel

theorem witness_DeepestMereEntry_2 :
    1 ∈ (fwpOut 2 s3Up).dev.power.s3 ∧
      (fwpRuns (fwpOut 2 s3Up).dev 1 = false ∨
        fwpRuns (fwpOut 2 s3Up).dev 2 = false ∨ fwpRuns (fwpOut 2 s3Up).dev 3 = false) := by decide +kernel

theorem witness_DeepestMereEntry_3 :
    1 ∈ s3Rows.dev.power.s3 ∧
      fwpRuns s3Rows.dev 1 = true ∧ fwpRuns s3Rows.dev 2 = true ∧ fwpRuns s3Rows.dev 3 = true ∧ rowsHeld s3Rows.dev = true := by decide +kernel

theorem witness_WakeAndResume_1 :
    running (domUp 1 2 3).dev = true ∧
      ¬1 ∈ (domUp 1 2 3).dev.power.s3 ∧
        transHeld (domUp 1 2 3).dev = false ∧
          (∀ (r : Nat × Nat), r ∈ (domUp 1 2 3).dev.power.resuming → r.fst ≠ 1) ∧ 1 < domState (domUp 1 2 3).dev 1 := by decide +kernel

theorem witness_WakeAndResume_2 :
    running resumingUp.dev = true ∧
      ¬1 ∈ resumingUp.dev.power.s3 ∧ List.find? (fun r => decide (r.fst = 1)) resumingUp.dev.power.resuming = some (1, 1) := by decide +kernel

theorem witness_WakeAndResume_3 :
    running (pwrArmed (domUp 1 2 3)).dev = true ∧
      ¬1 ∈ (pwrArmed (domUp 1 2 3)).dev.power.s3 ∧
        transHeld (pwrArmed (domUp 1 2 3)).dev = true ∧
          domMoving (pwrArmed (domUp 1 2 3)).dev 1 = false ∧ 1 < domState (pwrArmed (domUp 1 2 3)).dev 1 := by decide +kernel

theorem witness_HostLinkStates_1 :
    running shoreL1.dev = true ∧
      shoreL1.dev.power.booting = false ∧
        shoreL1.dev.power.linkL1 = true ∧
          transHeld shoreL1.dev = false ∧
            ¬4 ∈ shoreL1.dev.power.s3 ∧ shoreL1.dev.power.resuming = [] ∧ 0 < domState shoreL1.dev 4 := by decide +kernel

theorem witness_DeepSleep_1 :
    LandsOn deepAskedUp 0 Blk.pwr 0 276 ∧
      deepAskedUp.dev.reqs = [] ∧
        fwpRuns deepAskedUp.dev 1 = true ∧
          fwpRuns deepAskedUp.dev 3 = true ∧
            deepAskedUp.dev.power.deepAsked = true ∧
              fwpRuns deepAskedUp.dev 2 = true ∧ deepAskedUp.dev.power.resuming = [] ∧ rowsHeld deepAskedUp.dev = false := ⟨landsOn_of (by decide +kernel), by decide +kernel⟩

theorem witness_DeepSleep_2 :
    deepUp.dev.power.rails = Rails.deep ∧
      deepWoken deepUp.dev WakeSource.pin = true ∧
        deepUp.dev.txn.unsure = [] ∧
          (0 = 0 ∨ ∃ r, r ∈ deepUp.dev.flash.records ∧ r.fst = 0) ∧
            springHeld 12552 = true ∧ 12552 ≠ regA Blk.rst 0 260 ∧ 12552 ≠ regA Blk.rst 0 276 := by decide +kernel

theorem witness_DeepSleep_3 :
    LandsOn deepRows 0 Blk.pwr 0 276 ∧
      deepRows.dev.reqs = [] ∧
        fwpRuns deepRows.dev 1 = true ∧
          fwpRuns deepRows.dev 3 = true ∧
            (fwpRuns deepRows.dev 2 = false ∨
              fwpRuns deepRows.dev 3 = false ∨ deepRows.dev.power.resuming ≠ [] ∨ rowsHeld deepRows.dev = true) := ⟨landsOn_of (by decide +kernel), by decide +kernel⟩

theorem witness_WakeEntryFires_1 :
    wakeUp.dev.power.vin = true ∧
      wakeLost wakeUp.dev 2 = false ∧
        Machine.firing (wakeEntry wakeUp.dev 2)
              (max (tickNow wakeUp.dev) (SMap.get (fun _ => 0) wakeUp.dev.power.wakeFired 2)) =
            some 35 ∧
          (isArmed wakeUp.dev Blk.spr 0 = false ∨ 35 ≤ tickNow wakeUp.dev) ∧ (wakeEntry wakeUp.dev 2).pin = true := by decide +kernel

theorem witness_WakeEntryFires_2 :
    wakeLate.dev.power.vin = true ∧
      wakeLost wakeLate.dev 2 = false ∧
        Machine.firing (wakeEntry wakeLate.dev 2)
              (max (tickNow wakeLate.dev) (SMap.get (fun _ => 0) wakeLate.dev.power.wakeFired 2)) =
            some wakeTick ∧
          (isArmed wakeLate.dev Blk.spr 0 = false ∨ wakeTick ≤ tickNow wakeLate.dev) ∧ (wakeEntry wakeLate.dev 2).pin = true := by decide +kernel

theorem witness_WakeEntryFires_3 :
    up.dev.power.vin = true ∧
      wakeLost up.dev 2 = false ∧
        Machine.firing (wakeEntry up.dev 2) (max (tickNow up.dev) (SMap.get (fun _ => 0) up.dev.power.wakeFired 2)) = none := by decide +kernel

theorem witness_WakeEntryFires_4 :
    wakeLostUp.dev.power.vin = true ∧ wakeLost wakeLostUp.dev 2 = true := by decide +kernel

theorem witness_WakeEntryFires_5 :
    sprArmed.dev.power.vin = true ∧
      wakeLost sprArmed.dev 2 = false ∧
        Machine.firing (wakeEntry sprArmed.dev 2)
              (max (tickNow sprArmed.dev) (SMap.get (fun _ => 0) sprArmed.dev.power.wakeFired 2)) =
            some 35 ∧
          isArmed sprArmed.dev Blk.spr 0 = true ∧ tickNow sprArmed.dev < 35 := by decide +kernel

theorem witness_WakeEntryFires_6 :
    wakeAsleep.dev.power.vin = true ∧
      wakeLost wakeAsleep.dev 2 = false ∧
        Machine.firing (wakeEntry wakeAsleep.dev 2)
              (max (tickNow wakeAsleep.dev) (SMap.get (fun _ => 0) wakeAsleep.dev.power.wakeFired 2)) =
            some 35 ∧
          (isArmed wakeAsleep.dev Blk.spr 0 = false ∨ 35 ≤ tickNow wakeAsleep.dev) ∧
            (wakeEntry wakeAsleep.dev 2).pin = true ∧
              running wakeAsleep.dev = true ∧ transHeld wakeAsleep.dev = false ∧ 0 < domState wakeAsleep.dev 4 := by decide +kernel

theorem witness_WakeEnds_1 :
    heldUpS.dev.power.holds ≠ [] ∧
      heldUpS.dev.power.vin = true ∧
        heldUpS.dev.power.tripped = false ∧ heldUpS.dev.power.wakePins = [] ∧ heldUpS.dev.power.wakeResume = false := by decide +kernel

theorem witness_Clocks_1 :
    1 ∈ lockUp.dev.power.relock ∧ running lockUp.dev = true := by decide +kernel

theorem witness_Clocks_2 :
    ¬2 ∈ lockUp.dev.power.relock ∧ running lockUp.dev = true := by decide +kernel

theorem witness_ThermalSweep_1 :
    running stock.dev = true ∧ sweep1.inlet = some 70 ∧ ∃ v, sweep1.inlet = some v ∧ inletC stock.dev + 1 ≤ v := by decide +kernel

theorem witness_ThermalSweep_2 :
    running cold.dev = false := by decide +kernel

theorem witness_ThermalSweep_3 :
    running stock.dev = true ∧ sweep1.outlet = some 50 ∧ ∃ v, sweep1.inlet = some v ∧ inletC stock.dev + 1 ≤ v := by decide +kernel

theorem witness_ThermalSweep_4 :
    running stock.dev = true ∧ (sweep2.inlet = none ∨ sweep2.outlet = none) := by decide +kernel

theorem witness_PoolPorts_1 :
    bitOf (reg (poolUp 4 1) Blk.fab 0 256) 0 = true ∧ fwpRuns (poolUp 4 1).dev 5 = true := by decide +kernel

theorem witness_PoolPorts_2 :
    bitOf (reg lostUp Blk.fab 0 256) 0 = false := by decide +kernel

theorem witness_PoolPorts_3 :
    bitOf (reg cxlUp Blk.fab 0 256) 0 = false ∧ 256 ≤ reg cxlUp Blk.fab 0 256 ∧ fwpRuns cxlUp.dev 5 = true := by decide +kernel

theorem witness_PoolFailures_1 :
    findReq (poolUp 4 1).dev 77 = none ∧ poolMapped (poolUp 4 1).dev 4096 = true := by decide +kernel

theorem witness_PoolFailures_2 :
    findReq (poolUp 0 1).dev 77 = none ∧ poolMapped (poolUp 0 1).dev 4096 = false := by decide +kernel

theorem witness_PoolFailures_3 :
    findReq rowsUp.dev 77 = none ∧
      poolMapped rowsUp.dev 8 = true ∧ rowAt rowsUp.dev 8 = some (4, 2) ∧ poolDown rowsUp.dev 8 = false := by decide +kernel

theorem witness_PoolFailures_4 :
    findReq rowsDown.dev 77 = none ∧
      poolMapped rowsDown.dev 8 = true ∧ rowAt rowsDown.dev 8 = some (4, 2) ∧ poolDown rowsDown.dev 8 = true := by decide +kernel

theorem witness_PortsTrain_1 :
    (nodeUp 0).dev.links.ports.length = 8 ∧
      portState (nodeUp 0).dev 2 = 0 ∧
        running (nodeUp 0).dev = true ∧
          (nodeUp 0).dev.power.booting = false ∧
            fwpRuns (nodeUp 0).dev 5 = true ∧
              ownSystem (nodeUp 0).dev ≠ 0 ∧
                nodeLost (nodeUp 0).dev = false ∧
                  peer7.system = ownSystem (nodeUp 0).dev ∧ peer7.node % 256 ≠ ownNode (nodeUp 0).dev := by decide +kernel

theorem witness_PortsTrain_2 :
    (nodeUp 0).dev.links.ports.length = 8 ∧
      portState (nodeUp 0).dev 2 = 0 ∧
        running (nodeUp 0).dev = true ∧
          (nodeUp 0).dev.power.booting = false ∧
            fwpRuns (nodeUp 0).dev 5 = true ∧
              ownSystem (nodeUp 0).dev ≠ 0 ∧
                nodeLost (nodeUp 0).dev = false ∧
                  (peer3.system ≠ ownSystem (nodeUp 0).dev ∨ peer3.node % 256 = ownNode (nodeUp 0).dev) := by decide +kernel

theorem witness_PortsTrain_3 :
    stock.dev.links.ports.length = 8 ∧ ownSystem stock.dev = 0 := by decide +kernel

theorem witness_PortsTrain_4 :
    LandsOn (nodeUp 1) 0 Blk.ndl 2 268 ∧
      (nodeUp 1).dev.links.ports.length = 8 ∧
        portState (nodeUp 1).dev 2 = 1 ∧
          ownSystem (nodeUp 1).dev ≠ 0 ∧ nodeLost (nodeUp 1).dev = false ∧ fwpRuns (nodeUp 1).dev 5 = true := ⟨landsOn_of (by decide +kernel), by decide +kernel⟩

theorem witness_PortsTrain_5 :
    LandsOn (fwpOut 5 (nodeUp 1)) 0 Blk.ndl 2 268 ∧
      (fwpOut 5 (nodeUp 1)).dev.links.ports.length = 8 ∧
        portState (fwpOut 5 (nodeUp 1)).dev 2 = 1 ∧ fwpRuns (fwpOut 5 (nodeUp 1)).dev 5 = false := ⟨landsOn_of (by decide +kernel), by decide +kernel⟩

theorem witness_PeersDeclared_1 :
    (nodeUp 1).dev.links.ports.length = 8 ∧ portState (nodeUp 1).dev 2 = 1 ∧ epochLost (nodeUp 1).dev 2 = false := by decide +kernel

theorem witness_PeersDeclared_2 :
    downUp.dev.links.ports.length = 8 ∧
      portState downUp.dev 2 = 0 ∧ (portAt downUp.dev 2).downAt = some 0 ∧ epochLost downUp.dev 2 = false := by decide +kernel

theorem witness_PeersDeclared_3 :
    LandsOn (nodeUp 2) 0 Blk.ndl 2 268 ∧
      (nodeUp 2).dev.links.ports.length = 8 ∧
        portState (nodeUp 2).dev 2 = 2 ∧ bitsOf (reg (nodeUp 2) Blk.ndl 2 260) 5 2 ≠ 0 ∧ fwpRuns (nodeUp 2).dev 5 = true := ⟨landsOn_of (by decide +kernel), by decide +kernel⟩

theorem witness_PeersDeclared_4 :
    (epochLostUp 1).dev.links.ports.length = 8 ∧
      portState (epochLostUp 1).dev 2 = 1 ∧ epochLost (epochLostUp 1).dev 2 = true := by decide +kernel

theorem witness_PeersDeclared_5 :
    LandsOn (fwpOut 5 (nodeUp 2)) 0 Blk.ndl 2 268 ∧
      (fwpOut 5 (nodeUp 2)).dev.links.ports.length = 8 ∧ fwpRuns (fwpOut 5 (nodeUp 2)).dev 5 = false := ⟨landsOn_of (by decide +kernel), by decide +kernel⟩

theorem witness_FramesDoTheirWork_1 :
    InOrder Tests.linkUp 2 0 (frameOf' 0 1 0 0 []) := by unfold InOrder; decide +kernel

theorem witness_FramesDoTheirWork_2 :
    InOrder Tests.linkUp 2 2 (frameOf' 2 1 4 11 ([16, 0, 0, 0, 3, 0] ++ [7, 8, 9])) ∧
      linkCtx Tests.linkUp.dev (fieldN (frameOf' 2 1 4 11 ([16, 0, 0, 0, 3, 0] ++ [7, 8, 9])) 16 2)
            (fieldN (frameOf' 2 1 4 11 ([16, 0, 0, 0, 3, 0] ++ [7, 8, 9])) 18 8) =
          some linkC ∧
        ((fieldN (List.take 226 (List.drop 26 (frameOf' 2 1 4 11 ([16, 0, 0, 0, 3, 0] ++ [7, 8, 9])))) 0 4 +
              if fieldN (List.take 226 (List.drop 26 (frameOf' 2 1 4 11 ([16, 0, 0, 0, 3, 0] ++ [7, 8, 9])))) 4 2 = 0 then
                192
              else
                min 192
                  (fieldN (List.take 226 (List.drop 26 (frameOf' 2 1 4 11 ([16, 0, 0, 0, 3, 0] ++ [7, 8, 9])))) 4 2)) ≤
            if linkC.phase = CtxPhase.queued then 2 ^ 24 else linkC.dbufBytes) ∧
          [7, 8, 9] =
            List.take
              (if fieldN (List.take 226 (List.drop 26 (frameOf' 2 1 4 11 ([16, 0, 0, 0, 3, 0] ++ [7, 8, 9])))) 4 2 = 0 then
                192
              else
                min 192 (fieldN (List.take 226 (List.drop 26 (frameOf' 2 1 4 11 ([16, 0, 0, 0, 3, 0] ++ [7, 8, 9])))) 4 2))
              (List.drop 6 (List.take 226 (List.drop 26 (frameOf' 2 1 4 11 ([16, 0, 0, 0, 3, 0] ++ [7, 8, 9]))))) := ⟨by unfold InOrder; decide +kernel, by decide +kernel⟩

theorem witness_FramesDoTheirWork_3 :
    InOrder Tests.linkUp 2 3 (frameOf' 3 1 4 11 [0, 0, 1, 0, 3]) := by unfold InOrder; decide +kernel

theorem witness_FramesDoTheirWork_4 :
    InOrder Tests.linkUp 2 4 (frameOf' 4 1 4 11 [0, 1]) := by unfold InOrder; decide +kernel

theorem witness_FramesDoTheirWork_5 :
    InOrder Tests.linkUp 2 5 (frameOf' 5 1 4 11 [1]) := by unfold InOrder; decide +kernel

theorem witness_FramesDoTheirWork_6 :
    InOrder Tests.linkUp 2 6 (frameOf' 6 1 0 0 [2, 7, 8]) := by unfold InOrder; decide +kernel

theorem witness_FramesDoTheirWork_7 :
    portState Tests.linkUp.dev 2 = 1 ∧ byteAt badFrame 0 = 0 ∧ frameOk badFrame = false := by decide +kernel

theorem witness_FramesDoTheirWork_8 :
    portState Tests.linkUp.dev 2 = 1 ∧
      byteAt (frameOf' 0 2 0 0 []) 0 = 0 ∧
        frameOk (frameOf' 0 2 0 0 []) = true ∧
          epochLost Tests.linkUp.dev 2 = false ∧
            nodeLost Tests.linkUp.dev = false ∧
              fieldN (frameOf' 0 2 0 0 []) 4 2 = portEpoch Tests.linkUp.dev 2 ∧
                fieldN (frameOf' 0 2 0 0 []) 6 2 ≠ ((portAt Tests.linkUp.dev 2).seqRx + 1) % 65536 := by decide +kernel

theorem witness_FramesReplayed_1 :
    portState heldFrames.dev 2 = 1 ∧
      findIdx (fun x => decide (x.fst = 2)) (portAt heldFrames.dev 2).held 0 = some (1, 2, [2]) := by decide +kernel

theorem witness_FramesReplayed_2 :
    portState heldFrames.dev 2 = 1 ∧ findIdx (fun x => decide (x.fst = 9)) (portAt heldFrames.dev 2).held 0 = none := by decide +kernel

/-! ### Witnesses written by hand -/

/-- What an access answers with, as a check. -/
def accOk {α : Type} (x : Acc α) : Bool := match x with | .ok _ => true | _ => false

theorem accOk_of {α : Type} {x : Acc α} (h : accOk x = true) : ∃ d, x = .ok d := by
  cases x <;> first | exact ⟨_, rfl⟩ | simp [accOk] at h

theorem replay_absent (n : Nat) : ∀ (l : List (List Byte)) (v : BitVec 384), (∀ e ∈ l, byteAt e 4 ≠ n) → replay n l v = v
  | [], _, _ => rfl
  | e :: l, v, h => by
    rw [replay, if_neg (h e (by simp))]
    exact replay_absent n l v (fun x hx => h x (by simp [hx]))

theorem get_absent {α : Type} (d : Nat → α) : ∀ (m : SMap α) (n : Nat), (∀ x ∈ m, x.1 ≠ n) → SMap.get d m n = d n
  | [], _, _ => rfl
  | (a, v) :: m, n, h => by
    rw [SMap.get, if_neg (h (a, v) (by simp))]
    exact get_absent d m n (fun x hx => h x (by simp [hx]))

/-- A sort command of a job that runs to its end. -/
theorem witness_SortCommands_job :
    sortUp.dev.eng.sorts.find? (fun y => decide (y.id = 3)) = some sortJob ∧
      (∀ y ∈ sortUp.dev.eng.sorts, sortStarts sortUp.dev y = false) ∧ sortJob.slot = none ∧ sortJob.running = true ∧ sortJob.bad = none ∧ sortFieldBad sortJob.bytes = none ∧
      bitOf (SortC.mode sortJob.bytes) 4 = false := by decide +kernel

theorem witness_SortCommands_data :
    listsFrom sortD0 0 (SortC.listAddr sortJob.bytes) (SortC.nList sortJob.bytes) 0 [] = .recs sortXs ∧ (∃ d, (vWrite sortD0 0 (SortC.outAddr sortJob.bytes)
        ((sortRun sortXs (SortC.k sortJob.bytes) false false false false 0).recs.flatMap recBytes)).bind
        (fun d => vWrite d 0 (SortC.hdrAddr sortJob.bytes) (sortRun sortXs (SortC.k sortJob.bytes) false false false false 0).header) =
        .ok d) ∧ sortXs.length = 2 := ⟨by decide +kernel, accOk_of (by decide +kernel), by decide +kernel⟩

/-- An idle handle whose time has come. -/
theorem witness_HandleMoves_idle :
    findHandleIdx (withH stock h0).dev 3 = some h0 ∧ h0.st = .idle ∧ h0.moving = false ∧ h0.inPool = false := by decide +kernel

/-- A RUN_JOB whose image has no valid header. -/
theorem witness_Admissions_job : ∀ x, imgHeader jobStock.dev 0 0x2000 = .ok x → headerOk x = true → Img.dbuf x ≤ jobPool jobStock.dev 0 ∧ Img.gang x = false := by
  intro x h h2
  have hx : (match imgHeader jobStock.dev 0 0x2000 with | .ok x => headerOk x | _ => false) = false := by decide +kernel
  rw [h] at hx
  exact absurd h2 (by simp [hx])

theorem witness_DeepSleep_accepted :
    LandsOn logged 0 .pwr 0 0x114 ∧ (∀ b, 0 < b → b < 64 → basinState logged.dev b = 0 ∨ basinState logged.dev b = 2) ∧
      logged.dev.reqs = [] ∧ fwpRuns logged.dev 1 = true ∧ fwpRuns logged.dev 3 = true :=
  ⟨landsOn_of (by decide +kernel),
    fun b h1 h2 => (by decide +kernel : ∀ b < 64, 0 < b → basinState logged.dev b = 0 ∨ basinState logged.dev b = 2) b h2 h1,
    by decide +kernel⟩

theorem witness_DeepSleep_refused :
    LandsOn reqWaits 0 .pwr 0 0x114 ∧ reqWaits.dev.reqs ≠ [] ∧ LandsOn basin5 0 .pwr 0 0x114 ∧ basinState basin5.dev 5 = 1 :=
  ⟨landsOn_of (by decide +kernel), by decide +kernel, landsOn_of (by decide +kernel), by decide +kernel⟩

theorem witness_ThermalSweep_die :
    running stock.dev = true ∧ (dieReadings stock.dev sweep1).getD 20 none = some 110 ∧ alertC stock.dev ≤ 110 := by decide +kernel

/-- The measurement block's invariant holds with two entries in the log, and a step goes on from there. -/
theorem witness_MeasurementsReplay : logged.meas.log.length = 2 ∧ MeasInv logged ∧ ∃ t, step logged = .next t :=
  ⟨by decide +kernel, ⟨by decide +kernel, by decide +kernel,
    fun i e h => by
      have hi : i < 2 := by
        rw [← (by decide +kernel : logged.meas.log.length = 2)]
        exact (List.getElem?_eq_some_iff.mp h).1
      have hk : ∀ i < 2, ∀ e ∈ logged.meas.log[i]?, e.length = 128 ∧ fieldN e 0 4 = i + 1 ∧ byteAt e 4 < 16 := by decide +kernel
      exact hk i hi e h,
    by decide +kernel,
    fun _ n => by
      by_cases h : n < 16
      · exact (by decide +kernel : ∀ n < 16, slotOf logged n = replay n logged.meas.log 0) n h
      · have h1 : ∀ e ∈ logged.meas.log, byteAt e 4 < 16 := by decide +kernel
        have h2 : ∀ x ∈ logged.meas.slots, x.1 < 16 := by decide +kernel
        rw [replay_absent n _ _ (fun e he => by have := h1 e he; omega)]
        exact get_absent _ _ n (fun x hx => by have := h2 x hx; omega)⟩, _, rfl⟩

theorem witness_LogOnlyGrows : exec .trst logged = .next (after .trst logged) ∧ logged.meas.log ≠ [] := ⟨rfl, by decide +kernel⟩

theorem witness_FirmwareUpdates_start : LandsOn logged 0 .fwp 0 0x20C ∧ logged.dev.flash.update = none :=
  ⟨landsOn_of (by decide +kernel), by decide +kernel⟩

theorem witness_FirmwareUpdates_busy : LandsOn (updating 3) 0 .fwp 0 0x20C ∧ (updating 3).dev.flash.update ≠ none :=
  ⟨landsOn_of (by decide +kernel), by decide +kernel⟩

theorem witness_CompletionsWritten_poison :
    outSize compPoison.dev 0 1 ≤ 16 ∧ List.find? (fun c => decide (c.basin = 0 ∧ c.ring = 1)) compPoison.dev.host.comps = some comp0 ∧
      comp0.slot = some 5 ∧ awaitsRemap compPoison.dev 5 = true := by decide +kernel

theorem witness_HostExtensions_full :
    (w4 0x8000000C).getLsbD 31 = true ∧ LandsOn fullLog 0 .meas 0 0x108 ∧ 10 ≤ (w4 0x8000000C).toNat % 16 ∧ fwpRuns fullLog.dev 0 = true ∧
      4096 ≤ fullLog.meas.log.length :=
  ⟨by decide +kernel, landsOn_of (by decide +kernel), by decide +kernel, by decide +kernel, by simp [fullLog]⟩

/-- FWP3 reaches its own memory, and no other place. -/
theorem witness_ProtectionFault_1 : isReady logged.dev = true ∧ fwpRuns logged.dev 3 = true ∧ FwPlace.memory 3 = .memory 3 := by decide +kernel

theorem witness_ProtectionFault_2 : isReady logged.dev = true ∧ fwpRuns logged.dev 3 = true ∧ FwPlace.other = .other := by decide +kernel

theorem witness_ProtectionFault_3 :
    isReady logged.dev = true ∧ fwpRuns logged.dev 3 = true ∧ Blk.ring ∉ fwpPages 3 ∧ pageOf (pageNo .ring 0) = some (.ring, 0) := by decide +kernel

/-- A page of the stack, whichever it is, that holds page 0x400000 of the reserve. -/
theorem witness_PageRemaps_1 :
    ∃ st, stackOf ((0x38000 * st + 0x10) * 65536) = some st ∧ fwpRuns (remapIn st []).dev 4 = true ∧
      remapDue (remapIn st []).dev (0x38000 * st + 0x10) st = true ∧ reg (remapIn st []) .hbm st 0x210 ≠ 0 ∧
      sparePage (remapIn st []).dev 0x400000 = true ∧ deviceManaged (remapIn st []).dev (0x38000 * st + 0x10) = false ∧
      stackOf (0x400000 * 65536) = some st := by
  have h : ∀ st, st < 12 → stackOf ((0x38000 * st + 0x10) * 65536) = some st ∧ fwpRuns (remapIn st []).dev 4 = true ∧
      remapDue (remapIn st []).dev (0x38000 * st + 0x10) st = true ∧ reg (remapIn st []) .hbm st 0x210 ≠ 0 ∧
      sparePage (remapIn st []).dev 0x400000 = true ∧ deviceManaged (remapIn st []).dev (0x38000 * st + 0x10) = false := by decide +kernel
  obtain ⟨a, b, c, d, e, f⟩ := h (Config.reserveStack 0x400000 % 12) (Nat.mod_lt _ (by decide))
  exact ⟨_, a, b, c, d, e, f, by simp [stackOf]⟩

theorem witness_PageRemaps_2 :
    ∃ st, stackOf ((0x38000 * st + 0x10) * 65536) = some st ∧ fwpRuns (remapIn st [0x38000 * st + 0x10]).dev 4 = true ∧
      remapDue (remapIn st [0x38000 * st + 0x10]).dev (0x38000 * st + 0x10) st = true ∧
      reg (remapIn st [0x38000 * st + 0x10]) .hbm st 0x210 ≠ 0 ∧ sparePage (remapIn st [0x38000 * st + 0x10]).dev 0x400000 = true ∧
      deviceManaged (remapIn st [0x38000 * st + 0x10]).dev (0x38000 * st + 0x10) = true ∧ stackOf (0x400000 * 65536) = some st := by
  have h : ∀ st, st < 12 → stackOf ((0x38000 * st + 0x10) * 65536) = some st ∧
      fwpRuns (remapIn st [0x38000 * st + 0x10]).dev 4 = true ∧
      remapDue (remapIn st [0x38000 * st + 0x10]).dev (0x38000 * st + 0x10) st = true ∧
      reg (remapIn st [0x38000 * st + 0x10]) .hbm st 0x210 ≠ 0 ∧ sparePage (remapIn st [0x38000 * st + 0x10]).dev 0x400000 = true ∧
      deviceManaged (remapIn st [0x38000 * st + 0x10]).dev (0x38000 * st + 0x10) = true := by decide +kernel
  obtain ⟨a, b, c, d, e, f⟩ := h (Config.reserveStack 0x400000 % 12) (Nat.mod_lt _ (by decide))
  exact ⟨_, a, b, c, d, e, f, by simp [stackOf]⟩

theorem witness_RegisterZero : (5 : Nat) ≠ 0 ∧ (4 : Nat) ≠ 5 ∧ xr (setX coreK 5 7) 5 = 7 := by decide

/-! ### Each check of WellFormed refuses an ill-formed term -/

/-- A request descriptor of 63 bytes. -/
def shortFetch : Fetch := ⟨List.replicate 63 0, []⟩

theorem test_wf_refuses :
    [Instr.txnLastLo ⟨64, 0x124, 4⟩, .txnLastLo ⟨0, 0x124, 3⟩, .sprNowLo ⟨0, 4092, 8⟩, .ringApply 64, .coalUs 5 16, .inputIdle (2 ^ 20), .prefetchDrop 4, .hbLost 1 265, .demandWake 5, .ndlHbMiss 8,
      .fabLinkDown 2, .watchdogExpiry 6, .dieRelocated 256, .wakePinEnd 32, .rippleSlow 16 0, .blockApply (2 ^ 14), .regWrite 0 2 4 0 [],
      .regWrite 0 4 8 0 [], .query shortFetch 5, .query ⟨descOf 1 [], List.replicate 2049 0⟩ 5, .ndlWrite 0 ⟨[]⟩, .stale (.core 4 0) 1,
      .deepExit (.entry 32), .blkStatRc 0 ⟨5, 0x24, 4⟩ [⟨32, 0, 0, 0, 0⟩], .sensorSweep ⟨[], [], none, none⟩].map Instr.wellFormed =
      List.replicate 25 false := by decide

theorem test_wf_refuses_ranges :
    [Instr.schedulingTick 0 ⟨0, [[1056]], []⟩, .bar2Write 0 4092 (List.replicate 5 0), .bar2Write 0 0 [],
      .tmrScrub [⟨0, 0, true, 3, 0⟩], .readBudgetExpiry 5 (2 ^ 32), .passStart 0 (List.replicate 257 5), .flrVf 0, .spared 0 0 256,
      .hbmScrub 12 [], .thermalTrip 72, .poolAccessFail 0 3 5, .fabTmo (2 ^ 44) 5, .training 0 ⟨2 ^ 16, 0, 0, false⟩,
      .stale (.die 1) (2 ^ 16), .numvfsLower 0, .vfEnable 64 true [], .lockLost 12, .progFail 0 (2 ^ 32),
      .bundle 9 264 [], .bundle 9 0 [⟨.tarn 0x60000, 3, none⟩], .cutPiece 5 [⟨.dbuf 4, 1, none⟩], .txnStart [⟨.shore (2 ^ 26), 1, none⟩],
      .gatherRead 6 [⟨.hbm 4, 1, none⟩], .mergeSumDone 6 [⟨.dbuf 4, 1, none⟩], .nodeReadArrival 5 [⟨.node 0 1024, 1, none⟩], .drawLands 9 264 2 [] [],
      .passEnd ⟨7, [⟨.hbm 4, 1, none⟩]⟩, .copyIn 0 ⟨[], [⟨.shore 4, 1, none⟩]⟩, .schedulingTick 0 ⟨0, [], [⟨.save 9 4, 1, none⟩]⟩].map Instr.wellFormed =
      List.replicate 29 false := by decide

theorem test_wf_accepts :
    [Instr.txnLastLo ⟨63, 0x120, 4⟩, .schedulingTick 0 ⟨0, [[1055]], []⟩, .coalUs 63 15, .query ⟨descOf 1 [], []⟩ 5, .regWrite 0 8 8 0 [⟨31, 63, 0, 0, 0⟩], .stale (.link 7) 0,
      .sensorSweep sweep1, .deepExit .mctp].map Instr.wellFormed = List.replicate 8 true := by decide +kernel

/-- The command table gives its rows no bits. -/
theorem test_no_word : decodeTableWord 64 0x1234 = none ∧ up.withFetchWord 64 0x1234 = up := by decide +kernel

/-! ### Values that the spec works out -/

/-- Keys of Tables 8-1 and 8-7: 4.0, 2.5, 0.0, -1.0. -/
theorem test_keys : [0x40800000, 0x40200000, 0, 0xBF800000].map keyOfScore = [0xC0800000, 0xC0200000, 0x80000000, 0x407FFFFF] := by decide

/-- The lists of Example 8-2, in arrival order. -/
def ex82 : List SRec :=
  [(101, 0x40800000, 0, 0), (205, 0x40200000, 0, 1), (330, 0x3F800000, 0, 2), (205, 0x40400000, 1, 0), (412, 0x40200000, 1, 1),
   (518, 0x3F000000, 1, 2), (620, 0x40200000, 2, 0), (101, 0x40600000, 2, 1), (733, 0xBF800000, 2, 2), (844, 0x40200000, 3, 0),
   (901, 0, 3, 1), (330, 0x3FC00000, 3, 2)].map (fun (i, f, l, p) => ⟨keyOfScore (w4 f), i, 0, l, p⟩)

/-- Example 8-2: the four selected, the copies dropped, the tie, and the reference key. -/
theorem test_example_8_2 :
    (let o := sortRun ex82 4 true true true false 0x3F800000
     (o.recs.map (·.id), o.nReal, o.nIn, o.nDup, o.nTied, o.rflags, o.refKey)) = ([101, 205, 412, 620], 4, 12, 3, 1, 6, 0xC0800000) := by decide +kernel

/-- Example 1-1: 6,000 µs after admission. -/
theorem test_example_1_1 : deadlineAt 0 12000 30000 60000 = some (usCycles 6000) ∧ deadlineAt 0 24000 30000 60000 = some (usCycles 12000) := by decide

/-- ASCII. -/
def txt (s : String) : List Byte := s.toList.map (fun c => BitVec.ofNat 8 c.toNat)

/-- The vocabulary of Example 10-1. -/
def ex101 : Vocab :=
  ⟨0, 2, (List.range 341).map (fun i => if i < 256 then ⟨[BitVec.ofNat 8 i], false⟩ else
    match [(300, txt "feed"), (301, txt "feeder"), (302, txt " trip"), (340, txt "40"), (310, [0xC2, 0xB0]), (330, txt "<|"), (331, txt "sys"),
      (332, txt "|>"), (320, txt "<|sys|>")].find? (fun x => decide (x.1 = i)) with
    | some x => ⟨x.2, decide (i = 320)⟩
    | none => ⟨[0, 0, 0], false⟩)⟩

/-- Example 10-1: the pieces as they arrive. -/
theorem test_example_10_1 :
    cutPiece ex101 false false [] (txt "feed") = ⟨[], txt "feed", 0⟩ ∧
      cutPiece ex101 false false (txt "feed") (txt "er 40" ++ [0xC2]) = ⟨[301, 32, 340], [0xC2], 0⟩ ∧
      cutPiece ex101 false true [0xC2] (0xB0 :: txt " <|sys|>") = ⟨[310, 32, 330, 331, 332], [], 0⟩ := by decide +kernel

/-- Example 10-1: in SYSTEM mode the control string is one token, and a cut-off lead byte is a byte token. -/
theorem test_example_10_1_system :
    cutPiece ex101 true true [] (txt "<|sys|>") = ⟨[320], [], 0⟩ ∧ cutPiece ex101 false true [0xC2] [] = ⟨[194], [], 1⟩ := by decide +kernel

/-- The bundle of Example 13-1. -/
def ex131 : List Byte := [0x03, 0x00, 0x20, 0xA5, 0x00, 0x40, 0x00, 0x00, 0x03, 0x22, 0x0C, 0x00, 0x03, 0x00, 0x00, 0x00] ++ List.replicate 16 0

/-- Example 13-1: the fields of its S slot. -/
theorem test_example_13_1 :
    (let s := Bundle.slotS (leNat ex131)
     (leNat ex131 % 16, s, SS.op s, SS.rd s, SS.rs1 s, bitsOf s 47 23)) = (3, 0x00004000A520, 0x20, 5, 5, 128) := by decide

/-- Example 14-1: 1.0 plus sixteen products of 3.0 and sixteen of -0.75, halved, is 19.0. -/
theorem test_example_14_1 :
    cellRun 0x10 4 0 0 0x3F800000 (List.replicate 32 ⟨3, 0x80⟩) (List.replicate 16 ⟨4, 0x7D⟩ ++ List.replicate 16 ⟨9, 0x7D⟩) = 0x41980000 := by decide +kernel

/-- Example 14-4: point 0's two-hop costs, absent links skipped. -/
theorem test_example_14_4 :
    ([[0, 0x80, 0x80, 0x80], [4, 0, 0x80, 0x80], [9, 3, 0, 0x80], [0x80, 0x80, 2, 0]].map (fun (col : List Nat) =>
      storeElem 0 2 0 0 (cellRun 0x13 0 0 0 0x7FFFFFFF ([0, 4, 9, 0x80].map (⟨·, 0⟩)) (col.map (⟨·, 0⟩))))) = [0, 4, 7, 11] := by decide +kernel

/-- Example 16-1: the codes, and the nibbles of its two bytes. -/
theorem test_example_16_1 :
    (let cs := canonical ([(2, 0), (2, 15), (3, 1), (3, 14), (4, 2), (4, 13), (5, 3), (5, 12)] ++ (List.range 8).map (fun i => (7, i + 4)))
     (cs.take 8, decodeNibbles cs (fun i => bitOf ([0x98, 0x01].getD (i / 8) 0) (i % 8)) 16 4 0 [])) =
      ([(2, 0, 0), (2, 1, 15), (3, 4, 1), (3, 5, 14), (4, 12, 2), (4, 13, 13), (5, 28, 3), (5, 29, 12)], some ([0, 15, 1, 2], 11)) := by decide +kernel

/-- Example 18-1: when entry 0 first fires. -/
theorem test_example_18_1 : nextFire ⟨7340032, 29491200, 65536, true, [0, 1, 2, 3], false, false⟩ 0 = some 7274496 := by decide

/-- The check value of CRC-32, and SHA-384 of "abc" as FIPS 180-4 gives it. -/
theorem test_crc : crc32 (txt "123456789") = 0xCBF43926 := by decide +kernel

theorem test_sha384 : (Sha.sha384 (txt "abc")).take 8 = [0xCB, 0x00, 0x75, 0x3F, 0x45, 0xA3, 0x5E, 0x8B] := by decide +kernel

end Sys2Proof.Tests
end

/-! SUPPORT. Bits and fields of register words, the TMR fields of the registers. -/

namespace Sys2Proof.Machine

open Sys2Proof.Claims

/-! ### Numbers and bits of words -/

/-- A one-bit word has its bit, where the word holds it. -/
theorem getLsbD_bitWord (n b : Nat) (hb : b < 32) : (BitVec.ofNat 32 (2 ^ n)).getLsbD b = decide (n = b) := by
  rw [BitVec.getLsbD_ofNat, Nat.testBit_two_pow, decide_eq_true hb, Bool.true_and]

/-- The bits of a disjunction of words. -/
theorem getLsbD_foldl_or {α : Type} (g : α → W32) (xs : List α) (m : W32) (b : Nat) :
    (xs.foldl (fun m x => m ||| g x) m).getLsbD b = (m.getLsbD b || xs.any (fun x => (g x).getLsbD b)) := by
  induction xs generalizing m with
  | nil => exact (Bool.or_false _).symm
  | cons x xs ih => rw [List.foldl_cons, ih, BitVec.getLsbD_or, List.any_cons, Bool.or_assoc]

/-- The bits of a disjunction of one-bit words. -/
theorem getLsbD_orBits {α : Type} (bit : α → Nat) (xs : List α) (m : W32) (b : Nat) (hb : b < 32) :
    (xs.foldl (fun m x => m ||| BitVec.ofNat 32 (2 ^ bit x)) m).getLsbD b = (m.getLsbD b || xs.any (fun x => decide (bit x = b))) := by
  rw [getLsbD_foldl_or]
  simp only [getLsbD_bitWord _ _ hb]

theorem getLsbD_zeroWord (b : Nat) : (0 : W32).getLsbD b = false := BitVec.getLsbD_zero

theorem bitOf_toNat (w : W32) (b : Nat) : bitOf w.toNat b = w.getLsbD b := rfl

/-! ### Fields of a word -/

theorem getLsbD_fieldMask (f : Nat × Nat) (b : Nat) (hb : b < 32) :
    (BitVec.ofNat 32 (fieldMask f.1 f.2)).getLsbD b = decide (f.2 ≤ b ∧ b ≤ f.1) := by
  rw [BitVec.getLsbD_ofNat, fieldMask, Nat.testBit_shiftLeft, Nat.testBit_two_pow_sub_one, decide_eq_true hb, Bool.true_and,
    ← Bool.decide_and, decide_eq_decide]
  omega

theorem testBit_bitsOf (v hi lo j : Nat) : (bitsOf v hi lo).testBit j = (decide (j < hi + 1 - lo) && v.testBit (lo + j)) := by
  rw [bitsOf, Nat.testBit_mod_two_pow, Nat.testBit_shiftRight]

/-- A field of two words is the same exactly where their bits in it are. -/
theorem bitsOf_eq_iff (v w : W32) (f : Nat × Nat) :
    bitsOf v.toNat f.1 f.2 = bitsOf w.toNat f.1 f.2 ↔ ∀ b, f.2 ≤ b → b ≤ f.1 → v.getLsbD b = w.getLsbD b := by
  constructor
  · intro h b lo hi
    have bit := congrArg (·.testBit (b - f.2)) h
    simp only [testBit_bitsOf, show f.2 + (b - f.2) = b by omega, show b - f.2 < f.1 + 1 - f.2 by omega, decide_true, Bool.true_and] at bit
    exact bit
  · intro h
    refine Nat.eq_of_testBit_eq fun j => ?_
    rw [testBit_bitsOf, testBit_bitsOf]
    by_cases hj : j < f.1 + 1 - f.2
    · exact congrArg _ (h (f.2 + j) (by omega) (by omega))
    · simp [hj]

/-- A field cleared: every other bit stands. -/
theorem getLsbD_clearField (w : W32) (f : Nat × Nat) (b : Nat) (hb : b < 32) :
    (w &&& ~~~ BitVec.ofNat 32 (fieldMask f.1 f.2)).getLsbD b = if f.2 ≤ b ∧ b ≤ f.1 then false else w.getLsbD b := by
  rw [BitVec.getLsbD_and, BitVec.getLsbD_not, getLsbD_fieldMask f b hb, decide_eq_true hb, Bool.true_and]
  split
  · rename_i h; rw [decide_eq_true h, Bool.not_true, Bool.and_false]
  · rename_i h; rw [decide_eq_false h, Bool.not_false, Bool.and_true]

/-- The bits of a word's field, in place. -/
theorem getLsbD_fieldInPlace (A : W32) (f : Nat × Nat) (b : Nat) (hb : b < 32) :
    (BitVec.ofNat 32 (bitsOf A.toNat f.1 f.2 <<< f.2)).getLsbD b = if f.2 ≤ b ∧ b ≤ f.1 then A.getLsbD b else false := by
  rw [BitVec.getLsbD_ofNat, Nat.testBit_shiftLeft, testBit_bitsOf, decide_eq_true hb, Bool.true_and]
  split
  · rename_i h
    rw [show f.2 + (b - f.2) = b by omega, decide_eq_true h.1, decide_eq_true (by omega), Bool.true_and, Bool.true_and]
    rfl
  · rename_i h
    by_cases lo : f.2 ≤ b
    · rw [decide_eq_false (p := b - f.2 < f.1 + 1 - f.2) (by omega), Bool.false_and, Bool.and_false]
    · rw [decide_eq_false (p := b ≥ f.2) lo, Bool.false_and]

/-- A field put in its place: its bits are the word's that it comes from, every other bit stands. -/
theorem getLsbD_putField (w A : W32) (f : Nat × Nat) (b : Nat) (hb : b < 32) :
    ((w &&& ~~~ BitVec.ofNat 32 (fieldMask f.1 f.2)) ||| BitVec.ofNat 32 (bitsOf A.toNat f.1 f.2 <<< f.2)).getLsbD b =
      if f.2 ≤ b ∧ b ≤ f.1 then A.getLsbD b else w.getLsbD b := by
  rw [BitVec.getLsbD_or, getLsbD_clearField w f b hb, getLsbD_fieldInPlace A f b hb]
  split
  · exact Bool.false_or _
  · exact Bool.or_false _

theorem getLsbD_merge32_field (w A : W32) (f : Nat × Nat) (b : Nat) (hb : b < 32) :
    (merge32 w (BitVec.ofNat 32 (fieldMask f.1 f.2)) (BitVec.ofNat 32 (bitsOf A.toNat f.1 f.2 <<< f.2))).getLsbD b =
      if f.2 ≤ b ∧ b ≤ f.1 then A.getLsbD b else w.getLsbD b := by
  rw [merge32, BitVec.getLsbD_or, getLsbD_clearField w f b hb, BitVec.getLsbD_and, getLsbD_fieldInPlace A f b hb, getLsbD_fieldMask f b hb]
  split
  · rename_i h; rw [decide_eq_true h, Bool.and_true, Bool.false_or]
  · rw [Bool.false_and, Bool.or_false]

/-- A word with the voted fields put in their places; a field without a majority stands. -/
def putFields (V : Nat × Nat → Option Nat) (fs : List (Nat × Nat)) (w : W32) : W32 :=
  fs.foldl (fun w f =>
    match V f with
    | some v => merge32 w (BitVec.ofNat 32 (fieldMask f.1 f.2)) (BitVec.ofNat 32 (v <<< f.2))
    | none => w) w

theorem putFields_of_none {V : Nat × Nat → Option Nat} {fs : List (Nat × Nat)} (w : W32) (h : ∀ f ∈ fs, V f = none) :
    putFields V fs w = w := by
  induction fs with
  | nil => rfl
  | cons f fs ih =>
    rw [putFields, List.foldl_cons, h f List.mem_cons_self]
    exact ih fun g hg => h g (List.mem_cons_of_mem _ hg)

/-- Putting a word's own fields into another makes the two equal, if they differ within those fields alone. -/
theorem putFields_eq {V : Nat × Nat → Option Nat} {A : W32} {fs : List (Nat × Nat)} (w : W32)
    (h : ∀ f ∈ fs, V f = some (bitsOf A.toNat f.1 f.2))
    (differ : ∀ b, b < 32 → w.getLsbD b ≠ A.getLsbD b → ∃ f ∈ fs, f.2 ≤ b ∧ b ≤ f.1) : putFields V fs w = A := by
  induction fs generalizing w with
  | nil =>
    refine BitVec.eq_of_getLsbD_eq fun b hb => ?_
    refine Decidable.byContradiction fun ne => ?_
    obtain ⟨f, hf, -⟩ := differ b hb ne
    cases hf
  | cons f fs ih =>
    rw [putFields, List.foldl_cons, h f List.mem_cons_self]
    refine ih _ (fun g hg => h g (List.mem_cons_of_mem _ hg)) fun b hb ne => ?_
    rw [getLsbD_merge32_field w A f b hb] at ne
    split at ne
    case isTrue => exact absurd rfl ne
    case isFalse out =>
      obtain ⟨g, hg, inside⟩ := differ b hb ne
      rcases List.mem_cons.1 hg with rfl | hg
      · exact absurd inside out
      · exact ⟨g, hg, inside⟩

/-- Fields that have no bit in common. -/
def Apart (f g : Nat × Nat) : Prop := f.1 < g.2 ∨ g.1 < f.2

/-- A vote's step for one field. -/
def voteField (A b c w : W32) (f : Nat × Nat) : W32 :=
  let m := BitVec.ofNat 32 (fieldMask f.1 f.2)
  match vote (bitsOf A.toNat f.1 f.2) (bitsOf b.toNat f.1 f.2) (bitsOf c.toNat f.1 f.2) with
  | some v => (w &&& ~~~ m) ||| BitVec.ofNat 32 (v <<< f.2)
  | none => w &&& ~~~ m

theorem votedWord_eq (A b c : W32) (fs : List (Nat × Nat)) : votedWord A b c fs = fs.foldl (voteField A b c) A := rfl

/-- A field without a majority is cleared in a vote, and every other field that votes as copy a stands. -/
theorem getLsbD_foldl_voteField {A b c : W32} {f : Nat × Nat} {fs : List (Nat × Nat)} (w : W32) {n : Nat} (hn : n < 32)
    (lost : vote (bitsOf A.toNat f.1 f.2) (bitsOf b.toNat f.1 f.2) (bitsOf c.toNat f.1 f.2) = none)
    (others : ∀ g ∈ fs, g ≠ f → Apart f g ∧
      vote (bitsOf A.toNat g.1 g.2) (bitsOf b.toNat g.1 g.2) (bitsOf c.toNat g.1 g.2) = some (bitsOf A.toNat g.1 g.2))
    (out : ¬(f.2 ≤ n ∧ n ≤ f.1) → w.getLsbD n = A.getLsbD n) :
    (fs.foldl (voteField A b c) w).getLsbD n = if f.2 ≤ n ∧ n ≤ f.1 then decide (f ∉ fs) && w.getLsbD n else A.getLsbD n := by
  induction fs generalizing w with
  | nil =>
    split
    · simp
    · rename_i h; exact out h
  | cons g fs ih =>
    have rest := ih (w := voteField A b c w g) fun k hk => others k (List.mem_cons_of_mem _ hk)
    rw [List.foldl_cons]
    by_cases hg : g = f
    · subst hg
      have step : (voteField A b c w g).getLsbD n = if g.2 ≤ n ∧ n ≤ g.1 then false else w.getLsbD n := by
        simp only [voteField, lost, getLsbD_clearField w g n hn]
      rw [rest fun h => by rw [step, if_neg h, out h]]
      split
      · rename_i h
        rw [step, if_pos h, Bool.and_false, decide_eq_false (p := g ∉ g :: fs) (by simp), Bool.false_and]
      · rfl
    · obtain ⟨apart, own⟩ := others g List.mem_cons_self hg
      have step : (voteField A b c w g).getLsbD n = if g.2 ≤ n ∧ n ≤ g.1 then A.getLsbD n else w.getLsbD n := by
        simp only [voteField, own, getLsbD_putField w A g n hn]
      rw [rest fun h => by rw [step, out h, ite_self]]
      split
      · rename_i h
        rw [step, if_neg (by unfold Apart at apart; omega)]
        simp [Ne.symm hg]
      · rfl

/-- A word of which one field has no majority and every other field votes as copy a: the field reads zero. -/
theorem votedWord_of_lost {A b c : W32} {f : Nat × Nat} {fs : List (Nat × Nat)} (hf : f ∈ fs)
    (lost : vote (bitsOf A.toNat f.1 f.2) (bitsOf b.toNat f.1 f.2) (bitsOf c.toNat f.1 f.2) = none)
    (others : ∀ g ∈ fs, g ≠ f → Apart f g ∧
      vote (bitsOf A.toNat g.1 g.2) (bitsOf b.toNat g.1 g.2) (bitsOf c.toNat g.1 g.2) = some (bitsOf A.toNat g.1 g.2)) :
    votedWord A b c fs = A &&& ~~~ BitVec.ofNat 32 (fieldMask f.1 f.2) := by
  refine BitVec.eq_of_getLsbD_eq fun n hn => ?_
  rw [votedWord_eq, getLsbD_foldl_voteField A hn lost others fun _ => rfl, getLsbD_clearField A f n hn, decide_eq_false (not_not_intro hf),
    Bool.false_and]

/-! ### The TMR fields of the registers (chapter 04) -/

/-- The fields of a register are distinct and have no bit in common. -/
def fieldsApart (fs : List (Nat × Nat)) : Bool :=
  decide fs.Nodup && fs.all (fun f => fs.all (fun g => decide (f = g) || decide (f.1 < g.2) || decide (g.1 < f.2)))

theorem own_fieldsApart (k : Blk) : (k.own.all fun r => fieldsApart r.tmr) = true := by
  cases k <;> decide +kernel

theorem common_fieldsApart (k : Blk) (i : Nat) : ((k.common i).all fun r => fieldsApart r.tmr) = true := by
  have ctl : fieldsApart (if k = .core then [(0, 0)] else []) = true := by split <;> decide
  simp +decide [Blk.common, ro, rwReg, ctl]

theorem regAt_mem {k : Blk} {i off : Nat} {r : RegDef} (h : regAt k i off = some r) : r ∈ k.common i ∨ r ∈ k.own := by
  unfold regAt at h
  split at h
  · exact .inl (List.mem_of_find?_eq_some h)
  · split at h
    · exact .inr (List.mem_of_find?_eq_some h)
    · cases h

theorem regDef_eq_some {a : Nat} {r : RegDef} (h : regDef a = some r) :
    ∃ k i, pageOf (a / 0x1000) = some (k, i) ∧ regAt k i (a % 0x1000) = some r := by
  unfold regDef at h
  split at h
  · cases h
  · rename_i k i page; exact ⟨k, i, page, h⟩

/-- A register with TMR fields stands in its page's table. -/
theorem register_of_mem_tmrFields {a : Nat} {f : Nat × Nat} (h : f ∈ tmrFields a) :
    ∃ k i r, pageOf (a / 0x1000) = some (k, i) ∧ regAt k i (a % 0x1000) = some r ∧ tmrFields a = r.tmr := by
  unfold tmrFields at h ⊢
  split at h
  · rename_i r hr
    obtain ⟨k, i, page, at'⟩ := regDef_eq_some hr
    exact ⟨k, i, r, page, at', rfl⟩
  · cases h

theorem tmrFields_apart (a : Nat) : fieldsApart (tmrFields a) = true := by
  unfold tmrFields
  split
  · rename_i r hr
    obtain ⟨k, i, -, at'⟩ := regDef_eq_some hr
    rcases regAt_mem at' with h | h
    · exact List.all_eq_true.1 (common_fieldsApart k i) r h
    · exact List.all_eq_true.1 (own_fieldsApart k) r h
  · rfl

theorem tmrFields_nodup (a : Nat) : (tmrFields a).Nodup := by
  have h := tmrFields_apart a
  simp only [fieldsApart, Bool.and_eq_true, decide_eq_true_eq] at h
  exact h.1

theorem apart_of_mem {a : Nat} {f g : Nat × Nat} (hf : f ∈ tmrFields a) (hg : g ∈ tmrFields a) (ne : g ≠ f) : Apart f g := by
  have h := tmrFields_apart a
  simp only [fieldsApart, Bool.and_eq_true, List.all_eq_true, Bool.or_eq_true, decide_eq_true_eq] at h
  rcases h.2 f hf g hg with (h | h) | h
  · exact absurd h.symm ne
  · exact .inl h
  · exact .inr h

/-- The status, capture and vote registers of a page have no TMR field. -/
theorem regAt_status {k : Blk} {i off : Nat} {r : RegDef} (h : regAt k i off = some r) (ho : off ∈ [0x20, 0x24, 0x30, 0x34, 0x38, 0x3C, 0x40]) :
    r.tmr = [] := by
  simp only [List.mem_cons, List.not_mem_nil, or_false] at ho
  rcases ho with rfl | rfl | rfl | rfl | rfl | rfl | rfl <;>
    · simp [regAt, Blk.common, RegDef.covers, ro, rwReg] at h
      rw [← h]

theorem tmrFields_status {a : Nat} (h : a % 0x1000 ∈ [0x20, 0x24, 0x30, 0x34, 0x38, 0x3C, 0x40]) : tmrFields a = [] := by
  refine List.eq_nil_iff_forall_not_mem.2 fun f hf => ?_
  obtain ⟨k, i, r, -, at', e⟩ := register_of_mem_tmrFields hf
  rw [e, regAt_status at' h] at hf
  cases hf

end Sys2Proof.Machine

/-! SUPPORT. Accesses through BAR0, status events, and the reads with an effect. -/

namespace Sys2Proof.Machine

open Sys2Proof.Claims

/-! ### Pages and accesses -/

/-- The registers at one offset of a page differ from those at another offset of any page. -/
theorem regA_ne_of_off {k k' : Blk} {i i' o o' : Nat} (ho : o < 0x1000) (ho' : o' < 0x1000) (h : o ≠ o') :
    regA k i o ≠ regA k' i' o' := by
  unfold regA; omega

/-- An access that reaches its page finds the shore awake. -/
theorem shoreAwake_of_reach {s : State} {fn page : Nat} (h : Reach s fn page) : shoreAwake s.dev = s.dev :=
  let ⟨_, awake, still⟩ := h
  shoreAwake_id awake still

/-- Hardware sets nothing in the cycle. -/
@[simp] theorem hwOn_nil (d : Dev) (k : Blk) (i : Nat) : hwOn d k i [] = d := rfl

@[simp] theorem hwPage_nil (d : Dev) (page : Nat) : hwPage d page [] = d := by
  unfold hwPage
  split <;> rfl

/-- What a 4-byte read by a function that reaches the page does. -/
theorem readOne_of_reach {s : State} {fn : Nat} {k : Blk} {i off : Nat} (hw : List HwSet) (ho : off < 0x1000)
    (page : pageOf (pageNo k i) = some (k, i)) (own : reaches fn k i = true) (h : Reach s fn (pageNo k i)) :
    readOne s.dev fn (regA k i off) hw =
      if off = 0x24 then readStatRc s.dev k i hw
      else if regA k i off = regA .txn 0 0x100 then readTxnLast (hwOn s.dev k i hw)
      else if regA k i off = regA .spr 0 0x100 then readSprNow (hwOn s.dev k i hw)
      else giveData (hwOn (readVotes s.dev k i off) k i hw) (regRead s.dev (regA k i off)) := by
  simp only [readOne, regA_page k i off ho, regA_off k i off ho, page, own, h.1, Bool.not_true, Bool.or_self, Bool.false_eq_true,
    if_false, shoreAwake_of_reach h]

/-- An aligned 4-byte read of a page. -/
theorem regReadOp_four (d : Dev) (fn a : Nat) (hw : List HwSet) (h : a % 4 = 0) : regReadOp d fn a 4 hw = readOne d fn a hw := by
  rw [regReadOp, if_pos ⟨rfl, h⟩]

/-- An aligned 8-byte read is two 4-byte reads, the lower offset first (R102). -/
theorem regReadOp_eight (d : Dev) (fn a : Nat) (hw : List HwSet) (h : a % 8 = 0) :
    regReadOp d fn a 8 hw = regReadOp (regReadOp d fn a 4 []) fn (a + 4) 4 hw := by
  rw [regReadOp_four _ _ _ _ (by omega), regReadOp_four _ _ _ _ (by omega), regReadOp, if_neg (by omega), if_pos ⟨rfl, h⟩]

/-- A read of another size or alignment returns zero and counts as a bad access (R102). -/
theorem regReadOp_bad (d : Dev) {fn a size : Nat} (h4 : ¬(size = 4 ∧ a % 4 = 0)) (h8 : ¬(size = 8 ∧ a % 8 = 0))
    (ans : answers d fn (a / 0x1000) = true) : regReadOp d fn a size [] = giveData (count d .glb 0 0x100 1) 0 := by
  rw [regReadOp, if_neg h4, if_neg h8, hwPage_nil, if_pos ans, badAccess]

/-- A write that lands has the effect of its register, and finds it in the page's table. -/
theorem put_of_lands {s : State} {fn : Nat} {k : Blk} {i off : Nat} {r : RegDef} (v : W32) (ho : off < 0x1000) (h : Lands s fn k i off r) :
    put s fn k i off v = .next (writeReg s fn k i off r v [] []) := by
  obtain ⟨⟨ans, aw, mv⟩, tgt, free⟩ := h
  rw [put, okS_next, hostWrite4_reg (by rwa [regA_page k i off ho]) aw mv tgt free]

theorem regAt_of_writeTarget {d : Dev} {fn a : Nat} {k : Blk} {i off : Nat} {r : RegDef} (h : writeTarget d fn a = .reg k i off r) :
    regAt k i off = some r := by
  unfold writeTarget at h
  split at h
  · cases h
  · dsimp only at h
    split at h
    · cases h
    · split at h
      · cases h
      · split at h
        · cases h
        · split at h
          · cases h
          · cases h; assumption

theorem regAt_of_lands {s : State} {fn : Nat} {k : Blk} {i off : Nat} {r : RegDef} (h : Lands s fn k i off r) : regAt k i off = some r :=
  let ⟨_, tgt, _⟩ := h
  regAt_of_writeTarget tgt

/-- A write that lands on a register of plain RW bits, without behaviour of its own, merges them into the live word. -/
theorem put_rwReg {s : State} {fn : Nat} {k : Blk} {i off mask : Nat} (v : W32) (at' : regAt k i off = some (rwReg off mask)) (lt : off < 0x1000)
    (ien : off ≠ 0x28) (bits : mask ≠ 0) (act : actWrite s fn k i off v [] = none) (h : LandsOn s fn k i off) :
    put s fn k i off v = .next (on s (setLive s.dev (regA k i off) (merge32 (live s.dev (regA k i off)) (BitVec.ofNat 32 mask) v))) := by
  obtain ⟨r, land⟩ := h
  obtain rfl : rwReg off mask = r := Option.some.inj (at'.symm.trans (regAt_of_lands land))
  rw [put_of_lands v lt land]
  simp [writeReg, act, landWrite, rwReg, bits, ien, onDev, on]

/-! ### What a status event leaves as it was -/

section
variable (d : Dev) (k : Blk) (i bit bs : Nat) (t d2 d3 : W32)

@[simp] theorem setStat_now : (setStat d k i bit bs t d2 d3).now = d.now := by
  obtain ⟨r, q, p, w, e⟩ := setStat_eq d k i bit bs t d2 d3
  rw [e]

@[simp] theorem setStat_mem : (setStat d k i bit bs t d2 d3).mem = d.mem := by
  obtain ⟨r, q, p, w, e⟩ := setStat_eq d k i bit bs t d2 d3
  rw [e]

@[simp] theorem setStat_reqs : (setStat d k i bit bs t d2 d3).reqs = d.reqs := by
  obtain ⟨r, q, p, w, e⟩ := setStat_eq d k i bit bs t d2 d3
  rw [e]

@[simp] theorem setStat_power : (setStat d k i bit bs t d2 d3).power = d.power := by
  obtain ⟨r, q, p, w, e⟩ := setStat_eq d k i bit bs t d2 d3
  rw [e]

@[simp] theorem setStat_readData : (setStat d k i bit bs t d2 d3).host.readData = d.host.readData := by
  obtain ⟨r, q, p, w, e⟩ := setStat_eq d k i bit bs t d2 d3
  rw [e]

@[simp] theorem noteSet_armed (off : Nat) (h : HwSet) : (noteSet d k i off h).regs.armed = d.regs.armed := by
  unfold noteSet
  split <;> rfl

@[simp] theorem capture_armed : (capture d k i bit bs t d2 d3).regs.armed = d.regs.armed := by
  unfold capture
  split <;> rfl

@[simp] theorem setStat_armed : (setStat d k i bit bs t d2 d3).regs.armed = d.regs.armed := by
  rw [setStat_regs, capture_armed]
  exact noteSet_armed ..

end

/-! ### Clearing status bits (R9, R120) -/

/-- Status events of a page, one after the other. -/
def setStats (d : Dev) (k : Blk) (i : Nat) (hw : List HwSet) : Dev := hw.foldl (fun d h => setStat d k i h.bit h.basin h.tag h.d2 h.d3) d

theorem live_setStats_stat (d : Dev) (k : Blk) (i : Nat) (hw : List HwSet) (b : Nat) (hb : b < 32) :
    (live (setStats d k i hw) (regA k i 0x20)).getLsbD b = ((live d (regA k i 0x20)).getLsbD b || hw.any (fun h => decide (h.bit = b))) := by
  induction hw generalizing d with
  | nil => simp [setStats]
  | cons h hw ih =>
    rw [setStats, List.foldl_cons, ← setStats, ih, live_setStat_stat, BitVec.getLsbD_or, getLsbD_bitWord _ _ hb, List.any_cons, Bool.or_assoc]

theorem setStats_readData (d : Dev) (k : Blk) (i : Nat) (hw : List HwSet) : (setStats d k i hw).host.readData = d.host.readData := by
  induction hw generalizing d with
  | nil => rfl
  | cons h hw ih =>
    rw [setStats, List.foldl_cons, ← setStats, ih, setStat_readData]

/-- The capture registers of a page, none of them its status word, cleared or as they were. -/
theorem clearStat_eq_setStats (d : Dev) (k : Blk) (i : Nat) (mask : W32) (hw : List HwSet) :
    ∃ e, clearStat d k i mask hw = setStats e k i (setsNow d k 0x20 ++ hw) ∧ e.host = d.host ∧
      live e (regA k i 0x20) = live d (regA k i 0x20) &&& ~~~ mask |||
        (live d (regA k i 0x20) &&& (setsNow d k 0x20 ++ hw).foldl (fun m h => m ||| BitVec.ofNat 32 (2 ^ h.bit)) 0) := by
  have ne (o : Nat) (h : o ≠ 0x20) : regA k i o ≠ regA k i 0x20 := fun e => h (regA_inj k i e)
  unfold clearStat
  dsimp only
  split
  · refine ⟨_, rfl, rfl, ?_⟩
    simp only [setLiveN]
    rw [live_setLive_ne _ _ (ne _ (by decide)), live_setLive_ne _ _ (ne _ (by decide)), live_setLive_ne _ _ (ne _ (by decide)),
      live_setLive_ne _ _ (ne _ (by decide)), live_setLive_self]
  · exact ⟨_, rfl, rfl, live_setLive_self ..⟩

/-- A bit that was 0 before the page's cycle and reads 1 in it is one that hardware has set in it. -/
theorem setsNow_of_freshNow (d : Dev) (k : Blk) (off b : Nat) (hb : b < 32) (h : (freshNow d k off).getLsbD b = true) :
    (setsNow d k off).any (fun x => decide (x.bit = b)) = true := by
  unfold freshNow at h
  unfold setsNow
  split at h
  case isTrue hc =>
    rw [getLsbD_orBits (fun x : Nat × HwSet × Bool => x.2.1.bit) _ _ _ hb, getLsbD_zeroWord, Bool.false_or] at h
    rw [if_pos hc]
    simp only [List.any_eq_true, List.mem_filter, Bool.and_eq_true, decide_eq_true_eq,
      List.mem_map] at h ⊢
    obtain ⟨x, ⟨hx, ho, -⟩, e⟩ := h
    exact ⟨_, ⟨x, ⟨hx, ho⟩, rfl⟩, e⟩
  case isFalse => simp at h

/-- BLK_STAT_RC returns the status of before the cycle and leaves set what hardware sets in it. -/
theorem readStatRc_spec (d : Dev) (k : Blk) (i : Nat) (hw : List HwSet) (ev : k.events hw = hw) :
    (readStatRc d k i hw).host.readData = d.host.readData ++ [live d (regA k i 0x20) &&& ~~~ freshNow d k 0x20] ∧
      ∀ b, b < 32 → (live (readStatRc d k i hw) (regA k i 0x20)).getLsbD b =
        (setsNow d k 0x20 ++ hw).any (fun h => decide (h.bit = b)) := by
  obtain ⟨e, clear, host, word⟩ := clearStat_eq_setStats d k i (live d (regA k i 0x20) &&& ~~~ freshNow d k 0x20) hw
  rw [readStatRc, ev, clear]
  refine ⟨by rw [giveData, setStats_readData, host], fun b hb => ?_⟩
  rw [live_congr (d := setStats e k i (setsNow d k 0x20 ++ hw)) (e := giveData _ _) rfl, live_setStats_stat _ _ _ _ _ hb, word]
  have fresh := setsNow_of_freshNow d k 0x20 b hb
  simp only [BitVec.getLsbD_or, BitVec.getLsbD_and, BitVec.getLsbD_not, getLsbD_orBits HwSet.bit _ _ _ hb, List.any_append,
    getLsbD_zeroWord, hb, decide_true, Bool.true_and, Bool.false_or]
  cases hf : (freshNow d k 0x20).getLsbD b
  · cases (live d (regA k i 0x20)).getLsbD b <;> simp
  · simp [fresh hf]

end Sys2Proof.Machine

/-! SUPPORT. Device resets, wakes and the wake table. -/

namespace Sys2Proof.Machine

open Sys2Proof.Claims

/-! ### Device resets (R428) -/

/-- The field below bit 4 of a word whose other bits stand. -/
theorem low4_of_put (c v : Nat) (hv : v < 16) : (BitVec.ofNat 32 (c / 16 * 16 + v)).toNat % 16 = v := by
  rw [BitVec.toNat_ofNat]; omega

/-- A device reset that is not absorbed. -/
def resetTaken (s : State) (cause : Nat) : State :=
  onDev (lose s true (cause = 4)) fun d =>
    count (setLiveN d .rst 0 0x104 (liveN d .rst 0 0x104 / 16 * 16 + cause)) .rst 0 0x114 1

/-- A device reset is absorbed by one of its kind in progress (R430), or taken. -/
theorem deviceResetOp_cases (s : State) (cause : Nat) :
    (deviceResetOp s cause = s ∧ s.dev.power.booting = true ∧ liveN s.dev .rst 0 0x104 % 16 = cause) ∨
      deviceResetOp s cause = resetTaken s cause := by
  unfold deviceResetOp
  split
  · rename_i h
    simp only [Bool.and_eq_true, decide_eq_true_eq] at h
    exact .inl ⟨rfl, h.1.1, h.2.1⟩
  · exact .inr rfl

/-- RST_CAUSE after a reset that is taken. -/
theorem resetTaken_cause (s : State) (cause : Nat) (h : cause < 16) : reg (resetTaken s cause) .rst 0 0x104 % 16 = cause := by
  simp only [reg, liveN, resetTaken, onDev_dev, live_count, if_neg (show regA .rst 0 0x114 ≠ regA .rst 0 0x104 by decide), setLiveN,
    live_setLive_self]
  exact low4_of_put _ _ h

/-- What a device reset keeps and what it sets. -/
theorem deviceResetOp_spec (s : State) (cause : Nat) (h : cause < 16) :
    (deviceResetOp s cause).pending = s.pending ∧ (deviceResetOp s cause).dev.now = s.dev.now ∧
      reg (deviceResetOp s cause) .rst 0 0x104 % 16 = cause := by
  rcases deviceResetOp_cases s cause with ⟨e, -, c⟩ | e
  · rw [e]; exact ⟨rfl, rfl, c⟩
  · rw [e]; exact ⟨rfl, rfl, resetTaken_cause s cause h⟩

/-- PWR_EN acts: the rails start and a cold reset is recorded. -/
theorem enActs_spec (s : State) :
    (enActs s).pending = s.pending ∧ (enActs s).dev.now = s.dev.now ∧ (enActs s).dev.power.pwrEn = true ∧
      (enActs s).dev.power.riseWaits = false ∧ (enActs s).dev.power.rails = .starting ∧ reg (enActs s) .rst 0 0x104 % 16 = 2 := by
  obtain ⟨pending, now, cause⟩ := deviceResetOp_spec s 2 (by decide)
  exact ⟨pending, now, rfl, rfl, rfl, cause⟩

/-- A rise of PWR_EN acts at once, without a fall in the 50 ms before it. -/
theorem enRiseOp_acts {s : State} (vin : s.dev.power.vin = true) (low : s.dev.power.pwrEn = false) (idle : s.dev.power.riseWaits = false)
    (late : ∀ t0, s.dev.power.enFall = some t0 → t0 + msCycles 50 ≤ s.dev.now) : enRiseOp s = enActs s := by
  simp only [enRiseOp, vin, low, idle, Bool.false_eq_true, or_self, if_false, Bool.not_true]
  split
  · rename_i t0 h
    exact if_neg (by have := late t0 h; omega)
  · rfl

/-- A rise that waited acts when the 50 ms have passed. -/
theorem enRiseActsOp_acts {s : State} {t0 : Nat} (waits : s.dev.power.riseWaits = true) (fall : s.dev.power.enFall = some t0) :
    enRiseActsOp s = enActs (onDev s (advanceTo · (t0 + msCycles 50))) := by
  simp [enRiseActsOp, waits, fall]

/-! ### Wakes (R112, R416, R422) -/

/-- The registers that a wake may write: PWR_STATE, and the status and capture registers of the PWR page. -/
def wakeRegs : List Nat := regA .pwr 0 0x118 :: statRegs .pwr 0

/-- What a wake leaves as it was. -/
structure WakeKeeps (d e : Dev) : Prop where
  now : e.now = d.now
  mem : e.mem = d.mem
  reqs : e.reqs = d.reqs
  holds : e.power.holds = d.power.holds
  pins : e.power.wakePins = d.power.wakePins
  words : ∀ b, b ∉ wakeRegs → live e b = live d b

theorem WakeKeeps.refl (d : Dev) : WakeKeeps d d := ⟨rfl, rfl, rfl, rfl, rfl, fun _ _ => rfl⟩

theorem WakeKeeps.trans {d e f : Dev} (h : WakeKeeps d e) (g : WakeKeeps e f) : WakeKeeps d f :=
  ⟨g.now.trans h.now, g.mem.trans h.mem, g.reqs.trans h.reqs, g.holds.trans h.holds, g.pins.trans h.pins,
    fun b hb => (g.words b hb).trans (h.words b hb)⟩

/-- Every case of a wake: nothing, an abandoned entry into S3, a resume to a shallower state, a new resume. -/
theorem wakeNow_cases (d : Dev) (dom st : Nat) :
    wakeNow d dom st = d ∨
    wakeNow d dom st = setStat { d with power.s3 := d.power.s3.filter (fun m => !decide (m = dom)),
                                        power.resuming := d.power.resuming ++ [(dom, 0)] } .pwr 0 1 0 noTag (BitVec.ofNat 32 dom) 0 ∨
    wakeNow d dom st = { d with power.resuming := modWhere (fun r => decide (r.1 = dom)) (fun r => (r.1, min r.2 st)) d.power.resuming } ∨
    wakeNow d dom st = setMoving { d with power.resuming := d.power.resuming ++ [(dom, st)] } dom true := by
  unfold wakeNow
  split
  · exact .inl rfl
  · split
    · exact .inr (.inl rfl)
    · split
      · exact .inr (.inr (.inl rfl))
      · split
        · exact .inl rfl
        · exact .inr (.inr (.inr rfl))

theorem wakeNow_keeps (d : Dev) (dom st : Nat) : WakeKeeps d (wakeNow d dom st) := by
  rcases wakeNow_cases d dom st with e | e | e | e <;> rw [e]
  · exact .refl d
  · have words (b : Nat) (hb : b ∉ wakeRegs) := live_setStat_ne { d with
      power.s3 := d.power.s3.filter (fun m => !decide (m = dom)), power.resuming := d.power.resuming ++ [(dom, 0)] }
      .pwr 0 1 0 noTag (BitVec.ofNat 32 dom) 0 (fun m => hb (List.mem_cons_of_mem _ m))
    exact ⟨by simp, by simp, by simp, by simp, by simp, words⟩
  · exact ⟨rfl, rfl, rfl, rfl, rfl, fun _ _ => rfl⟩
  · exact ⟨rfl, rfl, rfl, rfl, rfl, fun b hb => live_setLiveBit_ne _ _ _ fun h => hb (by simp [wakeRegs, h])⟩

/-- A wake never makes a resume of the shore to S0 a deeper one. -/
theorem wakeNow_resuming {d : Dev} (dom st : Nat) {r : Nat × Nat} (hr : r ∈ d.power.resuming) (s0 : r.2 = 0) :
    r ∈ (wakeNow d dom st).power.resuming := by
  rcases wakeNow_cases d dom st with e | e | e | e <;> rw [e]
  · exact hr
  · rw [setStat_power]
    exact List.mem_append_left _ hr
  · obtain ⟨m, st'⟩ := r
    obtain rfl : st' = 0 := s0
    exact List.mem_map.2 ⟨(m, 0), hr, by split <;> simp⟩
  · exact List.mem_append_left _ hr

/-- A wake of a running module's domain to S0 ends with a resume to S0 under way, unless the domain is in S0. -/
theorem wakeNow_starts {d : Dev} {dom : Nat} (run : running d = true) (deep : 0 < domState d dom) :
    (dom, 0) ∈ (wakeNow d dom 0).power.resuming := by
  rw [wakeNow, if_neg (by simp [run])]
  split
  · rw [setStat_power]
    exact List.mem_append_right _ (List.mem_singleton_self _)
  · split
    · rename_i r found
      have named : r.1 = dom := by simpa using List.find?_some found
      exact List.mem_map.2 ⟨r, List.mem_of_find?_eq_some found, by simp [named]⟩
    · rw [if_neg (by omega)]
      exact List.mem_append_right _ (List.mem_singleton_self _)

/-- A wake is held for the apply of the PWR or CLK page, or starts. -/
theorem wakeDom_cases (d : Dev) (dom st : Nat) :
    (wakeDom d dom st = { d with power.wakeWaits := d.power.wakeWaits ++ [(dom, st)] } ∧ transHeld d = true) ∨
      wakeDom d dom st = wakeNow d dom st := by
  unfold wakeDom
  split
  · rename_i h
    simp only [Bool.and_eq_true] at h
    exact .inl ⟨rfl, h.1.1.1⟩
  · exact .inr rfl

theorem wakeDom_keeps (d : Dev) (dom st : Nat) : WakeKeeps d (wakeDom d dom st) := by
  rcases wakeDom_cases d dom st with ⟨e, -⟩ | e <;> rw [e]
  · exact ⟨rfl, rfl, rfl, rfl, rfl, fun _ _ => rfl⟩
  · exact wakeNow_keeps d dom st

theorem wakeAll_keeps (d : Dev) (doms : List Nat) : WakeKeeps d (wakeAll d doms) := by
  induction doms generalizing d with
  | nil => exact .refl d
  | cons m ms ih => exact (wakeDom_keeps d m 0).trans (ih _)

theorem wakeAll_resuming {d : Dev} (doms : List Nat) {r : Nat × Nat} (hr : r ∈ d.power.resuming) (s0 : r.2 = 0) :
    r ∈ (wakeAll d doms).power.resuming := by
  induction doms generalizing d with
  | nil => exact hr
  | cons m ms ih =>
    refine ih (d := wakeDom d m 0) ?_
    rcases wakeDom_cases d m 0 with ⟨e, -⟩ | e <;> rw [e]
    · exact hr
    · exact wakeNow_resuming m 0 hr s0

/-- The first domain of a list resumes to S0, where no transition is held. -/
theorem wakeAll_starts {d : Dev} {dom : Nat} (doms : List Nat) (run : running d = true) (free : transHeld d = false)
    (deep : 0 < domState d dom) : (dom, 0) ∈ (wakeAll d (dom :: doms)).power.resuming := by
  have first : wakeDom d dom 0 = wakeNow d dom 0 := (wakeDom_cases d dom 0).resolve_left fun h => by simp [free] at h
  exact wakeAll_resuming (d := wakeDom d dom 0) doms (first ▸ wakeNow_starts run deep) rfl

/-! ### The firing of a wake entry (R423, R424) -/

/-- The block with the entry's event: the clock at the tick, SPR_EVT and SPR_FIRES. -/
def evented (d : Dev) (e t : Nat) : Dev :=
  let d := advanceTo d (tickCycle t)
  let d := { d with power.wakeFired := SMap.set (fun _ => 0) d.power.wakeFired e (t + 1) }
  count (setLiveBit (noteSet d .spr 0 0x108 ⟨e, 0, noTag, 0, 0⟩) (regA .spr 0 0x108) e true) .spr 0 0x10C 1

/-- The block with the entry's event and its status bit. -/
def fired (d : Dev) (e t : Nat) : Dev := setStat (evented d e t) .spr 0 0 0 noTag (BitVec.ofNat 32 e) 0

/-- The instant at which the hold of a firing at a tick ends (R424). -/
def holdEnd (d : Dev) (w : Wake) (t : Nat) : Nat := tickCycle (t + w.lead) + msCycles (liveN d .spr 0 0x110 % 65536)

/-- The block with the entry's WAKE# drive and its hold. -/
def drivenHeld (d : Dev) (w : Wake) (e t : Nat) : Dev :=
  let d := if w.pin then { d with power.wakePins := d.power.wakePins.filter (fun x => !decide (x = e)) ++ [e] } else d
  { d with power.holds := d.power.holds.filter (fun h => !decide (h.1 = e)) ++ [(e, holdEnd d w t, w.meres)] }

/-- The firing, from its parts. -/
def firesAt (d : Dev) (e t : Nat) : Dev :=
  let w := wakeEntry d e
  let x := drivenHeld (fired d e t) w e t
  if running x then wakeAll x (4 :: (if w.deep then List.range 4 else w.meres)) else x

/-- The tick from which the entry's next firing is sought. -/
def seekFrom (d : Dev) (e : Nat) : Nat := max (tickNow d) (SMap.get (fun _ => 0) d.power.wakeFired e)

/-- Everything that WAKE_FIRE of an entry can do while Spring is powered. -/
theorem wakeFireOp_eq (d : Dev) {e : Nat} (he : e < 32) (vin : d.power.vin = true) :
    wakeFireOp d e =
      if wakeLost d e then
        [0x110, 0x200 + 0x10 * e, 0x204 + 0x10 * e, 0x208 + 0x10 * e, 0x20C + 0x10 * e].foldl (fun d o => lostMark d (regA .spr 0 o)) d
      else match firing (wakeEntry d e) (seekFrom d e) with
        | none => d
        | some t => if isArmed d .spr 0 && decide (tickNow d < t) then d else firesAt d e t := by
  rw [wakeFireOp, if_neg (by simp [vin]; omega)]
  rfl

/-- The words of the SPR page's event, and every other word as before but the status and capture registers. -/
theorem live_fired (d : Dev) (e t : Nat) {b : Nat} (h : b ∉ statRegs .spr 0) :
    live (fired d e t) b =
      if regA .spr 0 0x10C = b then live d b + 1
      else if regA .spr 0 0x108 = b then live d b ||| BitVec.ofNat 32 (2 ^ e)
      else live d b := by
  rw [fired, live_setStat_ne _ _ _ _ _ _ _ _ h, evented, live_count, setLiveBit, live_setLive, if_pos rfl]
  split
  · rename_i hb; subst hb; rw [if_neg (by decide)]; rfl
  · split
    · rename_i hb; subst hb; rfl
    · rfl

@[simp] theorem fired_now (d : Dev) (e t : Nat) : (fired d e t).now = max d.now (tickCycle t) := by
  rw [fired, setStat_now]; rfl

theorem fired_power (d : Dev) (e t : Nat) :
    (fired d e t).power = { d.power with wakeFired := SMap.set (fun _ => 0) d.power.wakeFired e (t + 1) } := by
  rw [fired, setStat_power]; rfl

@[simp] theorem fired_armed (d : Dev) (e t : Nat) : (fired d e t).regs.armed = d.regs.armed := by
  rw [fired, setStat_armed]; rfl

/-- The drive and the hold of a firing, and what they leave. -/
theorem drivenHeld_eq (d : Dev) (w : Wake) (e t : Nat) :
    ∃ pins, drivenHeld d w e t = { d with
      power.wakePins := pins, power.holds := d.power.holds.filter (fun h => !decide (h.1 = e)) ++ [(e, holdEnd d w t, w.meres)] } ∧
      (w.pin = true → e ∈ pins) := by
  unfold drivenHeld
  split
  · exact ⟨_, rfl, fun _ => List.mem_append_right _ (List.mem_singleton_self e)⟩
  · rename_i h; exact ⟨_, rfl, fun p => absurd p h⟩

/-- The wakes of a firing leave what every wake leaves. -/
theorem firesAt_keeps (d : Dev) (e t : Nat) : WakeKeeps (drivenHeld (fired d e t) (wakeEntry d e) e t) (firesAt d e t) := by
  unfold firesAt
  dsimp only
  split
  · exact wakeAll_keeps _ _
  · exact .refl _

/-- A firing wakes the shore of a module that runs, where no transition is held. -/
theorem firesAt_wakes {d : Dev} (e t : Nat) (run : running d = true) (free : transHeld d = false) (deep : 0 < domState d 4) :
    (4, 0) ∈ (firesAt d e t).power.resuming := by
  obtain ⟨pins, x, -⟩ := drivenHeld_eq (fired d e t) (wakeEntry d e) e t
  have run' : running (drivenHeld (fired d e t) (wakeEntry d e) e t) = true := by
    rw [x]; simpa only [running, fired_power] using run
  have free' : transHeld (drivenHeld (fired d e t) (wakeEntry d e) e t) = false := by
    rw [x]; simpa only [transHeld, isArmed, fired_armed] using free
  have deep' : 0 < domState (drivenHeld (fired d e t) (wakeEntry d e) e t) 4 := by
    have word : live (fired d e t) (regA .pwr 0 0x118) = live d (regA .pwr 0 0x118) := by
      rw [live_fired _ _ _ (by decide), if_neg (by decide), if_neg (by decide)]
    have same : domState (fired d e t) 4 = domState d 4 := by rw [domState, domState, liveN, word]; rfl
    rw [x]
    exact Nat.lt_of_lt_of_eq deep same.symm
  unfold firesAt
  dsimp only
  rw [if_pos run']
  exact wakeAll_starts _ run' free' deep'

/-! ### The first hold to end -/

/-- The earliest end of some holds, from one on. -/
def firstEnd (u : Nat) (hs : List (Nat × Nat × List Nat)) : Nat := hs.foldl (fun t x => min t x.2.1) u

/-- The holds that end later than the first to end remain. -/
theorem holdExpiryOp_cons {d : Dev} {x : Nat × Nat × List Nat} {xs : List (Nat × Nat × List Nat)} (h : d.power.holds = x :: xs) :
    holdExpiryOp d = { advanceTo d (firstEnd x.2.1 xs) with
      power.holds := d.power.holds.filter (fun y => decide (firstEnd x.2.1 xs < y.2.1)) } := by
  unfold holdExpiryOp
  split
  · rename_i none'; rw [none'] at h; cases h
  · rename_i y ys some'
    rw [some'] at h
    obtain ⟨rfl, rfl⟩ := List.cons.inj h
    rfl

theorem firstEnd_le (u : Nat) (hs : List (Nat × Nat × List Nat)) : firstEnd u hs ≤ u ∧ ∀ h ∈ hs, firstEnd u hs ≤ h.2.1 := by
  induction hs generalizing u with
  | nil => exact ⟨Nat.le_refl u, by simp⟩
  | cons x hs ih =>
    obtain ⟨le, all⟩ := ih (min u x.2.1)
    refine ⟨Nat.le_trans le (Nat.min_le_left ..), fun h hh => ?_⟩
    rcases List.mem_cons.1 hh with rfl | hh
    · exact Nat.le_trans le (Nat.min_le_right ..)
    · exact all h hh

theorem firstEnd_mem (u : Nat) (hs : List (Nat × Nat × List Nat)) : firstEnd u hs = u ∨ ∃ h ∈ hs, h.2.1 = firstEnd u hs := by
  induction hs generalizing u with
  | nil => exact .inl rfl
  | cons x hs ih =>
    rcases ih (min u x.2.1) with e | ⟨h, hh, e⟩
    · rcases Nat.le_total u x.2.1 with le | le
      · exact .inl (e.trans (Nat.min_eq_left le))
      · exact .inr ⟨x, List.mem_cons_self, (e.trans (Nat.min_eq_right le)).symm⟩
    · exact .inr ⟨h, List.mem_cons_of_mem _ hh, e⟩

end Sys2Proof.Machine

/-! SUPPORT. Stored copies of TMR fields, their votes, and what a scrub does with them. -/

namespace Sys2Proof.Machine

open Sys2Proof.Claims

/-! ### Stored copies of registers -/

/-- Copy a of a register, as it is stored. -/
def raw (d : Dev) (st : Bool) (a : Nat) : W32 := SMap.get regReset (if st then d.regs.staged else d.regs.live) a

/-- The stored copies of the register at an offset, live and staged, are the same in both states. -/
def SameAt (b : Nat) (d e : Dev) : Prop := ∀ st, raw e st b = raw d st b ∧ copiesOf e st b = copiesOf d st b

theorem SameAt.refl (b : Nat) (d : Dev) : SameAt b d d := fun _ => ⟨rfl, rfl⟩

theorem SameAt.trans {b : Nat} {d e f : Dev} (h : SameAt b d e) (g : SameAt b e f) : SameAt b d f :=
  fun st => ⟨(g st).1.trans (h st).1, (g st).2.trans (h st).2⟩

theorem sameAt_of_regs {d e : Dev} (h : e.regs = d.regs) (b : Nat) : SameAt b d e := fun st => by
  simp only [raw, copiesOf, h, and_self]

theorem sameAt_setLive {a b : Nat} (d : Dev) (v : W32) (h : a ≠ b) : SameAt b d (setLive d a v) := fun st => by
  refine ⟨?_, copiesOf_setLive_ne d v st (.inl h)⟩
  cases st
  · exact SMap.get_set_ne _ _ _ h
  · rfl

theorem sameAt_noteSet (d : Dev) (k : Blk) (i off b : Nat) (h : HwSet) : SameAt b d (noteSet d k i off h) := by
  unfold noteSet
  split
  · exact fun st => ⟨rfl, rfl⟩
  · exact .refl b d

theorem sameAt_capture {b : Nat} (d : Dev) (k : Blk) (i bit bs : Nat) (t d2 d3 : W32) (h : b ∉ statRegs k i) :
    SameAt b d (capture d k i bit bs t d2 d3) := by
  simp only [statRegs, List.map_cons, List.map_nil, List.mem_cons, List.not_mem_nil, or_false, not_or] at h
  obtain ⟨-, h1, h2, h3, h4⟩ := h
  unfold capture
  split
  · exact .refl b d
  · exact (((sameAt_setLive _ _ (Ne.symm h1)).trans (sameAt_setLive _ _ (Ne.symm h2))).trans (sameAt_setLive _ _ (Ne.symm h3))).trans
      (sameAt_setLive _ _ (Ne.symm h4))

/-- A status event leaves every register but its page's status and capture registers. -/
theorem sameAt_setStat {b : Nat} (d : Dev) (k : Blk) (i bit bs : Nat) (t d2 d3 : W32) (h : b ∉ statRegs k i) :
    SameAt b d (setStat d k i bit bs t d2 d3) := by
  have stat : regA k i 0x20 ≠ b := fun e => h (by simp [statRegs, e])
  exact (((sameAt_noteSet d k i 0x20 b ⟨bit, bs, t, d2, d3⟩).trans (sameAt_setLive _ _ stat)).trans (sameAt_capture _ k i bit bs t d2 d3 h)).trans
    (sameAt_of_regs (setStat_regs ..) b)

theorem sameAt_holdEvent {b : Nat} {d x : Dev} (regs : x.regs = d.regs) (e : LogEvent) (h : b ∉ logRegs) : SameAt b d (holdEvent x e) := by
  have lost : regA .errlog 0 0x10C ≠ b := fun x => h (by simp [logRegs, x])
  have stat : b ∉ statRegs .errlog 0 := fun x => h (List.mem_cons_of_mem _ x)
  refine (sameAt_of_regs regs b).trans ?_
  unfold holdEvent
  dsimp only
  split
  · exact (sameAt_setLive x _ lost).trans (sameAt_of_regs rfl b)
  · split
    · exact sameAt_of_regs rfl b
    · exact sameAt_setStat { x with log.events := x.log.events ++ [e] } .errlog 0 2 0 noTag 0 0 stat

/-- A report leaves every register but those of the error log's page. -/
theorem sameAt_logEvent {b : Nat} (d : Dev) (kind source bs : Nat) (t : W32) (loc det ep : Nat) (h : b ∉ logRegs) :
    SameAt b d (logEvent d kind source bs t loc det ep) := by
  unfold logEvent
  dsimp only
  split
  · split
    · exact sameAt_holdEvent (by rfl) _ h
    · split
      · exact sameAt_holdEvent (by rfl) _ h
      · split <;> exact sameAt_of_regs (by rfl) b
  · exact sameAt_holdEvent (by rfl) _ h

/-- A register without TMR fields reads as it is stored. -/
theorem live_eq_raw {d : Dev} {a : Nat} (h : tmrFields a = []) : live d a = raw d false a := by
  rw [live, h]
  split <;> rfl

/-- What a register's word, and which of its fields has no majority, depend on. -/
theorem view_congr {d e : Dev} {st : Bool} {a : Nat} (w : raw e st a = raw d st a) (c : copiesOf e st a = copiesOf d st a) :
    view e st a = view d st a := by
  cases st
  · show live e a = live d a
    unfold live
    rw [c]
    split
    · exact w
    · exact congrArg (votedWord · _ _ _) w
  · show staged e a = staged d a
    unfold staged
    rw [c]
    split
    · exact w
    · exact congrArg (votedWord · _ _ _) w

theorem view_of_none {d : Dev} {st : Bool} {a : Nat} (h : copiesOf d st a = none) : view d st a = raw d st a := by
  cases st
  · show live d a = _
    rw [live, h]; rfl
  · show staged d a = _
    rw [staged, h]; rfl

theorem view_of_some {d : Dev} {st : Bool} {a : Nat} {t : TmrCopies} (h : copiesOf d st a = some t) :
    view d st a = votedWord (raw d st a) t.b t.c (tmrFields a) := by
  cases st
  · show live d a = _
    rw [live, h]; rfl
  · show staged d a = _
    rw [staged, h]; rfl

theorem fieldLost_of_some {d : Dev} {st : Bool} {a : Nat} {t : TmrCopies} (f : Nat × Nat) (h : copiesOf d st a = some t) :
    fieldLost d st a f =
      (vote (bitsOf (raw d st a).toNat f.1 f.2) (bitsOf t.b.toNat f.1 f.2) (bitsOf t.c.toNat f.1 f.2)).isNone := by
  rw [fieldLost, h]; rfl

/-! ### Marks and counts of votes (R8, R116, R117) -/

/-- A mark of BLK_VOTE, as a write. -/
theorem voteMark_eq (d : Dev) (k : Blk) (i off : Nat) (noMaj : Bool) :
    ∃ h n, voteMark d k i off noMaj = setLive (noteSet d k i 0x40 h) (regA k i 0x40) (BitVec.ofNat 32 n) ∧ (noMaj = true → n.testBit 1 = true) := by
  refine ⟨_, _, rfl, fun h => ?_⟩
  subst h
  exact (Nat.testBit_or ..).trans (Bool.or_true _)

theorem sameAt_voteMark {b : Nat} (d : Dev) (k : Blk) (i off : Nat) (noMaj : Bool) (h : regA k i 0x40 ≠ b) :
    SameAt b d (voteMark d k i off noMaj) := by
  obtain ⟨x, n, e, -⟩ := voteMark_eq d k i off noMaj
  rw [e]
  exact (sameAt_noteSet d k i 0x40 b x).trans (sameAt_setLive _ _ h)

@[simp] theorem noteSet_flash (d : Dev) (k : Blk) (i off : Nat) (h : HwSet) : (noteSet d k i off h).flash = d.flash := by
  unfold noteSet
  split <;> rfl

@[simp] theorem noteSet_host (d : Dev) (k : Blk) (i off : Nat) (h : HwSet) : (noteSet d k i off h).host = d.host := by
  unfold noteSet
  split <;> rfl

@[simp] theorem voteMark_flash (d : Dev) (k : Blk) (i off : Nat) (noMaj : Bool) : (voteMark d k i off noMaj).flash = d.flash := by
  obtain ⟨x, n, e, -⟩ := voteMark_eq d k i off noMaj
  rw [e, setLive_flash, noteSet_flash]

@[simp] theorem voteMark_host (d : Dev) (k : Blk) (i off : Nat) (noMaj : Bool) : (voteMark d k i off noMaj).host = d.host := by
  obtain ⟨x, n, e, -⟩ := voteMark_eq d k i off noMaj
  rw [e, setLive_host, noteSet_host]

/-- A mark that a field has no majority sets bit 1 of BLK_VOTE. -/
theorem live_voteMark_lost (d : Dev) (k : Blk) (i off : Nat) :
    (live (voteMark d k i off true) (regA k i 0x40)).getLsbD 1 = true := by
  obtain ⟨x, n, e, bit⟩ := voteMark_eq d k i off true
  rw [e, live_setLive_self, BitVec.getLsbD_ofNat, bit rfl]
  rfl

@[simp] theorem logEvent_flash (d : Dev) (kind source bs : Nat) (t : W32) (loc det ep : Nat) :
    (logEvent d kind source bs t loc det ep).flash = d.flash := by
  obtain ⟨r, q, p, w, l, e⟩ := logEvent_eq d kind source bs t loc det ep
  rw [e]

theorem live_voteMark_ne {b : Nat} (d : Dev) (k : Blk) (i off : Nat) (noMaj : Bool) (h : regA k i 0x40 ≠ b) :
    live (voteMark d k i off noMaj) b = live d b :=
  view_congr (st := false) (sameAt_voteMark d k i off noMaj h false).1 (sameAt_voteMark d k i off noMaj h false).2

@[simp] theorem staged_voteMark (d : Dev) (k : Blk) (i off : Nat) (noMaj : Bool) (b : Nat) :
    staged (voteMark d k i off noMaj) b = staged d b := by
  obtain ⟨x, n, e, -⟩ := voteMark_eq d k i off noMaj
  rw [e, staged_setLive]
  exact view_congr (st := true) (sameAt_noteSet d k i 0x40 b x true).1 (sameAt_noteSet d k i 0x40 b x true).2

/-- What a mismatch does: a mark, a count, a report. -/
theorem voteMismatch_eq {d : Dev} {a : Nat} {k : Blk} {i : Nat} (noMaj : Bool) (page : pageOf (a / 0x1000) = some (k, i)) :
    ∃ kind bs, voteMismatch d a noMaj = logEvent (count (voteMark d k i (a % 0x1000) noMaj) .glb 0 (if noMaj then 0x10C else 0x108) 1)
      kind (pageNo k i) bs noTag (a % 0x1000) 0 := by
  unfold voteMismatch
  rw [page]
  exact ⟨_, _, rfl⟩

@[simp] theorem voteMismatch_flash (d : Dev) (a : Nat) (noMaj : Bool) : (voteMismatch d a noMaj).flash = d.flash := by
  unfold voteMismatch
  split
  · rfl
  · simp

/-- A vote of a field without a majority that was known marks its page, and does nothing else. -/
theorem voteLost_known (d : Dev) (a : Nat) :
    voteLost d a true = d ∨ ∃ k i, pageOf (a / 0x1000) = some (k, i) ∧ voteLost d a true = voteMark d k i (a % 0x1000) true := by
  unfold voteLost
  split
  · rename_i k i page _; exact .inr ⟨k, i, page, rfl⟩
  · rename_i h
    unfold voteMismatch
    split
    · exact .inl rfl
    · rename_i k i page; exact (h k i page rfl).elim

theorem voteLost_new (d : Dev) (a : Nat) : voteLost d a false = voteMismatch d a true := by
  unfold voteLost
  split
  · rename_i h; cases h
  · rfl

@[simp] theorem voteLost_flash (d : Dev) (a : Nat) (known : Bool) : (voteLost d a known).flash = d.flash := by
  cases known
  · rw [voteLost_new, voteMismatch_flash]
  · rcases voteLost_known d a with e | ⟨k, i, -, e⟩ <;> rw [e]
    exact voteMark_flash ..

/-- A register that no mark, count or report of a vote writes. -/
structure Unmarked (b : Nat) : Prop where
  vote : b % 0x1000 ≠ 0x40
  rep : b ≠ regA .glb 0 0x108
  lost : b ≠ regA .glb 0 0x10C
  log : b ∉ logRegs

theorem sameAt_voteMismatch {b : Nat} (d : Dev) (a : Nat) (noMaj : Bool) (h : Unmarked b) : SameAt b d (voteMismatch d a noMaj) := by
  obtain ⟨mark, rep, lost, log⟩ := h
  have vote (k : Blk) (i : Nat) : regA k i 0x40 ≠ b := fun e => mark (by rw [← e]; exact regA_off k i 0x40 (by decide))
  unfold voteMismatch
  split
  · exact .refl b d
  · refine ((sameAt_voteMark d _ _ _ noMaj (vote _ _)).trans (sameAt_setLive _ _ ?_)).trans (sameAt_logEvent _ _ _ _ _ _ _ _ log)
    split
    · exact Ne.symm lost
    · exact Ne.symm rep

/-- A register with TMR fields is written by no mark, count or report. -/
theorem unmarked_of_tmr {a : Nat} {f : Nat × Nat} (h : f ∈ tmrFields a) : Unmarked a := by
  have plain (b : Nat) (hb : tmrFields b = []) : a ≠ b := fun e => by rw [e, hb] at h; cases h
  refine ⟨fun e => ?_, plain _ (by decide +kernel), plain _ (by decide +kernel), fun m => ?_⟩
  · rw [tmrFields_status (by simp [e])] at h; cases h
  · have none' : ∀ b ∈ logRegs, tmrFields b = [] := by decide +kernel
    exact plain a (none' a m) rfl

/-- A mismatch counts one in GLB, by its kind. -/
theorem live_voteMismatch_glb {d : Dev} {a : Nat} {k : Blk} {i : Nat} (noMaj : Bool) (page : pageOf (a / 0x1000) = some (k, i)) :
    live (voteMismatch d a noMaj) (regA .glb 0 0x108) = live d (regA .glb 0 0x108) + (if noMaj then 0 else 1) ∧
      live (voteMismatch d a noMaj) (regA .glb 0 0x10C) = live d (regA .glb 0 0x10C) + (if noMaj then 1 else 0) := by
  obtain ⟨kind, bs, e⟩ := voteMismatch_eq (d := d) noMaj page
  have mark (o : Nat) (lt : o < 0x1000) (ne : o ≠ 0x40) : live (voteMark d k i (a % 0x1000) noMaj) (regA .glb 0 o) = live d (regA .glb 0 o) :=
    live_voteMark_ne d k i _ noMaj (regA_ne_of_off (by decide) lt (Ne.symm ne))
  rw [e, live_logEvent_ne _ _ _ _ _ _ _ _ (by decide), live_logEvent_ne _ _ _ _ _ _ _ _ (by decide), live_count, live_count,
    mark _ (by decide) (by decide), mark _ (by decide) (by decide)]
  cases noMaj
  · exact ⟨rfl, (BitVec.add_zero _).symm⟩
  · exact ⟨(BitVec.add_zero _).symm, rfl⟩

/-- Several outvoted fields of a register count one each. -/
theorem live_foldl_voteMismatch {a : Nat} {k : Blk} {i : Nat} (page : pageOf (a / 0x1000) = some (k, i)) (fs : List (Nat × Nat)) (d : Dev) :
    live (fs.foldl (fun d _ => voteMismatch d a false) d) (regA .glb 0 0x108) = live d (regA .glb 0 0x108) + BitVec.ofNat 32 fs.length := by
  induction fs generalizing d with
  | nil => exact (BitVec.add_zero _).symm
  | cons g fs ih =>
    rw [List.foldl_cons, ih, (live_voteMismatch_glb false page).1, List.length_cons, Nat.add_comm, ← BitVec.ofNat_add_ofNat, BitVec.add_assoc]
    rfl

theorem sameAt_foldl_voteMismatch {b : Nat} (a : Nat) (h : Unmarked b) (fs : List (Nat × Nat)) (d : Dev) :
    SameAt b d (fs.foldl (fun d _ => voteMismatch d a false) d) := by
  induction fs generalizing d with
  | nil => exact .refl b d
  | cons g fs ih => exact (sameAt_voteMismatch d a false h).trans (ih _)

theorem foldl_voteMismatch_flash (a : Nat) (fs : List (Nat × Nat)) (d : Dev) :
    (fs.foldl (fun d _ => voteMismatch d a false) d).flash = d.flash := by
  induction fs generalizing d with
  | nil => rfl
  | cons g fs ih => rw [List.foldl_cons, ih, voteMismatch_flash]

theorem foldl_voteLost_flash (a : Nat) (known : Nat × Nat → Bool) (fs : List (Nat × Nat)) (d : Dev) :
    (fs.foldl (fun d f => voteLost d a (known f)) d).flash = d.flash := by
  induction fs generalizing d with
  | nil => rfl
  | cons g fs ih => rw [List.foldl_cons, ih, voteLost_flash]

/-! ### A vote of one register -/

/-- The vote of a field of three words. -/
def fieldVote (a b c : W32) (f : Nat × Nat) : Option Nat :=
  vote (bitsOf a.toNat f.1 f.2) (bitsOf b.toNat f.1 f.2) (bitsOf c.toNat f.1 f.2)

/-- The fields whose copies differ. -/
def differing (a : W32) (t : TmrCopies) : List (Nat × Nat) :=
  (tmrFields t.off).filter (fun f => !decide (bitsOf a.toNat f.1 f.2 = bitsOf t.b.toNat f.1 f.2 ∧ bitsOf a.toNat f.1 f.2 = bitsOf t.c.toNat f.1 f.2))

/-- The fields without a majority. -/
def lostFields (a : W32) (t : TmrCopies) : List (Nat × Nat) := (differing a t).filter (fun f => (fieldVote a t.b t.c f).isNone)

/-- A copy with the outvoted fields rewritten. -/
def repaired (a : W32) (t : TmrCopies) (w : W32) : W32 := putFields (fieldVote a t.b t.c) (differing a t) w

/-- The key of a register's copies. -/
def isKey (t x : TmrCopies) : Bool := decide (x.off = t.off) && x.staged == t.staged

/-- The block with the register's copies rewritten. -/
def rewritten (d : Dev) (t : TmrCopies) : Dev :=
  let a := raw d t.staged t.off
  let rest := d.regs.tmr.filter (fun x => !isKey t x)
  let keep := if lostFields a t = [] then rest else rest ++ [{ t with b := repaired a t t.b, c := repaired a t t.c }]
  if t.staged then { d with regs.staged := SMap.set regReset d.regs.staged t.off (repaired a t a), regs.tmr := keep }
  else { d with regs.live := SMap.set regReset d.regs.live t.off (repaired a t a), regs.tmr := keep }

theorem voteCopies_eq (before d : Dev) (t : TmrCopies) :
    voteCopies before d t =
      (lostFields (raw d t.staged t.off) t).foldl (fun d f => voteLost d t.off (fieldLost before t.staged t.off f))
        (((differing (raw d t.staged t.off) t).filter (fun f => !(lostFields (raw d t.staged t.off) t).contains f)).foldl
          (fun d _ => voteMismatch d t.off false) (rewritten d t)) := rfl

theorem rewritten_flash (d : Dev) (t : TmrCopies) : (rewritten d t).flash = d.flash := by
  unfold rewritten
  dsimp only
  split <;> rfl

theorem voteCopies_flash (before d : Dev) (t : TmrCopies) : (voteCopies before d t).flash = d.flash := by
  rw [voteCopies_eq, foldl_voteLost_flash t.off (fieldLost before t.staged t.off), foldl_voteMismatch_flash, rewritten_flash]

/-- The words that a rewriting leaves. -/
theorem raw_rewritten (d : Dev) (t : TmrCopies) (st : Bool) (b : Nat) :
    raw (rewritten d t) st b = if t.off = b ∧ t.staged = st then repaired (raw d st b) t (raw d st b) else raw d st b := by
  obtain ⟨off, staged', tb, tc⟩ := t
  cases staged' <;> cases st
  · refine (SMap.get_set ..).trans ?_
    by_cases h : off = b
    · subst h; simp only [and_self, if_true]
    · simp only [h, false_and, if_false]; rfl
  · simp only [Bool.false_eq_true, and_false, if_false]; rfl
  · simp only [Bool.true_eq_false, and_false, if_false]; rfl
  · refine (SMap.get_set ..).trans ?_
    by_cases h : off = b
    · subst h; simp only [and_self, if_true]
    · simp only [h, false_and, if_false]; rfl

theorem rewritten_tmr (d : Dev) (t : TmrCopies) :
    (rewritten d t).regs.tmr = d.regs.tmr.filter (fun x => !isKey t x) ++
      if lostFields (raw d t.staged t.off) t = [] then []
      else [{ t with b := repaired (raw d t.staged t.off) t t.b, c := repaired (raw d t.staged t.off) t t.c }] := by
  have tmr : (rewritten d t).regs.tmr =
      if lostFields (raw d t.staged t.off) t = [] then d.regs.tmr.filter (fun x => !isKey t x)
      else d.regs.tmr.filter (fun x => !isKey t x) ++
        [{ t with b := repaired (raw d t.staged t.off) t t.b, c := repaired (raw d t.staged t.off) t t.c }] := by
    unfold rewritten
    dsimp only
    split <;> rfl
  rw [tmr]
  split
  · rw [List.append_nil]
  · rfl

/-- The entries of other registers stand. -/
theorem copiesOf_rewritten_ne (d : Dev) (t : TmrCopies) {st : Bool} {b : Nat} (h : ¬(t.off = b ∧ t.staged = st)) :
    copiesOf (rewritten d t) st b = copiesOf d st b := by
  have other (x : TmrCopies) (hx : (decide (x.off = b) && x.staged == st) = true) : isKey t x = false := by
    simp only [Bool.and_eq_true, decide_eq_true_eq, beq_iff_eq] at hx
    refine Bool.eq_false_iff.mpr fun key => ?_
    simp only [isKey, Bool.and_eq_true, decide_eq_true_eq, beq_iff_eq] at key
    exact h ⟨key.1.symm.trans hx.1, key.2.symm.trans hx.2⟩
  have tail : (if lostFields (raw d t.staged t.off) t = [] then []
      else [{ t with b := repaired (raw d t.staged t.off) t t.b, c := repaired (raw d t.staged t.off) t t.c }]).find?
      (fun x => decide (x.off = b) && (x.staged == st)) = none := by
    have key : ¬((decide (t.off = b) && (t.staged == st)) = true) := by simpa using h
    split
    · rfl
    · exact List.find?_cons_of_neg key
  rw [copiesOf, rewritten_tmr, List.find?_append, tail, Option.or_none, find?_filter_of_imp _ _ _ fun x hx => by simp [other x hx]]
  rfl

/-- The register's own entry: gone where every field has a majority, else the rewritten one. -/
theorem copiesOf_rewritten_self (d : Dev) (t : TmrCopies) :
    copiesOf (rewritten d t) t.staged t.off =
      if lostFields (raw d t.staged t.off) t = [] then none
      else some { t with b := repaired (raw d t.staged t.off) t t.b, c := repaired (raw d t.staged t.off) t t.c } := by
  have gone : (d.regs.tmr.filter (fun x => !isKey t x)).find? (fun x => decide (x.off = t.off) && (x.staged == t.staged)) = none := by
    refine List.find?_eq_none.2 fun x hx key => ?_
    have own : isKey t x = true := key
    have out := (List.mem_filter.1 hx).2
    rw [own] at out
    cases out
  rw [copiesOf, rewritten_tmr, List.find?_append, gone, Option.none_or]
  split
  · rfl
  · exact List.find?_cons_of_pos (by simp)

/-! ### Votes that only mark again -/

/-- A field of an entry that a vote leaves: its copies agree, or it is known to have no majority. -/
def Settled (before d : Dev) (t : TmrCopies) : Prop :=
  ∀ f ∈ tmrFields t.off,
    (bitsOf (raw d t.staged t.off).toNat f.1 f.2 = bitsOf t.b.toNat f.1 f.2 ∧
      bitsOf (raw d t.staged t.off).toNat f.1 f.2 = bitsOf t.c.toNat f.1 f.2) ∨
      (fieldVote (raw d t.staged t.off) t.b t.c f = none ∧ fieldLost before t.staged t.off f = true)

/-- What votes that only mark again leave: every word but BLK_VOTE's, the entries of the registers of Q, and NOMAJ where it is set. -/
structure OnlyMarks (Q : Bool → Nat → Prop) (d e : Dev) : Prop where
  word : ∀ st b, b % 0x1000 ≠ 0x40 → raw e st b = raw d st b
  copies : ∀ st b, b % 0x1000 ≠ 0x40 → Q st b → copiesOf e st b = copiesOf d st b
  mark : ∀ k i, (live d (regA k i 0x40)).getLsbD 1 = true → (live e (regA k i 0x40)).getLsbD 1 = true

theorem OnlyMarks.refl (Q : Bool → Nat → Prop) (d : Dev) : OnlyMarks Q d d := ⟨fun _ _ _ => rfl, fun _ _ _ _ => rfl, fun _ _ h => h⟩

theorem OnlyMarks.trans {Q : Bool → Nat → Prop} {d e f : Dev} (h : OnlyMarks Q d e) (g : OnlyMarks Q e f) : OnlyMarks Q d f :=
  ⟨fun st b hb => (g.word st b hb).trans (h.word st b hb), fun st b hb q => (g.copies st b hb q).trans (h.copies st b hb q),
    fun k i m => g.mark k i (h.mark k i m)⟩

theorem onlyMarks_of_regs {Q : Bool → Nat → Prop} {d e : Dev} (h : e.regs = d.regs) : OnlyMarks Q d e :=
  ⟨fun st b _ => (sameAt_of_regs h b st).1, fun st b _ _ => (sameAt_of_regs h b st).2, fun k i m => by rwa [live_congr h]⟩

theorem tmrFields_vote (k : Blk) (i : Nat) : tmrFields (regA k i 0x40) = [] :=
  tmrFields_status (by rw [regA_off k i 0x40 (by decide)]; decide)

theorem onlyMarks_voteMark (Q : Bool → Nat → Prop) (d : Dev) (k : Blk) (i off : Nat) : OnlyMarks Q d (voteMark d k i off true) := by
  have ne {b : Nat} (h : b % 0x1000 ≠ 0x40) : regA k i 0x40 ≠ b := fun e => h (by rw [← e]; exact regA_off k i 0x40 (by decide))
  refine ⟨fun st b h => (sameAt_voteMark d k i off true (ne h) st).1, fun st b h _ => (sameAt_voteMark d k i off true (ne h) st).2,
    fun k' i' m => ?_⟩
  by_cases e : regA k i 0x40 = regA k' i' 0x40
  · rw [← e]; exact live_voteMark_lost d k i off
  · have same := (sameAt_voteMark d k i off true e false).1
    rwa [live_eq_raw (tmrFields_vote k' i'), same, ← live_eq_raw (tmrFields_vote k' i')]

theorem onlyMarks_voteLost (Q : Bool → Nat → Prop) (d : Dev) (a : Nat) : OnlyMarks Q d (voteLost d a true) := by
  rcases voteLost_known d a with e | ⟨k, i, -, e⟩ <;> rw [e]
  · exact .refl Q d
  · exact onlyMarks_voteMark Q d k i _

theorem onlyMarks_foldl_voteLost (Q : Bool → Nat → Prop) (a : Nat) (fs : List (Nat × Nat)) (d : Dev) :
    OnlyMarks Q d (fs.foldl (fun d _ => voteLost d a true) d) := by
  induction fs generalizing d with
  | nil => exact .refl Q d
  | cons f fs ih => exact (onlyMarks_voteLost Q d a).trans (ih _)

/-- Votes of fields that are all known to have no majority. -/
theorem foldl_voteLost_known (a : Nat) {known : Nat × Nat → Bool} {fs : List (Nat × Nat)} (h : ∀ f ∈ fs, known f = true) (d : Dev) :
    fs.foldl (fun d f => voteLost d a (known f)) d = fs.foldl (fun d _ => voteLost d a true) d := by
  induction fs generalizing d with
  | nil => rfl
  | cons f fs ih =>
    rw [List.foldl_cons, List.foldl_cons, h f List.mem_cons_self]
    exact ih (fun g hg => h g (List.mem_cons_of_mem _ hg)) _

/-- A settled entry has no outvoted field: every field whose copies differ has no majority. -/
theorem lostFields_of_settled {before d : Dev} {t : TmrCopies} (h : Settled before d t) :
    lostFields (raw d t.staged t.off) t = differing (raw d t.staged t.off) t ∧
      (∀ f ∈ differing (raw d t.staged t.off) t, fieldVote (raw d t.staged t.off) t.b t.c f = none ∧ fieldLost before t.staged t.off f = true) := by
  have lost : ∀ f ∈ differing (raw d t.staged t.off) t,
      fieldVote (raw d t.staged t.off) t.b t.c f = none ∧ fieldLost before t.staged t.off f = true := fun f hf => by
    obtain ⟨mem, ne⟩ := List.mem_filter.1 hf
    refine (h f mem).resolve_left fun same => ?_
    rw [decide_eq_true same] at ne
    cases ne
  exact ⟨List.filter_eq_self.2 fun f hf => by rw [(lost f hf).1]; rfl, lost⟩

/-- A vote of a settled entry only marks its page again. -/
theorem voteCopies_settled {Q : Bool → Nat → Prop} {before d : Dev} {t : TmrCopies} (h : Settled before d t) (out : ¬Q t.staged t.off) :
    OnlyMarks Q d (voteCopies before d t) := by
  obtain ⟨lost, known⟩ := lostFields_of_settled h
  have none' : (differing (raw d t.staged t.off) t).filter (fun f => !(differing (raw d t.staged t.off) t).contains f) = [] :=
    List.filter_eq_nil_iff.2 fun f hf => by simp [hf]
  have same (w : W32) : repaired (raw d t.staged t.off) t w = w := putFields_of_none w fun f hf => (known f hf).1
  have base : OnlyMarks Q d (rewritten d t) := by
    have word (st : Bool) (b : Nat) : raw (rewritten d t) st b = raw d st b := by
      rw [raw_rewritten]
      split
      · rename_i key; obtain ⟨rfl, rfl⟩ := key; exact same _
      · rfl
    refine ⟨fun st b _ => word st b, fun st b _ q => copiesOf_rewritten_ne d t fun key => out (by rwa [key.1, key.2]), fun k i m => ?_⟩
    rwa [live_eq_raw (tmrFields_vote k i), word, ← live_eq_raw (tmrFields_vote k i)]
  rw [voteCopies_eq, lost, none', List.foldl_nil, foldl_voteLost_known t.off fun f hf => (known f hf).2]
  exact base.trans (onlyMarks_foldl_voteLost Q t.off _ _)

/-- A settled entry stays settled while its word does. -/
theorem Settled.of_word {before d e : Dev} {t : TmrCopies} (h : Settled before d t)
    (word : t.off % 0x1000 ≠ 0x40 → raw e t.staged t.off = raw d t.staged t.off) : Settled before e t := fun f hf => by
  rw [word (unmarked_of_tmr hf).vote]
  exact h f hf

theorem foldl_voteCopies_settled {Q : Bool → Nat → Prop} {before : Dev} (ts : List TmrCopies) {d : Dev} (h : ∀ t ∈ ts, Settled before d t)
    (out : ∀ t ∈ ts, ¬Q t.staged t.off) : OnlyMarks Q d (ts.foldl (voteCopies before) d) := by
  induction ts generalizing d with
  | nil => exact .refl Q d
  | cons t ts ih =>
    have step := voteCopies_settled (Q := Q) (h t List.mem_cons_self) (out t List.mem_cons_self)
    exact step.trans (ih (fun u hu => (h u (List.mem_cons_of_mem _ hu)).of_word (step.word _ _)) fun u hu => out u (List.mem_cons_of_mem _ hu))

theorem foldl_voteCopies_flash (before : Dev) (ts : List TmrCopies) (d : Dev) : (ts.foldl (voteCopies before) d).flash = d.flash := by
  induction ts generalizing d with
  | nil => rfl
  | cons t ts ih => rw [List.foldl_cons, ih, voteCopies_flash]

/-! ### Votes of dies' epochs that only mark again -/

/-- A die that a vote leaves: its copies agree, or its epoch is known to have no majority. -/
def SettledDie (before d : Dev) (n : Nat) : Prop :=
  ∀ c, dieCopies d n = some c →
    c = ((dieRaw d n).epoch, (dieRaw d n).epoch) ∨ (vote (dieRaw d n).epoch c.1 c.2 = none ∧ dieEpoch before n = none)

theorem dieRaw_putDie (d : Dev) (n m : Nat) (v : Die) (c : Option (Nat × Nat)) : dieRaw (putDie d n v c) m = if n = m then v else dieRaw d m :=
  SMap.get_set ..

theorem dieCopies_putDie_self (d : Dev) (n : Nat) (v : Die) (c : Option (Nat × Nat)) : dieCopies (putDie d n v c) n = c := by
  have gone : (d.flash.dieTmr.filter (fun t => !decide (t.1 = n))).find? (fun t => decide (t.1 = n)) = none := by
    refine List.find?_eq_none.2 fun x hx => ?_
    simpa using (List.mem_filter.1 hx).2
  unfold dieCopies putDie
  dsimp only
  rw [List.find?_append, gone, Option.none_or]
  cases c
  · rfl
  · simp

theorem dieCopies_putDie_ne (d : Dev) {n m : Nat} (v : Die) (c : Option (Nat × Nat)) (h : n ≠ m) :
    dieCopies (putDie d n v c) m = dieCopies d m := by
  have keep : (d.flash.dieTmr.filter (fun t => !decide (t.1 = n))).find? (fun t => decide (t.1 = m)) =
      d.flash.dieTmr.find? (fun t => decide (t.1 = m)) := by
    refine find?_filter_of_imp _ _ _ fun x hx => ?_
    have own : x.1 = m := by simpa using hx
    simpa [own] using Ne.symm h
  unfold dieCopies putDie
  dsimp only
  rw [List.find?_append, keep]
  cases c with
  | none => rw [List.find?_nil, Option.or_none]
  | some x => rw [List.find?_cons_of_neg (by simpa using h), List.find?_nil, Option.or_none]

/-- What votes of settled dies leave: the dies' own words, the copies of the dies not voted, and the registers but for marks. -/
structure DiesKept (ns : List Nat) (d e : Dev) : Prop where
  regs : OnlyMarks (fun _ _ => True) d e
  die : ∀ m, dieRaw e m = dieRaw d m
  copies : ∀ m, dieCopies e m = dieCopies d m ∨ (dieCopies e m = none ∧ m ∈ ns)

/-- A vote of a settled die drops copies that agree, or marks the page again. -/
theorem voteDie_settled {before d : Dev} {n : Nat} (h : SettledDie before d n) : DiesKept [n] d (voteDie before d n) := by
  cases hc : dieCopies d n with
  | none =>
    have op : voteDie before d n = d := by simp only [voteDie, hc]
    rw [op]
    exact ⟨.refl _ d, fun _ => rfl, fun _ => .inl rfl⟩
  | some c =>
    rcases h c hc with rfl | ⟨lost, known⟩
    · have epoch : dieEpoch d n = some (dieRaw d n).epoch := by simp only [dieEpoch, hc, vote, true_or, if_true]
      have op : voteDie before d n = putDie d n (dieRaw d n) none := by
        simp only [voteDie, hc, epoch, and_self, if_true]
      rw [op]
      refine ⟨onlyMarks_of_regs rfl, fun m => ?_, fun m => ?_⟩
      · rw [dieRaw_putDie]
        split
        · rename_i e; rw [e]
        · rfl
      · by_cases e : n = m
        · subst e; exact .inr ⟨dieCopies_putDie_self .., List.mem_singleton_self n⟩
        · exact .inl (dieCopies_putDie_ne d _ _ e)
    · have epoch : dieEpoch d n = none := by simp only [dieEpoch, hc, lost]
      have op : voteDie before d n = voteLost d (regA .flc 0 0x144) true := by
        simp only [voteDie, hc, epoch, known, Option.isNone_none]
      have flash : (voteDie before d n).flash = d.flash := by rw [op, voteLost_flash]
      refine ⟨op ▸ onlyMarks_voteLost _ d _, fun m => ?_, fun m => .inl ?_⟩
      · rw [dieRaw, dieRaw, flash]
      · rw [dieCopies, dieCopies, flash]

theorem SettledDie.of_kept {before d e : Dev} {ns : List Nat} {n : Nat} (h : SettledDie before d n) (k : DiesKept ns d e) :
    SettledDie before e n := fun c hc => by
  rw [k.die]
  rcases k.copies n with same | ⟨gone, -⟩
  · exact h c (same.symm.trans hc)
  · rw [gone] at hc; cases hc

theorem foldl_voteDie_settled {before : Dev} (ns : List Nat) {d : Dev} (h : ∀ n ∈ ns, SettledDie before d n) :
    DiesKept ns d (ns.foldl (voteDie before) d) := by
  induction ns generalizing d with
  | nil => exact ⟨.refl _ d, fun _ => rfl, fun _ => .inl rfl⟩
  | cons n ns ih =>
    have step := voteDie_settled (h n List.mem_cons_self)
    obtain ⟨regs, die, copies⟩ := ih (d := voteDie before d n) fun m hm => (h m (List.mem_cons_of_mem _ hm)).of_kept step
    refine ⟨step.regs.trans regs, fun m => (die m).trans (step.die m), fun m => ?_⟩
    rcases copies m with e | ⟨e, hm⟩
    · rcases step.copies m with e' | ⟨e', hm⟩
      · exact .inl (e.trans e')
      · exact .inr ⟨e.trans e', List.mem_cons.2 (.inl (List.mem_singleton.1 hm))⟩
    · exact .inr ⟨e, List.mem_cons_of_mem _ hm⟩

/-! ### Three copies of which one has changed -/

/-- One of three copies has become a', the others are a. -/
def OneOff {α : Type} (a a' p q r : α) : Prop := (p = a' ∧ q = a ∧ r = a) ∨ (p = a ∧ q = a' ∧ r = a) ∨ (p = a ∧ q = a ∧ r = a')

theorem OneOff.map {α β : Type} (f : α → β) {a a' p q r : α} (h : OneOff a a' p q r) : OneOff (f a) (f a') (f p) (f q) (f r) := by
  rcases h with ⟨rfl, rfl, rfl⟩ | ⟨rfl, rfl, rfl⟩ | ⟨rfl, rfl, rfl⟩
  · exact .inl ⟨rfl, rfl, rfl⟩
  · exact .inr (.inl ⟨rfl, rfl, rfl⟩)
  · exact .inr (.inr ⟨rfl, rfl, rfl⟩)

/-- The changed copy is outvoted (R116). -/
theorem OneOff.vote {a a' p q r : Nat} (h : OneOff a a' p q r) : vote p q r = some a := by
  rcases h with ⟨rfl, rfl, rfl⟩ | ⟨rfl, rfl, rfl⟩ | ⟨rfl, rfl, rfl⟩
  · simp only [Machine.vote, or_self]
    split
    · rename_i e; rw [e]
    · rfl
  · simp [Machine.vote]
  · simp [Machine.vote]

/-- The copies agree where the change is none. -/
theorem OneOff.agree_iff {α : Type} {a a' p q r : α} (h : OneOff a a' p q r) : (p = q ∧ p = r) ↔ a' = a := by
  rcases h with ⟨rfl, rfl, rfl⟩ | ⟨rfl, rfl, rfl⟩ | ⟨rfl, rfl, rfl⟩
  · exact and_self_iff
  · exact ⟨fun h => h.1.symm, fun h => ⟨h.symm, rfl⟩⟩
  · exact ⟨fun h => h.2.symm, fun h => ⟨rfl, h.symm⟩⟩

/-! ### A change of stored copies (R116) -/

/-- The bits of a register's TMR fields. -/
def tmrMask (a : Nat) : W32 := (tmrFields a).foldl (fun m x => m ||| BitVec.ofNat 32 (fieldMask x.1 x.2)) 0

theorem getLsbD_tmrMask (a b : Nat) (hb : b < 32) :
    (tmrMask a).getLsbD b = (tmrFields a).any (fun f => decide (f.2 ≤ b ∧ b ≤ f.1)) := by
  rw [tmrMask, getLsbD_foldl_or, getLsbD_zeroWord, Bool.false_or]
  simp only [getLsbD_fieldMask _ b hb]

/-- A change within a register's fields: its bits lie in them, and in them it is the bits given. -/
theorem getLsbD_change_of_field {a b : Nat} {f : Nat × Nat} (bits : W32) (hf : f ∈ tmrFields a) (hb : b < 32) (lo : f.2 ≤ b) (hi : b ≤ f.1) :
    (bits &&& tmrMask a).getLsbD b = bits.getLsbD b := by
  rw [BitVec.getLsbD_and, getLsbD_tmrMask a b hb, List.any_eq_true.2 ⟨f, hf, by simp [lo, hi]⟩, Bool.and_true]

theorem field_of_getLsbD_change {a b : Nat} {bits : W32} (hb : b < 32) (h : (bits &&& tmrMask a).getLsbD b = true) :
    ∃ f ∈ tmrFields a, f.2 ≤ b ∧ b ≤ f.1 := by
  rw [BitVec.getLsbD_and, Bool.and_eq_true, getLsbD_tmrMask a b hb, List.any_eq_true] at h
  obtain ⟨-, f, hf, inside⟩ := h
  exact ⟨f, hf, by simpa using inside⟩

/-- A change within one field is what it is. -/
theorem and_tmrMask_of_field {a : Nat} {f : Nat × Nat} {x : W32} (hf : f ∈ tmrFields a)
    (inside : x &&& ~~~ BitVec.ofNat 32 (fieldMask f.1 f.2) = 0) : x &&& tmrMask a = x := by
  refine BitVec.eq_of_getLsbD_eq fun b hb => ?_
  have bit := congrArg (·.getLsbD b) inside
  simp only [getLsbD_clearField x f b hb, getLsbD_zeroWord] at bit
  split at bit
  · rename_i h; exact getLsbD_change_of_field x hf hb h.1 h.2
  · rw [BitVec.getLsbD_and, bit, Bool.false_and]

/-- A changed copy's field is as before exactly where the bits given have none of it. -/
theorem field_xor_eq_iff {a : Nat} {f : Nat × Nat} (A bits : W32) (hf : f ∈ tmrFields a) :
    bitsOf (A ^^^ (bits &&& tmrMask a)).toNat f.1 f.2 = bitsOf A.toNat f.1 f.2 ↔ bitsOf bits.toNat f.1 f.2 = 0 := by
  have zero : bitsOf bits.toNat f.1 f.2 = 0 ↔ bitsOf bits.toNat f.1 f.2 = bitsOf (0 : W32).toNat f.1 f.2 := by simp [bitsOf]
  rw [zero, bitsOf_eq_iff, bitsOf_eq_iff]
  refine forall_congr' fun b => forall_congr' fun lo => forall_congr' fun hi => ?_
  by_cases hb : b < 32
  · rw [BitVec.getLsbD_xor, getLsbD_change_of_field bits hf hb lo hi, getLsbD_zeroWord]
    cases A.getLsbD b <;> simp
  · simp [BitVec.getLsbD_of_ge, Nat.le_of_not_lt hb]

/-- The block with other stored copies of one register: copy a, and copies b and c as the last entry. -/
structure Stored (st : Bool) (a : Nat) (A b c : W32) (d e : Dev) : Prop where
  own : raw e st a = A
  word : ∀ st' x, ¬(a = x ∧ st = st') → raw e st' x = raw d st' x
  tmr : e.regs.tmr = d.regs.tmr ++ [⟨a, st, b, c⟩]
  flash : e.flash = d.flash

theorem filter_keys_of_none {d : Dev} {st : Bool} {a : Nat} (h : copiesOf d st a = none) :
    d.regs.tmr.filter (fun y => !(decide (y.off = a) && y.staged == st)) = d.regs.tmr :=
  List.filter_eq_self.2 fun t ht => congrArg Bool.not (Bool.eq_false_iff.mpr (List.find?_eq_none.1 h t ht))

/-- A first change of copy b. -/
theorem stored_flipReg_b {d : Dev} {a : Nat} {bits : W32} {st : Bool} (none' : copiesOf d st a = none) :
    Stored st a (raw d st a) (raw d st a ^^^ (bits &&& tmrMask a)) (raw d st a) d (flipReg d ⟨a, 0, st, 1, bits⟩) := by
  have entry : flipReg d ⟨a, 0, st, 1, bits⟩ =
      { d with regs.tmr := d.regs.tmr ++ [⟨a, st, raw d st a ^^^ (bits &&& tmrMask a), raw d st a⟩] } := by
    unfold flipReg
    dsimp only
    rw [none', filter_keys_of_none none']
    cases st <;> rfl
  rw [entry]
  exact ⟨rfl, fun _ _ _ => rfl, rfl, rfl⟩

/-- The first change of a register's copies. -/
theorem stored_flipReg {d : Dev} {a copy : Nat} {bits : W32} {st : Bool} (none' : copiesOf d st a = none) (hc : copy < 3) :
    ∃ A b c, Stored st a A b c d (flipReg d ⟨a, 0, st, copy, bits⟩) ∧ OneOff (raw d st a) (raw d st a ^^^ (bits &&& tmrMask a)) A b c := by
  match copy, hc with
  | 0, _ =>
    refine ⟨_, raw d st a, raw d st a, ?_, .inl ⟨rfl, rfl, rfl⟩⟩
    unfold flipReg
    dsimp only
    rw [none', filter_keys_of_none none']
    cases st
    · refine ⟨SMap.get_set_self .., fun st' x h => ?_, rfl, rfl⟩
      cases st'
      · exact SMap.get_set_ne _ _ _ fun e => h ⟨e, rfl⟩
      · rfl
    · refine ⟨SMap.get_set_self .., fun st' x h => ?_, rfl, rfl⟩
      cases st'
      · rfl
      · exact SMap.get_set_ne _ _ _ fun e => h ⟨e, rfl⟩
  | 1, _ => exact ⟨_, _, _, stored_flipReg_b none', .inr (.inl ⟨rfl, rfl, rfl⟩)⟩
  | 2, _ =>
    have entry : flipReg d ⟨a, 0, st, 2, bits⟩ =
        { d with regs.tmr := d.regs.tmr ++ [⟨a, st, raw d st a, raw d st a ^^^ (bits &&& tmrMask a)⟩] } := by
      unfold flipReg
      dsimp only
      rw [none', filter_keys_of_none none']
      cases st <;> rfl
    exact ⟨_, _, _, entry ▸ ⟨rfl, fun _ _ _ => rfl, rfl, rfl⟩, .inr (.inr ⟨rfl, rfl, rfl⟩)⟩

/-- A change of copy c after another change. -/
theorem stored_flipReg_again {d e : Dev} {a : Nat} {bits A b c : W32} {st : Bool} (none' : copiesOf d st a = none) (h : Stored st a A b c d e) :
    Stored st a A b (c ^^^ (bits &&& tmrMask a)) d (flipReg e ⟨a, 0, st, 2, bits⟩) := by
  have found : copiesOf e st a = some ⟨a, st, b, c⟩ := by
    have gone : d.regs.tmr.find? (fun t => decide (t.off = a) && (t.staged == st)) = none := none'
    rw [copiesOf, h.tmr, List.find?_append, gone, Option.none_or]
    exact List.find?_cons_of_pos (by simp)
  have others : e.regs.tmr.filter (fun y => !(decide (y.off = a) && y.staged == st)) = d.regs.tmr := by
    rw [h.tmr, List.filter_append, filter_keys_of_none none']
    simp
  have entry : flipReg e ⟨a, 0, st, 2, bits⟩ = { e with regs.tmr := d.regs.tmr ++ [⟨a, st, b, c ^^^ (bits &&& tmrMask a)⟩] } := by
    unfold flipReg
    dsimp only
    rw [found, others]
    rfl
  rw [entry]
  exact ⟨h.own, h.word, rfl, h.flash⟩

/-! ### A scrub after a change of one register's copies -/

theorem copiesOf_of_mem {d : Dev} (nodup : (d.regs.tmr.map (fun t => (t.off, t.staged))).Nodup) {t : TmrCopies} (ht : t ∈ d.regs.tmr) :
    copiesOf d t.staged t.off = some t := by
  have all (ts : List TmrCopies) (nd : (ts.map (fun t => (t.off, t.staged))).Nodup) (ht : t ∈ ts) :
      ts.find? (fun x => decide (x.off = t.off) && (x.staged == t.staged)) = some t := by
    induction ts with
    | nil => cases ht
    | cons x xs ih =>
      obtain ⟨out, rest⟩ := List.nodup_cons.1 nd
      rcases List.mem_cons.1 ht with rfl | hx
      · exact List.find?_cons_of_pos (by simp)
      · rw [List.find?_cons_of_neg, ih rest hx]
        intro same
        simp only [Bool.and_eq_true, decide_eq_true_eq, beq_iff_eq] at same
        exact out (List.mem_map.2 ⟨t, hx, Prod.ext same.1.symm same.2.symm⟩)
  exact all _ nodup ht

/-- Every entry of a scrubbed block is settled. -/
theorem settled_of_scrubbed {d : Dev} (h : Scrubbed d) {t : TmrCopies} (ht : t ∈ d.regs.tmr) : Settled d d t := fun f hf => by
  obtain ⟨nodup, voted, -⟩ := h
  rcases voted t ht f hf with ⟨ab, bc⟩ | lost
  · exact .inl ⟨ab, ab.trans bc⟩
  · refine .inr ⟨lost, ?_⟩
    rw [fieldLost_of_some f (copiesOf_of_mem nodup ht)]
    exact Option.isNone_iff_eq_none.2 lost

theorem settledDie_of_scrubbed {d : Dev} (h : Scrubbed d) (n : Nat) : SettledDie d d n := fun c hc => by
  obtain ⟨-, -, dies⟩ := h
  obtain ⟨x, found, rfl⟩ := Option.map_eq_some_iff.1 hc
  obtain rfl : x.1 = n := by simpa using List.find?_some found
  rcases dies x (List.mem_of_find?_eq_some found) with ⟨ab, bc⟩ | lost
  · exact .inl (Prod.ext ab.symm (ab.trans bc).symm)
  · refine .inr ⟨lost, ?_⟩
    simp only [dieEpoch, hc, lost]

/-- A die is settled in another block with the same dies. -/
theorem SettledDie.of_flash {before d e : Dev} {n : Nat} (h : SettledDie before d n) (flash : e.flash = d.flash) : SettledDie before e n := by
  simpa only [SettledDie, dieCopies, dieRaw, flash] using h

/-- A scrub of a block that was scrubbed but for one register: the other entries are only marked again, then the register is voted,
then the dies' marks follow. -/
theorem tmrScrubOp_of_stored {d : Dev} {st : Bool} {a : Nat} {A b c : W32} {flips : List TmrFlip} (sc : Scrubbed d) (none' : copiesOf d st a = none)
    (h : Stored st a A b c d ((flips.filter flipOk).foldl flipCopy d)) (plain : a % 0x1000 ≠ 0x40) :
    ∃ e, raw e st a = A ∧ (∀ x, x % 0x1000 ≠ 0x40 → x ≠ a → raw e false x = raw d false x) ∧
      OnlyMarks (fun _ _ => True) (voteCopies d e ⟨a, st, b, c⟩) (tmrScrubOp d flips) := by
  let e0 := (flips.filter flipOk).foldl flipCopy d
  let e := d.regs.tmr.foldl (voteCopies d) e0
  have other (t : TmrCopies) (ht : t ∈ d.regs.tmr) : ¬(a = t.off ∧ st = t.staged) := fun key => by
    have no := List.find?_eq_none.1 none' t ht
    simp [key.1, key.2] at no
  have marks : OnlyMarks (fun st' x => a = x ∧ st = st') e0 e :=
    foldl_voteCopies_settled _ (fun t ht => (settled_of_scrubbed sc ht).of_word fun _ => h.word _ _ (other t ht)) other
  have flash : (voteCopies d e ⟨a, st, b, c⟩).flash = d.flash := by
    rw [voteCopies_flash]
    exact (foldl_voteCopies_flash ..).trans h.flash
  have op : tmrScrubOp d flips = ((voteCopies d e ⟨a, st, b, c⟩).flash.dieTmr.map (·.1)).foldl (voteDie d) (voteCopies d e ⟨a, st, b, c⟩) := by
    unfold tmrScrubOp
    dsimp only
    rw [h.tmr, List.foldl_append]
    rfl
  refine ⟨e, (marks.word st a plain).trans h.own, fun x hx ne => (marks.word false x hx).trans (h.word false x fun key => ne key.1.symm), ?_⟩
  rw [op]
  exact (foldl_voteDie_settled _ fun n _ => (settledDie_of_scrubbed sc n).of_flash flash).regs

section
variable {a : Nat} {st : Bool} {A0 A bits b c : W32} (h : OneOff A0 (A0 ^^^ (bits &&& tmrMask a)) A b c)
include h

/-- The fields that differ are those that the change touched. -/
theorem differing_of_oneOff :
    differing A ⟨a, st, b, c⟩ = (tmrFields a).filter (fun f => decide (bitsOf bits.toNat f.1 f.2 ≠ 0)) := by
  refine List.filter_congr fun f hf => ?_
  have agree := (h.map fun w : W32 => bitsOf w.toNat f.1 f.2).agree_iff
  rw [decide_eq_decide.2 (agree.trans (field_xor_eq_iff A0 bits hf)), decide_not]

/-- Every field votes as before the change. -/
theorem fieldVote_of_oneOff (f : Nat × Nat) : fieldVote A b c f = some (bitsOf A0.toNat f.1 f.2) :=
  (h.map fun w : W32 => bitsOf w.toNat f.1 f.2).vote

theorem lostFields_of_oneOff : lostFields A ⟨a, st, b, c⟩ = [] :=
  List.filter_eq_nil_iff.2 fun f _ => by simp [fieldVote_of_oneOff h f]

/-- Copy a differs from what it was within the change alone. -/
theorem changed_of_oneOff {n : Nat} (ne : A.getLsbD n ≠ A0.getLsbD n) : (bits &&& tmrMask a).getLsbD n = true := by
  rcases h with ⟨e, -, -⟩ | ⟨e, -, -⟩ | ⟨e, -, -⟩
  · refine Decidable.byContradiction fun zero => ?_
    rw [e, BitVec.getLsbD_xor, Bool.eq_false_iff.mpr zero, Bool.xor_false] at ne
    exact ne rfl
  · exact absurd (congrArg (·.getLsbD n) e) ne
  · exact absurd (congrArg (·.getLsbD n) e) ne

/-- The rewritten copy a is the word of before the change. -/
theorem repaired_of_oneOff : repaired A ⟨a, st, b, c⟩ A = A0 := by
  refine putFields_eq _ (fun f _ => fieldVote_of_oneOff h f) fun n hn ne => ?_
  have changed := changed_of_oneOff h ne
  obtain ⟨f, hf, inside⟩ := field_of_getLsbD_change hn changed
  refine ⟨f, ?_, inside⟩
  rw [differing_of_oneOff h, List.mem_filter, decide_eq_true_eq]
  refine ⟨hf, fun zero => ?_⟩
  have same := (bitsOf_eq_iff _ _ f).1 ((field_xor_eq_iff A0 bits hf).2 zero) n inside.1 inside.2
  rw [BitVec.getLsbD_xor, changed, Bool.xor_true] at same
  exact absurd same (by cases A0.getLsbD n <;> decide)

end

/-- A vote of a register of which one copy has changed rewrites it and counts one mismatch for each field that the change touched. -/
theorem voteCopies_oneOff {before d : Dev} {st : Bool} {a i : Nat} {A0 bits b c : W32} {k : Blk} (un : Unmarked a)
    (page : pageOf (a / 0x1000) = some (k, i)) (h : OneOff A0 (A0 ^^^ (bits &&& tmrMask a)) (raw d st a) b c) :
    raw (voteCopies before d ⟨a, st, b, c⟩) st a = A0 ∧ copiesOf (voteCopies before d ⟨a, st, b, c⟩) st a = none ∧
      live (voteCopies before d ⟨a, st, b, c⟩) (regA .glb 0 0x108) = raw d false (regA .glb 0 0x108) +
        BitVec.ofNat 32 ((tmrFields a).filter (fun f => decide (bitsOf bits.toNat f.1 f.2 ≠ 0))).length := by
  have op : voteCopies before d ⟨a, st, b, c⟩ =
      (differing (raw d st a) ⟨a, st, b, c⟩).foldl (fun d _ => voteMismatch d a false) (rewritten d ⟨a, st, b, c⟩) := by
    rw [voteCopies_eq]
    simp only [lostFields_of_oneOff h, List.foldl_nil, List.contains_nil, Bool.not_false]
    rw [List.filter_eq_self.2 fun _ _ => rfl]
  have same := sameAt_foldl_voteMismatch a un (differing (raw d st a) ⟨a, st, b, c⟩) (rewritten d ⟨a, st, b, c⟩) st
  rw [op]
  refine ⟨?_, ?_, ?_⟩
  · rw [same.1, raw_rewritten, if_pos ⟨rfl, rfl⟩, repaired_of_oneOff h]
  · rw [same.2]
    exact (copiesOf_rewritten_self d ⟨a, st, b, c⟩).trans (if_pos (lostFields_of_oneOff h))
  · rw [live_foldl_voteMismatch page, live_eq_raw (by decide +kernel), raw_rewritten, if_neg fun key => un.rep key.1,
      differing_of_oneOff h]

/-! ### A field whose three copies come to differ -/

/-- Three different values have no majority. -/
theorem vote_eq_none {a b c : Nat} (ab : a ≠ b) (ac : a ≠ c) (bc : b ≠ c) : vote a b c = none := by
  simp [vote, ab, ac, bc]

/-- A change within a field, other than none, changes the field. -/
theorem field_ne_of_change {f : Nat × Nat} {A B : W32} (inside : (A ^^^ B) &&& ~~~ BitVec.ofNat 32 (fieldMask f.1 f.2) = 0) (ne : A ≠ B) :
    bitsOf A.toNat f.1 f.2 ≠ bitsOf B.toNat f.1 f.2 := fun e => by
  refine ne (BitVec.eq_of_getLsbD_eq fun n hn => ?_)
  have bit := congrArg (·.getLsbD n) inside
  simp only [getLsbD_clearField (A ^^^ B) f n hn, getLsbD_zeroWord, BitVec.getLsbD_xor] at bit
  split at bit
  · rename_i h; exact (bitsOf_eq_iff A B f).1 e n h.1 h.2
  · simpa using bit

/-- A change within a field leaves the fields apart from it. -/
theorem field_eq_of_apart {f g : Nat × Nat} {A x : W32} (inside : x &&& ~~~ BitVec.ofNat 32 (fieldMask f.1 f.2) = 0) (apart : Apart f g) :
    bitsOf A.toNat g.1 g.2 = bitsOf (A ^^^ x).toNat g.1 g.2 := by
  refine (bitsOf_eq_iff A _ g).2 fun n lo hi => ?_
  by_cases hn : n < 32
  · have bit := congrArg (·.getLsbD n) inside
    simp only [getLsbD_clearField x f n hn, getLsbD_zeroWord] at bit
    rw [if_neg (by unfold Apart at apart; omega)] at bit
    rw [BitVec.getLsbD_xor, bit, Bool.xor_false]
  · rw [BitVec.getLsbD_of_ge _ _ (by omega), BitVec.getLsbD_of_ge _ _ (by omega)]

/-- The copies of a register of which one field has come to differ in all three. -/
structure LostIn (a : Nat) (f : Nat × Nat) (A b c : W32) : Prop where
  mem : f ∈ tmrFields a
  lost : fieldVote A b c f = none
  others : ∀ g ∈ tmrFields a, g ≠ f → Apart f g ∧ bitsOf A.toNat g.1 g.2 = bitsOf b.toNat g.1 g.2 ∧ bitsOf A.toNat g.1 g.2 = bitsOf c.toNat g.1 g.2

theorem lostIn_of_changes {a : Nat} {f : Nat × Nat} {A x y : W32} (mem : f ∈ tmrFields a)
    (inX : x &&& ~~~ BitVec.ofNat 32 (fieldMask f.1 f.2) = 0) (inY : y &&& ~~~ BitVec.ofNat 32 (fieldMask f.1 f.2) = 0)
    (x0 : x ≠ 0) (y0 : y ≠ 0) (xy : x ≠ y) : LostIn a f A (A ^^^ x) (A ^^^ y) := by
  have self (z : W32) : A ^^^ (A ^^^ z) = z := by rw [← BitVec.xor_assoc, BitVec.xor_self, BitVec.zero_xor]
  have ne {z : W32} (inside : z &&& ~~~ BitVec.ofNat 32 (fieldMask f.1 f.2) = 0) (z0 : z ≠ 0) :
      bitsOf A.toNat f.1 f.2 ≠ bitsOf (A ^^^ z).toNat f.1 f.2 :=
    field_ne_of_change (by rwa [self]) fun e => z0 (by rw [← self z, ← e, BitVec.xor_self]; rfl)
  have between : bitsOf (A ^^^ x).toNat f.1 f.2 ≠ bitsOf (A ^^^ y).toNat f.1 f.2 := by
    refine field_ne_of_change ?_ fun e => xy (by rw [← self x, e, self])
    have both : (A ^^^ x) ^^^ (A ^^^ y) = x ^^^ y := by rw [BitVec.xor_comm A x, BitVec.xor_assoc, self]
    refine BitVec.eq_of_getLsbD_eq fun n hn => ?_
    have bx := congrArg (·.getLsbD n) inX
    have hy := congrArg (·.getLsbD n) inY
    rw [both]
    simp only [getLsbD_clearField _ f n hn, getLsbD_zeroWord, BitVec.getLsbD_xor] at bx hy ⊢
    split at bx
    · rename_i h; rw [if_pos h]
    · rename_i h; rw [if_neg h] at hy; rw [if_neg h, bx, hy]; rfl
  exact ⟨mem, vote_eq_none (ne inX x0) (ne inY y0) between, fun g hg gf =>
    ⟨apart_of_mem mem hg gf, field_eq_of_apart inX (apart_of_mem mem hg gf), field_eq_of_apart inY (apart_of_mem mem hg gf)⟩⟩

/-- The word that such a register reads as: the field reads zero, every other field as before. -/
theorem LostIn.votedWord {a : Nat} {f : Nat × Nat} {A b c : W32} (h : LostIn a f A b c) :
    votedWord A b c (tmrFields a) = A &&& ~~~ BitVec.ofNat 32 (fieldMask f.1 f.2) :=
  votedWord_of_lost h.mem h.lost fun g hg gf => by
    obtain ⟨apart, ab, ac⟩ := h.others g hg gf
    exact ⟨apart, by rw [← ab, ← ac]; simp [vote]⟩

theorem LostIn.differing {a : Nat} {st : Bool} {f : Nat × Nat} {A b c : W32} (h : LostIn a f A b c) :
    differing A ⟨a, st, b, c⟩ = [f] := by
  have only (g : Nat × Nat) (hg : g ∈ tmrFields a) :
      (!decide (bitsOf A.toNat g.1 g.2 = bitsOf b.toNat g.1 g.2 ∧ bitsOf A.toNat g.1 g.2 = bitsOf c.toNat g.1 g.2)) = decide (g = f) := by
    by_cases gf : g = f
    · subst gf
      have split' : ¬(bitsOf A.toNat g.1 g.2 = bitsOf b.toNat g.1 g.2 ∧ bitsOf A.toNat g.1 g.2 = bitsOf c.toNat g.1 g.2) := fun e => by
        have lost := h.lost
        simp [fieldVote, vote, e.1] at lost
      simp only [split', decide_false, Bool.not_false, decide_true]
    · obtain ⟨-, same⟩ := h.others g hg gf
      rw [decide_eq_true same, decide_eq_false gf]; rfl
  unfold Machine.differing
  rw [List.filter_congr only, List.filter_eq, (tmrFields_nodup a).count, if_pos h.mem]
  rfl

/-- A vote of such a register, whose field had a majority before: nothing is rewritten, and one field without a majority is marked
and counted. -/
theorem voteCopies_lost {before d : Dev} {st : Bool} {a i : Nat} {f : Nat × Nat} {b c : W32} {k : Blk} (page : pageOf (a / 0x1000) = some (k, i))
    (h : LostIn a f (raw d st a) b c) (new : fieldLost before st a f = false) :
    raw (voteCopies before d ⟨a, st, b, c⟩) st a = raw d st a ∧ copiesOf (voteCopies before d ⟨a, st, b, c⟩) st a = some ⟨a, st, b, c⟩ ∧
      (live (voteCopies before d ⟨a, st, b, c⟩) (regA k i 0x40)).getLsbD 1 = true ∧
      live (voteCopies before d ⟨a, st, b, c⟩) (regA .glb 0 0x10C) = raw d false (regA .glb 0 0x10C) + 1 ∧
      live (voteCopies before d ⟨a, st, b, c⟩) (regA .glb 0 0x108) = raw d false (regA .glb 0 0x108) := by
  have un := unmarked_of_tmr h.mem
  have lost : lostFields (raw d st a) ⟨a, st, b, c⟩ = [f] := by
    rw [lostFields, h.differing, List.filter_cons, h.lost]; rfl
  have same (w : W32) : repaired (raw d st a) ⟨a, st, b, c⟩ w = w := putFields_of_none w fun g hg => by
    rw [h.differing, List.mem_singleton] at hg
    rw [hg]; exact h.lost
  have op : voteCopies before d ⟨a, st, b, c⟩ = voteMismatch (rewritten d ⟨a, st, b, c⟩) a true := by
    rw [voteCopies_eq]
    simp only [lost, h.differing, List.foldl_cons, List.foldl_nil, new, voteLost_new, List.filter_cons, List.contains_cons, BEq.rfl,
      Bool.true_or, Bool.not_true, Bool.false_eq_true, if_false, List.filter_nil]
  have glb (o : Nat) (ho : regA .glb 0 o ≠ a) (plain : tmrFields (regA .glb 0 o) = []) :
      live (rewritten d ⟨a, st, b, c⟩) (regA .glb 0 o) = raw d false (regA .glb 0 o) := by
    rw [live_eq_raw plain, raw_rewritten, if_neg fun key => ho key.1.symm]
  have kept := sameAt_voteMismatch (rewritten d ⟨a, st, b, c⟩) a true un st
  obtain ⟨rep, cnt⟩ := live_voteMismatch_glb (d := rewritten d ⟨a, st, b, c⟩) true page
  rw [op]
  refine ⟨?_, ?_, ?_, ?_, ?_⟩
  · rw [kept.1, raw_rewritten, if_pos ⟨rfl, rfl⟩, same]
  · rw [kept.2, copiesOf_rewritten_self d ⟨a, st, b, c⟩, lost, if_neg (List.cons_ne_nil f []), same, same]
  · obtain ⟨kind, bs, e⟩ := voteMismatch_eq (d := rewritten d ⟨a, st, b, c⟩) true page
    have offLog : regA k i 0x40 ∉ logRegs := fun m => by
      simp only [logRegs, statRegs, List.map_cons, List.map_nil, List.mem_cons, List.not_mem_nil, or_false] at m
      unfold regA at m
      omega
    rw [e, live_logEvent_ne _ _ _ _ _ _ _ _ offLog, live_count, if_neg (regA_ne_of_off (by decide) (by decide) (by decide))]
    exact live_voteMark_lost ..
  · rw [cnt, glb _ (Ne.symm un.lost) (by decide +kernel), if_pos rfl]
  · rw [rep, glb _ (Ne.symm un.rep) (by decide +kernel), if_pos rfl]
    exact BitVec.add_zero _

/-! ### A die's epoch of which one copy has changed -/

/-- The change of one stored copy of a die's epoch. -/
theorem flipDie_spec {d : Dev} {n copy : Nat} {bits : W32} (none' : dieCopies d n = none) (hc : copy < 3) :
    ∃ p q r, flipDie d ⟨dieReg, n, false, copy, bits⟩ = putDie d n { dieRaw d n with epoch := p } (some (q, r)) ∧
      OneOff (dieRaw d n).epoch ((dieRaw d n).epoch ^^^ (bits.toNat / 65536)) p q r := by
  unfold flipDie
  dsimp only
  rw [none']
  match copy, hc with
  | 0, _ => exact ⟨_, _, _, rfl, .inl ⟨rfl, rfl, rfl⟩⟩
  | 1, _ => exact ⟨_, _, _, rfl, .inr (.inl ⟨rfl, rfl, rfl⟩)⟩
  | 2, _ => exact ⟨_, _, _, rfl, .inr (.inr ⟨rfl, rfl, rfl⟩)⟩

/-- A vote of a die of whose epoch one copy has changed rewrites it and counts one mismatch. -/
theorem voteDie_oneOff {before d : Dev} {n a a' q r : Nat} (copies : dieCopies d n = some (q, r)) (h : OneOff a a' (dieRaw d n).epoch q r)
    (ne : a' ≠ a) : voteDie before d n = voteMismatch (putDie d n { (dieRaw d n) with epoch := a } none) (regA .flc 0 0x144) false := by
  have epoch : dieEpoch d n = some a := by simp only [dieEpoch, copies, h.vote]
  have differ : ¬((dieRaw d n).epoch = a ∧ (q, r) = (a, a)) := fun e => by
    have agree : (dieRaw d n).epoch = q ∧ (dieRaw d n).epoch = r := by
      rw [e.1, (Prod.mk.inj e.2).1, (Prod.mk.inj e.2).2]; exact ⟨rfl, rfl⟩
    exact ne (h.agree_iff.1 agree)
  simp only [voteDie, copies, epoch, if_neg differ]

theorem dieAt_of_none {d : Dev} {n : Nat} (h : dieCopies d n = none) : dieAt d n = dieRaw d n := by
  simp only [dieAt, dieEpoch, h, Option.getD_some]

/-- The dies with copies that differ, but for one. -/
def otherDies (d : Dev) (n : Nat) : List Nat := (d.flash.dieTmr.filter (fun t => !decide (t.1 = n))).map (·.1)

theorem ne_of_mem_otherDies {d : Dev} {n m : Nat} (h : m ∈ otherDies d n) : m ≠ n := by
  obtain ⟨t, ht, rfl⟩ := List.mem_map.1 h
  simpa using (List.mem_filter.1 ht).2

/-- A block, changed in one die, after the votes of every register and of every other die. -/
def othersVoted (d e : Dev) (n : Nat) : Dev := (otherDies d n).foldl (voteDie d) (d.regs.tmr.foldl (voteCopies d) e)

/-- The vote of the changed die comes last. -/
theorem tmrScrubOp_die_eq {d : Dev} {n copy p q r : Nat} {bits : W32} (hn : n < 256) (hc : copy < 3)
    (flip : flipDie d ⟨dieReg, n, false, copy, bits⟩ = putDie d n { dieRaw d n with epoch := p } (some (q, r))) :
    tmrScrubOp d [⟨dieReg, n, false, copy, bits⟩] =
      voteDie d (othersVoted d (putDie d n { dieRaw d n with epoch := p } (some (q, r))) n) n := by
  let e0 := putDie d n { dieRaw d n with epoch := p } (some (q, r))
  have good : flipOk ⟨dieReg, n, false, copy, bits⟩ = true := by simp [flipOk, hc, hn]
  have all : [(⟨dieReg, n, false, copy, bits⟩ : TmrFlip)].filter flipOk = [⟨dieReg, n, false, copy, bits⟩] := by
    rw [List.filter_cons, if_pos good, List.filter_nil]
  have first : flipCopy d ⟨dieReg, n, false, copy, bits⟩ = e0 := (if_pos rfl).trans flip
  have dies : (d.regs.tmr.foldl (voteCopies d) e0).flash.dieTmr.map (·.1) = otherDies d n ++ [n] := by
    rw [foldl_voteCopies_flash]; exact List.map_append
  unfold tmrScrubOp
  dsimp only
  rw [all, List.foldl_cons, List.foldl_nil, first]
  exact (congrArg (List.foldl (voteDie d) (d.regs.tmr.foldl (voteCopies d) e0)) dies).trans List.foldl_append

/-- The other votes after a change of one die only mark again, and leave the die. -/
theorem othersVoted_spec {d : Dev} (sc : Scrubbed d) (n : Nat) (v : Die) (c : Option (Nat × Nat)) :
    dieRaw (othersVoted d (putDie d n v c) n) n = v ∧ dieCopies (othersVoted d (putDie d n v c) n) n = c ∧
      raw (othersVoted d (putDie d n v c) n) false (regA .glb 0 0x108) = raw d false (regA .glb 0 0x108) := by
  have marks : OnlyMarks (fun _ _ => False) (putDie d n v c) (d.regs.tmr.foldl (voteCopies d) (putDie d n v c)) :=
    foldl_voteCopies_settled _ (fun t ht => (settled_of_scrubbed sc ht).of_word fun _ => rfl) fun _ _ h => h
  have flash : (d.regs.tmr.foldl (voteCopies d) (putDie d n v c)).flash = (putDie d n v c).flash := foldl_voteCopies_flash ..
  have settled (m : Nat) (hm : m ∈ otherDies d n) : SettledDie d (putDie d n v c) m := fun x hx => by
    have ne := Ne.symm (ne_of_mem_otherDies hm)
    rw [dieRaw_putDie, if_neg ne]
    exact settledDie_of_scrubbed sc m x ((dieCopies_putDie_ne d _ _ ne).symm.trans hx)
  have dies := foldl_voteDie_settled (otherDies d n) fun m hm => (settled m hm).of_flash flash
  refine ⟨?_, ?_, ?_⟩
  · rw [othersVoted, dies.die, dieRaw, flash]
    exact (dieRaw_putDie d n n v c).trans (if_pos rfl)
  · rw [othersVoted, (dies.copies n).resolve_right fun h => ne_of_mem_otherDies h.2 rfl, dieCopies, flash]
    exact dieCopies_putDie_self ..
  · rw [othersVoted, dies.regs.word _ _ (by decide), marks.word _ _ (by decide)]
    rfl

/-- A scrub after a change of one copy of a die's epoch. -/
theorem tmrScrubOp_die {d : Dev} {n copy : Nat} {bits : W32} (sc : Scrubbed d) (hn : n < 256) (hc : copy < 3) (none' : dieCopies d n = none)
    (change : bits.toNat / 65536 ≠ 0) :
    dieAt (tmrScrubOp d [⟨dieReg, n, false, copy, bits⟩]) n = dieAt d n ∧
      dieCopies (tmrScrubOp d [⟨dieReg, n, false, copy, bits⟩]) n = none ∧
      live (tmrScrubOp d [⟨dieReg, n, false, copy, bits⟩]) (regA .glb 0 0x108) = live d (regA .glb 0 0x108) + 1 := by
  obtain ⟨p, q, r, flip, off⟩ := flipDie_spec (bits := bits) none' hc
  obtain ⟨own, copies, counter⟩ := othersVoted_spec sc n { dieRaw d n with epoch := p } (some (q, r))
  have ne : (dieRaw d n).epoch ^^^ (bits.toNat / 65536) ≠ (dieRaw d n).epoch := fun e => change (by
    have x := congrArg ((dieRaw d n).epoch ^^^ ·) e
    rwa [← Nat.xor_assoc, Nat.xor_self, Nat.zero_xor] at x)
  rw [tmrScrubOp_die_eq hn hc flip, voteDie_oneOff copies (by rwa [own]) ne, own]
  generalize othersVoted d (putDie d n { dieRaw d n with epoch := p } (some (q, r))) n = e at counter
  have gone : dieCopies (voteMismatch (putDie e n (dieRaw d n) none) (regA .flc 0 0x144) false) n = none := by
    rw [dieCopies, voteMismatch_flash]
    exact dieCopies_putDie_self ..
  refine ⟨?_, gone, ?_⟩
  · refine (dieAt_of_none gone).trans (Eq.trans ?_ (dieAt_of_none none').symm)
    rw [dieRaw, voteMismatch_flash]
    exact (dieRaw_putDie ..).trans (if_pos rfl)
  · have plain : tmrFields (regA .glb 0 0x108) = [] := by decide +kernel
    rw [(live_voteMismatch_glb (k := .flc) (i := 0) false (by decide)).1, live_congr (d := e) (e := putDie ..) rfl, live_eq_raw plain,
      counter, live_eq_raw plain]
    rfl

/-! ### A read of a field that is known to have no majority (R117) -/

/-- Marks of one page alone. -/
theorem foldl_voteLost_page {a i : Nat} {k : Blk} (page : pageOf (a / 0x1000) = some (k, i)) (fs : List (Nat × Nat)) (d : Dev) :
    (∀ b, b ≠ regA k i 0x40 → live (fs.foldl (fun d _ => voteLost d a true) d) b = live d b) ∧
      (∀ b, staged (fs.foldl (fun d _ => voteLost d a true) d) b = staged d b) ∧
      (fs.foldl (fun d _ => voteLost d a true) d).host = d.host := by
  have one (d : Dev) : voteLost d a true = voteMark d k i (a % 0x1000) true := by simp only [voteLost, page]
  induction fs generalizing d with
  | nil => exact ⟨fun _ _ => rfl, fun _ => rfl, rfl⟩
  | cons f fs ih =>
    obtain ⟨words, stagedWords, host⟩ := ih (voteLost d a true)
    rw [List.foldl_cons]
    refine ⟨fun b hb => ?_, fun b => ?_, ?_⟩
    · rw [words b hb, one, live_voteMark_ne d k i _ true (Ne.symm hb)]
    · rw [stagedWords b, one, staged_voteMark]
    · rw [host, one, voteMark_host]

/-- A use of a register that has a field without a majority marks its page, and changes nothing else. -/
theorem lostMark_spec {d : Dev} {a i : Nat} {k : Blk} (page : pageOf (a / 0x1000) = some (k, i)) (h : noMajority d a = true) :
    (live (lostMark d a) (regA k i 0x40)).getLsbD 1 = true ∧ (∀ b, b ≠ regA k i 0x40 → live (lostMark d a) b = live d b) ∧
      (∀ b, staged (lostMark d a) b = staged d b) ∧ (lostMark d a).host = d.host := by
  have op : lostMark d a = ((tmrFields a).filter (fieldLost d false a)).foldl (fun d _ => voteLost d a true) d := if_pos h
  obtain ⟨f, mem, lost⟩ := List.any_eq_true.1 (Bool.and_eq_true_iff.1 h).2
  rw [op]
  refine ⟨?_, foldl_voteLost_page page _ d⟩
  obtain ⟨g, gs, e⟩ := List.exists_cons_of_ne_nil (List.ne_nil_of_mem (List.mem_filter.2 ⟨mem, lost⟩))
  have one : voteLost d a true = voteMark d k i (a % 0x1000) true := by simp only [voteLost, page]
  rw [e, List.foldl_cons, one]
  exact (onlyMarks_foldl_voteLost (fun _ _ => True) a gs _).mark k i (live_voteMark_lost ..)

theorem tmrFields_of_noMajority {d : Dev} {a : Nat} (h : noMajority d a = true) : ∃ f, f ∈ tmrFields a := by
  obtain ⟨f, mem, -⟩ := List.any_eq_true.1 (Bool.and_eq_true_iff.1 h).2
  exact ⟨f, mem⟩

/-- A read of a live register votes it. -/
theorem readVotes_live {d : Dev} {k : Blk} {i off : Nat} {r : RegDef} (ho : off < 0x800) (at' : regAt k i off = some r) (rws : r.rws = 0)
    (mirror : mirrorOf k i off = i) (die : ¬(k = .flc ∧ off = 0x144)) : readVotes d k i off = lostMark d (regA k i off) := by
  simp only [readVotes, mirror, if_neg die, Nat.mod_eq_of_lt ho, at', rws, ne_eq, not_true_eq_false, decide_false, Bool.false_eq_true, and_false,
    if_false]

end Sys2Proof.Machine

/-! SUPPORT. The statements on reads with an effect, the rail sequence, the wake table and the scrub. -/

namespace Sys2Proof.Proofs

open Sys2Proof.Machine Sys2Proof.Claims

/-! ### O5: reads with an effect, and two plain doorbells -/

theorem blkStatRc_clears {s : State} {fn i : Nat} {k : Blk} {hw : List HwSet} (page : pageOf (pageNo k i) = some (k, i))
    (own : reaches fn k i = true) (h : Reach s fn (pageNo k i)) :
    exec (.blkStatRc fn ⟨pageNo k i, 0x24, 4⟩ hw) s = .next (on s (readStatRc s.dev k i hw)) := by
  have e : exec (.blkStatRc fn ⟨pageNo k i, 0x24, 4⟩ hw) s = ok s (regReadOp s.dev fn (regA k i 0x24) 4 hw) := rfl
  rw [e, regReadOp_four _ _ _ _ (by unfold regA; omega), readOne_of_reach hw (by decide) page own h, if_pos rfl, ok_next]

/-- Every event that the page has stands. -/
theorem events_eq_self {k : Blk} {hw : List HwSet} (h : ∀ x ∈ hw, x.bit < 32 ∧ bitOf k.statMask x.bit = true) : k.events hw = hw :=
  List.filter_eq_self.2 fun x hx => (h x hx).2

theorem blkStatRc_eight (s : State) (fn page off : Nat) (hw : List HwSet) (h : off % 8 = 0) :
    ∃ t u, exec (.blkStatRc fn ⟨page, off, 4⟩ []) s = .next t ∧ exec (.blkStatRc fn ⟨page, off + 4, 4⟩ hw) t = .next u ∧
      exec (.blkStatRc fn ⟨page, off, 8⟩ hw) s = .next u := by
  refine ⟨_, _, rfl, rfl, ?_⟩
  have next : page * 0x1000 + (off + 4) % 0x1000 = page * 0x1000 + off % 0x1000 + 4 := by omega
  have e : exec (.blkStatRc fn ⟨page, off, 8⟩ hw) s = ok s (regReadOp s.dev fn (page * 0x1000 + off % 0x1000) 8 hw) := rfl
  rw [e, regReadOp_eight _ _ _ _ (by omega), ok_next, next]

/-- The three rows' reads of another size or alignment. -/
theorem reads_bad {s : State} {fn off size : Nat} {c : Instr}
    (hc : c ∈ [.blkStatRc fn ⟨2, off, size⟩ [], .txnLastLo ⟨fn, off, size⟩, .sprNowLo ⟨fn, off, size⟩]) (up : linkUp s.dev fn = true)
    (ready : isReady s.dev = true) (h4 : ¬(size = 4 ∧ off % 4 = 0)) (h8 : ¬(size = 8 ∧ off % 8 = 0)) :
    exec c s = .next (on s (giveData (count s.dev .glb 0 0x100 1) 0)) := by
  have bad (p : Nat) : regReadOp s.dev fn (p * 0x1000 + off % 0x1000) size [] = giveData (count s.dev .glb 0 0x100 1) 0 :=
    regReadOp_bad s.dev (by omega) (by omega) (by simp [answers, up, ready])
  simp only [List.mem_cons, List.not_mem_nil, or_false] at hc
  rcases hc with rfl | rfl | rfl
  · exact congrArg (ok s) (bad 2)
  · exact congrArg (ok s) (bad 2)
  · exact congrArg (ok s) (bad 3)

theorem txnLastLo_latches {s : State} (h : Reach s 0 2) : exec (.txnLastLo ⟨0, 0x100, 4⟩) s = .next (on s (readTxnLast s.dev)) := by
  have e : exec (.txnLastLo ⟨0, 0x100, 4⟩) s = ok s (regReadOp s.dev 0 (regA .txn 0 0x100) 4 []) := rfl
  rw [e, regReadOp_four _ _ _ _ (by decide), readOne_of_reach [] (by decide) (by decide) rfl h, if_neg (by decide), if_pos rfl, hwOn_nil,
    ok_next]

theorem sprNowLo_latches {s : State} (h : Reach s 0 3) : exec (.sprNowLo ⟨0, 0x100, 4⟩) s = .next (on s (readSprNow s.dev)) := by
  have e : exec (.sprNowLo ⟨0, 0x100, 4⟩) s = ok s (regReadOp s.dev 0 (regA .spr 0 0x100) 4 []) := rfl
  rw [e, regReadOp_four _ _ _ _ (by decide), readOne_of_reach [] (by decide) (by decide) rfl h, if_neg (by decide), if_neg (by decide),
    if_pos rfl, hwOn_nil, ok_next]

theorem thermPeak_lands {s : State} {fn : Nat} (v : W32) (h : LandsOn s fn .therm 0 0x11C) :
    exec (.thermPeak fn v) s = .next (on s (setLive s.dev (regA .therm 0 0x11C) (merge32 (live s.dev (regA .therm 0 0x11C)) 0xFF v))) :=
  put_rwReg (mask := 0xFF) v (by decide) (by decide) (by decide) (by decide) rfl h

theorem errlogHead_lands {s : State} {fn : Nat} (v : W32) (h : LandsOn s fn .errlog 0 0x104) :
    exec (.errlogHead fn v) s = .next (on s (setLive s.dev (regA .errlog 0 0x104) (merge32 (live s.dev (regA .errlog 0 0x104)) 0x3FFF v))) :=
  put_rwReg (mask := 0x3FFF) v (by decide) (by decide) (by decide) (by decide) rfl h

/-- Settles O5: each read is the read operation of its size and page, whose effect R9, R102, R133 and R423 give; the two
doorbells are plain RW registers. -/
theorem immediateAndReadRows : Obligations.ImmediateAndReadRows := by
  unfold Obligations.ImmediateAndReadRows
  refine ⟨⟨fun s fn i k hw page own h ev => ?_, blkStatRc_eight, fun s fn off size c hc up ready h4 h8 => reads_bad hc up ready h4 h8⟩,
    fun s => ⟨txnLastLo_latches, sprNowLo_latches⟩, fun s fn v => ⟨thermPeak_lands v, errlogHead_lands v⟩⟩
  obtain ⟨data, bits⟩ := readStatRc_spec s.dev k i hw (events_eq_self ev)
  exact ⟨_, blkStatRc_clears page own h, ⟨rfl, rfl, rfl⟩, data, bits⟩

/-! ### O47: the rail sequence -/

theorem pwrEnRise_acts {s : State} (vin : s.dev.power.vin = true) (low : s.dev.power.pwrEn = false) (idle : s.dev.power.riseWaits = false)
    (late : ∀ t0, s.dev.power.enFall = some t0 → t0 + msCycles 50 ≤ s.dev.now) :
    ∃ t, exec .pwrEnRise s = .next t ∧ t.pending = s.pending ∧ t.dev.power.pwrEn = true ∧ t.dev.power.rails = .starting ∧
      reg t .rst 0 0x104 % 16 = 2 := by
  obtain ⟨pending, -, en, -, rails, cause⟩ := enActs_spec s
  exact ⟨enActs s, congrArg okS (enRiseOp_acts vin low idle late), pending, en, rails, cause⟩

theorem pwrEnRiseActs_acts {s : State} {t0 : Nat} (waits : s.dev.power.riseWaits = true) (fall : s.dev.power.enFall = some t0) :
    ∃ t, exec .pwrEnRiseActs s = .next t ∧ t.pending = s.pending ∧ t.dev.power.pwrEn = true ∧ t.dev.power.riseWaits = false ∧
      t.dev.power.rails = .starting ∧ t0 + msCycles 50 ≤ t.dev.now := by
  obtain ⟨pending, now, en, wait, rails, -⟩ := enActs_spec (onDev s (advanceTo · (t0 + msCycles 50)))
  exact ⟨_, congrArg okS (enRiseActsOp_acts waits fall), pending, en, wait, rails, now ▸ Nat.le_max_right ..⟩

/-- PWR_GOOD low while the module runs: no reset of the kind is in progress, so the cold reset is taken. -/
theorem pwrGoodLow_resets {s : State} (rails : s.dev.power.rails = .good) (good : s.dev.power.pwrGood = true)
    (up : s.dev.power.booting = false) :
    ∃ t, exec .pwrGoodLow s = .next t ∧ t.pending = s.pending ∧ t.dev.power.pwrGood = false ∧ t.dev.power.booting = true ∧
      reg t .rst 0 0x104 % 16 = 2 ∧ t.dev.reqs = [] ∧ t.meas = ⟨[], [], []⟩ := by
  have taken : deviceResetOp s 2 = resetTaken s 2 := (deviceResetOp_cases s 2).resolve_left fun h => by simp [up] at h
  have low : goodLowOp s = onDev (resetTaken s 2) fun d => { d with power.pwrGood := false } := by
    rw [goodLowOp, if_pos ⟨rails, good⟩, taken]
  exact ⟨_, congrArg okS low, rfl, rfl, rfl, resetTaken_cause s 2 (by decide), rfl, rfl⟩

/-- Settles O47, row by row. That a rail sequence begins as a cold reset, and that PWR_GOOD low is one at its fall, is the
model's choice (log 105). -/
theorem railSequence : Obligations.RailSequence := by
  unfold Obligations.RailSequence
  intro s
  refine ⟨pwrEnRise_acts, fun vin low idle => ?_, fun t0 vin low idle fall soon => ?_, fun t0 => pwrEnRiseActs_acts, fun starting => ?_,
    fun rails cool => ?_, pwrGoodLow_resets⟩
  · have level : enRiseOp s = onDev s fun d => { d with power.pwrEn := true } := by simp [enRiseOp, vin, low, idle]
    exact congrArg okS level
  · have waits : enRiseOp s = onDev s fun d => { d with power.riseWaits := true } := by simp [enRiseOp, vin, low, idle, fall, soon]
    exact congrArg okS waits
  · exact congrArg (ok s) (if_pos starting)
  · exact congrArg (ok s) (if_pos ⟨rails, by simp [cool]⟩)

/-! ### O56: the wake table -/

theorem wakeFire_fires {s : State} {e tk : Nat} (he : e < 32) (vin : s.dev.power.vin = true) (known : wakeLost s.dev e = false)
    (next : firing (wakeEntry s.dev e) (seekFrom s.dev e) = some tk) (free : isArmed s.dev .spr 0 = false ∨ tk ≤ tickNow s.dev) :
    exec (.wakeFire e) s = .next (on s (firesAt s.dev e tk)) := by
  have go : (isArmed s.dev .spr 0 && decide (tickNow s.dev < tk)) = false := by
    rcases free with h | h
    · rw [h, Bool.false_and]
    · simp [Nat.not_lt.2 h]
  have op : wakeFireOp s.dev e = firesAt s.dev e tk := by
    rw [wakeFireOp_eq _ he vin, if_neg (by simp [known]), next]
    simp only [go, Bool.false_eq_true, if_false]
  exact congrArg (ok s) op

/-- What a firing does: the event, the drive and the hold stand after the wakes. -/
theorem firesAt_spec (d : Dev) {e : Nat} (tk : Nat) (he : e < 32) :
    (firesAt d e tk).now = max d.now (tickCycle tk) ∧ (live (firesAt d e tk) (regA .spr 0 0x108)).getLsbD e = true ∧
      ((wakeEntry d e).pin = true → e ∈ (firesAt d e tk).power.wakePins) ∧
      live (firesAt d e tk) (regA .spr 0 0x10C) = live d (regA .spr 0 0x10C) + 1 ∧
      (e, holdEnd d (wakeEntry d e) tk, (wakeEntry d e).meres) ∈ (firesAt d e tk).power.holds := by
  obtain ⟨now, -, -, holds, pins, words⟩ := firesAt_keeps d e tk
  obtain ⟨ps, x, driven⟩ := drivenHeld_eq (fired d e tk) (wakeEntry d e) e tk
  have word (b : Nat) (h : b ∉ wakeRegs) : live (firesAt d e tk) b = live (fired d e tk) b := by rw [words b h, x]; rfl
  have until' : holdEnd (fired d e tk) (wakeEntry d e) tk = holdEnd d (wakeEntry d e) tk := by
    rw [holdEnd, holdEnd, liveN, live_fired _ _ _ (by decide), if_neg (by decide), if_neg (by decide)]; rfl
  refine ⟨by rw [now, x]; exact fired_now .., ?_, fun p => by rw [pins, x]; exact driven p, ?_, ?_⟩
  · rw [word _ (by decide), live_fired _ _ _ (by decide), if_neg (by decide), if_pos rfl, BitVec.getLsbD_or, getLsbD_bitWord _ _ he]
    simp
  · rw [word _ (by decide), live_fired _ _ _ (by decide), if_pos rfl]
  · rw [holds, x, until']
    exact List.mem_append_right _ (List.mem_singleton_self _)

theorem wakeHoldExpiry_ends {s : State} (h : s.dev.power.holds ≠ []) :
    ∃ t u, exec .wakeHoldExpiry s = .next t ∧ Aside s t ∧ (∃ h ∈ s.dev.power.holds, h.2.1 = u) ∧
      (∀ h ∈ s.dev.power.holds, u ≤ h.2.1) ∧ t.dev.now = max s.dev.now u ∧
      t.dev.power.holds = s.dev.power.holds.filter (fun h => decide (u < h.2.1)) ∧ t.dev.regs = s.dev.regs := by
  obtain ⟨x, xs, e⟩ := List.exists_cons_of_ne_nil h
  obtain ⟨le, all⟩ := firstEnd_le x.2.1 xs
  refine ⟨_, firstEnd x.2.1 xs, congrArg (ok s) (holdExpiryOp_cons e), ⟨rfl, rfl, rfl⟩, ?_, ?_, rfl, rfl, rfl⟩
  · rw [e]
    rcases firstEnd_mem x.2.1 xs with h | ⟨y, hy, h⟩
    · exact ⟨x, List.mem_cons_self, h.symm⟩
    · exact ⟨y, List.mem_cons_of_mem _ hy, h⟩
  · rw [e]
    exact List.forall_mem_cons.2 ⟨le, all⟩

theorem pinIn_wakes {s : State} (vin : s.dev.power.vin = true) (cool : s.dev.power.tripped = false) (pins : s.dev.power.wakePins = [])
    (free : s.dev.power.wakeResume = false) :
    ∃ t, exec .pinIn s = .next t ∧ Aside s t ∧ stat t .spr 0 3 = true ∧ t.dev.mem = s.dev.mem ∧ t.dev.reqs = s.dev.reqs := by
  have op : pinInOp s.dev = wakeAll (setStat s.dev .spr 0 3 0 noTag 0 0) (List.range 5) := by simp [pinInOp, vin, cool, pins, free]
  obtain ⟨-, mem, reqs, -, -, words⟩ := wakeAll_keeps (setStat s.dev .spr 0 3 0 noTag 0 0) (List.range 5)
  refine ⟨_, congrArg (ok s) op, ⟨rfl, rfl, rfl⟩, ?_, mem.trans (setStat_mem ..), reqs.trans (setStat_reqs ..)⟩
  rw [stat, liveN, bitOf_toNat, words _ (by decide), live_setStat_stat, BitVec.getLsbD_or, getLsbD_bitWord _ _ (by decide)]
  simp

/-- Settles O56. That an entry without a majority only marks its fields again is the model's choice (log 166). -/
theorem wakeTable : Obligations.WakeTable := by
  unfold Obligations.WakeTable
  refine ⟨fun s e he vin => ⟨fun lost => ?_, fun known never => ?_, fun tk known next armed later => ?_, fun tk known next free => ?_⟩,
    fun s => ⟨wakeHoldExpiry_ends, fun e => rfl, pinIn_wakes, fun vin => congrArg (ok s) (if_pos vin)⟩⟩
  · exact congrArg (ok s) ((wakeFireOp_eq _ he vin).trans (if_pos lost))
  · have op : wakeFireOp s.dev e = s.dev := by
      rw [wakeFireOp_eq _ he vin, if_neg (by simp [known]), seekFrom, never]
    exact congrArg (ok s) op
  · have op : wakeFireOp s.dev e = s.dev := by
      rw [wakeFireOp_eq _ he vin, if_neg (by simp [known]), seekFrom, next]
      simp only [armed, later, decide_true, Bool.and_self, if_true]
    exact congrArg (ok s) op
  · obtain ⟨now, evt, pin, fires, hold⟩ := firesAt_spec s.dev tk he
    exact ⟨_, wakeFire_fires he vin known next free, ⟨rfl, rfl, rfl⟩, now, evt, pin, fires, firesAt_wakes e tk, _, _, hold, rfl⟩

/-! ### O8: the scrub -/

theorem tmrScrub_nothing {s : State} (tmr : s.dev.regs.tmr = []) (dies : s.dev.flash.dieTmr = []) : exec (.tmrScrub []) s = .next s := by
  have op : tmrScrubOp s.dev [] = s.dev := by
    simp [tmrScrubOp, tmr, dies]
  exact congrArg (ok s) op

/-- What a flip that names a register's copy gives. -/
theorem flipOk_reg {a copy : Nat} {bits : W32} {st : Bool} (ne : a ≠ dieReg) (h : flipOk ⟨a, 0, st, copy, bits⟩ = true) :
    copy < 3 ∧ ∃ f, f ∈ tmrFields a := by
  simp only [flipOk, if_neg ne, Bool.and_eq_true, decide_eq_true_eq] at h
  exact ⟨h.1.1, List.exists_mem_of_ne_nil _ h.1.2⟩

theorem tmrScrub_repairs {s : State} {a copy : Nat} {bits : W32} {st : Bool} (sc : Scrubbed s.dev) (ne : a ≠ dieReg)
    (good : flipOk ⟨a, 0, st, copy, bits⟩ = true) (none' : copiesOf s.dev st a = none) :
    ∃ t, exec (.tmrScrub [⟨a, 0, st, copy, bits⟩]) s = .next t ∧ Aside s t ∧ view t.dev st a = view s.dev st a ∧
      copiesOf t.dev st a = none ∧
      live t.dev (regA .glb 0 0x108) = live s.dev (regA .glb 0 0x108) +
        BitVec.ofNat 32 ((tmrFields a).filter (fun f => decide (bitsOf bits.toNat f.1 f.2 ≠ 0))).length := by
  obtain ⟨hc, f, hf⟩ := flipOk_reg ne good
  obtain ⟨k, i, r, page, -, -⟩ := register_of_mem_tmrFields hf
  have un := unmarked_of_tmr hf
  obtain ⟨A, b, c, stored, off⟩ := stored_flipReg (bits := bits) none' hc
  have flips : (([⟨a, 0, st, copy, bits⟩] : List TmrFlip).filter flipOk).foldl flipCopy s.dev = flipReg s.dev ⟨a, 0, st, copy, bits⟩ := by
    rw [List.filter_cons, if_pos good]
    exact if_neg ne
  obtain ⟨e, own, others, marks⟩ := tmrScrubOp_of_stored sc none' (flips ▸ stored) un.vote
  obtain ⟨word, gone, counted⟩ := voteCopies_oneOff (before := s.dev) un page (by rw [own]; exact off)
  have plain : tmrFields (regA .glb 0 0x108) = [] := by decide +kernel
  have gone' : copiesOf (tmrScrubOp s.dev [⟨a, 0, st, copy, bits⟩]) st a = none := (marks.copies st a un.vote trivial).trans gone
  refine ⟨_, rfl, ⟨rfl, rfl, rfl⟩, ?_, gone', ?_⟩
  · exact (view_of_none gone').trans (((marks.word st a un.vote).trans word).trans (view_of_none none').symm)
  · show live (tmrScrubOp s.dev _) _ = _
    rw [live_eq_raw plain, marks.word false _ (by decide), ← live_eq_raw plain, counted, others _ (by decide) (Ne.symm un.rep), live_eq_raw plain]

theorem tmrScrub_repairsDie {s : State} {n copy : Nat} {bits : W32} (sc : Scrubbed s.dev) (hn : n < 256) (hc : copy < 3)
    (none' : dieCopies s.dev n = none) (change : bits.toNat / 65536 ≠ 0) :
    ∃ t, exec (.tmrScrub [⟨dieReg, n, false, copy, bits⟩]) s = .next t ∧ Aside s t ∧ dieAt t.dev n = dieAt s.dev n ∧
      dieCopies t.dev n = none ∧ live t.dev (regA .glb 0 0x108) = live s.dev (regA .glb 0 0x108) + 1 :=
  ⟨_, rfl, ⟨rfl, rfl, rfl⟩, tmrScrubOp_die sc hn hc none' change⟩

/-- Changes of copies b and c within one field of a register. -/
theorem stored_of_two_flips {d : Dev} {a : Nat} {st : Bool} {f : Nat × Nat} {x y : W32} (ne : a ≠ dieReg)
    (good : flipOk ⟨a, 0, st, 1, x⟩ = true) (hf : f ∈ tmrFields a) (none' : copiesOf d st a = none)
    (inX : x &&& ~~~ BitVec.ofNat 32 (fieldMask f.1 f.2) = 0) (inY : y &&& ~~~ BitVec.ofNat 32 (fieldMask f.1 f.2) = 0) :
    Stored st a (raw d st a) (raw d st a ^^^ x) (raw d st a ^^^ y) d
      ((([⟨a, 0, st, 1, x⟩, ⟨a, 0, st, 2, y⟩] : List TmrFlip).filter flipOk).foldl flipCopy d) := by
  have good2 : flipOk ⟨a, 0, st, 2, y⟩ = true := by
    rw [flipOk, if_neg ne] at good ⊢
    exact good
  have flips : (([⟨a, 0, st, 1, x⟩, ⟨a, 0, st, 2, y⟩] : List TmrFlip).filter flipOk).foldl flipCopy d =
      flipReg (flipReg d ⟨a, 0, st, 1, x⟩) ⟨a, 0, st, 2, y⟩ := by
    rw [List.filter_cons, if_pos good, List.filter_cons, if_pos good2]
    exact (if_neg ne).trans (congrArg (flipReg · _) (if_neg ne))
  have both := stored_flipReg_again (bits := y) none' (stored_flipReg_b (bits := x) none')
  rw [flips]
  rwa [and_tmrMask_of_field hf inX, and_tmrMask_of_field hf inY] at both

theorem tmrScrub_loses {s : State} {k : Blk} {i off : Nat} {st : Bool} {f : Nat × Nat} {x y : W32} (sc : Scrubbed s.dev)
    (page : pageOf (pageNo k i) = some (k, i)) (ho : off < 0x1000) (ne : regA k i off ≠ dieReg)
    (good : flipOk ⟨regA k i off, 0, st, 1, x⟩ = true) (hf : f ∈ tmrFields (regA k i off)) (none' : copiesOf s.dev st (regA k i off) = none)
    (inX : x &&& ~~~ BitVec.ofNat 32 (fieldMask f.1 f.2) = 0) (inY : y &&& ~~~ BitVec.ofNat 32 (fieldMask f.1 f.2) = 0)
    (x0 : x ≠ 0) (y0 : y ≠ 0) (xy : x ≠ y) :
    ∃ t, exec (.tmrScrub [⟨regA k i off, 0, st, 1, x⟩, ⟨regA k i off, 0, st, 2, y⟩]) s = .next t ∧ Aside s t ∧
      view t.dev st (regA k i off) = view s.dev st (regA k i off) &&& ~~~ BitVec.ofNat 32 (fieldMask f.1 f.2) ∧
      fieldLost t.dev st (regA k i off) f = true ∧ bitOf (reg t k i 0x40) 1 = true ∧
      live t.dev (regA .glb 0 0x10C) = live s.dev (regA .glb 0 0x10C) + 1 ∧
      live t.dev (regA .glb 0 0x108) = live s.dev (regA .glb 0 0x108) := by
  have un := unmarked_of_tmr hf
  have page' : pageOf (regA k i off / 0x1000) = some (k, i) := by rwa [regA_page k i off ho]
  have stored := stored_of_two_flips (y := y) ne good hf none' inX inY
  obtain ⟨e, own, others, marks⟩ := tmrScrubOp_of_stored sc none' stored un.vote
  have lostIn : LostIn (regA k i off) f (raw e st (regA k i off)) (raw s.dev st (regA k i off) ^^^ x) (raw s.dev st (regA k i off) ^^^ y) := by
    rw [own]; exact lostIn_of_changes hf inX inY x0 y0 xy
  have new : fieldLost s.dev st (regA k i off) f = false := by rw [fieldLost, none']
  obtain ⟨word, entry, mark, lostCount, repCount⟩ := voteCopies_lost page' lostIn new
  have glb (o : Nat) (ho : o < 0x1000) (no : o ≠ 0x40) (nr : regA .glb 0 o ≠ regA k i off) (plain : tmrFields (regA .glb 0 o) = []) :
      raw e false (regA .glb 0 o) = live s.dev (regA .glb 0 o) ∧
        live (tmrScrubOp s.dev [⟨regA k i off, 0, st, 1, x⟩, ⟨regA k i off, 0, st, 2, y⟩]) (regA .glb 0 o) =
          live (voteCopies s.dev e ⟨regA k i off, st, raw s.dev st (regA k i off) ^^^ x, raw s.dev st (regA k i off) ^^^ y⟩) (regA .glb 0 o) := by
    have notVote : regA .glb 0 o % 0x1000 ≠ 0x40 := by rwa [regA_off .glb 0 o ho]
    rw [live_eq_raw plain, live_eq_raw plain, live_eq_raw plain, marks.word false _ notVote]
    exact ⟨others _ notVote nr, rfl⟩
  obtain ⟨lost0, lostEnd⟩ := glb 0x10C (by decide) (by decide) (Ne.symm un.lost) (by decide +kernel)
  obtain ⟨rep0, repEnd⟩ := glb 0x108 (by decide) (by decide) (Ne.symm un.rep) (by decide +kernel)
  have entry' := (marks.copies st _ un.vote trivial).trans entry
  have word' := (marks.word st _ un.vote).trans word
  refine ⟨_, rfl, ⟨rfl, rfl, rfl⟩, ?_, ?_, marks.mark k i mark, ?_, ?_⟩
  · show view (tmrScrubOp s.dev _) st _ = _
    rw [view_of_some entry', word', lostIn.votedWord, own, view_of_none none']
  · show fieldLost (tmrScrubOp s.dev _) st _ f = true
    rw [fieldLost_of_some f entry', word']
    exact Option.isNone_iff_eq_none.2 lostIn.lost
  · exact lostEnd.trans (lostCount.trans (by rw [lost0]))
  · exact repEnd.trans (repCount.trans rep0)

theorem blkStatRc_marks {s : State} {k : Blk} {i off : Nat} {r : RegDef} (reach : Reach s 0 (pageNo k i)) (page : pageOf (pageNo k i) = some (k, i))
    (ho : off < 0x800) (aligned : off % 4 = 0) (at' : regAt k i off = some r) (rws : r.rws = 0) (mirror : mirrorOf k i off = i)
    (ne : regA k i off ≠ dieReg) (lost : noMajority s.dev (regA k i off) = true) :
    ∃ t, exec (.blkStatRc 0 ⟨pageNo k i, off, 4⟩ []) s = .next t ∧ Aside s t ∧ bitOf (reg t k i 0x40) 1 = true ∧
      (∀ a, a ≠ regA k i 0x40 → live t.dev a = live s.dev a) ∧ (∀ a, staged t.dev a = staged s.dev a) ∧
      t.dev.host.readData = s.dev.host.readData ++ [regRead s.dev (regA k i off)] := by
  have lt : off < 0x1000 := by omega
  obtain ⟨f, hf⟩ := tmrFields_of_noMajority lost
  have plain (b : Nat) (hb : tmrFields b = []) : regA k i off ≠ b := fun e => by rw [e, hb] at hf; cases hf
  have notRc : off ≠ 0x24 := fun e => plain _ (tmrFields_status (by rw [regA_off k i off lt, e]; decide)) rfl
  have die : ¬(k = .flc ∧ off = 0x144) := by
    rintro ⟨rfl, rfl⟩
    have only : pageOf (pageNo .flc i) = some (.flc, 0) := (by decide : pageOf 0xB0 = some (.flc, 0))
    obtain rfl : 0 = i := congrArg Prod.snd (Option.some.inj (only.symm.trans page))
    exact ne rfl
  have op : exec (.blkStatRc 0 ⟨pageNo k i, off, 4⟩ []) s =
      .next (on s (giveData (lostMark s.dev (regA k i off)) (regRead s.dev (regA k i off)))) := by
    have e : exec (.blkStatRc 0 ⟨pageNo k i, off, 4⟩ []) s = ok s (regReadOp s.dev 0 (regA k i (off % 0x1000)) 4 []) := rfl
    rw [e, Nat.mod_eq_of_lt lt, regReadOp_four _ _ _ _ (by unfold regA; omega), readOne_of_reach [] lt page rfl reach, if_neg notRc,
      if_neg (plain _ (by decide +kernel)), if_neg (plain _ (by decide +kernel)), hwOn_nil, readVotes_live ho at' rws mirror die, ok_next]
  obtain ⟨mark, words, stagedWords, host⟩ := lostMark_spec (by rwa [regA_page k i off lt]) lost
  exact ⟨_, op, ⟨rfl, rfl, rfl⟩, mark, words, stagedWords, congrArg (·.readData ++ _) host⟩

/-- Settles O8. A scrub rewrites a copy that is outvoted (R116, R118) and marks a field without a majority (R117); that a field
already known to have none is marked again, neither counted nor logged, is the model's choice (log 166). -/
theorem scrubRepairsOneCopy : Obligations.ScrubRepairsOneCopy := by
  unfold Obligations.ScrubRepairsOneCopy
  exact ⟨⟨fun s => tmrScrub_nothing, fun s a copy bits st => tmrScrub_repairs, fun s n copy bits => tmrScrub_repairsDie⟩,
    fun s k i off st f x y => tmrScrub_loses, fun s k i off r => blkStatRc_marks⟩

end Sys2Proof.Proofs

/-! SUPPORT. The reset values of the pages of basins. -/

namespace Sys2Proof.Machine

/-! ### Pages of basins -/

theorem pageOf_ring {b : Nat} (hb : b < 64) : pageOf (pageNo .ring b) = some (.ring, b) :=
  have all : ∀ b < 64, pageOf (pageNo .ring b) = some (.ring, b) := by decide
  all b hb

theorem pageOf_bsn {b : Nat} (hb : b < 64) : pageOf (pageNo .bsn b) = some (.bsn, b) :=
  have all : ∀ b < 64, pageOf (pageNo .bsn b) = some (.bsn, b) := by decide
  all b hb

/-- The reset value of a register that is the same in every page of its type. -/
theorem regReset_of_regAt {k : Blk} {i off : Nat} {r : RegDef} (lt : off < 0x1000) (page : pageOf (pageNo k i) = some (k, i))
    (own : regResetOf (regA k i off) = none) (at' : regAt k i off = some r) : regReset (regA k i off) = BitVec.ofNat 32 r.reset := by
  rw [regReset, own]
  dsimp only
  rw [regDef, regA_page k i off lt, page]
  dsimp only
  rw [regA_off k i off lt, at']

theorem regAt_outTail (b : Nat) {j : Nat} (hj : j < 16) : regAt .ring b (0x410 + 0x20 * j) = some (ro 0x410 0x10000 16 0x20) := by
  have own : ∀ j < 16, Blk.ring.own.find? (fun r => r.covers (0x410 + 0x20 * j)) = some (ro 0x410 0x10000 16 0x20) := by decide
  rw [regAt, if_neg (by omega), if_pos (by simp [Blk.present]), own j hj]

/-- OUT_TAIL resets to 0 with PHASE 1 (R75). -/
theorem regReset_outTail {b j : Nat} (hb : b < 64) (hj : j < 16) : regReset (regA .ring b (0x410 + 0x20 * j)) = 0x10000 := by
  have none' : regResetOf (regA .ring b (0x410 + 0x20 * j)) = none := by
    rw [regResetOf, regA_page _ _ _ (by omega), pageOf_ring hb]
  exact regReset_of_regAt (by omega) (pageOf_ring hb) none' (regAt_outTail b hj)

theorem regAt_bsnState (b : Nat) : regAt .bsn b 0x100 = some (ro 0x100) := by
  rw [regAt, if_neg (by decide), if_pos (by simp [Blk.present])]
  rfl

/-- Every basin but basin 0 resets to FREE. -/
theorem regReset_bsnState {b : Nat} (pos : 0 < b) (hb : b < 64) : regReset (regA .bsn b 0x100) = 0 := by
  have none' : regResetOf (regA .bsn b 0x100) = none := by
    rw [regResetOf, regA_page _ _ _ (by decide), pageOf_bsn hb]
    obtain ⟨n, rfl⟩ := Nat.exists_eq_succ_of_ne_zero (Nat.ne_of_gt pos)
    rfl
  exact regReset_of_regAt (by decide) (pageOf_bsn hb) none' (regAt_bsnState b)

/-- Right after reset a register reads its reset value. -/
theorem live_reset (a : Nat) : live Dev.reset a = regReset a := rfl

end Sys2Proof.Machine

/-! SUPPORT. Captured values that land, and the restart of the rings that change (R75, R76, R105). -/

namespace Sys2Proof.Machine

open Sys2Proof.Claims

/-! ### Captured values (R105) -/

theorem landValues_cons (d : Dev) (v : Nat × W32) (vs : List (Nat × W32)) : landValues d (v :: vs) = landValues (setLive d v.1 v.2) vs := rfl

/-- A word that no captured value names reads as before. -/
theorem live_landValues_of_not_mem {a : Nat} (d : Dev) (vs : List (Nat × W32)) (h : a ∉ vs.map (·.1)) : live (landValues d vs) a = live d a := by
  induction vs generalizing d with
  | nil => rfl
  | cons v vs ih =>
    rw [List.map_cons, List.mem_cons, not_or] at h
    rw [landValues_cons, ih _ h.2, live_setLive_ne _ _ (Ne.symm h.1)]

/-- A captured value is the live word after it has landed. -/
theorem live_landValues {vs : List (Nat × W32)} (d : Dev) (nodup : (vs.map (·.1)).Nodup) {x : Nat × W32} (hx : x ∈ vs) :
    live (landValues d vs) x.1 = x.2 := by
  induction vs generalizing d with
  | nil => cases hx
  | cons v vs ih =>
    rw [List.map_cons, List.nodup_cons] at nodup
    rw [landValues_cons]
    rcases List.mem_cons.1 hx with rfl | hx
    · rw [live_landValues_of_not_mem _ _ nodup.1, live_setLive_self]
    · exact ih _ nodup.2 hx

/-! ### The apply of an armed page (R105, R112) -/

/-- What an apply of an armed page does, but for SPR, which waits for a slow tick. -/
theorem blockApplyOp_armed {d : Dev} {k : Blk} {i : Nat} {a : Arming} (page : pageOf a.page = some (k, i))
    (armed : d.regs.armed.find? (fun x => decide (x.page = a.page)) = some a) (spr : k ≠ .spr) :
    blockApplyOp d a.page = if atBoundary d k i a.values then startHeld (armingDone (applyVals d k i a.values) a) k else d := by
  rw [blockApplyOp, page, armed]
  dsimp only
  rw [if_neg spr]
  cases atBoundary d k i a.values <;> rfl

/-- A page that is not at its boundary waits. -/
theorem blockApplyOp_waits {d : Dev} {k : Blk} {i : Nat} {a : Arming} (page : pageOf a.page = some (k, i))
    (armed : d.regs.armed.find? (fun x => decide (x.page = a.page)) = some a) (busy : atBoundary d k i a.values = false) :
    blockApplyOp d a.page = d := by
  rw [blockApplyOp, page, armed]
  dsimp only
  rw [busy]
  rfl

/-- The pages whose apply writes the captured values and does nothing else to the registers. -/
def plainPages : List Blk := [.pwr, .therm, .walk, .sort, .msort, .tok, .gen, .gram, .flc, .sync, .weir, .hbm, .ndl, .fwp]

theorem applyVals_plain {k : Blk} (d : Dev) (i : Nat) (vals : List (Nat × W32)) (h : k ∈ plainPages) :
    applyVals d k i vals = landValues d vals := by
  simp only [plainPages, List.mem_cons, List.not_mem_nil, or_false] at h
  rcases h with rfl | rfl | rfl | rfl | rfl | rfl | rfl | rfl | rfl | rfl | rfl | rfl | rfl | rfl <;> rfl

/-! ### The restart of a ring (R75, R76) -/

/-- Two registers of each of some rings are written. -/
def writePairs (b o o' v' : Nat) (is : List Nat) (d : Dev) : Dev :=
  is.foldl (fun d i => setLiveN (setLiveN d .ring b (o + 0x20 * i) 0) .ring b (o' + 0x20 * i) v') d

theorem ringRestart_eq (d d0 : Dev) (b : Nat) (vals : List (Nat × W32)) :
    ringRestart d d0 b vals =
      writePairs b 0x40C 0x410 0x10000 ((List.range 16).filter (fun j => ringChanged vals d0 (outOffs b j)))
        (writePairs b 0x20C 0x210 0 ((List.range 16).filter (fun i => ringChanged vals d0 (inOffs b i))) d) := rfl

/-- A register of none of the rings reads as before. -/
theorem live_writePairs_ne {b o o' v' a : Nat} {is : List Nat} (d : Dev)
    (h : ∀ i ∈ is, regA .ring b (o + 0x20 * i) ≠ a ∧ regA .ring b (o' + 0x20 * i) ≠ a) :
    live (writePairs b o o' v' is d) a = live d a := by
  induction is generalizing d with
  | nil => rfl
  | cons i is ih =>
    obtain ⟨first, second⟩ := h i List.mem_cons_self
    rw [writePairs, List.foldl_cons, ← writePairs, ih _ fun j hj => h j (List.mem_cons_of_mem _ hj), live_setLiveN, if_neg second, live_setLiveN,
      if_neg first]

/-- The two registers of a ring that is among them. -/
theorem live_writePairs {b o o' v' i : Nat} {is : List Nat} (d : Dev) (hi : i ∈ is) (apart : ∀ n m, o + 0x20 * n ≠ o' + 0x20 * m) :
    live (writePairs b o o' v' is d) (regA .ring b (o + 0x20 * i)) = 0#32 ∧
      live (writePairs b o o' v' is d) (regA .ring b (o' + 0x20 * i)) = BitVec.ofNat 32 v' := by
  induction is generalizing d with
  | nil => cases hi
  | cons j is ih =>
    rw [writePairs, List.foldl_cons, ← writePairs]
    by_cases later : i ∈ is
    · exact ih _ later
    obtain rfl : i = j := (List.mem_cons.1 hi).resolve_right later
    have own {p q : Nat} (h : regA .ring b (p + 0x20 * q) = regA .ring b (p + 0x20 * i)) : q = i := by
      have := regA_inj .ring b h; omega
    have other {p q n m : Nat} (ne : p + 0x20 * n ≠ q + 0x20 * m) : regA .ring b (p + 0x20 * n) ≠ regA .ring b (q + 0x20 * m) :=
      fun h => ne (regA_inj .ring b h)
    constructor
    · rw [live_writePairs_ne _ fun n hn => ⟨fun h => later (own h ▸ hn), other (Ne.symm (apart i n))⟩, live_setLiveN,
        if_neg (other (Ne.symm (apart i i))), live_setLiveN, if_pos rfl]
    · rw [live_writePairs_ne _ fun n hn => ⟨other (apart n i), fun h => later (own h ▸ hn)⟩, live_setLiveN, if_pos rfl]

section
variable (d d0 : Dev) (b : Nat) (vals : List (Nat × W32))

/-- A changed inlet ring restarts empty. -/
theorem ringRestart_in {i : Nat} (hi : i < 16) (h : ringChanged vals d0 (inOffs b i) = true) :
    inTailIdx (ringRestart d d0 b vals) b i = 0 ∧ inHead (ringRestart d d0 b vals) b i = 0 := by
  have mem : i ∈ (List.range 16).filter (fun i => ringChanged vals d0 (inOffs b i)) := List.mem_filter.2 ⟨List.mem_range.2 hi, h⟩
  have outlets {o : Nat} (ho : o + 0x20 * i < 0x40C) : ∀ j ∈ (List.range 16).filter (fun j => ringChanged vals d0 (outOffs b j)),
      regA .ring b (0x40C + 0x20 * j) ≠ regA .ring b (o + 0x20 * i) ∧ regA .ring b (0x410 + 0x20 * j) ≠ regA .ring b (o + 0x20 * i) :=
    fun j _ => ⟨fun e => by have := regA_inj .ring b e; omega, fun e => by have := regA_inj .ring b e; omega⟩
  obtain ⟨tail, head⟩ := live_writePairs (b := b) (o := 0x20C) (o' := 0x210) (v' := 0) d mem (by omega)
  rw [inTailIdx, inHead, liveN, liveN, ringRestart_eq, live_writePairs_ne _ (outlets (by omega)), live_writePairs_ne _ (outlets (by omega)), tail, head]
  exact ⟨rfl, rfl⟩

/-- A changed outlet ring restarts empty, with PHASE 1. -/
theorem ringRestart_out {j : Nat} (hj : j < 16) (h : ringChanged vals d0 (outOffs b j) = true) :
    outHeadIdx (ringRestart d d0 b vals) b j = 0 ∧ outTail (ringRestart d d0 b vals) b j = 0 ∧ outPhase (ringRestart d d0 b vals) b j = true := by
  have mem : j ∈ (List.range 16).filter (fun j => ringChanged vals d0 (outOffs b j)) := List.mem_filter.2 ⟨List.mem_range.2 hj, h⟩
  obtain ⟨head, tail⟩ := live_writePairs (b := b) (o := 0x40C) (o' := 0x410) (v' := 0x10000)
    (writePairs b 0x20C 0x210 0 ((List.range 16).filter (fun i => ringChanged vals d0 (inOffs b i))) d) mem (by omega)
  rw [outHeadIdx, outTail, outPhase, liveN, liveN, ringRestart_eq, head, tail]
  decide

end

end Sys2Proof.Machine

/-! SUPPORT. The registers of a RING page whose write acts at once, and the bits of RING_ENABLE. -/

namespace Sys2Proof.Machine

open Sys2Proof.Claims

/-! ### Sums of powers of two -/

/-- The sum of the powers of two of some of the first numbers has exactly those bits. -/
theorem testBit_sum_two_pow (p : Nat → Bool) (n k : Nat) :
    (((List.range n).filter p).map (fun j => 2 ^ j)).sum < 2 ^ n ∧
      (((List.range n).filter p).map (fun j => 2 ^ j)).sum.testBit k = (decide (k < n) && p k) := by
  induction n generalizing k with
  | zero => simp
  | succ n ih =>
    have bound := (ih 0).1
    rw [List.range_succ, List.filter_append, List.map_append, List.sum_append]
    by_cases hp : p n = true
    · rw [List.filter_cons_of_pos hp, List.filter_nil, List.map_cons, List.map_nil, List.sum_cons, List.sum_nil, Nat.add_zero]
      refine ⟨by rw [Nat.pow_succ]; omega, ?_⟩
      rw [Nat.add_comm]
      rcases Nat.lt_trichotomy k n with h | rfl | h
      · rw [Nat.testBit_two_pow_add_gt h, (ih k).2, decide_eq_true h, decide_eq_true (Nat.lt_succ_of_lt h)]
      · rw [Nat.testBit_two_pow_add_eq, (ih k).2]
        simp [hp]
      · rw [Nat.testBit_lt_two_pow (Nat.lt_of_lt_of_le (by rw [Nat.pow_succ]; omega) (Nat.pow_le_pow_right (by decide) h)),
          decide_eq_false (by omega), Bool.false_and]
    · rw [List.filter_cons_of_neg hp, List.filter_nil, List.map_nil, List.sum_nil, Nat.add_zero]
      refine ⟨by rw [Nat.pow_succ]; omega, ?_⟩
      rw [(ih k).2]
      by_cases e : k = n
      · subst e; simp [Bool.eq_false_iff.2 hp]
      · rw [decide_eq_decide.2 (show k < n ↔ k < n + 1 by omega)]

/-! ### Registers of a RING page -/

/-- A write that lands on a register of a RING page whose write acts at once. -/
theorem put_ring {s : State} {fn b off : Nat} {e : Dev} (v : W32) (lt : off < 0x1000) (h : LandsOn s fn .ring b off)
    (act : ringWrite s.dev b off v = some e) : put s fn .ring b off v = .next (on s e) := by
  obtain ⟨r, land⟩ := h
  have now' : actWrite s fn .ring b off v [] = some (on s e) := by rw [actWrite.eq_def]; exact congrArg (Option.map _) act
  rw [put_of_lands v lt land, writeReg, now']
  rfl

theorem ringOf_at {base r : Nat} (hr : r < 16) : ringOf base (base + 0x20 * r) = some r := by
  rw [ringOf, if_pos (by omega)]
  exact congrArg some (by omega)

theorem ringWrite_inTail (d : Dev) (b : Nat) {r : Nat} (v : W32) (hr : r < 16) : ringWrite d b (0x20C + 0x20 * r) v = some (inTailOp d b r v) := by
  rw [ringWrite, if_neg (by omega), if_neg (by omega), ringOf_at hr]

theorem ringWrite_outHead (d : Dev) (b : Nat) {r : Nat} (v : W32) (hr : r < 16) : ringWrite d b (0x40C + 0x20 * r) v = some (outHeadOp d b r v) := by
  have inlet : ringOf 0x20C (0x40C + 0x20 * r) = none := if_neg (by omega)
  rw [ringWrite, if_neg (by omega), if_neg (by omega), inlet, ringOf_at hr]

/-! ### RING_ENABLE (R77) -/

/-- The live LOG2SIZE of the ring of an enable bit is one that a ring may have. -/
def sizedRing (d : Dev) (b n : Nat) : Bool := if n < 16 then sizeOk (inSize d b n) else sizeOk (outSize d b (n - 16))

/-- The rings that a write of RING_ENABLE enables. -/
def enables (d : Dev) (b : Nat) (v : W32) (n : Nat) : Bool := v.getLsbD n && sizedRing d b n

/-- The block with RING_ENABLE written. -/
def enabledAs (d : Dev) (b : Nat) (v : W32) : Dev :=
  setLiveN d .ring b 0x104 (((List.range 32).filter (enables d b v)).map (fun n => 2 ^ n)).sum

theorem ringEnabled_enabledAs (d : Dev) (b : Nat) (v : W32) (n : Nat) : ringEnabled (enabledAs d b v) b n = (decide (n < 32) && enables d b v n) := by
  obtain ⟨bound, bit⟩ := testBit_sum_two_pow (enables d b v) 32 n
  rw [ringEnabled, enabledAs, liveN, live_setLiveN, if_pos rfl, BitVec.toNat_ofNat, Nat.mod_eq_of_lt bound, bitOf, bit]

/-- The outlet rings of the basin that failed and are enabled again (R98). -/
def backRings (d : Dev) (b : Nat) (v : W32) : List (Nat × Nat) := d.host.failed.filter (fun x => decide (x.1 = b) && enables d b v (16 + x.2))

/-- Flags that are written change host memory and the held blocks. -/
theorem returnDue_eq (d : Dev) (p : HeldBlock → Bool) :
    ∃ m h, returnDue d p = { d with host := { d.host with hostMem := m, held := h } } := by
  unfold returnDue
  generalize d.host.held.filter (fun h => p h && h.clear) = hs
  induction hs generalizing d with
  | nil => exact ⟨d.host.hostMem, d.host.held, rfl⟩
  | cons x hs ih =>
    obtain ⟨m, h, e⟩ := ih (returnBlock d x)
    exact ⟨m, h, by rw [List.foldl_cons, e]; rfl⟩

/-- Only the counts of completions, the messages sent and the pending vectors may differ. -/
def SignalsOnly (d e : Dev) : Prop := ∃ c q p, e = { d with host := { d.host with coal := c, msix := q, waitVec := p } }

theorem SignalsOnly.ite {c : Prop} [Decidable c] {d x y : Dev} (hx : SignalsOnly d x) (hy : SignalsOnly d y) :
    SignalsOnly d (if c then x else y) := by
  split
  · exact hx
  · exact hy

/-- RING_ENABLE, from its parts: the word, and the failed rings that are back. -/
theorem ringEnableOp_eq (d : Dev) (b : Nat) (v : W32) :
    ∃ mine, ringEnableOp d b v =
      if backRings d b v = [] then enabledAs d b v
      else returnDue { enabledAs d b v with host.failed := d.host.failed.filter (fun x => !(backRings d b v).contains x) } mine := ⟨_, rfl⟩

theorem ringEnableOp_regs (d : Dev) (b : Nat) (v : W32) : (ringEnableOp d b v).regs = (enabledAs d b v).regs := by
  obtain ⟨mine, e⟩ := ringEnableOp_eq d b v
  rw [e]
  split
  · rfl
  · obtain ⟨m, h, due⟩ := returnDue_eq { enabledAs d b v with host.failed := d.host.failed.filter (fun x => !(backRings d b v).contains x) } mine
    rw [due]

/-- The rings that still count as failed: those that were, but for the ones that are back. -/
theorem ringEnableOp_failed (d : Dev) (b : Nat) (v : W32) :
    (ringEnableOp d b v).host.failed = d.host.failed.filter (fun x => !(backRings d b v).contains x) := by
  obtain ⟨mine, e⟩ := ringEnableOp_eq d b v
  rw [e]
  split
  · rename_i none'
    rw [none']
    exact (List.filter_eq_self.2 fun _ _ => rfl).symm
  · obtain ⟨m, h, due⟩ := returnDue_eq { enabledAs d b v with host.failed := d.host.failed.filter (fun x => !(backRings d b v).contains x) } mine
    rw [due]

/-- With no failed ring in the basin only registers change. -/
theorem ringEnableOp_of_no_failed {d : Dev} {b : Nat} (v : W32) (h : ∀ x ∈ d.host.failed, x.1 ≠ b) : ringEnableOp d b v = enabledAs d b v := by
  obtain ⟨mine, e⟩ := ringEnableOp_eq d b v
  have none' : backRings d b v = [] := List.filter_eq_nil_iff.2 fun x hx => by simp [h x hx]
  rw [e, if_pos none']

end Sys2Proof.Machine

/-! SUPPORT. Requests by slot, and the end of a request: what it gives back, its completion, and what it leaves (R35, R36). -/

namespace Sys2Proof.Machine

open Sys2Proof.Claims

/-! ### Requests by slot -/

theorem findReq_slot {d : Dev} {slot : Nat} {r : Req} (h : findReq d slot = some r) : r.slot = slot := by
  simpa using List.find?_some h

theorem find?_modWhere_self {α : Type} (p : α → Bool) (f : α → α) (xs : List α) (keeps : ∀ x, p x = true → p (f x) = true) :
    (modWhere p f xs).find? p = (xs.find? p).map f := by
  induction xs with
  | nil => rfl
  | cons x xs ih =>
    rw [modWhere, List.map_cons, ← modWhere]
    cases hp : p x
    · rw [if_neg Bool.false_ne_true, List.find?_cons_of_neg (by simp [hp]), List.find?_cons_of_neg (by simp [hp]), ih]
    · rw [if_pos rfl, List.find?_cons_of_pos (keeps x hp), List.find?_cons_of_pos hp]
      rfl

theorem find?_modWhere_ne {α : Type} (p q : α → Bool) (f : α → α) (xs : List α) (apart : ∀ x, q x = true → p x = false ∧ p (f x) = false) :
    (modWhere q f xs).find? p = xs.find? p := by
  induction xs with
  | nil => rfl
  | cons x xs ih =>
    rw [modWhere, List.map_cons, ← modWhere]
    cases hq : q x
    · rw [if_neg Bool.false_ne_true, List.find?_cons, List.find?_cons, ih]
    · obtain ⟨before, after⟩ := apart x hq
      rw [if_pos rfl, List.find?_cons_of_neg (by simp [after]), List.find?_cons_of_neg (by simp [before]), ih]

theorem findReq_modReq {d : Dev} {slot : Nat} {r : Req} {f : Req → Req} (found : findReq d slot = some r)
    (keeps : ∀ q, q.slot = slot → (f q).slot = slot) : findReq (modReq d slot f) slot = some (f r) :=
  (find?_modWhere_self _ f d.reqs fun q h => decide_eq_true (keeps q (of_decide_eq_true h))).trans (congrArg (Option.map f) found)

theorem findReq_modReq_ne (d : Dev) {slot other : Nat} (f : Req → Req) (keeps : ∀ r, r.slot = slot → (f r).slot = slot) (ne : slot ≠ other) :
    findReq (modReq d slot f) other = findReq d other :=
  find?_modWhere_ne _ _ f d.reqs fun r h => by
    have own : r.slot = slot := of_decide_eq_true h
    simp [own, keeps r own, ne]

/-- A request without others of its slot among those kept. -/
theorem findReq_filter_ne (d : Dev) {slot other : Nat} (ne : slot ≠ other) :
    (d.reqs.filter (fun r => !decide (r.slot = slot))).find? (fun r => decide (r.slot = other)) = findReq d other :=
  find?_filter_of_imp _ _ _ fun r h => by
    have own : r.slot = other := of_decide_eq_true h
    simp [own, Ne.symm ne]

/-! ### What a request gives back -/

/-- The return of a request's work leaves the clock, the host interface, the requests and flash as they were, and of the
registers changes only GEN's count of expiries. -/
structure WorkBack (d e : Dev) : Prop where
  now : e.now = d.now
  host : e.host = d.host
  reqs : e.reqs = d.reqs
  flash : e.flash = d.flash
  power : e.power = d.power
  stored : e.mem.flash = d.mem.flash
  unsure : e.txn.unsure = d.txn.unsure
  words : ∀ a, a ≠ regA .gen 0 0x124 → live e a = live d a

theorem WorkBack.refl (d : Dev) : WorkBack d d := ⟨rfl, rfl, rfl, rfl, rfl, rfl, rfl, fun _ _ => rfl⟩

theorem WorkBack.trans {d e f : Dev} (h : WorkBack d e) (g : WorkBack e f) : WorkBack d f :=
  ⟨g.now.trans h.now, g.host.trans h.host, g.reqs.trans h.reqs, g.flash.trans h.flash, g.power.trans h.power, g.stored.trans h.stored,
    g.unsure.trans h.unsure, fun a ha => (g.words a ha).trans (h.words a ha)⟩

theorem endSpan_eq (d : Dev) (c : Ctx) : ∃ j, endSpan d c = { d with jobs := j } := by
  unfold endSpan
  split
  · exact ⟨_, rfl⟩
  · exact ⟨d.jobs, rfl⟩

theorem dropCtx_eq (d : Dev) (id : Nat) : ∃ j g p, dropCtx d id = { d with jobs := j, eng := g, mem := { d.mem with poison := p } } := by
  unfold dropCtx
  dsimp only
  split
  · rename_i c _
    obtain ⟨j, e⟩ := endSpan_eq d c
    rw [e]
    exact ⟨_, _, _, rfl⟩
  · exact ⟨_, _, _, rfl⟩

theorem foldl_dropCtx_eq (cs : List Ctx) (d : Dev) :
    ∃ j g p, cs.foldl (fun d c => dropCtx d c.id) d = { d with jobs := j, eng := g, mem := { d.mem with poison := p } } := by
  induction cs generalizing d with
  | nil => exact ⟨d.jobs, d.eng, d.mem.poison, rfl⟩
  | cons c cs ih =>
    obtain ⟨j, g, p, first⟩ := dropCtx_eq d c.id
    obtain ⟨j', g', p', rest⟩ := ih (dropCtx d c.id)
    exact ⟨j', g', p', by rw [List.foldl_cons, rest, first]⟩

/-- The end of a hold changes handles, and counts an expiry that a released handle's store had. -/
theorem endHold_back (d : Dev) (idx slot : Nat) : WorkBack d (endHold d idx slot) := by
  unfold endHold
  split
  · exact .refl d
  · dsimp only
    split
    · exact ⟨rfl, rfl, rfl, rfl, rfl, rfl, rfl, fun _ _ => rfl⟩
    · split
      · split
        · refine ⟨rfl, rfl, rfl, rfl, rfl, rfl, rfl, fun a ha => ?_⟩
          exact (live_count d .gen 0 0x124 1 a).trans (if_neg (Ne.symm ha))
        · exact ⟨rfl, rfl, rfl, rfl, rfl, rfl, rfl, fun _ _ => rfl⟩
      · exact ⟨rfl, rfl, rfl, rfl, rfl, rfl, rfl, fun _ _ => rfl⟩

/-- A request without a hold gives back contexts, commands and its places in the engines. -/
theorem releaseWork_eq (d : Dev) (r : Req) :
    ∃ j g p w a, releaseWork d r =
      let e := { d with jobs := j, eng := g, mem := { d.mem with poison := p }, txn := { d.txn with waiting := w, active := a } }
      match r.hold with
      | some h => endHold e h r.slot
      | none => e := by
  obtain ⟨j, g, p, e⟩ := foldl_dropCtx_eq (d.jobs.ctxs.filter (fun c => decide (c.slot = r.slot) && c.link.isNone)) d
  unfold releaseWork
  dsimp only
  rw [e]
  exact ⟨_, _, _, _, _, rfl⟩

theorem releaseWork_back (d : Dev) (r : Req) : WorkBack d (releaseWork d r) := by
  obtain ⟨j, g, p, w, a, e⟩ := releaseWork_eq d r
  have own : WorkBack d { d with jobs := j, eng := g, mem := { d.mem with poison := p }, txn := { d.txn with waiting := w, active := a } } :=
    ⟨rfl, rfl, rfl, rfl, rfl, rfl, rfl, fun _ _ => rfl⟩
  rw [e]
  dsimp only
  split
  · exact own.trans (endHold_back _ _ _)
  · exact own

/-! ### The end of a request -/

/-- The request as it stands once it has ended. -/
def Req.endedAs (r : Req) (cls : Nat) : Req :=
  { r with ended := some cls, stage := .ended, busy := false, walk := none, walkCharge := false, stream := none, hold := none, due := [],
           awaiting := false }

/-- The completion of a request that ends. -/
def Req.comp (r : Req) (cls : Nat) : Comp :=
  ⟨r.basin, r.outRing, some r.slot, r.tag, Desc.cookie r.desc, cls, r.flags, r.outLen, r.newHandle, r.outCount, r.admitted⟩

/-- The block when a request has given back its work, its faulted context told and counted. -/
def workDone (d : Dev) (r : Req) (cls : Nat) : Dev :=
  let d := releaseWork d r
  let d := { d with jobs.ctxs := modWhere (fun c => decide (c.slot = r.slot)) (fun c => { c with slot := Config.totalTags, fault := some cls }) d.jobs.ctxs }
  if cls = 0x60 ∨ cls = 0x20 then count d .bsn r.basin 0x164 1 else d

theorem finish_eq (d : Dev) (r : Req) (cls : Nat) :
    finish d r cls =
      if r.silent then
        { workDone d r cls with reqs := (workDone d r cls).reqs.filter (fun x => !decide (x.slot = r.slot)),
                                host.held := (workDone d r cls).host.held.filter (fun h => !decide (h.slot = r.slot)) }
      else { setReq (workDone d r cls) (r.endedAs cls) with host.comps := (workDone d r cls).host.comps ++ [r.comp cls] } := rfl

/-- What the return of a request's work leaves, its faults counted. -/
theorem workDone_keeps (d : Dev) (r : Req) (cls : Nat) :
    (workDone d r cls).now = d.now ∧ (workDone d r cls).host = d.host ∧ (workDone d r cls).reqs = d.reqs := by
  have back := releaseWork_back d r
  unfold workDone
  dsimp only
  split
  · exact ⟨back.now, back.host, back.reqs⟩
  · exact ⟨back.now, back.host, back.reqs⟩

theorem finish_now (d : Dev) (r : Req) (cls : Nat) : (finish d r cls).now = d.now := by
  obtain ⟨now, -, -⟩ := workDone_keeps d r cls
  rw [finish_eq]
  split
  · exact now
  · exact now

/-- A request that is not silent ends with its class, and its completion is queued. -/
theorem finish_of_not_silent {d : Dev} {r : Req} (cls : Nat) (loud : r.silent = false) :
    (finish d r cls).host.comps = d.host.comps ++ [r.comp cls] ∧
      (finish d r cls).reqs = modWhere (fun x => decide (x.slot = r.slot)) (fun _ => r.endedAs cls) d.reqs := by
  obtain ⟨-, host, reqs⟩ := workDone_keeps d r cls
  rw [finish_eq, loud, if_neg Bool.false_ne_true]
  refine ⟨congrArg (·.comps ++ [r.comp cls]) host, ?_⟩
  exact congrArg (modWhere (fun x => decide (x.slot = r.slot)) fun _ => r.endedAs cls) reqs

/-- The end of a request leaves every other one, and every completion that is queued. -/
theorem finish_other (d : Dev) {r : Req} {slot : Nat} (cls : Nat) (ne : r.slot ≠ slot) :
    findReq (finish d r cls) slot = findReq d slot ∧ ∀ x ∈ d.host.comps, x ∈ (finish d r cls).host.comps := by
  obtain ⟨-, host, reqs⟩ := workDone_keeps d r cls
  have same : findReq (workDone d r cls) slot = findReq d slot := congrArg (List.find? _) reqs
  rw [finish_eq]
  split
  · exact ⟨(findReq_filter_ne (workDone d r cls) ne).trans same, fun x hx => (congrArg HostIf.comps host).symm ▸ hx⟩
  · refine ⟨(findReq_modReq_ne (workDone d r cls) (fun _ => r.endedAs cls) (fun _ _ => rfl) ne).trans same, fun x hx => ?_⟩
    rw [host]
    exact List.mem_append_left _ hx

/-- The end of some requests of other slots. -/
theorem foldl_finish_other {slot : Nat} (cls : Nat) (rs : List Req) (d : Dev) (ne : ∀ c ∈ rs, c.slot ≠ slot) :
    let e := rs.foldl (fun d c => finish d c cls) d
    e.now = d.now ∧ findReq e slot = findReq d slot ∧ ∀ x ∈ d.host.comps, x ∈ e.host.comps := by
  induction rs generalizing d with
  | nil => exact ⟨rfl, rfl, fun _ hx => hx⟩
  | cons c rs ih =>
    obtain ⟨find, comps⟩ := finish_other d cls (ne c List.mem_cons_self)
    obtain ⟨now', find', comps'⟩ := ih (finish d c cls) fun q hq => ne q (List.mem_cons_of_mem _ hq)
    exact ⟨now'.trans (finish_now d c cls), find'.trans find, fun x hx => comps' x (comps x hx)⟩

/-- Once a request has ended no live request has its slot. -/
theorem slot_ne_of_live_finish {d : Dev} {r c : Req} {cls : Nat} (loud : r.silent = false) (hc : c ∈ (finish d r cls).reqs) (up : c.live = true) :
    c.slot ≠ r.slot := by
  rw [(finish_of_not_silent cls loud).2] at hc
  obtain ⟨x, -, rfl⟩ := List.mem_map.1 hc
  dsimp only at up ⊢
  split at up
  · exact absurd up Bool.false_ne_true
  · rename_i other
    rw [if_neg other]
    simpa using other

/-- The end of a live request: it has ended with the class, its completion is queued, and no time has passed. -/
theorem endReq_spec {d : Dev} {slot cls : Nat} {r : Req} (found : findReq d slot = some r) (up : r.live = true) (loud : r.silent = false) :
    findReq (endReq d slot cls) slot = some (r.endedAs cls) ∧ r.comp cls ∈ (endReq d slot cls).host.comps ∧ (endReq d slot cls).now = d.now := by
  obtain rfl := findReq_slot found
  obtain ⟨comps, reqs⟩ := finish_of_not_silent (d := d) cls loud
  have own : findReq (finish d r cls) r.slot = some (r.endedAs cls) := by
    have ended : findReq (modReq d r.slot fun _ => r.endedAs cls) r.slot = some (r.endedAs cls) := findReq_modReq found fun _ _ => rfl
    rwa [findReq, reqs]
  have others : ∀ c ∈ (finish d r cls).reqs.filter (fun c => decide (c.op = 6) && c.live && decide (Desc.target c.desc = r.tag.toNat) &&
      decide (c.basin = r.basin)), c.slot ≠ r.slot := fun c hc => by
    simp only [List.mem_filter, Bool.and_eq_true] at hc
    obtain ⟨mem, ⟨⟨-, up⟩, -⟩, -⟩ := hc
    exact slot_ne_of_live_finish loud mem up
  obtain ⟨now', find', comps'⟩ := foldl_finish_other 0x11 _ (finish d r cls) others
  rw [endReq, found]
  dsimp only
  rw [if_pos up, finishContinues]
  exact ⟨find'.trans own, comps' _ (comps ▸ List.mem_append_right _ (List.mem_singleton_self _)), now'.trans (finish_now d r cls)⟩

end Sys2Proof.Machine

/-! SUPPORT. What the end of the requests before a device reset leaves (R93), and what a device reset that is taken keeps (R428). -/

namespace Sys2Proof.Machine

open Sys2Proof.Claims

/-! ### Registers of the Spring domain (Table 19-1) -/

theorem springHeld_lt {a : Nat} (h : springHeld a = true) : a < 0x7000 := by
  simp only [springHeld, Bool.or_eq_true, decide_eq_true_eq, List.contains_iff_mem, List.mem_cons, List.not_mem_nil, or_false, regA, pageNo] at h
  omega

/-- No register of a RING or BSN page, nor GEN's, is of the Spring domain. -/
theorem ne_of_springHeld {a : Nat} {k : Blk} {i off : Nat} (h : springHeld a = true) (hk : k = .ring ∨ k = .bsn ∨ k = .gen) :
    regA k i off ≠ a := by
  have := springHeld_lt h
  rcases hk with rfl | rfl | rfl <;> (simp only [regA, pageNo]; omega)

/-! ### The end of the requests (R93) -/

/-- What the end of a request and a completion leave: the power side, flash, the number of VFs and the Spring domain's registers. -/
structure EndKeeps (d e : Dev) : Prop where
  power : e.power = d.power
  flash : e.flash = d.flash
  stored : e.mem.flash = d.mem.flash
  unsure : d.txn.unsure = [] → e.txn.unsure = []
  numVFs : e.host.numVFs = d.host.numVFs
  words : ∀ a, springHeld a = true → live e a = live d a

theorem EndKeeps.refl (d : Dev) : EndKeeps d d := ⟨rfl, rfl, rfl, id, rfl, fun _ _ => rfl⟩

theorem EndKeeps.trans {d e f : Dev} (h : EndKeeps d e) (g : EndKeeps e f) : EndKeeps d f :=
  ⟨g.power.trans h.power, g.flash.trans h.flash, g.stored.trans h.stored, fun u => g.unsure (h.unsure u), g.numVFs.trans h.numVFs,
    fun a ha => (g.words a ha).trans (h.words a ha)⟩

theorem EndKeeps.foldl {α : Type} {f : Dev → α → Dev} (step : ∀ d x, EndKeeps d (f d x)) (xs : List α) (d : Dev) :
    EndKeeps d (xs.foldl f d) := by
  induction xs generalizing d with
  | nil => exact .refl d
  | cons x xs ih => exact (step d x).trans (ih _)

theorem workDone_endKeeps (d : Dev) (r : Req) (cls : Nat) : EndKeeps d (workDone d r cls) := by
  have back := releaseWork_back d r
  have words (a : Nat) (ha : springHeld a = true) : live (releaseWork d r) a = live d a :=
    back.words a (Ne.symm (ne_of_springHeld ha (.inr (.inr rfl))))
  have kept : EndKeeps d (releaseWork d r) :=
    ⟨back.power, back.flash, back.stored, fun u => back.unsure.trans u, congrArg HostIf.numVFs back.host, words⟩
  unfold workDone
  dsimp only
  split
  · refine kept.trans ⟨rfl, rfl, rfl, id, rfl, fun a ha => ?_⟩
    rw [live_count, if_neg (ne_of_springHeld ha (.inr (.inl rfl)))]
    rfl
  · exact kept.trans ⟨rfl, rfl, rfl, id, rfl, fun _ _ => rfl⟩

theorem finish_endKeeps (d : Dev) (r : Req) (cls : Nat) : EndKeeps d (finish d r cls) := by
  rw [finish_eq]
  split
  · exact (workDone_endKeeps d r cls).trans ⟨rfl, rfl, rfl, id, rfl, fun _ _ => rfl⟩
  · exact (workDone_endKeeps d r cls).trans ⟨rfl, rfl, rfl, id, rfl, fun _ _ => rfl⟩

/-- A completion's signal is counted or sent. -/
theorem signalComp_signalsOnly (d : Dev) (b j : Nat) : SignalsOnly d (signalComp d b j) := by
  unfold signalComp
  dsimp only
  exact .ite (.ite ⟨_, _, _, rfl⟩ ⟨_, d.host.msix, d.host.waitVec, rfl⟩) ⟨_, d.host.msix, d.host.waitVec, rfl⟩

/-- Where the next completion of an outlet ring goes. -/
def compPlace (d : Dev) (b j : Nat) : Nat :=
  liveN d .ring b (0x404 + 0x20 * j) * 2 ^ 32 + liveN d .ring b (0x400 + 0x20 * j) + 32 * outTail d b j

/-- The flags of the request of a completion are written first. -/
def flagsWritten (d : Dev) (c : Comp) : Dev :=
  match (match c.slot with | some s => findReq d s | none => none) with
  | some r => returnAll d r.slot
  | none => d

theorem flagsWritten_eq (d : Dev) (c : Comp) : ∃ m h, flagsWritten d c = { d with host := { d.host with hostMem := m, held := h } } := by
  unfold flagsWritten
  split
  · exact returnDue_eq d _
  · exact ⟨_, _, rfl⟩

/-- A completion is written: flags, then the 32 bytes at the ring's place, then the tail and the signal. -/
theorem writeComp_eq (d : Dev) (c : Comp) :
    ∃ flags elapsed,
      let e := flagsWritten d c
      let f := hostWrite e c.basin (compPlace e c.basin c.ring) (compBytes c (outPhase e c.basin c.ring) flags elapsed)
      writeComp d c =
        let g := signalComp (advanceTail f c.basin c.ring) c.basin c.ring
        match c.slot with
        | some s => { g with reqs := g.reqs.filter (fun r => !decide (r.slot = s)),
                             txn := { g.txn with unsure := g.txn.unsure.filter (fun u => !decide (u.1 = s)) } }
        | none => g := ⟨_, _, rfl⟩

theorem signalComp_advanceTail_endKeeps (d : Dev) (b j : Nat) : EndKeeps d (signalComp (advanceTail d b j) b j) := by
  obtain ⟨c, q, p, e⟩ := signalComp_signalsOnly (advanceTail d b j) b j
  rw [e]
  refine ⟨rfl, rfl, rfl, id, rfl, fun a ha => ?_⟩
  exact (live_setLiveN d .ring b (0x410 + 0x20 * j) _ a).trans (if_neg (ne_of_springHeld ha (.inl rfl)))

theorem writeComp_endKeeps (d : Dev) (c : Comp) : EndKeeps d (writeComp d c) := by
  obtain ⟨m, h, flagged⟩ := flagsWritten_eq d c
  obtain ⟨flags, elapsed, e⟩ := writeComp_eq d c
  have written : EndKeeps d (hostWrite (flagsWritten d c) c.basin (compPlace (flagsWritten d c) c.basin c.ring)
      (compBytes c (outPhase (flagsWritten d c) c.basin c.ring) flags elapsed)) := by
    rw [flagged]
    exact ⟨rfl, rfl, rfl, id, rfl, fun _ _ => rfl⟩
  have signalled := written.trans (signalComp_advanceTail_endKeeps _ c.basin c.ring)
  rw [e]
  dsimp only
  split
  · exact signalled.trans ⟨rfl, rfl, rfl, fun u => congrArg (List.filter _) u, rfl, fun _ _ => rfl⟩
  · exact signalled

/-- One request of those that lived as the reset began ends. -/
def endOne (d : Dev) (r : Req) : Dev :=
  match findReq d r.slot with
  | some q => if q.live then finish d q 0x7F else d
  | none => d

/-- A completion's outlet ring takes it, and its blocks have their flags. -/
def writable (d : Dev) (c : Comp) : Bool := outReady d c.basin c.ring && !(match c.slot with | some s => awaitsRemap d s | none => false)

/-- A completion that can be written is. -/
def writeOne (d : Dev) (c : Comp) : Dev := if writable d c then writeComp { d with host.comps := d.host.comps.erase c } c else d

theorem endForReset_eq (d : Dev) :
    endForReset d = ((d.reqs.filter (·.live)).foldl endOne d).host.comps.foldl writeOne ((d.reqs.filter (·.live)).foldl endOne d) := rfl

theorem endOne_keeps (d : Dev) (r : Req) : EndKeeps d (endOne d r) := by
  unfold endOne
  split
  · split
    · exact finish_endKeeps ..
    · exact .refl d
  · exact .refl d

theorem writeOne_keeps (d : Dev) (c : Comp) : EndKeeps d (writeOne d c) := by
  unfold writeOne
  split
  · have erased : EndKeeps d { d with host.comps := d.host.comps.erase c } := ⟨rfl, rfl, rfl, id, rfl, fun _ _ => rfl⟩
    exact erased.trans (writeComp_endKeeps _ c)
  · exact .refl d

theorem endForReset_keeps (d : Dev) : EndKeeps d (endForReset d) := by
  rw [endForReset_eq]
  exact (EndKeeps.foldl endOne_keeps _ d).trans (EndKeeps.foldl writeOne_keeps _ _)

/-! ### A device reset that is taken (R428, R438) -/

theorem live_lose (s : State) (cfg : Bool) (a : Nat) :
    live (lose s true cfg).dev a = if springHeld a = true then live s.dev a else regReset a := by
  have regs : (lose s true cfg).dev.regs = keepRegs s.dev.regs := rfl
  have copies : copiesOf (lose s true cfg).dev false a = if springHeld a = true then copiesOf s.dev false a else none := by
    rw [copiesOf, regs, keepRegs]
    dsimp only
    split
    · rename_i held
      refine find?_filter_of_imp _ _ _ fun t ht => ?_
      simp only [Bool.and_eq_true, decide_eq_true_eq] at ht
      rw [ht.1, held]
    · rename_i lost
      simp only [List.find?_eq_none, List.mem_filter, Bool.and_eq_true, decide_eq_true_eq, not_and]
      rintro t ⟨-, kept⟩ rfl
      exact absurd kept lost
  have word : SMap.get regReset (lose s true cfg).dev.regs.live a =
      if springHeld a = true then SMap.get regReset s.dev.regs.live a else regReset a := by
    rw [regs, keepRegs]
    dsimp only
    rw [SMap.get_drop]
    cases springHeld a <;> rfl
  rw [live, copies, word]
  cases springHeld a <;> rfl

theorem live_resetTaken (s : State) (cause a : Nat) (c : a ≠ regA .rst 0 0x104) (n : a ≠ regA .rst 0 0x114) :
    live (resetTaken s cause).dev a = if springHeld a = true then live s.dev a else regReset a := by
  rw [resetTaken, onDev_dev, live_count, if_neg (Ne.symm n), live_setLiveN, if_neg (Ne.symm c), live_lose]

/-- What a device reset that is taken sets, clears and keeps. -/
structure ResetLeaves (s t : State) (cause : Nat) : Prop where
  pending : t.pending = s.pending
  cause : reg t .rst 0 0x104 % 16 = cause
  reqs : t.dev.reqs = []
  meas : t.meas = ⟨[], [], []⟩
  unready : isReady t.dev = false
  flash : FlashKept s t
  spring : springKept s t
  count : live t.dev (regA .rst 0 0x114) = live s.dev (regA .rst 0 0x114) + 1

theorem resetTaken_flash (s : State) (cause : Nat) : FlashKept s (resetTaken s cause) := by
  intro decided b x named lt
  have recs : (settleRecords s.dev.fresh s.dev.txn.unsure.reverse [] s.dev.flash.records).1 = s.dev.flash.records := by rw [decided]; rfl
  have own : nsKey b x / 2 ^ 50 = b := by unfold nsKey; omega
  have flash : (resetTaken s cause).dev.mem.flash = SMap.drop (fun a => !(decide (a / 2 ^ 50 = 0) ||
      (settleRecords s.dev.fresh s.dev.txn.unsure.reverse [] s.dev.flash.records).1.any (fun r => decide (r.1 = a / 2 ^ 50)))) s.dev.mem.flash := rfl
  have kept : (decide (b = 0) || s.dev.flash.records.any (fun r => decide (r.1 = b))) = true := by
    rcases named with rfl | ⟨r, mem, rfl⟩
    · rfl
    · rw [Bool.or_eq_true, List.any_eq_true]
      exact .inr ⟨r, mem, decide_eq_true rfl⟩
  rw [Mem.read, Mem.read, flash, recs, SMap.get_drop, own, kept]
  rfl

theorem resetTaken_leaves (s : State) {cause : Nat} (h : cause < 16) : ResetLeaves s (resetTaken s cause) cause where
  pending := rfl
  cause := resetTaken_cause s cause h
  reqs := rfl
  meas := rfl
  unready := by
    have word : live (resetTaken s cause).dev (regA .rst 0 0x108) = 0 := by
      rw [live_resetTaken s cause _ (by decide) (by decide), if_neg (by decide)]
      decide
    rw [isReady, liveN, word]
    rfl
  flash := resetTaken_flash s cause
  spring := fun a held c n => by rw [live_resetTaken s cause a c n, if_pos held]
  count := by
    rw [resetTaken, onDev_dev, live_count, if_pos rfl, live_setLiveN, if_neg (by decide), live_lose, if_pos (by decide)]
    rfl

/-- A reset is taken while none is in progress. -/
theorem deviceResetOp_taken {s : State} (cause : Nat) (up : s.dev.power.booting = false) : deviceResetOp s cause = resetTaken s cause :=
  (deviceResetOp_cases s cause).resolve_left fun h => by simp [up] at h

/-- The requests end first, and leave all that the reset keeps. -/
theorem ResetLeaves.of_ended {s t : State} {cause : Nat} {e : Dev} (kept : EndKeeps s.dev e) (h : ResetLeaves (on s e) t cause) :
    ResetLeaves s t cause where
  pending := h.pending
  cause := h.cause
  reqs := h.reqs
  meas := h.meas
  unready := h.unready
  flash := fun decided b x named lt => by
    have named' : b = 0 ∨ ∃ r ∈ e.flash.records, r.1 = b := by rwa [kept.flash]
    rw [h.flash (kept.unsure decided) b x named' lt]
    exact congrArg (Mem.read · (nsKey b x)) kept.stored
  spring := fun a held c n => (h.spring a held c n).trans (kept.words a held)
  count := h.count.trans (congrArg (· + 1) (kept.words _ (by decide)))

/-! ### The completion of the only request -/

/-- The first of the bytes written read back. -/
theorem readN_writeL_append (m : Mem) (a : Nat) (p q : List Byte) : Mem.readN (Mem.writeL m a (p ++ q)) a p.length = p := by
  induction p generalizing m a with
  | nil => rfl
  | cons b p ih =>
    rw [List.cons_append, Mem.writeL, List.length_cons, Mem.readN, ih, Mem.read_writeL_of_not_mem _ _ _ _ (.inl (Nat.lt_succ_self a)), Mem.read_write,
      if_pos rfl]

theorem length_natLe (n v : Nat) : (natLe n v).length = n := by
  induction n generalizing v with
  | zero => rfl
  | succ n ih => rw [natLe, List.length_cons, ih]

/-- A completion begins with tag, cookie and class. -/
theorem compBytes_eq (c : Comp) (phase : Bool) (flags elapsed : Nat) :
    ∃ q, compBytes c phase flags elapsed = (natLe 4 c.tag.toNat ++ natLe 4 c.cookie ++ natLe 1 c.cls) ++ q :=
  ⟨natLe 1 (if phase then 1 else 0) ++ natLe 2 flags ++ natLe 4 c.outLen ++ natLe 8 c.newHandle ++ natLe 4 c.count ++ natLe 4 elapsed, by
    simp only [compBytes, List.append_assoc]⟩

/-- The request that alone lives ends without a change of registers, blocks or host memory: it holds no handle. -/
theorem finish_alone (d : Dev) {r : Req} (loud : r.silent = false) (handle : r.hold = none) :
    (finish d r 0x7F).regs = d.regs ∧ (finish d r 0x7F).host = { d.host with comps := d.host.comps ++ [r.comp 0x7F] } := by
  obtain ⟨j, g, p, w, a, e⟩ := releaseWork_eq d r
  rw [handle] at e
  dsimp only at e
  rw [finish_eq, loud, if_neg Bool.false_ne_true, workDone, e]
  dsimp only
  rw [if_neg (by decide)]
  exact ⟨rfl, rfl⟩

/-- With no block held no flag is written. -/
theorem flagsWritten_of_none {d : Dev} (c : Comp) (none' : d.host.held = []) : flagsWritten d c = d := by
  unfold flagsWritten
  split
  · rw [returnAll, returnDue, none']
    rfl
  · rfl

theorem signalComp_hostMem (d : Dev) (b j : Nat) : (signalComp d b j).host.hostMem = d.host.hostMem := by
  obtain ⟨c, q, p, e⟩ := signalComp_signalsOnly d b j
  rw [e]

/-- With no block held, a completion that is written puts its bytes into host memory and nothing else. -/
theorem writeComp_hostMem {d : Dev} (c : Comp) (none' : d.host.held = []) :
    ∃ flags elapsed, (writeComp d c).host.hostMem =
      Mem.writeL d.host.hostMem (c.basin * 2 ^ 64 + compPlace d c.basin c.ring) (compBytes c (outPhase d c.basin c.ring) flags elapsed) := by
  obtain ⟨flags, elapsed, e⟩ := writeComp_eq d c
  dsimp only at e
  rw [flagsWritten_of_none c none'] at e
  refine ⟨flags, elapsed, ?_⟩
  rw [e]
  split
  · exact signalComp_hostMem _ _ _
  · exact signalComp_hostMem _ _ _

/-- A completion of a ring that takes it, with no block held, is in host memory. -/
theorem writeOne_hostMem {d : Dev} {c : Comp} (none' : d.host.held = []) (ready : outReady d c.basin c.ring = true) :
    ∃ flags elapsed, (writeOne d c).host.hostMem =
      Mem.writeL d.host.hostMem (c.basin * 2 ^ 64 + compPlace d c.basin c.ring) (compBytes c (outPhase d c.basin c.ring) flags elapsed) := by
  have takes : writable d c = true := by
    unfold writable
    split
    · rw [ready, awaitsRemap, none']; rfl
    · rw [ready]; rfl
  rw [writeOne, if_pos takes]
  exact writeComp_hostMem (d := { d with host.comps := d.host.comps.erase c }) c none'

/-- The place of a ring's next completion, and whether it takes one, depend on the registers alone. -/
theorem outlet_congr {d e : Dev} (h : e.regs = d.regs) (b j : Nat) : outReady e b j = outReady d b j ∧ compPlace e b j = compPlace d b j := by
  have words : liveN e = liveN d := funext fun k => funext fun i => funext (liveN_congr h k i)
  constructor
  · unfold outReady outFull silenced haltCause basinState ringEnabled outTail outHeadIdx outSize
    rw [words]
  · unfold compPlace outTail
    rw [words]

/-- The only request, which holds neither block nor handle, has its completion in host memory before the reset (R93). -/
theorem endForReset_alone {d : Dev} {r : Req} (only : d.reqs = [r]) (up : r.live = true) (loud : r.silent = false) (handle : r.hold = none)
    (comps : d.host.comps = []) (held : d.host.held = []) (ready : outReady d r.basin r.outRing = true) :
    ∃ bs, (endForReset d).host.hostMem = Mem.writeL d.host.hostMem (r.basin * 2 ^ 64 + compPlace d r.basin r.outRing)
      ((natLe 4 r.tag.toNat ++ natLe 4 (Desc.cookie r.desc) ++ natLe 1 0x7F) ++ bs) := by
  obtain ⟨regs, host⟩ := finish_alone d loud handle
  obtain ⟨takes, place⟩ := outlet_congr regs r.basin r.outRing
  have ends : (d.reqs.filter (·.live)).foldl endOne d = finish d r 0x7F := by
    have found : findReq d r.slot = some r := by rw [findReq, only]; simp
    rw [only, List.filter_cons_of_pos up, List.filter_nil, List.foldl_cons, List.foldl_nil, endOne, found]
    exact if_pos up
  have queue : (finish d r 0x7F).host.comps = [r.comp 0x7F] := by rw [host, comps]; rfl
  have free : (finish d r 0x7F).host.held = [] := by rw [host]; exact held
  obtain ⟨flags, elapsed, mem⟩ := writeOne_hostMem (c := r.comp 0x7F) free (takes.trans ready)
  obtain ⟨q, bytes⟩ := compBytes_eq (r.comp 0x7F) (outPhase (finish d r 0x7F) (r.comp 0x7F).basin (r.comp 0x7F).ring) flags elapsed
  refine ⟨q, ?_⟩
  rw [endForReset_eq, ends, queue, List.foldl_cons, List.foldl_nil, mem, bytes, host]
  exact congrArg (fun p => Mem.writeL d.host.hostMem (r.basin * 2 ^ 64 + p) _) place

end Sys2Proof.Machine

namespace Sys2Proof.Proofs

open Sys2Proof.Machine Sys2Proof.Claims

/-! ### O3: the values right after reset -/

/-- Settles O3: each register reads the reset value of its table, and every list of objects is empty. -/
theorem resetValues : Obligations.ResetValues := by
  unfold Obligations.ResetValues
  refine ⟨by decide +kernel, by decide +kernel, fun b j hb hj => ?_, by decide +kernel, fun b pos hb => ?_, rfl, rfl, rfl, rfl, fun _ => rfl, rfl⟩
  · have word : live State.reset.dev (regA .ring b (0x410 + 0x20 * j)) = 0x10000 := (live_reset _).trans (regReset_outTail hb hj)
    rw [outTail, outPhase, liveN, word]
    decide
  · have word : live State.reset.dev (regA .bsn b 0x100) = 0 := (live_reset _).trans (regReset_bsnState pos hb)
    rw [basinState, liveN, word]
    rfl

/-! ### O7: the apply of an armed page -/

/-- RING_APPLY is the apply of the basin's RING page. -/
theorem ringApply_eq {s : State} {b : Nat} {a : Arming} (hb : b < 64) (page : a.page = pageNo .ring b) :
    exec (.ringApply b) s = exec (.blockApply a.page) s := by
  have op : exec (.ringApply b) s = ok s (ringApplyOp s.dev b) := rfl
  rw [op, ringApplyOp, if_pos hb, page]
  rfl

theorem blockApply_waits {s : State} {k : Blk} {i : Nat} {a : Arming} (page : pageOf a.page = some (k, i))
    (armed : s.dev.regs.armed.find? (fun x => decide (x.page = a.page)) = some a) (busy : atBoundary s.dev k i a.values = false) :
    exec (.blockApply a.page) s = .next s :=
  congrArg (ok s) (blockApplyOp_waits page armed busy)

theorem blockApply_applies {s : State} {k : Blk} {i : Nat} {a : Arming} (page : pageOf a.page = some (k, i))
    (armed : s.dev.regs.armed.find? (fun x => decide (x.page = a.page)) = some a) (spr : k ≠ .spr) (safe : atBoundary s.dev k i a.values = true) :
    exec (.blockApply a.page) s = .next (on s (startHeld (armingDone (applyVals s.dev k i a.values) a) k)) :=
  congrArg (ok s) ((blockApplyOp_armed page armed spr).trans (if_pos safe))

/-- Settles O7: an apply at the safe boundary lands the captured values, and a RING page's restarts the rings that change. -/
theorem armedBlocksApply : Obligations.ArmedBlocksApply := by
  unfold Obligations.ArmedBlocksApply
  refine ⟨fun s k i a page armed => ⟨blockApply_waits page armed, fun safe plain => ⟨?_, fun nodup x => live_landValues _ nodup⟩⟩,
    fun s b a hb page armed => ?_⟩
  · have spr : k ≠ .spr := by rintro rfl; exact absurd plain (by decide)
    rw [blockApply_applies page armed spr safe, applyVals_plain _ _ _ plain]
  · have ring : pageOf a.page = some (.ring, b) := page ▸ pageOf_ring hb
    rw [ringApply_eq hb page]
    exact ⟨blockApply_waits ring armed, fun safe => ⟨blockApply_applies ring armed (by decide) safe, fun i hi => ringRestart_in _ _ _ _ hi,
      fun j hj => ringRestart_out _ _ _ _ hj⟩⟩

/-! ### O9: the registers of a RING page -/

section
variable {s : State} {fn b r : Nat}

theorem inTail_writes (v : W32) (hb : b < 64) (hr : r < 16) (h : LandsOn s fn .ring b (0x20C + 0x20 * r)) :
    exec (.inTail fn b r v) s = .next (on s (inTailOp s.dev b r v)) :=
  (if_pos (decide_eq_true ⟨hb, hr⟩)).trans (put_ring v (by omega) h (ringWrite_inTail s.dev b v hr))

theorem outHead_writes (v : W32) (hb : b < 64) (hr : r < 16) (h : LandsOn s fn .ring b (0x40C + 0x20 * r)) :
    exec (.outHead fn b r v) s = .next (on s (outHeadOp s.dev b r v)) :=
  (if_pos (decide_eq_true ⟨hb, hr⟩)).trans (put_ring v (by omega) h (ringWrite_outHead s.dev b v hr))

theorem ringEnable_writes (v : W32) (hb : b < 64) (h : LandsOn s fn .ring b 0x104) :
    exec (.ringEnable fn b v) s = .next (on s (ringEnableOp s.dev b v)) :=
  (if_pos (decide_eq_true hb)).trans (put_ring v (by decide) h rfl)

theorem apply_arms {v : W32} (hb : b < 64) (h : LandsOn s fn .ring b 0x100) (one : v.getLsbD 0 = true) :
    exec (.apply fn b v) s = .next (on s (armPage s.dev (pageNo .ring b) [])) := by
  have arms : ringCtlOp s.dev b v = armPage s.dev (pageNo .ring b) [] := if_pos one
  rw [← arms]
  exact (if_pos (decide_eq_true hb)).trans (put_ring v (by decide) h rfl)

/-- A failed outlet ring that is enabled again is failed no more. -/
theorem ringEnableOp_back {d : Dev} {v : W32} {x : Nat × Nat} (hx : x ∈ (ringEnableOp d b v).host.failed) :
    x ∈ d.host.failed ∧ ¬(x.1 = b ∧ ringEnabled (ringEnableOp d b v) b (16 + x.2) = true) := by
  rw [ringEnableOp_failed, List.mem_filter] at hx
  refine ⟨hx.1, fun ⟨own, up⟩ => ?_⟩
  rw [ringEnabled, liveN_congr (ringEnableOp_regs d b v), ← ringEnabled, ringEnabled_enabledAs, Bool.and_eq_true] at up
  have back : x ∈ backRings d b v := List.mem_filter.2 ⟨hx.1, by rw [up.2, decide_eq_true own]; rfl⟩
  simp [back] at hx

end

/-- Settles O9: the two doorbells accept their ranges (R71, R74), RING_ENABLE acts bit by bit (R77, R98), and APPLY arms the page
(R76, R107, R117). -/
theorem ringRegisterWrites : Obligations.RingRegisterWrites := by
  unfold Obligations.RingRegisterWrites
  refine ⟨fun s fn b r v hb hr => ⟨inTail_writes v hb hr, outHead_writes v hb hr⟩, fun s fn b v hb h => ?_, fun s fn b v hb h one => ?_⟩
  · have regs := ringEnableOp_regs s.dev b v
    refine ⟨_, ringEnable_writes v hb h, ⟨rfl, rfl, rfl⟩, fun n hn => ?_, fun a ne => ?_, fun x => ringEnableOp_back, fun none' => ?_⟩
    · rw [ringEnabled, liveN_congr regs, ← ringEnabled, ringEnabled_enabledAs, decide_eq_true hn, Bool.true_and]
      rfl
    · rw [live_congr regs, enabledAs, live_setLiveN, if_neg (Ne.symm ne)]
    · rw [ringEnableOp_of_no_failed v none']
      rfl
  · rw [apply_arms hb h one, armPage, pageOf_ring hb]
    dsimp only
    refine ⟨fun idle still => ?_, fun waits => ?_⟩
    · rw [idle, still]
      rfl
    · rw [waits]
      rfl

/-! ### O14: streamed input that stays away -/

theorem inputStops_of_no_wait {s : State} {slot : Nat} {r : Req} (found : findReq s.dev slot = some r) (idle : r.awaiting = false) :
    exec (.inputIdle slot) s = .next s ∧ exec (.inputTimeout slot) s = .next s := by
  have noPark : inputIdleOp s.dev slot = s.dev := by
    rw [inputIdleOp, found]
    simp [idle]
  have noEnd : inputTimeoutOp s.dev slot = s.dev := by
    rw [inputTimeoutOp, found]
    simp [idle]
  exact ⟨congrArg (ok s) noPark, congrArg (ok s) noEnd⟩

/-- INPUT_IDLE_MS parks an awaiting request (R96). -/
theorem inputIdleOp_parks {d : Dev} {slot : Nat} {r : Req} (found : findReq d slot = some r) (up : r.live = true) (waits : r.awaiting = true)
    (free : r.parked = false) : inputIdleOp d slot = parkReq (advanceTo d (r.lastInput + msCycles (Prof.inputIdle (Req.prof d r)))) slot := by
  rw [inputIdleOp, found]
  dsimp only
  rw [up, waits, free]
  rfl

/-- INPUT_TTL_MS ends an awaiting request that is due for nothing else (R36, R96). -/
theorem inputTimeoutOp_ends {d : Dev} {slot : Nat} {r : Req} (found : findReq d slot = some r) (up : r.live = true) (waits : r.awaiting = true)
    (due : r.due = []) :
    ∃ e, inputTimeoutOp d slot = endReq e slot 0x10 ∧ findReq e slot = some { r with outLen := 0, busy := false } ∧
      e.now = max d.now (r.lastInput + msCycles (Prof.inputTtl (Req.prof d r))) := by
  obtain rfl := findReq_slot found
  have cut : findReq (modReq (advanceTo d (r.lastInput + msCycles (Prof.inputTtl (Req.prof d r)))) r.slot fun q => { q with outLen := 0 }) r.slot =
      some { r with outLen := 0 } := findReq_modReq (d := advanceTo d _) found fun _ h => h
  refine ⟨modReq (modReq (advanceTo d (r.lastInput + msCycles (Prof.inputTtl (Req.prof d r)))) r.slot fun q => { q with outLen := 0 }) r.slot
    fun q => { q with busy := false }, ?_, findReq_modReq cut fun _ h => h, rfl⟩
  rw [inputTimeoutOp, found]
  dsimp only
  rw [up, waits, Bool.and_self, if_pos rfl, endAt, reqProf, cut]
  dsimp only
  rw [due]
  rfl

/-- Settles O14: a request that awaits input parks (R94, R96) and then ends (R96); one that awaits none is left alone. -/
theorem streamedInputStops : Obligations.StreamedInputStops := by
  unfold Obligations.StreamedInputStops
  refine fun s slot r found => ⟨inputStops_of_no_wait found, fun up waits => ⟨fun free => ?_, fun loud due _ => ?_⟩⟩
  · have parked : findReq (parkReq (advanceTo s.dev (r.lastInput + msCycles (Prof.inputIdle (Req.prof s.dev r)))) slot) slot =
        some { (r.flag 10) with parked := true } := findReq_modReq (d := advanceTo s.dev _) found fun _ h => h
    exact ⟨_, congrArg (ok s) (inputIdleOp_parks found up waits free), ⟨rfl, rfl, rfl⟩, parked, rfl, rfl, rfl⟩
  · obtain ⟨e, op, cut, now⟩ := inputTimeoutOp_ends found up waits due
    obtain ⟨ended, comp, now'⟩ := endReq_spec (cls := 0x10) cut up loud
    have slotted := findReq_slot found
    exact ⟨_, _, congrArg (ok s) op, ⟨rfl, rfl, rfl⟩, ended, rfl, rfl, ⟨_, comp, congrArg some slotted, rfl, rfl, rfl⟩, now'.trans now⟩

/-! ### O49: PERST# and the device reset -/

/-- PERST# asserted on a module that runs and is not being reset (R473). -/
theorem perstAssert_resets {s : State} (run : running s.dev = true) (high : s.dev.power.perst = false) (up : s.dev.power.booting = false) :
    exec .perstAssert s = .next (onDev (resetTaken s 3) fun d => { d with power.perst := true }) := by
  have op : perstOnOp s = onDev (resetTaken s 3) fun d => { d with power.perst := true } := by
    rw [perstOnOp, high, if_neg Bool.false_ne_true, run, if_pos rfl, deviceResetOp_taken 3 up]
  exact congrArg okS op

/-- The key write of PF0 to RST_CTL: the requests end, then the module resets (R93, R445). -/
theorem deviceReset_resets {s : State} {v : W32} (h : LandsOn s 0 .rst 0 0x100) (ready : isReady s.dev = true) (one : v.getLsbD 0 = true)
    (key : bitsOf v.toNat 15 8 = 0xA5) (up : s.dev.power.booting = false) :
    exec (.deviceReset 0 v) s = .next (resetTaken (on s (endForReset s.dev)) 4) := by
  obtain ⟨r, land⟩ := h
  have link : running s.dev = true ∧ s.dev.power.perst = false := by
    obtain ⟨⟨ans, -⟩, -⟩ := land
    simp only [answers, linkUp, Bool.and_eq_true, Bool.not_eq_true'] at ans
    obtain ⟨⟨link, -⟩, -⟩ := ans
    exact link
  have op : rstCtlOp s 0 v = resetTaken (on s (endForReset s.dev)) 4 := by
    have still : (on s (endForReset s.dev)).dev.power.booting = false := (congrArg Power.booting (endForReset_keeps s.dev).power).trans up
    rw [rstCtlOp, if_pos ⟨rfl, one, key, link.1, by rw [link.2]; rfl⟩, ready, if_pos rfl]
    exact deviceResetOp_taken 4 still
  have act : actWrite s 0 .rst 0 0x100 v [] = some (rstCtlOp s 0 v) := rfl
  have write : exec (.deviceReset 0 v) s = put s 0 .rst 0 0x100 v := rfl
  rw [write, put_of_lands v (by decide) land, writeReg, act, op]
  rfl

/-- Settles O49: each reset is taken, and leaves what R428, R438 and R445 say; a request that lives at a device reset and holds
nothing has its completion first (R93). -/
theorem resets : Obligations.Resets := by
  unfold Obligations.Resets
  refine fun s => ⟨fun run high up => ?_, rfl, fun v land ready one key up => ?_⟩
  · obtain ⟨pending, cause, reqs, meas, unready, flash, spring, count⟩ := resetTaken_leaves s (cause := 3) (by decide)
    exact ⟨_, perstAssert_resets run high up, pending, rfl, cause, rfl, reqs, meas, unready, flash, spring, count⟩
  · have kept := endForReset_keeps s.dev
    obtain ⟨pending, cause, reqs, meas, unready, flash, spring, count⟩ :=
      (resetTaken_leaves (on s (endForReset s.dev)) (cause := 4) (by decide)).of_ended kept
    refine ⟨_, deviceReset_resets land ready one key up, pending, cause, kept.numVFs, reqs, meas, unready, flash, spring, count, ?_⟩
    intro r only live loud handle comps held _ takes
    obtain ⟨bs, mem⟩ := endForReset_alone only live loud handle comps held takes
    have host : (resetTaken (on s (endForReset s.dev)) 4).dev.host.hostMem = (endForReset s.dev).host.hostMem := rfl
    have bytes : (natLe 4 r.tag.toNat ++ natLe 4 (Desc.cookie r.desc) ++ natLe 1 0x7F).length = 9 := by
      simp only [List.length_append, length_natLe]
    dsimp only
    rw [host, mem, compPlace, ← bytes, ← Nat.add_assoc, ← Nat.add_assoc]
    exact readN_writeL_append ..

end Sys2Proof.Proofs

/-! SUPPORT. Writes whose register acts at once, the arming of a fire's members, and what a status event leaves of the registers. -/

namespace Sys2Proof.Machine

open Sys2Proof.Claims

/-! ### Writes that act at once -/

/-- A write that lands on a register whose write acts at once on the block proper has that effect, and no other. -/
theorem put_acts {s : State} {fn : Nat} {k : Blk} {i off : Nat} {f : Dev → Dev} (v : W32) (lt : off < 0x1000) (h : LandsOn s fn k i off)
    (act : actWrite s fn k i off v [] = some (onDev s f)) : put s fn k i off v = .next (on s (f s.dev)) := by
  obtain ⟨r, land⟩ := h
  rw [put_of_lands v lt land, writeReg, act]
  rfl

/-- Of the registers only live words, their copies, and what hardware set in SPR's cycle may differ. -/
def WordsOnly (d e : Dev) : Prop :=
  ∃ l c tick sets, e.regs = { d.regs with live := l, tmr := c, sprTick := tick, sprSets := sets }

theorem WordsOnly.trans {d e f : Dev} (h : WordsOnly d e) (g : WordsOnly e f) : WordsOnly d f := by
  obtain ⟨l, c, tick, sets, h⟩ := h
  obtain ⟨l', c', tick', sets', g⟩ := g
  exact ⟨l', c', tick', sets', by rw [g, h]⟩

theorem setLive_wordsOnly (d : Dev) (a : Nat) (v : W32) : WordsOnly d (setLive d a v) := ⟨_, _, _, _, rfl⟩

theorem noteSet_wordsOnly (d : Dev) (k : Blk) (i off : Nat) (h : HwSet) : WordsOnly d (noteSet d k i off h) := by
  unfold noteSet
  split
  · exact ⟨_, _, _, _, rfl⟩
  · exact ⟨_, _, _, _, rfl⟩

theorem capture_wordsOnly (d : Dev) (k : Blk) (i bit bs : Nat) (t d2 d3 : W32) : WordsOnly d (capture d k i bit bs t d2 d3) := by
  unfold capture
  split
  · exact ⟨_, _, _, _, rfl⟩
  · exact (((setLive_wordsOnly ..).trans (setLive_wordsOnly ..)).trans (setLive_wordsOnly ..)).trans (setLive_wordsOnly ..)

theorem setStat_wordsOnly (d : Dev) (k : Blk) (i bit bs : Nat) (t d2 d3 : W32) : WordsOnly d (setStat d k i bit bs t d2 d3) := by
  obtain ⟨l, c, tick, sets, e⟩ := ((noteSet_wordsOnly d k i 0x20 ⟨bit, bs, t, d2, d3⟩).trans (setLive_wordsOnly _ (regA k i 0x20) _)).trans
    (capture_wordsOnly _ k i bit bs t d2 d3)
  exact ⟨l, c, tick, sets, (setStat_regs d k i bit bs t d2 d3).trans e⟩

@[simp] theorem setStat_fires (d : Dev) (k : Blk) (i bit bs : Nat) (t d2 d3 : W32) :
    (setStat d k i bit bs t d2 d3).regs.fires = d.regs.fires := by
  obtain ⟨l, c, tick, sets, e⟩ := setStat_wordsOnly d k i bit bs t d2 d3
  rw [e]

@[simp] theorem setStat_staged (d : Dev) (k : Blk) (i bit bs : Nat) (t d2 d3 : W32) :
    (setStat d k i bit bs t d2 d3).regs.staged = d.regs.staged := by
  obtain ⟨l, c, tick, sets, e⟩ := setStat_wordsOnly d k i bit bs t d2 d3
  rw [e]

/-- The status bit of an event that has a place in the word is set. -/
theorem statBit_setStat (d : Dev) (k : Blk) (i bs : Nat) (t d2 d3 : W32) {bit : Nat} (h : bit < 32) :
    bitOf (liveN (setStat d k i bit bs t d2 d3) k i 0x20) bit = true := by
  rw [liveN, live_setStat_stat, bitOf_toNat, BitVec.getLsbD_or, getLsbD_bitWord _ _ h, decide_eq_true rfl, Bool.or_true]

/-! ### The members of a fire (R107, R108, R109) -/

theorem pageOf_of_mem_stagedPages {p : Nat} (h : p ∈ stagedPages) : ∃ k i, pageOf p = some (k, i) := by
  have staged := (List.mem_filter.1 h).2
  split at staged
  · rename_i k i page; exact ⟨k, i, page⟩
  · cases staged

/-- A page is armed for a group's fire, or its arming for it waits. -/
def ArmedOrWaits (d : Dev) (p g : Nat) : Prop := (∃ a ∈ d.regs.armed, a.page = p ∧ g ∈ a.groups) ∨ (p, some g) ∈ d.regs.waiting

/-- Armings have been added: of everything else only the pending pages may differ. -/
structure ArmsMore (d e : Dev) : Prop where
  armed : ∀ a ∈ d.regs.armed, a ∈ e.regs.armed
  waiting : ∀ w ∈ d.regs.waiting, w ∈ e.regs.waiting
  only : ∃ a w p, e = { d with regs := { d.regs with armed := a, waiting := w, pendingPages := p } }

theorem ArmsMore.refl (d : Dev) : ArmsMore d d := ⟨fun _ h => h, fun _ h => h, _, _, _, rfl⟩

theorem ArmsMore.trans {d e f : Dev} (h : ArmsMore d e) (g : ArmsMore e f) : ArmsMore d f := by
  obtain ⟨_, _, _, rfl⟩ := h.only
  obtain ⟨a, w, p, eq⟩ := g.only
  exact ⟨fun x hx => g.armed x (h.armed x hx), fun x hx => g.waiting x (h.waiting x hx), a, w, p, eq⟩

theorem ArmedOrWaits.mono {d e : Dev} {p g : Nat} (h : ArmedOrWaits d p g) (more : ArmsMore d e) : ArmedOrWaits e p g := by
  rcases h with ⟨a, ha, own⟩ | h
  · exact .inl ⟨a, more.armed a ha, own⟩
  · exact .inr (more.waiting _ h)

/-- A member is armed, or waits for its turn. -/
theorem armPage_member (d : Dev) {p g : Nat} (h : p ∈ stagedPages) : ArmsMore d (armPage d p [g]) ∧ ArmedOrWaits (armPage d p [g]) p g := by
  obtain ⟨k, i, page⟩ := pageOf_of_mem_stagedPages h
  rw [armPage, page]
  dsimp only
  split
  · exact ⟨⟨fun _ h => h, fun _ h => List.mem_append_left _ h, _, _, _, rfl⟩, .inr (List.mem_append_right _ (by simp))⟩
  · exact ⟨⟨fun _ h => List.mem_append_left _ h, fun _ h => h, _, _, _, rfl⟩,
      .inl ⟨_, List.mem_append_right _ (List.mem_singleton_self _), rfl, List.mem_singleton_self _⟩⟩

theorem foldl_armPage_members {g : Nat} (ps : List Nat) (h : ∀ p ∈ ps, p ∈ stagedPages) (d : Dev) :
    ArmsMore d (ps.foldl (fun d p => armPage d p [g]) d) ∧ ∀ p ∈ ps, ArmedOrWaits (ps.foldl (fun d p => armPage d p [g]) d) p g := by
  induction ps generalizing d with
  | nil => exact ⟨.refl d, fun _ h => absurd h List.not_mem_nil⟩
  | cons p ps ih =>
    obtain ⟨one, own⟩ := armPage_member d (g := g) (h p List.mem_cons_self)
    obtain ⟨rest, each⟩ := ih (fun q hq => h q (List.mem_cons_of_mem _ hq)) (armPage d p [g])
    refine ⟨one.trans rest, fun q hq => ?_⟩
    rcases List.mem_cons.1 hq with rfl | hq
    · exact own.mono rest
    · exact each q hq

theorem mem_stagedPages_of_member {d : Dev} {g p : Nat} (h : p ∈ membersOf d g) : p ∈ stagedPages := (List.mem_filter.1 h).1

/-! ### Fires (R109, R110) -/

/-- The block with a fire of the group begun at the present instant. -/
def fireBegun (d : Dev) (g : Nat) : Dev := { d with regs.fires := d.regs.fires ++ [⟨g, membersOf d g, d.now, false, 0⟩] }

theorem startFire_eq (d : Dev) (g : Nat) :
    startFire d g =
      if membersOf d g = [] then completeFire ((membersOf d g).foldl (fun d p => armPage d p [g]) (fireBegun d g)) g
      else (membersOf d g).foldl (fun d p => armPage d p [g]) (fireBegun d g) := rfl

/-- A write of one bit fires the bit's group alone. -/
theorem fireMask_one (d : Dev) {g : Nat} (h : g < 16) : fireMask d (BitVec.ofNat 32 (2 ^ g)).toNat = fireGroup d g := by
  have one : ∀ g < 16, (List.range 16).filter (fun b => bitOf (BitVec.ofNat 32 (2 ^ g)).toNat b) = [g] := by decide
  rw [fireMask, one g h]
  rfl

theorem any_fire_iff {d : Dev} {g : Nat} : d.regs.fires.any (fun f => decide (f.group = g)) = true ↔ ∃ f ∈ d.regs.fires, f.group = g := by
  simp only [List.any_eq_true, decide_eq_true_eq]

/-- A fire of a group that has one in progress is queued, or merges with the one queued. -/
theorem fireGroup_busy {d : Dev} {g : Nat} (h : ∃ f ∈ d.regs.fires, f.group = g) :
    fireGroup d g = if g ∈ d.regs.queued then d else { d with regs.queued := d.regs.queued ++ [g] } := by
  rw [fireGroup, if_pos (any_fire_iff.2 h)]
  simp only [List.contains_iff_mem]

theorem fireGroup_idle {d : Dev} {g : Nat} (h : ∀ f ∈ d.regs.fires, f.group ≠ g) : fireGroup d g = startFire d g := by
  rw [fireGroup, if_neg fun busy => ?_]
  obtain ⟨f, hf, own⟩ := any_fire_iff.1 busy
  exact h f hf own

/-- A fire with members is in progress, every member armed or waiting, and nothing else has changed. -/
theorem startFire_members {d : Dev} {g : Nat} (some' : membersOf d g ≠ []) :
    (startFire d g).regs.fires = d.regs.fires ++ [⟨g, membersOf d g, d.now, false, 0⟩] ∧
      (∀ p ∈ membersOf d g, ArmedOrWaits (startFire d g) p g) ∧ (startFire d g).regs.live = d.regs.live ∧
      startFire d g = { d with regs := (startFire d g).regs } := by
  obtain ⟨more, each⟩ := foldl_armPage_members (g := g) (membersOf d g) (fun _ => mem_stagedPages_of_member) (fireBegun d g)
  obtain ⟨a, w, p, only⟩ := more.only
  rw [startFire_eq, if_neg some']
  exact ⟨by rw [only]; rfl, each, by rw [only]; rfl, by rw [only]; rfl⟩

/-- The block with a fire's completion counted and its DONE bit set. -/
def fireCounted (d : Dev) (g : Nat) : Dev :=
  setLiveBit (count { d with regs.fires := d.regs.fires.filter (fun f => !decide (f.group = g)) } .ripple 0 (0x140 + 4 * g) 1) (regA .ripple 0 0x118) g true

theorem completeFire_eq (d : Dev) (g : Nat) : completeFire d g = setStat (fireCounted d g) .ripple 0 0 := rfl

/-- A fire that completes is no longer in progress; its count has risen by one and its DONE bit is set. -/
theorem completeFire_spec (d : Dev) {g : Nat} (h : g < 16) :
    (completeFire d g).regs.fires = d.regs.fires.filter (fun f => !decide (f.group = g)) ∧
      live (completeFire d g) (regA .ripple 0 (0x140 + 4 * g)) = live d (regA .ripple 0 (0x140 + 4 * g)) + 1 ∧
      (live (completeFire d g) (regA .ripple 0 0x118)).getLsbD g = true := by
  have apart : regA .ripple 0 0x118 ≠ regA .ripple 0 (0x140 + 4 * g) := fun e => by have := regA_inj .ripple 0 e; omega
  have plain (o : Nat) (ho : 0x100 ≤ o) : regA .ripple 0 o ∉ statRegs .ripple 0 := fun m => by
    simp only [statRegs, List.map_cons, List.map_nil, List.mem_cons, List.not_mem_nil, or_false] at m
    rcases m with e | e | e | e | e <;> (have := regA_inj .ripple 0 e; omega)
  rw [completeFire_eq]
  refine ⟨by rw [setStat_fires]; rfl, ?_, ?_⟩
  · rw [live_setStat_ne _ _ _ _ _ _ _ _ (plain _ (by omega)), fireCounted, live_setLiveBit_ne _ _ _ apart, live_count, if_pos rfl]
    rfl
  · rw [live_setStat_ne _ _ _ _ _ _ _ _ (plain _ (by omega)), fireCounted, setLiveBit, live_setLive_self, if_pos rfl, BitVec.getLsbD_or,
      getLsbD_bitWord _ _ (by omega), decide_eq_true rfl, Bool.or_true]

theorem startFire_alone {d : Dev} {g : Nat} (none' : membersOf d g = []) : startFire d g = completeFire (fireBegun d g) g := by
  rw [startFire_eq, if_pos none', none', List.foldl_nil]

/-- The fires in progress once a fire without members has completed: those from before. -/
theorem startFire_alone_fires {d : Dev} {g : Nat} (idle : ∀ f ∈ d.regs.fires, f.group ≠ g) :
    (fireBegun d g).regs.fires.filter (fun f => !decide (f.group = g)) = d.regs.fires := by
  have own : (d.regs.fires.filter (fun f => !decide (f.group = g))) = d.regs.fires := List.filter_eq_self.2 fun f hf => by simp [idle f hf]
  rw [fireBegun, List.filter_append, own, List.filter_cons_of_neg (by simp), List.filter_nil, List.append_nil]

/-! ### The slow threshold (R111) -/

/-- A fire made slow, its laggard named, and SLOW set. -/
theorem setSlow_spec (d : Dev) (g lag : Nat) :
    bitOf (liveN (setSlow d g lag) .ripple 0 0x20) 1 = true ∧ (setSlow d g lag).now = d.now ∧
      (setSlow d g lag).regs.fires = modWhere (fun f => decide (f.group = g)) (fun f => { f with slow := true, laggard := lag }) d.regs.fires ∧
      (setSlow d g lag).regs.staged = d.regs.staged ∧ (setSlow d g lag).mem = d.mem ∧ (setSlow d g lag).reqs = d.reqs := by
  rw [setSlow]
  exact ⟨statBit_setStat _ _ _ _ _ _ _ (by decide), setStat_now .., setStat_fires .., setStat_staged .., setStat_mem .., setStat_reqs ..⟩

/-- The group's fire is found as the one that was there, slow now. -/
theorem find?_slowed (fs : List Fire) (g lag : Nat) :
    (modWhere (fun f => decide (f.group = g)) (fun f => { f with slow := true, laggard := lag }) fs).find? (fun f => decide (f.group = g)) =
      (fs.find? fun f => decide (f.group = g)).map fun f => { f with slow := true, laggard := lag } :=
  find?_modWhere_self (fun f : Fire => decide (f.group = g)) _ fs fun _ h => h

/-- One fire judged by the threshold that has just been written. -/
def tmoFire (d : Dev) (f : Fire) : Dev :=
  if overdue d f then setSlow (draw d).2 f.group (f.members.getD (Config.laggardPick d.fresh % f.members.length) 0)
  else { d with regs.fires := modWhere (fun g => decide (g.group = f.group)) (fun g => { g with slow := false }) d.regs.fires }

theorem tmoOp_eq (d : Dev) (v : W32) :
    tmoOp d v = d.regs.fires.foldl tmoFire (setLiveN d .ripple 0 0x110 (v.toNat % 2 ^ 24)) := rfl

/-- What the judging of fires leaves: the time, the threshold, and SLOW where it is set. -/
structure Judged (d e : Dev) : Prop where
  now : e.now = d.now
  tmo : live e (regA .ripple 0 0x110) = live d (regA .ripple 0 0x110)
  slow : bitOf (liveN d .ripple 0 0x20) 1 = true → bitOf (liveN e .ripple 0 0x20) 1 = true

theorem Judged.refl (d : Dev) : Judged d d := ⟨rfl, rfl, id⟩

theorem Judged.trans {d e f : Dev} (h : Judged d e) (g : Judged e f) : Judged d f :=
  ⟨g.now.trans h.now, g.tmo.trans h.tmo, fun s => g.slow (h.slow s)⟩

theorem Judged.overdue {d e : Dev} (h : Judged d e) (f : Fire) : overdue e f = overdue d f :=
  decide_eq_decide.2 (by simp only [liveN, h.tmo, h.now])

theorem setSlow_judged (d : Dev) (g lag : Nat) : Judged d (setSlow d g lag) := by
  obtain ⟨slow, now, -⟩ := setSlow_spec d g lag
  exact ⟨now, live_setStat_ne _ _ _ _ _ _ _ _ (by decide), fun _ => slow⟩

theorem tmoFire_judged (d : Dev) (f : Fire) : Judged d (tmoFire d f) := by
  unfold tmoFire
  split
  · have drawn : Judged d (draw d).2 := ⟨rfl, rfl, id⟩
    exact drawn.trans (setSlow_judged (draw d).2 _ _)
  · exact ⟨rfl, rfl, id⟩

theorem foldl_tmoFire_judged (fs : List Fire) (d : Dev) : Judged d (fs.foldl tmoFire d) := by
  induction fs generalizing d with
  | nil => exact .refl d
  | cons f fs ih => exact (tmoFire_judged d f).trans (ih _)

/-- An overdue fire among those judged sets SLOW. -/
theorem foldl_tmoFire_slow (fs : List Fire) (d : Dev) (h : ∃ f ∈ fs, overdue d f = true) :
    bitOf (liveN (fs.foldl tmoFire d) .ripple 0 0x20) 1 = true := by
  induction fs generalizing d with
  | nil => obtain ⟨f, hf, -⟩ := h; cases hf
  | cons f fs ih =>
    obtain ⟨x, hx, late⟩ := h
    rw [List.foldl_cons]
    rcases List.mem_cons.1 hx with rfl | hx
    · refine (foldl_tmoFire_judged fs _).slow ?_
      rw [tmoFire, if_pos late]
      exact (setSlow_spec ..).1
    · exact ih _ ⟨x, hx, by rw [(tmoFire_judged d f).overdue, late]⟩

end Sys2Proof.Machine

/-! SUPPORT. The statement on ripple fires and their threshold. -/

namespace Sys2Proof.Proofs

open Sys2Proof.Machine Sys2Proof.Claims

/-! ### O6: ripple fires and RIPPLE_TMO -/

theorem rippleFire_fires {s : State} {g : Nat} (hg : g < 16) (h : LandsOn s 0 .ripple 0 0x100) :
    exec (.rippleFire 0 (BitVec.ofNat 32 (2 ^ g))) s = .next (on s (fireGroup s.dev g)) := by
  have write : exec (.rippleFire 0 (BitVec.ofNat 32 (2 ^ g))) s = put s 0 .ripple 0 0x100 (BitVec.ofNat 32 (2 ^ g)) := rfl
  rw [write, put_acts _ (by decide) h rfl, if_pos rfl, fireMask_one _ hg]

theorem rippleTmo_judges {s : State} {fn : Nat} (v : W32) (h : LandsOn s fn .ripple 0 0x110) :
    exec (.rippleTmo fn v) s = .next (on s (tmoOp s.dev v)) := put_acts (f := (tmoOp · v)) v (by decide) h rfl

/-- RIPPLE_TMO after a write: the value, in its 24 bits. -/
theorem reg_tmoOp (s : State) (v : W32) : reg (on s (tmoOp s.dev v)) .ripple 0 0x110 = v.toNat % 2 ^ 24 := by
  rw [reg, liveN, tmoOp_eq, (foldl_tmoFire_judged _ _).tmo, live_setLiveN, if_pos rfl, BitVec.toNat_ofNat]
  omega

theorem rippleSlow_slows {s : State} {f : Fire} {lag : Nat}
    (found : s.dev.regs.fires.find? (fun x => decide (x.group = f.group)) = some f) (fast : f.slow = false) (mem : lag ∈ f.members)
    (set : liveN s.dev .ripple 0 0x110 % 2 ^ 24 ≠ 0) :
    exec (.rippleSlow f.group lag) s =
      .next (on s (setSlow (advanceTo s.dev (f.start + usCycles (liveN s.dev .ripple 0 0x110 % 2 ^ 24))) f.group lag)) := by
  refine congrArg (ok s) ?_
  rw [rippleSlowOp, found]
  dsimp only
  rw [if_neg (not_or.2 ⟨set, not_or.2 ⟨by simp [fast], by simp [mem]⟩⟩)]

/-- Settles O6: a fire is queued, merged, begun or completed at once (R107 to R110); RIPPLE_TMO judges the fires in progress, and
a fire that reaches it becomes slow (R111). -/
theorem rippleFiresAndThreshold : Obligations.RippleFiresAndThreshold := by
  unfold Obligations.RippleFiresAndThreshold
  refine ⟨fun s g v hg one land => ?_, fun s fn v land => ?_, fun s f lag found fast mem tmo => ?_⟩
  · subst one
    rw [rippleFire_fires hg land]
    refine ⟨fun busy fresh => ?_, fun busy queued => ?_, fun idle some' => ?_, fun idle none' => ?_⟩
    · rw [fireGroup_busy busy, if_neg fresh]
    · rw [fireGroup_busy busy, if_pos queued]
    · rw [fireGroup_idle idle]
      exact ⟨_, rfl, ⟨rfl, rfl, rfl⟩, startFire_members some'⟩
    · obtain ⟨fires, counted, done⟩ := completeFire_spec (fireBegun s.dev g) hg
      rw [fireGroup_idle idle, startFire_alone none']
      exact ⟨_, rfl, ⟨rfl, rfl, rfl⟩, fires.trans (startFire_alone_fires idle), counted, done, statBit_setStat _ _ _ _ _ _ _ (by decide)⟩
  · refine ⟨_, rippleTmo_judges v land, ⟨rfl, rfl, rfl⟩, reg_tmoOp s v, fun none' => ?_, foldl_tmoFire_slow _ _⟩
    rw [tmoOp_eq, none']
    rfl
  · obtain ⟨slow, now, fires, staged, mem', reqs⟩ :=
      setSlow_spec (advanceTo s.dev (f.start + usCycles (liveN s.dev .ripple 0 0x110 % 2 ^ 24))) f.group lag
    refine ⟨_, rippleSlow_slows found fast mem tmo, ⟨rfl, rfl, rfl⟩, slow, now, ?_, staged, mem', reqs⟩
    rw [fires, find?_slowed]
    exact congrArg (Option.map _) found

end Sys2Proof.Proofs

/-! SUPPORT. What leaves every firmware processor as it was: its state, and the restarts that are queued. -/

namespace Sys2Proof.Machine

open Sys2Proof.Claims

/-! ### Words that other work leaves -/

@[simp] theorem setStat_flash (d : Dev) (k : Blk) (i bit bs : Nat) (t d2 d3 : W32) : (setStat d k i bit bs t d2 d3).flash = d.flash := by
  obtain ⟨r, q, p, w, e⟩ := setStat_eq d k i bit bs t d2 d3
  rw [e]

@[simp] theorem setStat_eng (d : Dev) (k : Blk) (i bit bs : Nat) (t d2 d3 : W32) : (setStat d k i bit bs t d2 d3).eng = d.eng := by
  obtain ⟨r, q, p, w, e⟩ := setStat_eq d k i bit bs t d2 d3
  rw [e]

/-- A write of some bits of a word leaves every other word. -/
theorem live_setPart_ne {a b : Nat} (d : Dev) (m v : W32) (h : a ≠ b) : live (setPart d a m v) b = live d b := by
  refine view_congr (st := false) (SMap.get_set_ne _ _ _ h) (find?_modWhere_ne _ _ _ _ fun t own => ?_)
  simp only [Bool.and_eq_true, decide_eq_true_eq] at own
  simp [own.1, h]

/-- A register at another offset than a page's status and capture registers is none of any page's. -/
theorem regA_not_mem_statRegs {k k' : Blk} {i i' off : Nat} (lt : off < 0x1000) (ho : off ∉ [0x20, 0x30, 0x34, 0x38, 0x3C]) :
    regA k i off ∉ statRegs k' i' := fun m => by
  obtain ⟨o, mem, e⟩ := List.mem_map.1 m
  have small : o < 0x1000 := by
    simp only [List.mem_cons, List.not_mem_nil, or_false] at mem
    omega
  exact regA_ne_of_off small lt (fun same => ho (same ▸ mem)) e

theorem regA_not_mem_logRegs {k : Blk} {i off : Nat} (lt : off < 0x1000) (ho : off ∉ [0x10C, 0x20, 0x30, 0x34, 0x38, 0x3C]) :
    regA k i off ∉ logRegs := fun m => by
  rw [List.mem_cons, not_or] at ho
  rcases List.mem_cons.1 m with e | m
  · exact regA_ne_of_off lt (by decide) ho.1 e
  · exact regA_not_mem_statRegs lt ho.2 m

/-! ### The processors' states and their queue of restarts -/

/-- Every firmware processor's state and the queued restarts are as before. -/
structure FwpKept (d e : Dev) : Prop where
  restarts : e.flash.restarts = d.flash.restarts
  states : ∀ n, live e (regA .fwp n 0x100) = live d (regA .fwp n 0x100)

namespace FwpKept

theorem refl (d : Dev) : FwpKept d d := ⟨rfl, fun _ => rfl⟩

variable {d e : Dev}

theorem trans {f : Dev} (h : FwpKept d e) (g : FwpKept e f) : FwpKept d f :=
  ⟨g.restarts.trans h.restarts, fun n => (g.states n).trans (h.states n)⟩

/-- A change outside the registers and the restarts. -/
theorem aside {f : Dev} (h : FwpKept d e) (regs : f.regs = e.regs := by rfl) (restarts : f.flash.restarts = e.flash.restarts := by rfl) :
    FwpKept d f := h.trans ⟨restarts, fun _ => live_congr regs _⟩

theorem ite {c : Prop} [Decidable c] {x y : Dev} (hx : FwpKept d x) (hy : FwpKept d y) : FwpKept d (if c then x else y) := by
  split
  · exact hx
  · exact hy

theorem foldl {α : Type} {f : Dev → α → Dev} (h : FwpKept d e) (xs : List α) (step : ∀ e x, FwpKept e (f e x)) : FwpKept d (xs.foldl f e) := by
  induction xs generalizing e with
  | nil => exact h
  | cons x xs ih => exact ih (h.trans (step e x))

theorem setLive (h : FwpKept d e) (k : Blk) (i off : Nat) (v : W32) (lt : off < 0x1000 := by decide) (ne : off ≠ 0x100 := by decide) :
    FwpKept d (setLive e (regA k i off) v) :=
  h.trans ⟨rfl, fun _ => live_setLive_ne _ _ (regA_ne_of_off lt (by decide) ne)⟩

theorem count (h : FwpKept d e) (k : Blk) (i off n : Nat) (lt : off < 0x1000 := by decide) (ne : off ≠ 0x100 := by decide) :
    FwpKept d (count e k i off n) := h.setLive k i off _ lt ne

theorem setStat (h : FwpKept d e) (k : Blk) (i bit bs : Nat) (t d2 d3 : W32) : FwpKept d (setStat e k i bit bs t d2 d3) :=
  h.trans ⟨by rw [setStat_flash], fun _ => live_setStat_ne _ _ _ _ _ _ _ _ (regA_not_mem_statRegs (by decide) (by decide))⟩

theorem logEvent (h : FwpKept d e) (kind source bs : Nat) (t : W32) (loc det ep : Nat) :
    FwpKept d (logEvent e kind source bs t loc det ep) :=
  h.trans ⟨by rw [logEvent_flash], fun _ => live_logEvent_ne _ _ _ _ _ _ _ _ (regA_not_mem_logRegs (by decide) (by decide))⟩

theorem setLink (h : FwpKept d e) (p st width peer : Nat) : FwpKept d (setLink e p st width peer) :=
  h.trans ⟨rfl, fun _ => live_setPart_ne _ _ _ (regA_ne_of_off (by decide) (by decide) (by decide))⟩

/-! ### The end of a request -/

theorem workDone (h : FwpKept d e) (r : Req) (cls : Nat) : FwpKept d (workDone e r cls) := by
  have back := releaseWork_back e r
  have given : FwpKept d (releaseWork e r) :=
    h.trans ⟨congrArg _ back.flash, fun n => back.words _ (regA_ne_of_off (by decide) (by decide) (by decide))⟩
  exact .ite ((given.aside).count .bsn r.basin 0x164 1) given.aside

theorem finish (h : FwpKept d e) (r : Req) (cls : Nat) : FwpKept d (finish e r cls) := by
  rw [finish_eq]
  exact .ite (h.workDone r cls).aside (h.workDone r cls).aside

theorem endReq (h : FwpKept d e) (slot cls : Nat) : FwpKept d (endReq e slot cls) := by
  unfold Machine.endReq
  split
  · exact h
  · exact .ite ((h.finish _ cls).foldl _ fun e r => (refl e).finish r 0x11) h

theorem settle (h : FwpKept d e) : FwpKept d (settle e) := h.foldl _ fun e r => (refl e).endReq r.slot _

/-! ### Frames and routes -/

theorem countTx (h : FwpKept d e) (p n : Nat) : FwpKept d (countTx e p n) := (h.count .ndl p 0x118 _).aside

theorem sendFrame (h : FwpKept d e) (p typ src dst domain key : Nat) (body : List Byte) :
    FwpKept d (sendFrame e p typ src dst domain key body) := .ite h.aside (h.countTx p 1).aside

theorem sendFrom (h : FwpKept d e) (src : Nat) (m : Msg) : FwpKept d (sendFrom e src m) := by
  unfold Machine.sendFrom
  refine .ite h.aside ?_
  split
  · exact .ite h.aside (h.sendFrame ..)
  · exact h

theorem sendMsg (h : FwpKept d e) (m : Msg) : FwpKept d (sendMsg e m) := h.sendFrom _ m

/-! ### Linked sets -/

theorem endMember (h : FwpKept d e) (dom key cls : Nat) : FwpKept d (endMember e dom key cls) := by
  unfold Machine.endMember
  split
  · exact h
  · refine .ite h.aside (settle ?_)
    exact h.aside

theorem renewSet (h : FwpKept d e) (dom key : Nat) : FwpKept d (renewSet e dom key) := by
  unfold Machine.renewSet
  split
  · exact h
  · exact .ite h.aside h.aside

theorem endSet (h : FwpKept d e) (dom key cls skip : Nat) : FwpKept d (endSet e dom key cls skip) := by
  unfold Machine.endSet
  split
  · exact h
  · exact (h.renewSet dom key).foldl _ fun e m => .ite ((refl e).endMember dom key cls) ((refl e).sendMsg _)

theorem startSet (h : FwpKept d e) (dom key fuel : Nat) : FwpKept d (startSet dom key fuel e) := by
  induction fuel generalizing e with
  | zero => exact h
  | succ fuel ih =>
    unfold Machine.startSet
    split
    · exact h
    · refine .ite h (.ite (ih (h.endSet ..)) (foldl h.aside _ fun e m => .ite ?_ ((refl e).sendMsg _)))
      split
      · exact (refl e).aside
      · exact refl e

theorem startNext (h : FwpKept d e) (dom key : Nat) : FwpKept d (startNext e dom key) := h.startSet dom key _

theorem fenceHomes (h : FwpKept d e) (p fuel : Nat) : FwpKept d (fenceHomes p fuel e) := by
  induction fuel generalizing e with
  | zero => exact h
  | succ fuel ih =>
    unfold Machine.fenceHomes
    split
    · exact h
    · exact ih (((h.count .ndl p 0x128 1).endSet ..).startNext ..)

theorem fenceSets (h : FwpKept d e) (p : Nat) : FwpKept d (fenceSets e p) :=
  ((h.fenceHomes p _).count .ndl p 0x128 _).foldl _ fun e x => (refl e).endMember x.1 x.2 0x61

/-! ### What FWP5 takes up again -/

theorem notice (h : FwpKept d e) (ports : List Nat) (src : Nat) (peers : List Nat) : FwpKept d (notice e ports src peers) :=
  h.foldl _ fun e _ => (refl e).sendFrame ..

theorem flood (h : FwpKept d e) : FwpKept d (flood e) := (h.notice ..).foldl _ fun e t => (refl e).notice _ t.1 t.2

theorem newRoutes (h : FwpKept d e) (p : Nat) : FwpKept d (newRoutes e p) :=
  .ite h (foldl (((h.aside).flood).fenceSets p) _ fun e m => (refl e).sendFrom m.1 m.2)

theorem takeNotice (h : FwpKept d e) (p src : Nat) (peers : List Nat) : FwpKept d (takeNotice e p src peers) :=
  .ite h (((h.aside).notice ..).fenceSets p)

theorem lowerLink (h : FwpKept d e) (p : Nat) : FwpKept d (lowerLink e p) := ((h.countTx p 0).setLink ..).aside

theorem retrainOp (h : FwpKept d e) (p : Nat) : FwpKept d (retrainOp e p) := .ite h (.ite h.aside (.ite h (h.lowerLink p)))

theorem readmitOp (h : FwpKept d e) (p : Nat) : FwpKept d (readmitOp e p) :=
  .ite h (.ite h.aside (.ite h ((((h.setLink ..).aside).logEvent ..).newRoutes p)))

theorem linksResume (h : FwpKept d e) : FwpKept d (linksResume e) :=
  foldl (foldl ((h.aside).newRoutes _) _ fun e n => (refl e).takeNotice ..) _ fun e a => .ite ((refl e).retrainOp a.1) ((refl e).readmitOp a.1)

/-! ### What FWP4 takes up again -/

theorem preemptOne (h : FwpKept d e) (c : Ctx) : FwpKept d (preemptOne e c) :=
  (((h.aside).count .sync c.mere 0x110 1).aside)

theorem tellAll (h : FwpKept d e) (dom key op : Nat) : FwpKept d (tellAll e dom key op) := by
  unfold Machine.tellAll
  split
  · exact h.foldl _ fun e m => (refl e).sendMsg _
  · exact h

theorem tellSet (h : FwpKept d e) (c : Ctx) : FwpKept d (tellSet e c) := by
  unfold Machine.tellSet
  split
  · exact h
  · exact .ite (h.tellAll ..) (h.sendMsg _)

theorem preemptSet (h : FwpKept d e) (set : Nat) (tell : Bool) : FwpKept d (preemptSet e set tell) :=
  h.foldl _ fun e c => .ite (((refl e).preemptOne c).tellSet c) ((refl e).preemptOne c)

theorem emptyMere (h : FwpKept d e) (m : Nat) : FwpKept d (emptyMere e m) := h.foldl _ fun e c => (refl e).preemptSet c.set true

theorem wantSpare (h : FwpKept d e) (m : Nat) : FwpKept d (wantSpare e m) := .ite ((h.aside).emptyMere m) h.aside

/-! ### What FWP2 takes up again -/

theorem wear (h : FwpKept d e) : FwpKept d (wear e) := by
  have worn : FwpKept d { (draw e).2 with mem.spare := min e.mem.spare (Config.sparePct e.fresh) } := h.aside
  exact .ite ((FwpKept.ite (worn.setStat ..) worn).setStat ..) (.ite (worn.setStat ..) worn)

theorem programSector (h : FwpKept d e) (b s : Nat) : FwpKept d (programSector e b s) := h.wear.aside

theorem relocate (h : FwpKept d e) (b s : Nat) : FwpKept d (relocate e b s) := .ite h (.ite (h.programSector b s) h.aside)

theorem releaseMoves (h : FwpKept d e) : FwpKept d (releaseMoves e) :=
  foldl h.aside _ fun e x => .ite ((refl e).relocate x.1 x.2) (refl e)

theorem readmitDie (h : FwpKept d e) (n : Nat) : FwpKept d (readmitDie e n) := by
  have moved := h.foldl (onDie e n) fun e x => (refl e).relocate x.1 x.2
  exact .ite h (((moved.aside).aside).logEvent ..)

theorem releaseReadmits (h : FwpKept d e) : FwpKept d (releaseReadmits e) :=
  foldl h.releaseMoves.aside _ fun e n => (refl e).readmitDie n

end FwpKept

end Sys2Proof.Machine

/-! SUPPORT. Restarts of firmware processors, their watchdogs and their protection units. -/

namespace Sys2Proof.Machine

open Sys2Proof.Claims

/-! ### Measurement, and the services that a restart takes up again -/

/-- The queue, the TAP, the processors' states and their queue of restarts are as before. -/
structure ServiceKept (s t : State) : Prop where
  pending : t.pending = s.pending
  tap : t.tap = s.tap
  fwp : FwpKept s.dev t.dev

theorem ServiceKept.refl (s : State) : ServiceKept s s := ⟨rfl, rfl, .refl _⟩

theorem ServiceKept.trans {s t u : State} (h : ServiceKept s t) (g : ServiceKept t u) : ServiceKept s u :=
  ⟨g.pending.trans h.pending, g.tap.trans h.tap, h.fwp.trans g.fwp⟩

theorem ServiceKept.onDev (s : State) {f : Dev → Dev} (h : FwpKept s.dev (f s.dev)) : ServiceKept s (onDev s f) := ⟨rfl, rfl, h⟩

/-- An extension of a slot leaves flash, too (R438). -/
theorem extend_kept (s : State) (slot etype target bank version : Nat) (v : BitVec 384) :
    ServiceKept s (extend s slot etype target bank version v) ∧ (extend s slot etype target bank version v).dev.flash = s.dev.flash := by
  have counted : FwpKept s.dev (count s.dev .meas 0 0x114 1) := (FwpKept.refl _).count ..
  unfold extend
  dsimp only
  split
  · exact ⟨⟨rfl, rfl, (counted.count .meas 0 0x110 1).setStat ..⟩, setStat_flash ..⟩
  · exact ⟨⟨rfl, rfl, counted.count .meas 0 0x10C 1⟩, rfl⟩

theorem extWaiting_kept (s : State) : ServiceKept s (extWaiting s) := by
  have step (ws : List (Nat × BitVec 384)) (t : State) : ServiceKept t (ws.foldl (fun s w => extend s w.1 5 0xFF 0xFF 0 w.2) t) := by
    induction ws generalizing t with
    | nil => exact .refl t
    | cons w ws ih => exact (extend_kept t w.1 5 0xFF 0xFF 0 w.2).1.trans (ih _)
  have cleared : ServiceKept s { s with meas := { s.meas with waiting := [] } } := ⟨rfl, rfl, .refl _⟩
  exact cleared.trans (step s.meas.waiting _)

theorem resumeService_kept (s : State) (n : Nat) : ServiceKept s (resumeService s n) := by
  unfold resumeService
  split
  · exact extWaiting_kept s
  · exact .onDev s (FwpKept.refl _).releaseReadmits
  · exact .onDev s ((FwpKept.refl _).foldl _ fun e m => (FwpKept.refl e).wantSpare m)
  · exact .onDev s (FwpKept.refl _).linksResume
  · exact .refl s

/-! ### The start of an image (R433, R434) -/

/-- Whether an image can be started depends on the firmware area alone. -/
theorem imageSound_congr {d e : Dev} (images : e.flash.images = d.flash.images) (bad : e.flash.badImage = d.flash.badImage) (bank n : Nat) :
    imageSound e bank n = imageSound d bank n := by
  simp only [imageSound, imageBytes, imageByte, images, bad]

/-- The state with a processor running an image of a version. -/
def fwpStarted (s : State) (n version : Nat) : State := onDev s fun d => setLiveN (setLiveN d .fwp n 0x110 version) .fwp n 0x100 0

/-- The state with a processor stopped for its image. -/
def fwpRefused (s : State) (n : Nat) : State := onDev s fun d => setStat (setLiveN d .fwp n 0x100 2) .fwp n 1

/-- An image is measured, and then started where it is sound. -/
theorem startImage_cases (s : State) (n bank etype : Nat) :
    ∃ m version, ServiceKept s m ∧ startImage s n bank etype =
      if imageSound s.dev bank n then (fwpStarted m n version, true) else (fwpRefused m n, false) :=
  ⟨_, _, (extend_kept s (n + 1) etype n bank _ _).1, rfl⟩

/-- The state of a processor once it has been written. -/
theorem liveN_fwpState (d : Dev) (n v : Nat) (h : v < 2 ^ 32) : liveN (setLiveN d .fwp n 0x100 v) .fwp n 0x100 = v := by
  rw [liveN, live_setLiveN, if_pos rfl, BitVec.toNat_ofNat, Nat.mod_eq_of_lt h]

theorem fwpRefused_state (s : State) (n : Nat) : reg (fwpRefused s n) .fwp n 0x100 = 2 := by
  have kept := (FwpKept.refl (setLiveN s.dev .fwp n 0x100 2)).setStat .fwp n 1 0 noTag 0 0
  exact (congrArg BitVec.toNat (kept.states n)).trans (liveN_fwpState s.dev n 2 (by decide))

/-! ### The end of a restart (Table 19-5) -/

/-- A processor's restarts leave the queue. -/
def restartTaken (s : State) (n : Nat) : State := onDev s fun d => { d with flash.restarts := d.flash.restarts.filter (fun k => !decide (k = n)) }

/-- The readmission of a processor that has started is recorded and told. -/
def readmissionTold (s : State) (n : Nat) : State :=
  onDev s fun d => setStat (fwpSignal (logEvent d 0xF (pageNo .fwp n) 0xFF noTag n 0 (liveN d .fwp n 0x104))) .fwp n 2

theorem readmissionTold_kept (s : State) (n : Nat) : ServiceKept s (readmissionTold s n) :=
  .onDev s ((((FwpKept.refl _).logEvent ..).aside).setStat ..)

/-- A restart that is not a processor's turn changes nothing. -/
theorem restartDoneOp_waits {s : State} {n : Nat} (h : nextRestart s.dev ≠ some n) : restartDoneOp s n = s :=
  if_pos (.inr (.inl h))

/-- The state in which the image of a restart is measured: a bank other than the present one measures its configuration first. -/
def restartConfigured (s : State) (n : Nat) : State :=
  let bank := liveN s.dev .rst 0 0x10C % 2
  if bank = bitsOf (liveN (restartTaken s n).dev .rst 0 0x108) 5 5 then restartTaken s n
  else extend (restartTaken s n) 8 4 0xFF 0xFF 0 (Config.bootConfigDigest bank)

theorem restartConfigured_kept (s : State) (n : Nat) :
    ServiceKept (restartTaken s n) (restartConfigured s n) ∧ (restartConfigured s n).dev.flash = (restartTaken s n).dev.flash := by
  unfold restartConfigured
  dsimp only
  split
  · exact ⟨.refl _, rfl⟩
  · exact extend_kept ..

/-- The restart whose turn it is: the image is measured, and the processor starts and takes up its services, or stays stopped. -/
theorem restartDoneOp_turn {s : State} {n : Nat} (hn : n < 6) (turn : nextRestart s.dev = some n) (served : n = 0 ∨ fwpRuns s.dev 0 = true)
    (known : noMajority s.dev (regA .rst 0 0x10C) = false) :
    ∃ m version, ServiceKept (restartTaken s n) m ∧ restartDoneOp s n =
      if imageSound s.dev (liveN s.dev .rst 0 0x10C % 2) n then resumeService (readmissionTold (fwpStarted m n version) n) n
      else fwpRefused m n := by
  have acts : ¬(6 ≤ n ∨ nextRestart s.dev ≠ some n ∨ (n ≠ 0 ∧ (!fwpRuns s.dev 0) = true) ∨ noMajority s.dev (regA .rst 0 0x10C) = true) := by
    rintro (h | h | ⟨h, stopped⟩ | h)
    · omega
    · exact h turn
    · rw [served.resolve_left h] at stopped; cases stopped
    · rw [known] at h; cases h
  have op : restartDoneOp s n =
      let r := startImage (restartConfigured s n) n (liveN s.dev .rst 0 0x10C % 2) 3
      if !r.2 then r.1 else resumeService (readmissionTold r.1 n) n := by
    rw [restartDoneOp, if_neg acts, restartConfigured, restartTaken]
    dsimp only
    generalize startImage _ _ _ _ = r
    rfl
  obtain ⟨kept, flash⟩ := restartConfigured_kept s n
  obtain ⟨m, version, measured, started⟩ := startImage_cases (restartConfigured s n) n (liveN s.dev .rst 0 0x10C % 2) 3
  have sound : imageSound (restartConfigured s n).dev (liveN s.dev .rst 0 0x10C % 2) n = imageSound s.dev (liveN s.dev .rst 0 0x10C % 2) n :=
    imageSound_congr (by rw [flash]; rfl) (by rw [flash]; rfl) _ _
  refine ⟨m, version, kept.trans measured, ?_⟩
  rw [op, started, sound]
  cases imageSound s.dev (liveN s.dev .rst 0 0x10C % 2) n
  · rfl
  · rfl

/-- What a restart whose turn it is leaves, from its three parts. -/
theorem restartTaken_spec {s m t : State} {n : Nat} (h : ServiceKept (restartTaken s n) m) (pending : t.pending = m.pending) (tap : t.tap = m.tap)
    (restarts : t.dev.flash.restarts = m.dev.flash.restarts) : t.pending = s.pending ∧ t.tap = s.tap ∧ n ∉ t.dev.flash.restarts := by
  refine ⟨pending.trans h.pending, tap.trans h.tap, fun mem => ?_⟩
  rw [restarts, h.fwp.restarts] at mem
  simpa using (List.mem_filter.1 mem).2

/-! ### Declarations of firmware processors (R403, R436) -/

/-- The block with a processor's epoch advanced, its state RESTARTING and its restart queued; FWP0 forgets its SPDM exchange. -/
def fwpDeclared (d : Dev) (n : Nat) : Dev :=
  let d := setLiveN (setLiveN d .fwp n 0x104 ((liveN d .fwp n 0x104 + 1) % 65536)) .fwp n 0x100 1
  let d := { d with flash.restarts := d.flash.restarts ++ [n] }
  if n = 0 then { d with power.spdmStep := 0, power.spdmVca := [], power.spdmB := [], power.spdmL := [] } else d

/-- A watchdog of a processor that does not restart declares it, and the declaration counts, is logged and told; one whose epoch has
no majority only has its page marked (R117). -/
theorem wdtOp_of_up {d : Dev} {n : Nat} (hn : n < 6) (ready : isReady d = true) (up : liveN d .fwp n 0x100 % 4 ≠ 1) :
    wdtOp d n =
      if noMajority d (regA .fwp n 0x104) then lostMark d (regA .fwp n 0x104)
      else fwpSignal (logEvent (count (fwpDeclared d n) .fwp n 0x114 1) 0xC (pageNo .fwp n) 0xFF noTag n 2
        ((liveN d .fwp n 0x104 + 1) % 65536)) := by
  have awake : ¬(6 ≤ n ∨ (!isReady d) = true ∨ liveN d .fwp n 0x100 % 4 = 1) := by
    rw [ready]
    simpa [up] using hn
  exact if_neg awake

/-- A processor that restarts already is not declared. -/
theorem wdtOp_restarting {d : Dev} {n : Nat} (h : liveN d .fwp n 0x100 % 4 = 1) : wdtOp d n = d := if_pos (.inr (.inr h))

/-- The registers, restarts, requests and memories of a declared processor's block. -/
theorem fwpDeclared_spec (d : Dev) (n : Nat) :
    liveN (fwpDeclared d n) .fwp n 0x100 = 1 ∧ liveN (fwpDeclared d n) .fwp n 0x104 = (liveN d .fwp n 0x104 + 1) % 65536 ∧
      (fwpDeclared d n).flash.restarts = d.flash.restarts ++ [n] ∧ (fwpDeclared d n).host = d.host ∧ (fwpDeclared d n).reqs = d.reqs ∧
      (fwpDeclared d n).mem = d.mem := by
  have apart : regA .fwp n 0x100 ≠ regA .fwp n 0x104 := regA_ne_of_off (by decide) (by decide) (by decide)
  have regs : (fwpDeclared d n).regs = (setLiveN (setLiveN d .fwp n 0x104 ((liveN d .fwp n 0x104 + 1) % 65536)) .fwp n 0x100 1).regs := by
    unfold fwpDeclared
    dsimp only
    split <;> rfl
  rw [liveN_congr regs, liveN_congr regs, liveN_fwpState _ _ _ (by decide), liveN, live_setLiveN, if_neg apart, live_setLiveN, if_pos rfl,
    BitVec.toNat_ofNat, Nat.mod_eq_of_lt (by omega)]
  unfold fwpDeclared
  dsimp only
  split
  · exact ⟨rfl, rfl, rfl, rfl, rfl, rfl⟩
  · exact ⟨rfl, rfl, rfl, rfl, rfl, rfl⟩

/-- A report leaves the requests, the memories and the vectors that are masked. -/
theorem logEvent_frame (d : Dev) (kind source bs : Nat) (t : W32) (loc det ep : Nat) :
    (logEvent d kind source bs t loc det ep).reqs = d.reqs ∧ (logEvent d kind source bs t loc det ep).mem = d.mem ∧
      (logEvent d kind source bs t loc det ep).host.masked = d.host.masked := by
  obtain ⟨r, q, p, w, l, e⟩ := logEvent_eq d kind source bs t loc det ep
  rw [e]
  exact ⟨rfl, rfl, rfl⟩

/-- Vector 18 of PF0 is sent where it is not masked. -/
theorem fwpSignal_sent {d : Dev} (h : (0, 18) ∉ d.host.masked) : (fwpSignal d).host.msix.getLast? = some (0, 18) := by
  have sent : (fwpSignal d).host.msix = d.host.msix ++ [(0, 18)] := if_neg (by simpa using h)
  rw [sent, List.getLast?_concat]

/-! ### Protection units (R435) -/

/-- The places that a processor's unit admits. -/
def AdmittedPlace (n : Nat) (write : Bool) (place : FwPlace) : Prop :=
  place = .memory n ∨ (∃ p, place = .page p ∧ write = false) ∨ place = .page (pageNo .fwp n) ∨
    (place = .reserve ∧ (n = 1 ∨ n = 4)) ∨ (place = .image ∧ (n = 0 ∨ n = 2)) ∨ (place = .record ∧ (n = 1 ∨ n = 2)) ∨
    (place = .flash ∧ n = 2) ∨ (∃ k, k ≠ n ∧ place = (if write then .mailbox n k else .mailbox k n))

/-- Places outside a processor's unit. -/
def OutsidePlace (n : Nat) (write : Bool) (place : FwPlace) : Prop :=
  place = .other ∨ (∃ k, k ≠ n ∧ place = .memory k) ∨ (∃ k l, place = .mailbox k l ∧ k ≠ n ∧ l ≠ n) ∨
    (place = .reserve ∧ n ≠ 1 ∧ n ≠ 4) ∨ (place = .image ∧ n ≠ 0 ∧ n ≠ 2) ∨ (place = .record ∧ n ≠ 1 ∧ n ≠ 2) ∨
    (place = .flash ∧ n ≠ 2) ∨ (write = true ∧ ∃ k i, k ∉ fwpPages n ∧ pageOf (pageNo k i) = some (k, i) ∧ k ≠ .fwp ∧ place = .page (pageNo k i))

theorem protAdmits_of_admitted {n : Nat} {write : Bool} {place : FwPlace} (h : AdmittedPlace n write place) : protAdmits n write place = true := by
  rcases h with rfl | ⟨p, rfl, rfl⟩ | rfl | ⟨rfl, own⟩ | ⟨rfl, own⟩ | ⟨rfl, own⟩ | ⟨rfl, own⟩ | ⟨k, ne, rfl⟩
  · exact decide_eq_true rfl
  · rfl
  · simp [protAdmits]
  · exact decide_eq_true own
  · exact decide_eq_true own
  · exact decide_eq_true own
  · exact decide_eq_true own
  · cases write
    · simp [protAdmits, ne]
    · simp [protAdmits, Ne.symm ne]

theorem pageOf_fwp {n : Nat} (hn : n < 6) : pageOf (pageNo .fwp n) = some (.fwp, n) := by
  have each : ∀ n < 6, pageOf (pageNo .fwp n) = some (.fwp, n) := by decide
  exact each n hn

theorem protAdmits_of_outside {n : Nat} {write : Bool} {place : FwPlace} (hn : n < 6) (h : OutsidePlace n write place) :
    protAdmits n write place = false := by
  rcases h with rfl | ⟨k, ne, rfl⟩ | ⟨k, l, rfl, nk, nl⟩ | ⟨rfl, out⟩ | ⟨rfl, out⟩ | ⟨rfl, out⟩ | ⟨rfl, out⟩ | ⟨rfl, k, i, out, page, kind, rfl⟩
  · rfl
  · exact decide_eq_false ne
  · cases write
    · simp [protAdmits, nl]
    · simp [protAdmits, nk]
  · exact decide_eq_false (not_or.2 out)
  · exact decide_eq_false (not_or.2 out)
  · exact decide_eq_false (not_or.2 out)
  · exact decide_eq_false out
  · have other : pageNo k i ≠ pageNo .fwp n := fun e => by
      rw [e, pageOf_fwp hn] at page
      cases page
      exact kind rfl
    simp [protAdmits, page, other, out]

/-- An access outside the unit of a running processor is not performed: the processor stops and its PROT bit is set. -/
theorem protOp_stops {d : Dev} {n : Nat} {write : Bool} {place : FwPlace} (addr : Nat) (hn : n < 6) (ready : isReady d = true)
    (runs : fwpRuns d n = true) (out : protAdmits n write place = false) :
    protOp d n write place addr = setStat (setLiveN d .fwp n 0x100 2) .fwp n 0 0 noTag (BitVec.ofNat 32 addr) := by
  refine if_neg ?_
  rw [ready, runs, out]
  simpa using hn

end Sys2Proof.Machine

/-! SUPPORT. The statement on firmware processors that stop and restart. -/

namespace Sys2Proof.Proofs

open Sys2Proof.Machine Sys2Proof.Claims

/-! ### O46: watchdogs, restarts and protection units -/

/-- FWP_CTL.RESTART written by PF0 is what the expiry of the watchdog is. -/
theorem restart_eq_watchdogExpiry {s : State} {n : Nat} (hn : n < 6) (h : LandsOn s 0 .fwp n 0x108) :
    exec (.restart 0 n 1) s = .next (on s (wdtOp s.dev n)) :=
  (if_pos (decide_eq_true hn)).trans (put_acts (f := fun d => fwpCtlOp d 0 n 1) 1 (by decide) h rfl)

/-- A declaration, from its parts: the registers, the queue of restarts, the signal, and what stands. -/
theorem watchdogExpiry_declares {s : State} {n : Nat} (hn : n < 6) (ready : isReady s.dev = true) (up : reg s .fwp n 0x100 % 4 ≠ 1)
    (heard : (0, 18) ∉ s.dev.host.masked) (known : noMajority s.dev (regA .fwp n 0x104) = false) :
    ∃ t, exec (.watchdogExpiry n) s = .next t ∧ Aside s t ∧ reg t .fwp n 0x100 = 1 ∧
      reg t .fwp n 0x104 = (reg s .fwp n 0x104 + 1) % 65536 ∧ t.dev.flash.restarts = s.dev.flash.restarts ++ [n] ∧
      t.dev.host.msix.getLast? = some (0, 18) ∧ t.dev.reqs = s.dev.reqs ∧ t.dev.mem = s.dev.mem := by
  obtain ⟨state, epoch, restarts, host, reqs, mem⟩ := fwpDeclared_spec s.dev n
  have op := wdtOp_of_up hn ready up
  rw [known, if_neg Bool.false_ne_true] at op
  have kept : FwpKept (fwpDeclared s.dev n) (wdtOp s.dev n) := by
    rw [op]
    exact (((FwpKept.refl _).count .fwp n 0x114 1).logEvent ..).aside
  have words : live (wdtOp s.dev n) (regA .fwp n 0x104) = live (fwpDeclared s.dev n) (regA .fwp n 0x104) := by
    rw [op]
    refine (live_logEvent_ne _ _ _ _ _ _ _ _ (regA_not_mem_logRegs (by decide) (by decide))).trans ?_
    rw [live_count, if_neg (regA_ne_of_off (by decide) (by decide) (by decide))]
  obtain ⟨logReqs, logMem, logMasked⟩ := logEvent_frame (count (fwpDeclared s.dev n) .fwp n 0x114 1) 0xC (pageNo .fwp n) 0xFF noTag n 2
    ((liveN s.dev .fwp n 0x104 + 1) % 65536)
  refine ⟨on s (wdtOp s.dev n), rfl, ⟨rfl, rfl, rfl⟩, (congrArg BitVec.toNat (kept.states n)).trans state,
    (congrArg BitVec.toNat words).trans epoch, kept.restarts.trans restarts, ?_, ?_, ?_⟩
  · rw [op]
    exact fwpSignal_sent (by rw [logMasked, count_host, host]; exact heard)
  · rw [op]
    exact logReqs.trans reqs
  · rw [op]
    exact logMem.trans mem

/-- The end of a restart whose turn it is: the restart leaves the queue, and the processor runs or stays stopped. -/
theorem fwpRestartDone_ends {s : State} {n : Nat} (hn : n < 6) (turn : nextRestart s.dev = some n) (served : n = 0 ∨ fwpRuns s.dev 0 = true)
    (known : noMajority s.dev (regA .rst 0 0x10C) = false) :
    ∃ t, exec (.fwpRestartDone n) s = .next t ∧ t.pending = s.pending ∧ t.tap = s.tap ∧ n ∉ t.dev.flash.restarts ∧
      (imageSound s.dev (reg s .rst 0 0x10C % 2) n = true → reg t .fwp n 0x100 = 0) ∧
      (imageSound s.dev (reg s .rst 0 0x10C % 2) n = false → reg t .fwp n 0x100 = 2) := by
  obtain ⟨m, version, kept, op⟩ := restartDoneOp_turn hn turn served known
  refine ⟨restartDoneOp s n, rfl, ?_⟩
  cases sound : imageSound s.dev (reg s .rst 0 0x10C % 2) n
  · rw [op, if_neg (by rw [sound]; exact Bool.false_ne_true)]
    obtain ⟨pending, tap, gone⟩ := restartTaken_spec (t := fwpRefused m n) kept rfl rfl (congrArg _ (setStat_flash ..))
    exact ⟨pending, tap, gone, fun h => absurd h Bool.false_ne_true, fun _ => fwpRefused_state m n⟩
  · rw [op, if_pos sound]
    have resumed := (readmissionTold_kept (fwpStarted m n version) n).trans (resumeService_kept _ n)
    obtain ⟨pending, tap, gone⟩ := restartTaken_spec kept resumed.pending resumed.tap resumed.fwp.restarts
    exact ⟨pending, tap, gone, fun _ => (congrArg BitVec.toNat (resumed.fwp.states n)).trans (liveN_fwpState _ n 0 (by decide)),
      fun h => absurd h.symm Bool.false_ne_true⟩

theorem prot_admits {s : State} {n : Nat} {write : Bool} {place : FwPlace} (addr : Nat) (h : AdmittedPlace n write place) :
    exec (.prot n write place addr) s = .next s :=
  congrArg (ok s) (if_pos (.inr (.inr (.inr (protAdmits_of_admitted h)))))

theorem prot_stops {s : State} {n : Nat} {write : Bool} {place : FwPlace} (addr : Nat) (hn : n < 6) (ready : isReady s.dev = true)
    (runs : fwpRuns s.dev n = true) (h : OutsidePlace n write place) :
    ∃ t, exec (.prot n write place addr) s = .next t ∧ Aside s t ∧ reg t .fwp n 0x100 = 2 ∧ stat t .fwp n 0 = true ∧
      t.dev.mem = s.dev.mem ∧ t.dev.reqs = s.dev.reqs ∧ t.dev.flash = s.dev.flash ∧ t.dev.eng = s.dev.eng := by
  have kept := (FwpKept.refl (setLiveN s.dev .fwp n 0x100 2)).setStat .fwp n 0 0 noTag (BitVec.ofNat 32 addr) 0
  exact ⟨_, congrArg (ok s) (protOp_stops addr hn ready runs (protAdmits_of_outside hn h)), ⟨rfl, rfl, rfl⟩,
    (congrArg BitVec.toNat (kept.states n)).trans (liveN_fwpState s.dev n 2 (by decide)), statBit_setStat _ _ _ _ _ _ _ (by decide),
    setStat_mem .., setStat_reqs .., setStat_flash .., setStat_eng ..⟩

/-- Settles O46: a watchdog or RESTART declares a processor (R403, R436, R117), a restart ends in its turn with the image measured
(R433, R438), and a protection unit stops its processor (R435). -/
theorem firmwareStopsAndRestarts : Obligations.FirmwareStopsAndRestarts := by
  unfold Obligations.FirmwareStopsAndRestarts
  refine ⟨fun s n hn ready => ⟨watchdogExpiry_declares hn ready, fun restarting => congrArg (ok s) (wdtOp_restarting restarting),
      fun up lost => ?_, fun land => ⟨_, restart_eq_watchdogExpiry hn land, rfl⟩⟩,
    fun s n hn => ⟨fun other => congrArg okS (restartDoneOp_waits other), fwpRestartDone_ends hn⟩,
    fun s n addr write place hn ready runs => ⟨prot_admits addr, prot_stops addr hn ready runs⟩⟩
  exact congrArg (ok s) ((wdtOp_of_up hn ready up).trans (if_pos lost))

end Sys2Proof.Proofs

/-! SUPPORT. The walker: work of a request at its stage, what the walk's steps leave, and the stages themselves. -/

namespace Sys2Proof.Machine

open Sys2Proof.Claims

/-! ### Work of a request at its stage -/

/-- A command that met no link that is down has its effect. -/
theorem orWait_of_linkDown {d e : Dev} (h : e.eng.linkDown = d.eng.linkDown) : orWait d e = e := by
  rw [orWait, h, Bool.and_not_self, if_neg Bool.false_ne_true]

theorem found_of_atWork {s : State} {r : Req} (work : AtWork s r) : findReq s.dev r.slot = some r := by
  obtain ⟨found, -⟩ := work
  exact found

theorem due_of_atWork {s : State} {r : Req} (work : AtWork s r) : r.due = [] := by
  obtain ⟨-, -, due, -⟩ := work
  exact due

/-- Work of a request at work has its effect: no field of its basin waits (R117), and no link is met down. -/
theorem forSlot_of_atWork {s : State} {r : Req} {e : Dev} (op : Dev → Dev) (work : AtWork s r) (acts : op s.dev = e)
    (up : e.eng.linkDown = s.dev.eng.linkDown) : forSlot s r.slot op = .next (on s e) := by
  obtain ⟨found, -, -, -, -, -, known⟩ := work
  rw [forSlot, found]
  dsimp only
  rw [if_neg (ne_true_of_eq_false known), acts, orWait_of_linkDown up, ok_next]

theorem named_congr {d e : Dev} (h : e.txn = d.txn) (u : Option Nat) : Req.named e u = Req.named d u := by
  simp only [Req.named, findVer, h]

theorem prof_congr {d e : Dev} {r q : Req} (txn : e.txn = d.txn) (pins : q.pins = r.pins) : Req.prof e q = Req.prof d r := by
  rw [Req.prof, Req.prof, named_congr txn, pins]

/-! ### What the records of an expansion leave -/

@[simp] theorem setStat_txn (d : Dev) (k : Blk) (i bit bs : Nat) (t d2 d3 : W32) : (setStat d k i bit bs t d2 d3).txn = d.txn := by
  obtain ⟨r, q, p, w, e⟩ := setStat_eq d k i bit bs t d2 d3
  rw [e]

/-- What a walk that meets no failure leaves: the requests, the memory, the versions, and whether a link is met down. -/
structure WalkKept (d e : Dev) : Prop where
  reqs : e.reqs = d.reqs
  mem : e.mem = d.mem
  txn : e.txn = d.txn
  linkDown : e.eng.linkDown = d.eng.linkDown

namespace WalkKept

theorem refl (d : Dev) : WalkKept d d := ⟨rfl, rfl, rfl, rfl⟩

variable {d e f : Dev}

theorem trans (h : WalkKept d e) (g : WalkKept e f) : WalkKept d f :=
  ⟨g.reqs.trans h.reqs, g.mem.trans h.mem, g.txn.trans h.txn, g.linkDown.trans h.linkDown⟩

theorem count (d : Dev) (off n : Nat) : WalkKept d (count d .walk 0 off n) := ⟨rfl, rfl, rfl, rfl⟩

theorem walkStat (d : Dev) (bit : Nat) (r : Req) (v : Version) (id : Nat) : WalkKept d (walkStat d bit r v id) :=
  ⟨setStat_reqs .., setStat_mem .., setStat_txn .., congrArg (·.linkDown) (setStat_eng ..)⟩

theorem countedStat (d : Dev) (off bit : Nat) (r : Req) (v : Version) (id : Nat) :
    WalkKept d (Machine.walkStat (Machine.count d .walk 0 off 1) bit r v id) := (count d off 1).trans (walkStat ..)

theorem cacheTouch (d : Dev) (v : Version) (n : Nat) : WalkKept d (cacheTouch d v n) := by
  unfold Machine.cacheTouch
  split
  · exact refl d
  · exact ⟨rfl, rfl, rfl, rfl⟩

theorem foldl {α : Type} {g : Dev → α → Dev} (step : ∀ d x, WalkKept d (g d x)) (xs : List α) (d : Dev) : WalkKept d (xs.foldl g d) := by
  induction xs generalizing d with
  | nil => exact refl d
  | cons x xs ih => exact (step d x).trans (ih _)

end WalkKept

/-- The node cache after a record read well: the record itself where the cache served it, else the passages of its page (R172). -/
def recordCached (d : Dev) (v : Version) (rd : NodeRead) : Dev :=
  if rd.hit then cacheTouch d v rd.id
  else (List.range 4).foldl (fun d i => let n := rd.id / 4 * 4 + i; if n < Idx.nPass v.desc then cacheTouch d v n else d) d

theorem recordCached_kept (d : Dev) (v : Version) (rd : NodeRead) : WalkKept d (recordCached d v rd) := by
  unfold recordCached
  split
  · exact .cacheTouch d v rd.id
  · refine .foldl (fun e i => ?_) _ d
    dsimp only
    split
    · exact .cacheTouch ..
    · exact .refl e

/-- A step of an expansion that has not failed follows one that had not, and leaves what a walk leaves. -/
def WalkStep (x y : Dev × Walk × Option Nat) : Prop := y.2.2 = none → x.2.2 = none ∧ WalkKept x.1 y.1

namespace WalkStep

variable {x y z : Dev × Walk × Option Nat}

theorem refl (x : Dev × Walk × Option Nat) : WalkStep x x := fun h => ⟨h, .refl _⟩

theorem trans (h : WalkStep x y) (g : WalkStep y z) : WalkStep x z := fun ended =>
  have ⟨mid, late⟩ := g ended
  have ⟨start, early⟩ := h mid
  ⟨start, early.trans late⟩

theorem of_failed {c : Nat} (h : y.2.2 = some c) : WalkStep x y := fun ended => absurd (h.symm.trans ended) (Option.some_ne_none c)

theorem of_kept {d e : Dev} (h : WalkKept d e) (w w' : Walk) : WalkStep (d, w, none) (e, w', none) := fun _ => ⟨rfl, h⟩

theorem ite {c : Prop} [Decidable c] (hy : WalkStep x y) (hz : WalkStep x z) : WalkStep x (if c then y else z) := by
  split
  · exact hy
  · exact hz

theorem foldl {α : Type} {g : Dev × Walk × Option Nat → α → Dev × Walk × Option Nat} (step : ∀ x a, WalkStep x (g x a)) (as : List α)
    (x : Dev × Walk × Option Nat) : WalkStep x (as.foldl g x) := by
  induction as generalizing x with
  | nil => exact refl x
  | cons a as ih => exact (step x a).trans (ih _)

end WalkStep

/-- A neighbour is counted as out of range, known already, offered to the queue, or its code cannot be read (R168). -/
theorem neighbour_walkStep (r : Req) (v : Version) (holder : Nat) (x : Dev × Walk × Option Nat) (m : Nat) :
    WalkStep x (neighbour r v holder x m) := by
  obtain ⟨d, w, _ | c⟩ := x
  case some => exact .refl _
  unfold neighbour
  dsimp only
  split
  · exact .of_kept (.countedStat ..) _ _
  · split
    · exact .refl _
    · split
      · exact .of_kept (.refl d) _ _
      · exact .of_failed rfl

/-- A record is late, malformed, expanded, or one of its reads fails (R168, R170). -/
theorem applyRecord_walkStep (r : Req) (v : Version) (x : Dev × Walk × Option Nat) (rd : NodeRead) :
    WalkStep x (applyRecord r v x rd) := by
  obtain ⟨d, w, _ | c⟩ := x
  case some => exact .refl _
  have cached := recordCached_kept d v rd
  unfold applyRecord
  dsimp only
  split
  · exact .refl _
  · split
    · refine .ite (.of_kept (cached.trans (.countedStat ..)) _ _) ?_
      split
      · split
        · exact (WalkStep.of_kept cached _ _).trans (.foldl (neighbour_walkStep r v rd.id) _ _)
        · exact .of_failed rfl
      · exact .of_failed rfl
    · exact .of_failed rfl

/-- The records of an expansion that did not fail leave what a walk leaves. -/
theorem applyRecords_kept {r : Req} {v : Version} {d e : Dev} {w w' : Walk} {reads : List NodeRead}
    (h : reads.foldl (applyRecord r v) (d, w, none) = (e, w', none)) : WalkKept d e := by
  have step := WalkStep.foldl (applyRecord_walkStep r v) reads (d, w, none)
  rw [h] at step
  exact (step rfl).2

/-! ### The stages of a walk (R162, R164, R168) -/

section

variable {d : Dev} {slot : Nat} {r : Req}

/-- The walk goes on while the window has an open entry and hops remain. -/
theorem walkEnd_goesOn {w : Walk} (n : Nat) (found : findReq d slot = some r) (walk : r.walk = some w)
    (opened : (w.queue.take w.window).any (fun e => decide (e.st = .opened)) = true) (hops : w.expansions < Prof.hopLimit (Req.prof d r)) :
    walkEnd d slot (n + 1) = d := by
  have remain : decide (Prof.hopLimit (Req.prof d r) ≤ w.expansions) = false := decide_eq_false (Nat.not_le.2 hops)
  rw [walkEnd, found]
  dsimp only
  rw [walk]
  dsimp only
  rw [opened, remain]
  exact if_pos rfl

/-- The same of a walk that the request has just been given. -/
theorem walkEnd_modReq {w : Walk} {f : Req → Req} (n : Nat) (found : findReq d slot = some r) (slots : ∀ q, (f q).slot = q.slot)
    (pins : (f r).pins = r.pins) (walk : (f r).walk = some w)
    (opened : (w.queue.take w.window).any (fun e => decide (e.st = .opened)) = true) (hops : w.expansions < Prof.hopLimit (Req.prof d r)) :
    walkEnd (modReq d slot f) slot (n + 1) = modReq d slot f :=
  walkEnd_goesOn n (findReq_modReq found fun q h => (slots q).trans h) walk opened (by rwa [prof_congr rfl pins])

theorem grantOp_waits (found : findReq d slot = some r) (h : d.eng.walkWait.head? ≠ some slot ∨ isArmed d .walk 0 = true) :
    grantOp d slot = d := by
  rw [grantOp, found]
  refine if_neg fun ⟨_, first, free, _⟩ => ?_
  rcases h with other | armed
  · exact other first
  · rw [armed] at free
    exact Bool.false_ne_true free

/-- The request that takes a context: its walk is empty, and its distance table is to be built. -/
def contextGranted (d : Dev) (r : Req) : Req :=
  { r with stage := .table, busy := true, walk := some ⟨[], 0, [], [], [], [], Prof.L (Req.prof d r), 0, 0, []⟩ }

theorem grantOp_grants (found : findReq d slot = some r) (stage : r.stage = .grant) (first : d.eng.walkWait.head? = some slot)
    (free : isArmed d .walk 0 = false) (context : walkContexts d < 1024) (slots : walkSlots d + slotsFor d r ≤ 1536) :
    grantOp d slot = modReq { d with eng.walkWait := d.eng.walkWait.tail } slot (contextGranted d) := by
  rw [grantOp, found]
  dsimp only
  rw [if_pos ⟨stage, first, by rw [free]; rfl, context, slots⟩, List.drop_one]
  rfl

/-- A step of a request's table stage without read errors is the plain step. -/
theorem tableReads_nil (d : Dev) (slot : Nat) : tableReads d slot [] = tableOp d slot := by
  unfold tableReads
  cases found : findReq d slot with
  | none => rw [tableOp, found]
  | some r => exact ite_self _

/-- The table is that of the codebook and the vector, and the walk begins at the entry points. -/
theorem tableOp_starts {w w' : Walk} {v : Version} {cb : List Byte} (found : findReq d slot = some r) (stage : r.stage = .table)
    (walk : r.walk = some w) (ver : Req.named d r.pins.index = some v) (due : r.due = [])
    (book : vRead d r.basin (Idx.codebook v.desc) (512 * Idx.D v.desc) = .ok cb)
    (start : let bt := buildTable (Idx.metric v.desc) (Idx.M v.desc) (Idx.D v.desc) r.qvec cb
      startQueue d v { w with table := bt.1, scale := bt.2.1, dmin := bt.2.2 } (Idx.entries v.desc) = .ok w') :
    tableOp d slot = walkEnd (modReq d slot fun q => { q with walk := some w', stage := .walk, busy := false }) slot 4 := by
  dsimp only at start
  rw [tableOp, found]
  dsimp only
  rw [stage, walk, ver]
  dsimp only
  rw [if_neg (fun ne => ne due), book]
  dsimp only
  rw [start]

theorem expansionOp_waits {w : Walk} {v : Version} (found : findReq d slot = some r) (stage : r.stage = .walk) (walk : r.walk = some w)
    (ver : Req.named d r.pins.index = some v) (out : w.reads ≠ []) : expansionOp d slot = d := by
  rw [expansionOp, found]
  dsimp only
  rw [stage, walk, ver]
  exact if_pos out

/-- The entries that an expansion selects: the first W open ones of the window. -/
def selected (d : Dev) (r : Req) (w : Walk) : List QEnt :=
  ((w.queue.take w.window).filter (fun e => decide (e.st = .opened))).take (Prof.W (Req.prof d r))

/-- Their node reads, issued now. -/
def issuedReads (d : Dev) (r : Req) (v : Version) (w : Walk) : List NodeRead :=
  (selected d r w).map (fun e => ⟨e.id, d.now, false, cacheHit d v e.id⟩)

/-- The walk whose selected entries are issued and visited, with its reads. -/
def issuedWalk (d : Dev) (r : Req) (v : Version) (w : Walk) : Walk :=
  { (selected d r w).foldl (fun w e => { setQ w e.id .issued with visited := visit w.visited e.id }) w with reads := issuedReads d r v w }

/-- WALK's counts of the reads issued and of those that the node cache serves. -/
def readsCounted (d : Dev) (reads : List NodeRead) : Dev :=
  count (count d .walk 0 0x10C reads.length) .walk 0 0x110 (reads.filter (·.hit)).length

theorem expansionOp_issues {w : Walk} {v : Version} (found : findReq d slot = some r) (stage : r.stage = .walk) (walk : r.walk = some w)
    (ver : Req.named d r.pins.index = some v) (idle : w.reads = []) :
    expansionOp d slot =
      modReq (readsCounted d (issuedReads d r v w)) slot fun q => { q with walk := some (issuedWalk d r v w), busy := true } := by
  rw [expansionOp, found]
  dsimp only
  rw [stage, walk, ver]
  dsimp only
  rw [if_neg (fun ne => ne idle)]
  rfl

theorem arrivalOp_waits {w : Walk} (bad : NodeRead → Bool) (found : findReq d slot = some r) (stage : r.stage = .walk)
    (walk : r.walk = some w) (idle : w.reads = []) : arrivalOp d slot bad = d := by
  rw [arrivalOp, found]
  dsimp only
  rw [stage, walk]
  exact if_pos idle

/-- The reads of an expansion arrive: their records are applied in the order of selection, and the expansion counts. -/
theorem arrivalOp_applies {w w' : Walk} {v : Version} {e : Dev} (found : findReq d slot = some r) (stage : r.stage = .walk)
    (walk : r.walk = some w) (ver : Req.named d r.pins.index = some v) (due : r.due = []) (out : w.reads ≠ [])
    (records : w.reads.foldl (applyRecord r v) (d, w, none) = (e, w', none)) :
    arrivalOp d slot (badRecord []) = walkEnd (modReq (count e .walk 0 0x108 1) slot
      fun q => { q with walk := some { w' with reads := [], expansions := w'.expansions + 1 }, busy := false }) slot 4 := by
  rw [arrivalOp, found]
  dsimp only
  rw [stage, walk]
  dsimp only
  rw [if_neg out, applyExpansion, found]
  dsimp only
  rw [walk, ver]
  dsimp only
  rw [if_neg (fun ne => ne due), badRecord_nil, applyRead_nil, records]

end

end Sys2Proof.Machine

/-! SUPPORT. The statement on the walk's stages. -/

namespace Sys2Proof.Proofs

open Sys2Proof.Machine Sys2Proof.Claims

/-! ### O17: the context, the distance table, expansions and the arrival of their records -/

section

variable {s : State} {r : Req}

/-! Each command on a request at work is its operation, where that meets no link that is down. -/

theorem walkerContextGrant_next {e : Dev} (work : AtWork s r) (acts : grantOp s.dev r.slot = e)
    (up : e.eng.linkDown = s.dev.eng.linkDown := by rfl) : exec (.walkerContextGrant r.slot) s = .next (on s e) :=
  forSlot_of_atWork (grantOp · r.slot) work acts up

theorem distanceTableBuild_next {e : Dev} (work : AtWork s r) (acts : tableOp s.dev r.slot = e)
    (up : e.eng.linkDown = s.dev.eng.linkDown := by rfl) : exec (.distanceTableBuild ⟨r.slot, []⟩) s = .next (on s e) :=
  forSlot_of_atWork (tableReads · r.slot []) work ((tableReads_nil ..).trans acts) up

theorem expansion_next {e : Dev} (work : AtWork s r) (acts : expansionOp s.dev r.slot = e)
    (up : e.eng.linkDown = s.dev.eng.linkDown := by rfl) : exec (.expansion r.slot) s = .next (on s e) :=
  forSlot_of_atWork (expansionOp · r.slot) work acts up

theorem nodeReadArrival_next {e : Dev} (work : AtWork s r) (acts : arrivalOp s.dev r.slot (badRecord []) = e)
    (up : e.eng.linkDown = s.dev.eng.linkDown := by rfl) : exec (.nodeReadArrival r.slot []) s = .next (on s e) :=
  forSlot_of_atWork (walkReads · r.slot [] (arrivalOp · r.slot (badRecord []))) work ((walkReads_nil ..).trans acts) up

theorem walkerContextGrant_waits (work : AtWork s r) (h : s.dev.eng.walkWait.head? ≠ some r.slot ∨ isArmed s.dev .walk 0 = true) :
    exec (.walkerContextGrant r.slot) s = .next s :=
  walkerContextGrant_next work (grantOp_waits (found_of_atWork work) h)

theorem walkerContextGrant_grants (work : AtWork s r) (stage : r.stage = .grant) (first : s.dev.eng.walkWait.head? = some r.slot)
    (free : isArmed s.dev .walk 0 = false) (context : walkContexts s.dev < 1024) (slots : walkSlots s.dev + slotsFor s.dev r ≤ 1536) :
    ∃ t r', exec (.walkerContextGrant r.slot) s = .next t ∧ Aside s t ∧ findReq t.dev r.slot = some r' ∧ r'.stage = .table ∧
      r'.busy = true ∧ r'.walk.isSome = true ∧ t.dev.eng.walkWait = s.dev.eng.walkWait.tail ∧ t.dev.mem = s.dev.mem ∧
      t.dev.regs = s.dev.regs := by
  have found := found_of_atWork work
  have queued : findReq { s.dev with eng.walkWait := s.dev.eng.walkWait.tail } r.slot = some r := found
  exact ⟨_, _, walkerContextGrant_next work (grantOp_grants found stage first free context slots), ⟨rfl, rfl, rfl⟩,
    findReq_modReq queued fun _ h => h, rfl, rfl, rfl, rfl, rfl, rfl⟩

theorem distanceTableBuild_starts {w w' : Walk} {v : Version} {cb : List Byte} (work : AtWork s r) (walk : r.walk = some w)
    (ver : Req.named s.dev r.pins.index = some v) (stage : r.stage = .table)
    (book : vRead s.dev r.basin (Idx.codebook v.desc) (512 * Idx.D v.desc) = .ok cb)
    (start : let bt := buildTable (Idx.metric v.desc) (Idx.M v.desc) (Idx.D v.desc) r.qvec cb
      startQueue s.dev v { w with table := bt.1, scale := bt.2.1, dmin := bt.2.2 } (Idx.entries v.desc) = .ok w')
    (opened : (w'.queue.take w'.window).any (fun e => decide (e.st = .opened)) = true)
    (hops : w'.expansions < Prof.hopLimit (Req.prof s.dev r)) :
    ∃ t, exec (.distanceTableBuild ⟨r.slot, []⟩) s = .next t ∧ Aside s t ∧
      findReq t.dev r.slot = some { r with walk := some w', stage := .walk, busy := false } ∧ t.dev.mem = s.dev.mem := by
  have found := found_of_atWork work
  have starts := (tableOp_starts found stage walk ver (due_of_atWork work) book start).trans <|
    walkEnd_modReq 3 found (fun _ => rfl) rfl rfl opened hops
  exact ⟨_, distanceTableBuild_next work starts, ⟨rfl, rfl, rfl⟩, findReq_modReq found fun _ h => h, rfl⟩

theorem expansion_waits {w : Walk} {v : Version} (work : AtWork s r) (walk : r.walk = some w)
    (ver : Req.named s.dev r.pins.index = some v) (stage : r.stage = .walk) (out : w.reads ≠ []) :
    exec (.expansion r.slot) s = .next s :=
  expansion_next work (expansionOp_waits (found_of_atWork work) stage walk ver out)

theorem expansion_issues {w : Walk} {v : Version} (work : AtWork s r) (stage : r.stage = .walk) (walk : r.walk = some w)
    (ver : Req.named s.dev r.pins.index = some v) (idle : w.reads = []) :
    ∃ t r' w', exec (.expansion r.slot) s = .next t ∧ Aside s t ∧ findReq t.dev r.slot = some r' ∧ r'.busy = true ∧ r'.walk = some w' ∧
      w'.reads.map (·.id) = (selected s.dev r w).map (·.id) ∧ (∀ x ∈ w'.reads, x.issued = s.dev.now ∧ x.late = false) ∧
      t.dev.mem = s.dev.mem := by
  have found := found_of_atWork work
  have counted : findReq (readsCounted s.dev (issuedReads s.dev r v w)) r.slot = some r := found
  refine ⟨_, _, issuedWalk s.dev r v w, expansion_next work (expansionOp_issues found stage walk ver idle), ⟨rfl, rfl, rfl⟩,
    findReq_modReq counted fun _ h => h, rfl, rfl, List.map_map, fun x read => ?_, rfl⟩
  obtain ⟨q, -, rfl⟩ := List.mem_map.1 read
  exact ⟨rfl, rfl⟩

theorem nodeReadArrival_waits {w : Walk} (work : AtWork s r) (stage : r.stage = .walk) (walk : r.walk = some w) (idle : w.reads = []) :
    exec (.nodeReadArrival r.slot []) s = .next s :=
  nodeReadArrival_next work (arrivalOp_waits _ (found_of_atWork work) stage walk idle)

theorem nodeReadArrival_applies {w w' : Walk} {v : Version} {d : Dev} (work : AtWork s r) (walk : r.walk = some w)
    (ver : Req.named s.dev r.pins.index = some v) (stage : r.stage = .walk) (out : w.reads ≠ [])
    (records : w.reads.foldl (applyRecord r v) (s.dev, w, none) = (d, w', none))
    (opened : (w'.queue.take w'.window).any (fun e => decide (e.st = .opened)) = true)
    (hops : w'.expansions + 1 < Prof.hopLimit (Req.prof s.dev r)) :
    ∃ t, exec (.nodeReadArrival r.slot []) s = .next t ∧ Aside s t ∧
      findReq t.dev r.slot = some { r with walk := some { w' with reads := [], expansions := w'.expansions + 1 }, busy := false } ∧
      t.dev.mem = s.dev.mem := by
  have found := found_of_atWork work
  have kept : WalkKept s.dev (count d .walk 0 0x108 1) := (applyRecords_kept records).trans (.count ..)
  have still : findReq (count d .walk 0 0x108 1) r.slot = some r := by rwa [findReq, kept.reqs]
  have goesOn := (arrivalOp_applies found stage walk ver (due_of_atWork work) out records).trans <|
    walkEnd_modReq 3 still (fun _ => rfl) rfl rfl opened (by rwa [prof_congr kept.txn rfl])
  exact ⟨_, nodeReadArrival_next work goesOn kept.linkDown, ⟨rfl, rfl, rfl⟩, findReq_modReq still fun _ h => h, kept.mem⟩

end

/-- Settles O17: a context is granted in turn (R162), the table is built and the walk begins (R150, R164 to R166), and expansions
issue their reads and apply their records (R167, R168). -/
theorem walkStages : Obligations.WalkStages := by
  unfold Obligations.WalkStages
  exact fun s r work => ⟨fun stage => ⟨walkerContextGrant_waits work, walkerContextGrant_grants work stage⟩,
    fun w v walk ver => ⟨fun cb w' => distanceTableBuild_starts work walk ver, expansion_waits work walk ver,
      fun stage idle => ⟨nodeReadArrival_waits work stage walk idle, expansion_issues work stage walk ver idle⟩,
      fun d w' => nodeReadArrival_applies work walk ver⟩⟩

end Sys2Proof.Proofs

/-! SUPPORT. The sort by insertion, the order of records, and the records that a sort without DEDUP writes. -/

namespace Sys2Proof.Machine

/-! ### The sort by insertion -/

section

variable {α : Type} (le : α → α → Bool)

theorem insertBy_perm (x : α) (ys : List α) : List.Perm (insertBy le x ys) (x :: ys) := by
  induction ys with
  | nil => exact .refl _
  | cons y ys ih =>
    rw [insertBy]
    split
    · exact .refl _
    · exact (ih.cons y).trans (.swap x y ys)

theorem sortBy_perm (xs : List α) : List.Perm (sortBy le xs) xs := by
  induction xs with
  | nil => exact .refl _
  | cons x xs ih => exact (insertBy_perm le x (sortBy le xs)).trans (ih.cons x)

variable {le}

theorem insertBy_pairwise (total : ∀ x y, le x y = true ∨ le y x = true) (trans : ∀ x y z, le x y = true → le y z = true → le x z = true)
    (x : α) {ys : List α} (sorted : ys.Pairwise (fun x y => le x y = true)) : (insertBy le x ys).Pairwise (fun x y => le x y = true) := by
  induction ys with
  | nil => exact List.pairwise_singleton _ x
  | cons y ys ih =>
    obtain ⟨first, rest⟩ := List.pairwise_cons.1 sorted
    rw [insertBy]
    split
    · rename_i before
      refine List.pairwise_cons.2 ⟨fun z mem => ?_, sorted⟩
      obtain rfl | later := List.mem_cons.1 mem
      · exact before
      · exact trans x y z before (first z later)
    · rename_i after
      refine List.pairwise_cons.2 ⟨fun z mem => ?_, ih rest⟩
      obtain rfl | later := List.mem_cons.1 ((insertBy_perm le x ys).mem_iff.1 mem)
      · exact (total z y).resolve_left after
      · exact first z later

theorem sortBy_pairwise (total : ∀ x y, le x y = true ∨ le y x = true) (trans : ∀ x y z, le x y = true → le y z = true → le x z = true)
    (xs : List α) : (sortBy le xs).Pairwise (fun x y => le x y = true) := by
  induction xs with
  | nil => exact .nil
  | cons x xs ih => exact insertBy_pairwise total trans x ih

/-- The first `k` of a sorted list are its best: they stand in order, and what is left comes after each of them. -/
theorem take_sortBy_best (total : ∀ x y, le x y = true ∨ le y x = true) (trans : ∀ x y z, le x y = true → le y z = true → le x z = true)
    (k : Nat) (xs : List α) :
    ((sortBy le xs).take k).Pairwise (fun x y => le x y = true) ∧ ((sortBy le xs).take k).length = min k xs.length ∧
      ∃ rest, List.Perm ((sortBy le xs).take k ++ rest) xs ∧ ∀ x ∈ (sortBy le xs).take k, ∀ y ∈ rest, le x y = true := by
  have sorted := sortBy_pairwise total trans xs
  have perm := sortBy_perm le xs
  rw [← List.take_append_drop k (sortBy le xs)] at sorted perm
  obtain ⟨ordered, -, before⟩ := List.pairwise_append.1 sorted
  exact ⟨ordered, by rw [List.length_take, (sortBy_perm le xs).length_eq], _, perm, before⟩

end

/-! ### The order of records (R191) -/

theorem recLe_iff (desc : Bool) (x y : SRec) :
    recLe desc x y = true ↔ (if desc then y.key < x.key else x.key < y.key) ∨
      x.key = y.key ∧ (x.id < y.id ∨ x.id = y.id ∧ x.aux ≤ y.aux) := by
  unfold recLe
  by_cases key : x.key = y.key
  · by_cases ident : x.id = y.id
    · simp [key, ident]
    · simp [key, ident]
  · cases desc <;> simp [key]

theorem recLe_total (desc : Bool) (x y : SRec) : recLe desc x y = true ∨ recLe desc y x = true := by
  rw [recLe_iff, recLe_iff]
  cases desc
  · simp only [Bool.false_eq_true, if_false]; omega
  · simp only [if_true]; omega

theorem recLe_trans (desc : Bool) (x y z : SRec) (xy : recLe desc x y = true) (yz : recLe desc y z = true) :
    recLe desc x z = true := by
  rw [recLe_iff] at xy yz ⊢
  cases desc
  · simp only [Bool.false_eq_true, if_false] at xy yz ⊢; omega
  · simp only [if_true] at xy yz ⊢; omega

/-! ### The records of a sort without DEDUP (R194, R196) -/

/-- Null records are dropped, keys are made canonical, and the first K in order are written. -/
theorem sortRun_recs (xs : List SRec) (k : Nat) (desc useExp : Bool) (temp : W32) :
    (sortRun xs k desc false useExp false temp).recs =
      (sortBy (recLe desc) ((xs.filter (fun x => decide (x.id ≠ 0xFFFFFFFF))).map
        (fun x => { x with key := canonKey desc x.key }))).take k := by
  simp [sortRun, List.filter_map, Function.comp_def]

end Sys2Proof.Machine

/-! SUPPORT. The statement on what a sort selects. -/

namespace Sys2Proof.Proofs

open Sys2Proof.Machine Sys2Proof.Claims

/-! ### O20: the best K records -/

/-- Settles O20: the order of R191 is total and transitive, so the first K of the sorted records (R194) come before the rest. -/
theorem sortsSelectTheBest : Obligations.SortsSelectTheBest := by
  unfold Obligations.SortsSelectTheBest
  intro xs k desc useExp temp o real
  have written : o.recs = (sortBy (recLe desc) real).take k := sortRun_recs xs k desc useExp temp
  rw [written]
  exact take_sortBy_best (recLe_total desc) (recLe_trans desc) k real

end Sys2Proof.Proofs

/-! SUPPORT. What the end of a request leaves of the memories, the versions and the table commands. -/

namespace Sys2Proof.Machine

open Sys2Proof.Claims

/-! ### The end of a request, for the tables -/

/-- The end of a request leaves the bytes of the memories, the versions, and whether a link is met down; no table command is new. -/
structure EndLeaves (d e : Dev) : Prop where
  hbm : e.mem.hbm = d.mem.hbm
  pool : e.mem.pool = d.mem.pool
  shore : e.mem.shore = d.mem.shore
  versions : e.txn.versions = d.txn.versions
  linkDown : e.eng.linkDown = d.eng.linkDown
  gaths : e.eng.gaths ⊆ d.eng.gaths

theorem EndLeaves.refl (d : Dev) : EndLeaves d d := ⟨rfl, rfl, rfl, rfl, rfl, fun _ h => h⟩

theorem EndLeaves.trans {d e f : Dev} (h : EndLeaves d e) (g : EndLeaves e f) : EndLeaves d f :=
  ⟨g.hbm.trans h.hbm, g.pool.trans h.pool, g.shore.trans h.shore, g.versions.trans h.versions, g.linkDown.trans h.linkDown,
    fun _ hx => h.gaths (g.gaths hx)⟩

theorem EndLeaves.foldl {α : Type} {f : Dev → α → Dev} (step : ∀ d x, EndLeaves d (f d x)) (xs : List α) (d : Dev) :
    EndLeaves d (xs.foldl f d) := by
  induction xs generalizing d with
  | nil => exact .refl d
  | cons x xs ih => exact (step d x).trans (ih _)

theorem dropCtx_endLeaves (d : Dev) (id : Nat) : EndLeaves d (dropCtx d id) := by
  unfold dropCtx
  dsimp only
  split
  · rename_i c _
    obtain ⟨j, e⟩ := endSpan_eq d c
    rw [e]
    exact ⟨rfl, rfl, rfl, rfl, rfl, List.filter_sublist.subset⟩
  · exact ⟨rfl, rfl, rfl, rfl, rfl, List.filter_sublist.subset⟩

/-- The end of a hold changes handles and a count. -/
theorem endHold_endLeaves (d : Dev) (idx slot : Nat) : EndLeaves d (endHold d idx slot) := by
  have same (x : Dev) (mem : x.mem = d.mem := by rfl) (txn : x.txn = d.txn := by rfl) (down : x.eng.linkDown = d.eng.linkDown := by rfl)
      (gaths : x.eng.gaths = d.eng.gaths := by rfl) : EndLeaves d x :=
    ⟨by rw [mem], by rw [mem], by rw [mem], by rw [txn], down, by rw [gaths]; exact List.Subset.refl _⟩
  unfold endHold
  split
  · exact .refl d
  · dsimp only
    split
    · exact same _
    · split
      · split <;> exact same _
      · exact same _

/-- The contexts that a request's end drops: all of its own but those of a linked set. -/
def endedCtxs (d : Dev) (r : Req) : List Ctx := d.jobs.ctxs.filter (fun c => decide (c.slot = r.slot) && c.link.isNone)

/-- The block without a request's places in the queues of the engines. -/
def outOfQueues (d : Dev) (r : Req) : Dev :=
  { d with
    eng.walkWait := d.eng.walkWait.filter (fun s => !decide (s = r.slot)),
    eng.sorts := d.eng.sorts.filter (fun c => !decide (c.slot = some r.slot)),
    eng.gaths := d.eng.gaths.filter (fun g => !decide (g.slot = some r.slot)),
    txn.waiting := d.txn.waiting.filter (fun s => !decide (s = r.slot)),
    txn.active := d.txn.active.filter (fun a => !decide (a.slot = r.slot)) }

theorem releaseWork_parts (d : Dev) (r : Req) :
    releaseWork d r =
      let e := outOfQueues ((endedCtxs d r).foldl (fun d c => dropCtx d c.id) d) r
      match r.hold with
      | some h => endHold e h r.slot
      | none => e := rfl

theorem outOfQueues_endLeaves (d : Dev) (r : Req) :
    EndLeaves d (outOfQueues d r) ∧ ∀ q ∈ (outOfQueues d r).eng.gaths, q.slot ≠ some r.slot :=
  ⟨⟨rfl, rfl, rfl, rfl, rfl, List.filter_sublist.subset⟩, fun q hq => by
    have other := (List.mem_filter.1 hq).2
    rwa [Bool.not_eq_true', decide_eq_false_iff_not] at other⟩

/-- A request gives back what it holds: none of its table commands is left. -/
theorem releaseWork_endLeaves (d : Dev) (r : Req) :
    EndLeaves d (releaseWork d r) ∧ ∀ q ∈ (releaseWork d r).eng.gaths, q.slot ≠ some r.slot := by
  have dropped : EndLeaves d ((endedCtxs d r).foldl (fun d c => dropCtx d c.id) d) := .foldl (fun d (c : Ctx) => dropCtx_endLeaves d c.id) _ d
  obtain ⟨out, own⟩ := outOfQueues_endLeaves ((endedCtxs d r).foldl (fun d c => dropCtx d c.id) d) r
  rw [releaseWork_parts]
  dsimp only
  split
  · rename_i h _
    have held := endHold_endLeaves (outOfQueues ((endedCtxs d r).foldl (fun d c => dropCtx d c.id) d) r) h r.slot
    exact ⟨(dropped.trans out).trans held, fun q hq => own q (held.gaths hq)⟩
  · exact ⟨dropped.trans out, own⟩

/-- A request that ends has no table command left. -/
theorem finish_endLeaves (d : Dev) (r : Req) (cls : Nat) :
    EndLeaves d (finish d r cls) ∧ ∀ q ∈ (finish d r cls).eng.gaths, q.slot ≠ some r.slot := by
  obtain ⟨⟨hbm, pool, shore, versions, down, gaths⟩, own⟩ := releaseWork_endLeaves d r
  have work : EndLeaves d (workDone d r cls) ∧ ∀ q ∈ (workDone d r cls).eng.gaths, q.slot ≠ some r.slot := by
    unfold workDone
    dsimp only
    split <;> exact ⟨⟨hbm, pool, shore, versions, down, gaths⟩, own⟩
  obtain ⟨⟨hbm, pool, shore, versions, down, gaths⟩, own⟩ := work
  rw [finish_eq]
  split <;> exact ⟨⟨hbm, pool, shore, versions, down, gaths⟩, own⟩

theorem endReq_endLeaves {d : Dev} {slot : Nat} {r : Req} (cls : Nat) (found : findReq d slot = some r) (up : r.live = true) :
    EndLeaves d (endReq d slot cls) ∧ ∀ q ∈ (endReq d slot cls).eng.gaths, q.slot ≠ some slot := by
  obtain rfl := findReq_slot found
  obtain ⟨ended, own⟩ := finish_endLeaves d r cls
  have rest : EndLeaves (finish d r cls) (finishContinues (finish d r cls) r) := .foldl (fun d c => (finish_endLeaves d c 0x11).1) _ _
  rw [endReq, found]
  dsimp only
  rw [if_pos up]
  exact ⟨ended.trans rest, fun q hq => own q (rest.gaths hq)⟩

/-- A request that is due for nothing ends with the class of its own (R36). -/
theorem firstDue_singleton (cls : Nat) : firstDue [cls] = cls := by
  unfold firstDue
  split
  · rename_i c among
    simpa using List.find?_some among
  · rfl

/-- The end of a request that is due for nothing: it has ended with the class, and what its end leaves. -/
theorem endAt_spec {d : Dev} {slot : Nat} {r : Req} (cls : Nat) (found : findReq d slot = some r) (up : r.live = true) (due : r.due = [])
    (loud : r.silent = false) :
    findReq (endAt d slot cls) slot = some (r.endedAs cls) ∧ EndLeaves d (endAt d slot cls) ∧
      ∀ q ∈ (endAt d slot cls).eng.gaths, q.slot ≠ some slot := by
  have idle : findReq (modReq d slot fun r => { r with busy := false }) slot = some { r with busy := false } := findReq_modReq found fun _ h => h
  obtain ⟨⟨hbm, pool, shore, versions, down, gaths⟩, own⟩ := endReq_endLeaves cls idle up
  rw [endAt, found]
  dsimp only
  rw [due, List.nil_append, firstDue_singleton]
  exact ⟨(endReq_spec idle up loud).1, ⟨hbm, pool, shore, versions, down, gaths⟩, own⟩

end Sys2Proof.Machine

/-! SUPPORT. Table commands: what reading, counting and applying rows leave, and the steps of gathers and merges. -/

namespace Sys2Proof.Machine

open Sys2Proof.Claims

/-! ### Counts and the hot-row cache (R208, R220) -/

/-- Only registers and the hot-row cache may differ. -/
def CountsRows (d e : Dev) : Prop := ∃ r c w, e = { d with regs := r, eng := { d.eng with rowCache := c, rowWrites := w } }

theorem CountsRows.refl (d : Dev) : CountsRows d d := ⟨_, _, _, rfl⟩

theorem CountsRows.trans {d e f : Dev} (h : CountsRows d e) (g : CountsRows e f) : CountsRows d f := by
  obtain ⟨_, _, _, rfl⟩ := h
  obtain ⟨r, c, w, rfl⟩ := g
  exact ⟨r, c, w, rfl⟩

theorem CountsRows.foldl {α : Type} {f : Dev → α → Dev} (step : ∀ d x, CountsRows d (f d x)) (xs : List α) (d : Dev) :
    CountsRows d (xs.foldl f d) := by
  induction xs generalizing d with
  | nil => exact .refl d
  | cons x xs ih => exact (step d x).trans (ih _)

theorem count_countsRows (d : Dev) (k : Blk) (i off n : Nat) : CountsRows d (count d k i off n) := ⟨_, _, _, rfl⟩

theorem hotTouch_countsRows (d : Dev) (unit : Nat) (v : Version) (r : Nat) (write : Bool) : CountsRows d (hotTouch d unit v r write) := by
  unfold hotTouch
  dsimp only
  split <;> exact ⟨_, _, _, rfl⟩

theorem countReads_countsRows (d : Dev) (unit : Nat) (v : Version) (rows : List Nat) : CountsRows d (countReads d unit v rows) :=
  .foldl (fun _ _ => ((count_countsRows ..).trans (count_countsRows ..)).trans (hotTouch_countsRows ..)) rows d

theorem countParts_countsRows (d : Dev) (x : GathIn) (off n : Nat) : CountsRows d (countParts d x off n) :=
  .foldl (fun _ _ => count_countsRows ..) _ d

/-- The counts of a list that is read to its end. -/
theorem countGather_countsRows (d : Dev) (x : GathIn) (rows : List Nat) : CountsRows d (countGather d x rows none) :=
  .foldl (fun _ _ => (count_countsRows ..).trans (countReads_countsRows ..)) _ d

/-! ### The rows of an apply (R224) -/

/-- Only memory, registers and the hot-row cache may differ. -/
def AppliesRows (d e : Dev) : Prop := ∃ m, CountsRows { d with mem := m } e

theorem AppliesRows.trans {d e f : Dev} (h : AppliesRows d e) (g : AppliesRows e f) : AppliesRows d f := by
  obtain ⟨_, _, _, _, rfl⟩ := h
  obtain ⟨m, r, c, w, rfl⟩ := g
  exact ⟨m, r, c, w, rfl⟩

theorem AppliesRows.kept {d e : Dev} (h : AppliesRows d e) : e.reqs = d.reqs ∧ e.txn = d.txn ∧ e.eng.linkDown = d.eng.linkDown := by
  obtain ⟨_, _, _, _, rfl⟩ := h
  exact ⟨rfl, rfl, rfl⟩

theorem pageWrite_mem (d : Dev) (p : PageMap) (off : Nat) (bs : List Byte) : ∃ m, pageWrite d p off bs = { d with mem := m } := by
  unfold pageWrite
  dsimp only
  split <;> exact ⟨_, rfl⟩

theorem vWriteAux_mem {d e : Dev} {b fuel a : Nat} {bs : List Byte} (h : vWriteAux d b fuel a bs = .ok e) : ∃ m, e = { d with mem := m } := by
  induction fuel generalizing d a bs with
  | zero => cases h; exact ⟨e.mem, rfl⟩
  | succ fuel ih =>
    rw [vWriteAux] at h
    split at h
    · cases h; exact ⟨e.mem, rfl⟩
    · split at h
      case h_1 p _ =>
        split at h
        · cases h
        · split at h
          · cases h
          · obtain ⟨m, written⟩ := pageWrite_mem d p (a % 65536) (bs.take (65536 - a % 65536))
            obtain ⟨m', rfl⟩ := ih h
            exact ⟨m', by rw [written]⟩
      all_goals cases h

/-- A write of basin bytes that does not fail changes memory alone. -/
theorem vWrite_mem {d e : Dev} {b a : Nat} {bs : List Byte} (h : vWrite d b a bs = .ok e) : ∃ m, e = { d with mem := m } := vWriteAux_mem h

/-- An apply that does not fail has applied every row of the sums. -/
theorem applyLoop_applies {x : GathIn} {fail : PoolFail} {scratch : Option (Nat × Nat)} {d e : Dev} {sums : List (Nat × List W32)} {k n : Nat}
    (h : applyLoop x fail scratch d sums k = (e, n, none)) : AppliesRows d e ∧ n = k + sums.length := by
  induction sums generalizing d k with
  | nil => cases h; exact ⟨⟨e.mem, .refl e⟩, rfl⟩
  | cons s sums ih =>
    obtain ⟨r, gs⟩ := s
    rw [applyLoop] at h
    split at h
    case h_2 =>
      split at h
      · split at h
        · rename_i written
          obtain ⟨m, rfl⟩ := vWrite_mem written
          obtain ⟨rest, len⟩ := ih h
          exact ⟨.trans ⟨m, (countReads_countsRows ..).trans (hotTouch_countsRows ..)⟩ rest, by rw [len, List.length_cons]; omega⟩
        · cases h
      · cases h
    all_goals cases h

/-! ### The sums of a merge (R223) -/

/-- One more gradient of a row leaves the rows that have some. -/
theorem map_fst_addGrads (acc : List (Nat × List (List FVal))) (r : Nat) (g : List FVal) :
    (acc.map fun a => if a.1 = r then (a.1, a.2 ++ [g]) else a).map (·.1) = acc.map (·.1) := by
  rw [List.map_map]
  refine List.map_congr_left fun a _ => ?_
  dsimp only [Function.comp]
  split <;> rfl

/-- The rows of a merge's gradients are distinct. -/
theorem mergeGrads_nodup (d : Dev) (x : GathIn) (rows : List Nat) (pos : Nat) (acc : List (Nat × List (List FVal)))
    (distinct : (acc.map (·.1)).Nodup) : ((mergeGrads d x rows pos acc).1.map (·.1)).Nodup := by
  induction rows generalizing pos acc with
  | nil => exact distinct
  | cons r rows ih =>
    rw [mergeGrads]
    dsimp only
    split
    · exact distinct
    · split
      · refine ih _ _ ?_
        split
        · rename_i new
          have fresh : r ∉ acc.map (·.1) := fun mem => by
            obtain ⟨a, ha, own⟩ := List.mem_map.1 mem
            simp only [Bool.not_eq_true', List.any_eq_false, decide_eq_true_eq] at new
            exact new a ha own
          rw [List.map_append]
          refine List.nodup_append.2 ⟨distinct, List.pairwise_singleton .., fun a ha b hb same => fresh ?_⟩
          have own : b = r := List.mem_singleton.1 hb
          rwa [same, own] at ha
        · rw [map_fst_addGrads]
          exact distinct
      · exact distinct

/-- Records sorted by distinct rows stand by ascending row. -/
theorem sortBy_ascending {α : Type} {xs : List (Nat × α)} (distinct : (xs.map (·.1)).Nodup) :
    ((sortBy (fun a b => decide (a.1 ≤ b.1)) xs).map (·.1)).Pairwise (· < ·) := by
  have sorted := sortBy_pairwise (le := fun (a b : Nat × α) => decide (a.1 ≤ b.1)) (fun x y => by simpa using Nat.le_total x.1 y.1)
    (fun x y z => by simpa using Nat.le_trans) xs
  have apart : ((sortBy (fun (a b : Nat × α) => decide (a.1 ≤ b.1)) xs).map (·.1)).Nodup :=
    ((sortBy_perm _ xs).map _).nodup_iff.2 distinct
  rw [List.pairwise_map]
  exact (sorted.and (List.pairwise_map.1 apart)).imp fun ⟨le, ne⟩ => Nat.lt_of_le_of_ne (of_decide_eq_true le) ne

/-- A merge that validates and sums counts, and its sums stand by ascending row. -/
theorem mergeSum_ascending {d e : Dev} {x : GathIn} {fail : PoolFail} {sums : List (Nat × List W32)} (h : mergeSum d x fail = (e, none, sums)) :
    CountsRows d e ∧ (sums.map (·.1)).Pairwise (· < ·) := by
  unfold mergeSum at h
  dsimp only at h
  split at h
  · cases h
  · split at h
    · cases h
    · cases h
      exact ⟨(countParts_countsRows ..).trans (countParts_countsRows ..),
        sortBy_ascending (by rw [List.map_map]; exact mergeGrads_nodup _ _ _ _ _ List.nodup_nil)⟩

end Sys2Proof.Machine

/-! SUPPORT. The steps of table commands: a command taken, a command held, a gather read, a merge summed and applied. -/

namespace Sys2Proof.Machine

open Sys2Proof.Claims

/-! ### Commands by number -/

/-- The table command of a number. -/
abbrev findGath (d : Dev) (cmd : Nat) : Option GathCmd := d.eng.gaths.find? (fun g => decide (g.id = cmd))

theorem findGath_id {d : Dev} {cmd : Nat} {g : GathCmd} (h : findGath d cmd = some g) : g.id = cmd := by
  simpa using List.find?_some h

theorem findGath_modGath {d : Dev} {cmd : Nat} {g : GathCmd} {f : GathCmd → GathCmd} (found : findGath d cmd = some g)
    (keeps : ∀ q, (f q).id = q.id) : findGath (modGath d cmd f) cmd = some (f g) :=
  (find?_modWhere_self _ f d.eng.gaths fun q h => by rwa [keeps]).trans (congrArg (Option.map f) found)

/-- A version that a modification leaves with its number. -/
theorem findVer_modVer {d : Dev} {uid : Nat} {v : Version} {f : Version → Version} (found : findVer d uid = some v)
    (keeps : ∀ q, (f q).uid = q.uid) : findVer (modVer d uid f) uid = some (f v) :=
  (find?_modWhere_self _ f d.txn.versions fun q h => by rwa [keeps]).trans (congrArg (Option.map f) found)

theorem findVer_uid {d : Dev} {uid : Nat} {v : Version} (h : findVer d uid = some v) : v.uid = uid := by
  simpa using List.find?_some h

theorem findReq_congr {d e : Dev} (h : e.reqs = d.reqs) (slot : Nat) : findReq e slot = findReq d slot := congrArg (List.find? _) h

theorem findVer_congr {d e : Dev} (h : e.txn.versions = d.txn.versions) (uid : Nat) : findVer e uid = findVer d uid := congrArg (List.find? _) h

/-! ### A command that waits -/

/-- A command is held: it stands in the phase in which it waits, and beside the commands only a count changes. -/
theorem holdGath_spec {d : Dev} {cmd : Nat} {g : GathCmd} (p : GathPhase) (found : findGath d cmd = some g) :
    ∃ gs r, holdGath d g p = { d with regs := r, eng.gaths := gs } ∧ ∃ g', gs.find? (fun x => decide (x.id = cmd)) = some g' ∧ g'.phase = p := by
  unfold holdGath
  split
  · rename_i held
    exact ⟨d.eng.gaths, d.regs, rfl, g, found, held⟩
  · obtain rfl := findGath_id found
    exact ⟨_, _, rfl, _, findGath_modGath found fun _ => rfl, rfl⟩

/-! ### A job's command (R229) -/

/-- A job's command once it is taken: validated, of its version, with its place in the queue. -/
def takenGath (v : Version) (g : GathCmd) : GathCmd :=
  { g with valid := true, merge := decide (GathC.op g.bytes = 2), ver := v.uid, seq := g.id }

section

variable {d : Dev} {cmd id : Nat} {g : GathCmd} {c : Ctx}

theorem gathCommandOp_stays (found : findGath d cmd = some g) (ctx : g.ctx = some id) (job : findCtx d id = some c)
    (h : g.valid = true ∨ gathRunning d g = false) : gathCommandOp d cmd = d := by
  have stays : (g.valid || !gathRunning d g) = true := by simpa using h
  rw [gathCommandOp, ← findGath, found]
  dsimp only
  rw [ctx, Option.bind_some, job]
  dsimp only
  rw [if_pos stays]

theorem gathCommandOp_takes {r : Req} {v : Version} (found : findGath d cmd = some g) (ctx : g.ctx = some id) (job : findCtx d id = some c)
    (new : g.valid = false) (turn : gathRunning d g = true) (clean : g.bad = none) (req : findReq d c.slot = some r)
    (table : jobTable d r (GathC.slot g.bytes) = some v) (fields : gathFieldBad g.bytes r.train (some v) = none) :
    gathCommandOp d cmd = modGath d cmd (takenGath v) := by
  rw [gathCommandOp, ← findGath, found]
  dsimp only
  rw [ctx, Option.bind_some, job]
  dsimp only
  rw [new, turn, if_neg (by decide), clean, req]
  dsimp only
  rw [Option.bind_some, table, fields]
  rfl

end

/-! ### The gather of a request (R213, R216 to R219) -/

section

variable {d : Dev} {cmd : Nat} {g : GathCmd} {r : Req} {v : Version} {h : List Byte}

theorem gatherReadOp_waits (found : findGath d cmd = some g) (w : g.merge = true ∨ gathReady d g = false ∨ gathPortsUp d g = false) :
    gatherReadOp d cmd = d := by
  have waits : (g.merge || !gathReady d g || !gathPortsUp d g) = true := by simpa [or_assoc] using w
  rw [gatherReadOp, ← findGath, found]
  dsimp only
  rw [if_pos waits]

/-- A gather of a request that may work is the request's gather. -/
theorem gatherReadOp_req (found : findGath d cmd = some g) (gather : g.merge = false) (ready : gathReady d g = true)
    (ports : gathPortsUp d g = true) (ver : findVer d g.ver = some v) (slot : g.slot = some r.slot) (req : findReq d r.slot = some r) :
    gatherReadOp d cmd = reqGather d g r v none := by
  rw [gatherReadOp, ← findGath, found]
  dsimp only
  rw [gather, ready, ports, if_neg (by decide), runGather, ver]
  dsimp only
  rw [slot, Option.bind_some, req]

theorem reqGather_held (part : inPart d r 0 (min 16 r.inLen) = .ok h) (header : gathHeaderOk false r.inLen 0 h = true)
    (waits : applyWaits d v.uid = true) : reqGather d g r v none = holdGath d g .held := by
  rw [reqGather, part]
  dsimp only
  rw [header, waits, if_neg (by decide), if_pos rfl]

/-- What a gather writes: N, the edition, and the rows in the order of the list (R217). -/
def gatherOut (v : Version) (rows : List (Nat × List Byte)) : List Byte :=
  natLe 4 rows.length ++ natLe 4 0 ++ natLe 8 v.edition ++ rows.flatMap (·.2)

/-- The block with a gather's reads counted and its input returned. -/
def gatherCounted (d : Dev) (x : GathIn) (r : Req) (rows : List (Nat × List Byte)) : Dev :=
  returnInput (countParts (countGather (countParts d x 0x104 (min x.n (rows.length + 1))) x (rows.map (·.1)) none) x 0x114 rows.length) r.slot

/-- A request with the length and the count of its gather's output. -/
def gatherSized (v : Version) (rows : List (Nat × List Byte)) (r : Req) : Req :=
  { r with outLen := 16 + rows.length * Tbl.rowBytes v.desc, outCount := rows.length }

/-- Input that is returned changes the host interface alone. -/
theorem returnInput_host (d : Dev) (slot : Nat) : ∃ x, returnInput d slot = { d with host := x } := by
  unfold returnInput
  dsimp only
  split
  · split
    · exact ⟨_, rfl⟩
    · obtain ⟨m, x, e⟩ := returnDue_eq _ _
      exact ⟨_, e⟩
  · obtain ⟨m, x, e⟩ := returnDue_eq _ _
    exact ⟨_, e⟩

/-- A gather's counts and returned input leave the requests and the memory, and whether a link is met down. -/
theorem gatherCounted_kept (d : Dev) (x : GathIn) (r : Req) (rows : List (Nat × List Byte)) :
    let e := gatherCounted d x r rows
    e.reqs = d.reqs ∧ e.mem = d.mem ∧ e.eng.linkDown = d.eng.linkDown := by
  obtain ⟨_, _, _, counted⟩ := ((countParts_countsRows d x 0x104 (min x.n (rows.length + 1))).trans
    (countGather_countsRows _ x (rows.map (·.1)))).trans (countParts_countsRows _ x 0x114 rows.length)
  obtain ⟨_, returned⟩ := returnInput_host
    (countParts (countGather (countParts d x 0x104 (min x.n (rows.length + 1))) x (rows.map (·.1)) none) x 0x114 rows.length) r.slot
  rw [gatherCounted, returned, counted]
  exact ⟨rfl, rfl, rfl⟩

/-- Output that is written reads back, and leaves the requests, HBM and the links. -/
theorem outWrite_spec (d : Dev) (r : Req) (off : Nat) (bs : List Byte) :
    let e := outWrite d r off bs
    e.reqs = d.reqs ∧ e.mem.hbm = d.mem.hbm ∧ e.eng.linkDown = d.eng.linkDown ∧
      Mem.readN e.mem.shore (shoreAddr r.basin (Desc.outBlock r.desc) off) bs.length = bs :=
  ⟨rfl, rfl, rfl, Mem.readN_writeL ..⟩

/-- The block with a gather's output written. -/
def gatherWritten (d : Dev) (x : GathIn) (r : Req) (v : Version) (rows : List (Nat × List Byte)) : Dev :=
  outWrite (gatherCounted d x r rows) r 0 (gatherOut v rows)

/-- The output stands in the request's output blocks, and HBM is as before. -/
theorem gatherWritten_spec (d : Dev) (x : GathIn) (r : Req) (v : Version) (rows : List (Nat × List Byte)) :
    let e := gatherWritten d x r v rows
    e.reqs = d.reqs ∧ e.mem.hbm = d.mem.hbm ∧ e.eng.linkDown = d.eng.linkDown ∧
      Mem.readN e.mem.shore (shoreAddr r.basin (Desc.outBlock r.desc) 0) (gatherOut v rows).length = gatherOut v rows := by
  obtain ⟨reqs, mem, down⟩ := gatherCounted_kept d x r rows
  obtain ⟨reqs', hbm, down', out⟩ := outWrite_spec (gatherCounted d x r rows) r 0 (gatherOut v rows)
  exact ⟨reqs'.trans reqs, hbm.trans (congrArg (·.hbm) mem), down'.trans down, out⟩

theorem reqGather_reads {rows : List (Nat × List Byte)} (part : inPart d r 0 (min 16 r.inLen) = .ok h)
    (header : gathHeaderOk false r.inLen 0 h = true) (free : applyWaits d v.uid = false) (room : 16 ≤ Desc.outCap r.desc)
    (reads : gatherLoop d (reqGath d g r v h) none (some ((Desc.outCap r.desc - 16) / Tbl.rowBytes v.desc)) (fieldN h 0 4) 0 [] = (rows, none)) :
    reqGather d g r v none =
      endAt (modReq (gatherWritten d (reqGath d g r v h) r v rows) r.slot (gatherSized v rows)) r.slot 0 := by
  have plain : { reqGath d g r v h with event := (none : PoolFail).isSome } = reqGath d g r v h := rfl
  have len : (reqGath d g r v h).n = fieldN h 0 4 := rfl
  rw [reqGather, part]
  dsimp only
  rw [header, free, if_neg (by decide), if_neg (by decide), plain, len, reads]
  dsimp only
  rw [if_neg (Nat.not_lt.2 room)]
  rfl

end

/-! ### The merge of a request (R212, R222 to R227) -/

/-- A version with its edition raised. -/
def Version.raised (v : Version) : Version := { v with edition := (v.edition + 1) % 2 ^ 64 }

/-- The block with a version's edition raised and a merge's rows counted. -/
def editionRaised (d : Dev) (x : GathIn) (v : Version) (n : Nat) : Dev :=
  countParts (modVer d v.uid Version.raised) x 0x11C n

theorem editionRaised_kept (d : Dev) (x : GathIn) (v : Version) (n : Nat) :
    let e := editionRaised d x v n
    e.reqs = d.reqs ∧ e.mem = d.mem ∧ e.eng.linkDown = d.eng.linkDown ∧
      e.txn = (modVer d v.uid Version.raised).txn := by
  obtain ⟨_, _, _, counted⟩ := countParts_countsRows (modVer d v.uid Version.raised) x 0x11C n
  rw [editionRaised, counted]
  exact ⟨rfl, rfl, rfl, rfl⟩

section

variable {d : Dev} {cmd : Nat} {g : GathCmd} {r : Req} {v : Version} {h : List Byte}
variable (found : findGath d cmd = some g) (merge : g.merge = true) (ready : gathReady d g = true)

include found merge ready

theorem mergeSumOp_sums {e : Dev} {sums : List (Nat × List W32)} (queued : g.phase = .queued) (ver : findVer d g.ver = some v)
    (slot : g.slot = some r.slot) (req : findReq d r.slot = some r) (part : inPart d r 0 (min 16 r.inLen) = .ok h)
    (header : gathHeaderOk true r.inLen (Tbl.elems v.desc) h = true) (sum : mergeSum d (reqGath d g r v h) = (e, none, sums)) :
    mergeSumOp d cmd = returnInput (modGath e cmd (summedGath v (fieldN h 0 4) sums)) r.slot := by
  have plain : { reqGath d g r v h with event := (none : PoolFail).isSome } = reqGath d g r v h := rfl
  rw [mergeSumOp, ← findGath, found]
  dsimp only
  rw [merge, ready, queued, if_neg (by decide), runSum, ver]
  dsimp only
  rw [slot, Option.bind_some, req]
  dsimp only
  rw [part]
  dsimp only
  rw [header, if_neg (by decide), plain, sum, findGath_id found]
  rfl

theorem mergeApplyOp_held (summed : g.phase = .summed) (ports : gathPortsUp d g = true) (behind : applyBehind d g = true) :
    mergeApplyOp d cmd [] = holdGath d g .applyHeld := by
  rw [mergeApplyOp, ← findGath, found]
  dsimp only
  rw [merge, ready, ports, summed, if_neg (by decide), behind, if_pos rfl]

theorem mergeApplyOp_applies {e : Dev} {n : Nat} (summed : g.phase = .summed) (ports : gathPortsUp d g = true) (first : applyBehind d g = false)
    (ver : findVer d g.ver = some v) (slot : g.slot = some r.slot) (req : findReq d r.slot = some r) (part : inPart d r 0 16 = .ok h)
    (apply : applyLoop (reqGath d g r v h) none none d g.sums 0 = (e, n, none)) :
    mergeApplyOp d cmd [] = endAt (modReq (editionRaised e (reqGath d g r v h) v n) r.slot (fun r => { r with outCount := n })) r.slot 0 := by
  have plain : { reqGath d g r v ((inPart d r 0 16).get?.getD []) with event := (none : PoolFail).isSome } = reqGath d g r v h := by
    rw [part]; rfl
  rw [mergeApplyOp, ← findGath, found]
  dsimp only
  rw [merge, ready, ports, summed, if_neg (by decide), first, if_neg (by decide), slot, Option.bind_some, req, Option.map_some, Option.some_or]
  dsimp only
  rw [withErrors_nil, workStep_nil, workErrors_nil]
  dsimp only
  rw [Option.map_none, runApply, ver]
  dsimp only
  rw [first, if_neg (by decide), slot, Option.bind_some, req]
  dsimp only
  rw [plain, apply]
  rfl

end

end Sys2Proof.Machine

/-! SUPPORT. The statements on table commands, gathers and merges. -/

namespace Sys2Proof.Proofs

open Sys2Proof.Machine Sys2Proof.Claims

/-! ### O24: table commands and gathers -/

/-- A gather without read errors is its operation, where that meets no link that is down. -/
theorem gatherRead_next {s : State} {cmd : Nat} {e : Dev} (acts : gatherReadOp s.dev cmd = e) (up : e.eng.linkDown = s.dev.eng.linkDown) :
    exec (.gatherRead cmd []) s = .next (on s e) := by
  have step : exec (.gatherRead cmd []) s = ok s (orWait s.dev (gathReads s.dev cmd false [] (gatherReadOp · cmd))) := rfl
  rw [step, gathReads_nil, acts, orWait_of_linkDown up, ok_next]

theorem gathCommand_stays {s : State} {cmd id : Nat} {g : GathCmd} {c : Ctx} (found : findGath s.dev cmd = some g) (ctx : g.ctx = some id)
    (job : findCtx s.dev id = some c) (h : g.valid = true ∨ gathRunning s.dev g = false) : exec (.gathCommand cmd) s = .next s :=
  congrArg (ok s) (gathCommandOp_stays found ctx job h)

theorem gathCommand_takes {s : State} {cmd id : Nat} {g : GathCmd} {c : Ctx} {r : Req} {v : Version} (found : findGath s.dev cmd = some g)
    (ctx : g.ctx = some id) (job : findCtx s.dev id = some c) (new : g.valid = false) (turn : gathRunning s.dev g = true) (clean : g.bad = none)
    (req : findReq s.dev c.slot = some r) (table : jobTable s.dev r (GathC.slot g.bytes) = some v)
    (fields : gathFieldBad g.bytes r.train (some v) = none) :
    ∃ t, exec (.gathCommand cmd) s = .next t ∧ Aside s t ∧ findGath t.dev cmd = some (takenGath v g) ∧ t.dev.regs = s.dev.regs ∧
      t.dev.mem = s.dev.mem ∧ t.dev.jobs = s.dev.jobs :=
  ⟨_, congrArg (ok s) (gathCommandOp_takes found ctx job new turn clean req table fields), ⟨rfl, rfl, rfl⟩,
    findGath_modGath found fun _ => rfl, rfl, rfl, rfl⟩

section

variable {s : State} {cmd : Nat} {g : GathCmd} {r : Req} {v : Version} {h : List Byte}
variable (found : findGath s.dev cmd = some g)

include found

theorem gatherRead_waits (w : g.merge = true ∨ gathReady s.dev g = false ∨ gathPortsUp s.dev g = false) :
    exec (.gatherRead cmd []) s = .next s :=
  gatherRead_next (gatherReadOp_waits found w) rfl

variable (gather : g.merge = false) (ready : gathReady s.dev g = true) (ports : gathPortsUp s.dev g = true)
  (ver : findVer s.dev g.ver = some v) (slot : g.slot = some r.slot) (req : findReq s.dev r.slot = some r)
  (part : inPart s.dev r 0 (min 16 r.inLen) = .ok h) (header : gathHeaderOk false r.inLen 0 h = true)

include gather ready ports ver slot req part header

theorem gatherRead_held (waits : applyWaits s.dev v.uid = true) :
    ∃ t, exec (.gatherRead cmd []) s = .next t ∧ Aside s t ∧ (∃ g', findGath t.dev cmd = some g' ∧ g'.phase = .held) ∧
      t.dev.mem = s.dev.mem ∧ t.dev.reqs = s.dev.reqs := by
  have acts := (gatherReadOp_req found gather ready ports ver slot req).trans (reqGather_held part header waits)
  obtain ⟨gs, regs, eq, held⟩ := holdGath_spec .held found
  exact ⟨_, gatherRead_next (acts.trans eq) rfl, ⟨rfl, rfl, rfl⟩, held, rfl, rfl⟩

theorem gatherRead_reads {rows : List (Nat × List Byte)} (up : r.live = true) (due : r.due = []) (loud : r.silent = false)
    (free : applyWaits s.dev v.uid = false) (room : 16 ≤ Desc.outCap r.desc)
    (reads : gatherLoop s.dev (reqGath s.dev g r v h) none (some ((Desc.outCap r.desc - 16) / Tbl.rowBytes v.desc)) (fieldN h 0 4) 0 [] = (rows, none)) :
    ∃ t r', exec (.gatherRead cmd []) s = .next t ∧ Aside s t ∧ findReq t.dev r.slot = some r' ∧ r'.ended = some 0 ∧
      r'.outCount = rows.length ∧ r'.outLen = 16 + rows.length * Tbl.rowBytes v.desc ∧ t.dev.mem.hbm = s.dev.mem.hbm ∧
      Mem.readN t.dev.mem.shore (shoreAddr r.basin (Desc.outBlock r.desc) 0) (gatherOut v rows).length = gatherOut v rows := by
  have acts := (gatherReadOp_req found gather ready ports ver slot req).trans (reqGather_reads part header free room reads)
  obtain ⟨reqs, hbm, down, out⟩ := gatherWritten_spec s.dev (reqGath s.dev g r v h) r v rows
  have sized := findReq_modReq (f := gatherSized v rows) ((findReq_congr reqs r.slot).trans req) fun _ own => own
  obtain ⟨ended, left, -⟩ := endAt_spec 0 sized up due loud
  exact ⟨_, _, gatherRead_next acts (left.linkDown.trans down), ⟨rfl, rfl, rfl⟩, ended, rfl, rfl, rfl, left.hbm.trans hbm, left.shore ▸ out⟩

end

/-- Settles O24: a job's command is taken in its turn (R229), a gather waits for a summed merge to apply (R213, log 76), and its rows are
written in the order of the list (R216 to R218). -/
theorem tableCommandsAndGathers : Obligations.TableCommandsAndGathers := by
  unfold Obligations.TableCommandsAndGathers
  refine ⟨fun s cmd id g c found ctx job => ⟨gathCommand_stays found ctx job, fun r v => gathCommand_takes found ctx job⟩,
    fun s cmd g found => ⟨gatherRead_waits found, ?_⟩⟩
  intro r v h gather ready ports ver slot req up due loud _ part header
  exact ⟨gatherRead_held found gather ready ports ver slot req part header,
    fun rows => gatherRead_reads found gather ready ports ver slot req part header up due loud⟩

/-! ### O25: merges -/

theorem mergeSumDone_next {s : State} {cmd : Nat} {e : Dev} (acts : mergeSumOp s.dev cmd = e) (up : e.eng.linkDown = s.dev.eng.linkDown) :
    exec (.mergeSumDone cmd []) s = .next (on s e) := by
  have step : exec (.mergeSumDone cmd []) s = ok s (orWait s.dev (gathReads s.dev cmd true [] (mergeSumOp · cmd))) := rfl
  rw [step, gathReads_nil, acts, orWait_of_linkDown up, ok_next]

theorem mergeApply_next {s : State} {cmd : Nat} {e : Dev} (acts : mergeApplyOp s.dev cmd [] = e) (up : e.eng.linkDown = s.dev.eng.linkDown) :
    exec (.mergeApply ⟨cmd, []⟩) s = .next (on s e) := by
  have step : exec (.mergeApply ⟨cmd, []⟩) s = ok s (orWait s.dev (mergeApplyOp s.dev cmd [])) := rfl
  rw [step, acts, orWait_of_linkDown up, ok_next]

section

variable {s : State} {cmd : Nat} {g : GathCmd} {r : Req} {v : Version} {h : List Byte}
variable (found : findGath s.dev cmd = some g) (merge : g.merge = true) (ready : gathReady s.dev g = true)
  (ver : findVer s.dev g.ver = some v)

include found merge ready ver

theorem mergeSumDone_sums {d : Dev} {sums : List (Nat × List W32)} (slot : g.slot = some r.slot) (req : findReq s.dev r.slot = some r)
    (part : inPart s.dev r 0 (min 16 r.inLen) = .ok h) (queued : g.phase = .queued)
    (header : gathHeaderOk true r.inLen (Tbl.elems v.desc) h = true) (sum : mergeSum s.dev (reqGath s.dev g r v h) = (d, none, sums)) :
    ∃ t, exec (.mergeSumDone cmd []) s = .next t ∧ Aside s t ∧ findGath t.dev cmd = some (summedGath v (fieldN h 0 4) sums g) ∧
      (sums.map (·.1)).Pairwise (· < ·) ∧ t.dev.mem = s.dev.mem ∧ t.dev.reqs = s.dev.reqs := by
  have acts := mergeSumOp_sums found merge ready queued ver slot req part header sum
  obtain ⟨⟨regs, cache, writes, rfl⟩, ascending⟩ := mergeSum_ascending sum
  obtain ⟨y, returned⟩ := returnInput_host (modGath _ cmd (summedGath v (fieldN h 0 4) sums)) r.slot
  exact ⟨_, mergeSumDone_next (acts.trans returned) rfl, ⟨rfl, rfl, rfl⟩,
    findGath_modGath (f := summedGath v (fieldN h 0 4) sums) found fun _ => rfl, ascending, rfl, rfl⟩

variable (summed : g.phase = .summed) (ports : gathPortsUp s.dev g = true)

include summed ports

theorem mergeApply_held (behind : applyBehind s.dev g = true) :
    ∃ t, exec (.mergeApply ⟨cmd, []⟩) s = .next t ∧ Aside s t ∧ t.dev.mem = s.dev.mem ∧ t.dev.reqs = s.dev.reqs ∧
      findVer t.dev g.ver = some v ∧ ∃ g', findGath t.dev cmd = some g' ∧ g'.phase = .applyHeld := by
  obtain ⟨gs, regs, eq, held⟩ := holdGath_spec .applyHeld found
  exact ⟨_, mergeApply_next ((mergeApplyOp_held found merge ready summed ports behind).trans eq) rfl, ⟨rfl, rfl, rfl⟩, rfl, rfl, ver, held⟩

theorem mergeApply_applies {d : Dev} {n : Nat} (slot : g.slot = some r.slot) (req : findReq s.dev r.slot = some r) (up : r.live = true)
    (due : r.due = []) (loud : r.silent = false) (part : inPart s.dev r 0 16 = .ok h) (first : applyBehind s.dev g = false)
    (apply : applyLoop (reqGath s.dev g r v h) none none s.dev g.sums 0 = (d, n, none)) :
    ∃ t r', exec (.mergeApply ⟨cmd, []⟩) s = .next t ∧ Aside s t ∧ findReq t.dev r.slot = some r' ∧ r'.ended = some 0 ∧ r'.outCount = n ∧
      n = g.sums.length ∧ findVer t.dev g.ver = some { v with edition := (v.edition + 1) % 2 ^ 64 } ∧ t.dev.mem.hbm = d.mem.hbm ∧
      t.dev.mem.pool = d.mem.pool ∧ ∀ q ∈ t.dev.eng.gaths, q.slot ≠ some r.slot := by
  have acts := mergeApplyOp_applies found merge ready summed ports first ver slot req part apply
  obtain ⟨applied, len⟩ := applyLoop_applies apply
  obtain ⟨reqs, txn, down⟩ := applied.kept
  obtain ⟨reqs', mem, down', txn'⟩ := editionRaised_kept d (reqGath s.dev g r v h) v n
  have counted := findReq_modReq (f := fun r => { r with outCount := n }) ((findReq_congr (reqs'.trans reqs) r.slot).trans req) fun _ own => own
  obtain ⟨ended, left, gone⟩ := endAt_spec 0 counted up due loud
  have versions := left.versions.trans (congrArg (·.versions) txn')
  refine ⟨_, _, mergeApply_next acts (left.linkDown.trans (down'.trans down)), ⟨rfl, rfl, rfl⟩, ended, rfl, rfl, by rw [len, Nat.zero_add], ?_,
    left.hbm.trans (congrArg (·.hbm) mem), left.pool.trans (congrArg (·.pool) mem), gone⟩
  rw [findVer_uid ver] at versions
  have before := (findVer_congr (congrArg (·.versions) txn) g.ver).trans ver
  exact (findVer_congr versions g.ver).trans (findVer_modVer (f := Version.raised) before fun _ => rfl)

end

/-- Settles O25: the sums stand by ascending row (R223), an apply waits for the earlier merges of its version (R212), and applies the
sums in their order, once, with the edition raised (R224, R226). -/
theorem mergesSumThenApply : Obligations.MergesSumThenApply := by
  unfold Obligations.MergesSumThenApply
  intro s cmd g r v h found merge ready ver slot req up due loud _ part
  refine ⟨fun d sums => mergeSumDone_sums found merge ready ver slot req part, fun summed ports part16 => ?_⟩
  exact ⟨mergeApply_held found merge ready ver summed ports,
    fun d n => mergeApply_applies found merge ready ver summed ports slot req up due loud part16⟩

end Sys2Proof.Proofs

/-! SUPPORT. Handles by number, the pages of a store as they move, and what the moves and the lifetime do with a handle. -/

namespace Sys2Proof.Machine

open Sys2Proof.Claims

/-! ### Handles by number -/

theorem findHandleIdx_congr {d e : Dev} (h : e.eng.handles = d.eng.handles) (i : Nat) : findHandleIdx e i = findHandleIdx d i :=
  congrArg (List.find? _) h

/-- A handle that a modification leaves with its number. -/
theorem findHandleIdx_modHandle {d : Dev} {i : Nat} {h : Handle} {f : Handle → Handle} (found : findHandleIdx d i = some h)
    (keeps : ∀ g, (f g).idx = g.idx) : findHandleIdx (modHandle d i f) i = some (f h) :=
  (find?_modWhere_self _ f d.eng.handles fun g own => by rwa [keeps]).trans (congrArg (Option.map f) found)

theorem passOn_idx (g : Handle) (heir : Nat × Nat) (h : Handle) : (passOn g heir h).idx = h.idx := by
  unfold passOn
  split
  · split
    · rfl
    · split <;> rfl
  · rfl

/-- A handle that is freed is found no more: those that take over its shared pages keep their own numbers. -/
theorem findHandleIdx_freeHandle (d : Dev) (i : Nat) : findHandleIdx (freeHandle d i) i = none := by
  refine List.find?_eq_none.2 fun h left => ?_
  have rest : ∀ h ∈ d.eng.handles.filter (fun h => !decide (h.idx = i)), ¬ decide (h.idx = i) = true := fun h m => by
    simpa using (List.mem_filter.1 m).2
  rw [freeHandle, withoutHandle] at left
  dsimp only at left
  split at left
  · obtain ⟨x, m, rfl⟩ := List.mem_map.1 left
    rw [passOn_idx]
    exact rest x m
  · exact rest h left

/-! ### Status bits of generation -/

theorem genStat_eng (d : Dev) (bit bs : Nat) (tag : W32) (handle slot : Nat) : (genStat d bit bs tag handle slot).eng = d.eng := by
  obtain ⟨r, q, p, w, e⟩ := setStat_eq d .gen 0 bit bs tag (BitVec.ofNat 32 handle) (BitVec.ofNat 32 slot)
  rw [genStat, e]

theorem stat_genStat (s : State) (d : Dev) {bit : Nat} (bs : Nat) (tag : W32) (handle slot : Nat) (lt : bit < 32) :
    stat (on s (genStat d bit bs tag handle slot)) .gen 0 bit = true := by
  rw [stat, liveN, bitOf_toNat, genStat, live_setStat_stat, BitVec.getLsbD_or, getLsbD_bitWord _ _ lt]
  simp

/-! ### Pages that move (R275) -/

theorem movedTo_zip_mem {xs ys : List Nat} {p : Nat} (len : xs.length ≤ ys.length) (m : p ∈ xs) : movedTo (xs.zip ys) p ∈ ys := by
  have named : ((xs.zip ys).find? fun x => decide (x.1 = p)).isSome = true := by
    rw [← List.map_fst_zip len] at m
    obtain ⟨x, mem, own⟩ := List.mem_map.1 m
    exact List.find?_isSome.2 ⟨x, mem, decide_eq_true own⟩
  obtain ⟨x, e⟩ := Option.isSome_iff_exists.1 named
  rw [movedTo, e]
  exact (List.of_mem_zip (List.mem_of_find?_eq_some e)).2

theorem movedTo_zip_of_not_mem {xs ys : List Nat} {p : Nat} (m : p ∉ xs) : movedTo (xs.zip ys) p = p := by
  have absent : (xs.zip ys).find? (fun x => decide (x.1 = p)) = none :=
    List.find?_eq_none.2 fun x mem own => m (of_decide_eq_true own ▸ (List.of_mem_zip mem).1)
  rw [movedTo, absent]
  rfl

/-- A handle whose store's pages have moved. -/
def Handle.moved (m : List (Nat × Nat)) (h : Handle) : Handle := { h with kv := h.kv.map (movedTo m) }

theorem Handle.ownPages_moved (m : List (Nat × Nat)) (h : Handle) : (h.moved m).ownPages = h.ownPages.map (movedTo m) :=
  List.map_drop.symm

theorem findHandleIdx_movePages {d : Dev} {i : Nat} {h : Handle} (m : List (Nat × Nat)) (found : findHandleIdx d i = some h) :
    findHandleIdx (movePages d m) i = some (h.moved m) :=
  List.find?_map.trans (congrArg (Option.map (Handle.moved m)) found)

/-- Of the requests, a move of pages changes the pages of their streams alone. -/
theorem sameButPages_movePages (d : Dev) (m : List (Nat × Nat)) : SameButPages (movePages d m).reqs d.reqs := by
  unfold SameButPages movePages
  rw [List.map_map]
  refine List.map_congr_left fun r _ => ?_
  rw [Function.comp_apply, Option.map_map]
  rfl

theorem givePages_lt {d : Dev} {stack many n p : Nat} (pos : 0 < many) (m : p ∈ (givePages d stack many n).2) :
    p < (stack + many) * stackPages := by
  obtain ⟨k, -, rfl⟩ := List.mem_map.1 m
  rw [Nat.add_mul]
  exact Nat.add_lt_add_left (Nat.mod_lt _ (Nat.mul_pos pos (by decide))) _

/-! ### To the pool and back -/

/-- Where the own pages of a store go as it moves to the pool. -/
def poolPlaces (d : Dev) (h : Handle) : List (Nat × Nat) :=
  h.ownPages.zip ((List.range h.ownPages.length).map fun i => 2 ^ 40 + d.fresh + i)

theorem findHandleIdx_toPool {d : Dev} {i : Nat} {h : Handle} (found : findHandleIdx d i = some h) :
    findHandleIdx (toPool d h) i = some (h.moved (poolPlaces d h)) :=
  findHandleIdx_movePages (d := { d with fresh := d.fresh + h.ownPages.length }) _ found

/-- A store in the pool has none of its own pages in HBM. -/
theorem ownPages_poolPlaces (d : Dev) (h : Handle) : ∀ p ∈ (h.moved (poolPlaces d h)).ownPages, 2 ^ 40 ≤ p := by
  intro p m
  rw [Handle.ownPages_moved] at m
  obtain ⟨q, own, rfl⟩ := List.mem_map.1 m
  have placed : movedTo (poolPlaces d h) q ∈ (List.range h.ownPages.length).map fun i => 2 ^ 40 + d.fresh + i :=
    movedTo_zip_mem (by simp) own
  obtain ⟨k, -, e⟩ := List.mem_map.1 placed
  rw [← e]
  omega

/-- The own pages of a store that the pool holds. -/
def Handle.awayPages (h : Handle) : List Nat := h.ownPages.filter fun p => decide (2 ^ 40 ≤ p)

/-- Where the pages of a store that the pool holds go as it moves back. -/
def hbmPlaces (d : Dev) (h : Handle) : List (Nat × Nat) := h.awayPages.zip (givePages d 0 12 h.awayPages.length).2

theorem fromPool_eq (d : Dev) (h : Handle) : fromPool d h = movePages (givePages d 0 12 h.awayPages.length).1 (hbmPlaces d h) := rfl

theorem findHandleIdx_fromPool {d : Dev} {i : Nat} {h : Handle} (found : findHandleIdx d i = some h) :
    findHandleIdx (fromPool d h) i = some (h.moved (hbmPlaces d h)) :=
  findHandleIdx_movePages (d := (givePages d 0 12 h.awayPages.length).1) _ found

/-- A store that is back has all of its own pages in HBM: those that the pool held are given out anew, and the others stay. -/
theorem ownPages_hbmPlaces (d : Dev) (h : Handle) : ∀ p ∈ (h.moved (hbmPlaces d h)).ownPages, p < 2 ^ 40 := by
  intro p m
  rw [Handle.ownPages_moved] at m
  obtain ⟨q, own, rfl⟩ := List.mem_map.1 m
  by_cases away : q ∈ h.awayPages
  · have given : movedTo (hbmPlaces d h) q < (0 + 12) * stackPages :=
      givePages_lt (by decide) (movedTo_zip_mem (by simp [givePages]) away)
    exact Nat.lt_trans given (by decide)
  · have stays : movedTo (hbmPlaces d h) q = q := movedTo_zip_of_not_mem away
    have inHbm : ¬ 2 ^ 40 ≤ q := fun le => away (List.mem_filter.2 ⟨own, decide_eq_true le⟩)
    rw [stays]
    exact Nat.lt_of_not_le inHbm

/-! ### The moves and the lifetime of a handle (R272, R273, R275) -/

/-- A handle that has been parked, its lifetime running from then on. -/
def Handle.parkedAt (now : Nat) (h : Handle) : Handle :=
  { h with moving := false, inPool := true, hbmPages := 0, st := .parked, expiry := some (now + sCycles h.ttlS) }

/-- A handle whose store stays in HBM. -/
def Handle.stayed (h : Handle) : Handle := { h with moving := false, poolPages := 0 }

/-- A handle whose store is back in HBM. -/
def Handle.back (held : Bool) (h : Handle) : Handle :=
  { h with moving := false, inPool := false, poolPages := 0, expiry := if held then h.expiry else none, st := if held then .held else .idle }

/-- The slot that a status event of a handle names: its model's. -/
def handleSlot (d : Dev) (h : Handle) : Nat := match findVer d h.model with | some v => v.slot | none => 0

section

variable {d : Dev} {i : Nat} {h : Handle} (found : findHandleIdx d i = some h)

include found

theorem parkIdleOp_idle (idle : h.st = .idle) (still : h.moving = false) (inHbm : h.inPool = false) :
    parkIdleOp d i =
      if fitsPool d h.basin (Config.parkedPages h.idx h.own) then
        modHandle (advanceTo d (h.since + msCycles h.idleMs)) i fun g => { g with moving := true, poolPages := Config.parkedPages h.idx h.own }
      else genStat (advanceTo d (h.since + msCycles h.idleMs)) 2 h.basin noTag h.value (handleSlot d h) := by
  rw [parkIdleOp, found]
  dsimp only
  rw [if_neg (by simp [idle, still, inHbm])]
  rfl

theorem parkIdleOp_of_not_idle (busy : h.st ≠ .idle) : parkIdleOp d i = d := by
  rw [parkIdleOp, found]
  exact if_pos (.inl busy)

/-- A move without read errors is its operation. -/
theorem movesStore_moves (moving : h.moving = true) (move : Dev → Nat → Dev) : movesStore d i [] move = move d i := by
  rw [movesStore_nil, found]
  exact if_pos moving

theorem parkDoneOp_parks (moving : h.moving = true) (inHbm : h.inPool = false) (free : h.holds = []) :
    parkDoneOp d i = count (modHandle (toPool d h) i (Handle.parkedAt d.now)) .gen 0 0x120 1 := by
  rw [parkDoneOp, found]
  dsimp only
  rw [if_neg (by simp [moving, inHbm]), if_pos free]
  rfl

theorem parkDoneOp_of_inPool (inPool : h.inPool = true) : parkDoneOp d i = d := by
  rw [parkDoneOp, found]
  exact if_pos (.inr inPool)

theorem parkFailOp_stays (moving : h.moving = true) (inHbm : h.inPool = false) :
    parkFailOp d i = genStat (modHandle d i Handle.stayed) 1 h.basin noTag h.value (handleSlot d h) := by
  rw [parkFailOp, found]
  exact if_neg (by simp [moving, inHbm])

theorem unparkDoneOp_returns (moving : h.moving = true) (inPool : h.inPool = true) :
    unparkDoneOp d i = modHandle (fromPool d h) i (Handle.back (decide (h.holds ≠ []))) := by
  rw [unparkDoneOp, found]
  exact if_neg (by simp [moving, inPool])

theorem unparkDoneOp_of_inHbm (inHbm : h.inPool = false) : unparkDoneOp d i = d := by
  rw [unparkDoneOp, found]
  exact if_pos (.inr (by rw [inHbm]; rfl))

theorem ttlOp_ends {t : Nat} (ends : h.expiry = some t) (owned : h.released = false) :
    ttlOp d i =
      if h.holds = [] then freeHandle (count (advanceTo d t) .gen 0 0x124 1) i
      else modHandle (advanceTo d t) i fun g => { g with released := true } := by
  rw [ttlOp, found]
  dsimp only
  rw [ends]
  exact if_neg (by simp [owned])

theorem ttlOp_of_no_expiry (endless : h.expiry = none) : ttlOp d i = d := by
  rw [ttlOp, found]
  dsimp only
  rw [endless]

end

end Sys2Proof.Machine

/-! SUPPORT. The statement on the moves and the lifetime of handles. -/

namespace Sys2Proof.Proofs

open Sys2Proof.Machine Sys2Proof.Claims

/-! ### O23: handles park, return, expire and are freed -/

section

variable {s : State} {i : Nat} {h : Handle} (found : findHandleIdx s.dev i = some h)

include found

theorem handleParkIdle_idle (idle : h.st = .idle) (still : h.moving = false) (inHbm : h.inPool = false) :
    ∃ t, exec (.handleParkIdle i) s = .next t ∧ Aside s t ∧ t.dev.now = max s.dev.now (h.since + msCycles h.idleMs) ∧
      (fitsPool s.dev h.basin (Config.parkedPages h.idx h.own) = true →
        findHandleIdx t.dev i = some { h with moving := true, poolPages := Config.parkedPages h.idx h.own }) ∧
      (fitsPool s.dev h.basin (Config.parkedPages h.idx h.own) = false → findHandleIdx t.dev i = some h ∧ stat t .gen 0 2 = true) ∧
      t.dev.reqs = s.dev.reqs := by
  have op := parkIdleOp_idle found idle still inHbm
  have later : findHandleIdx (advanceTo s.dev (h.since + msCycles h.idleMs)) i = some h := found
  cases fits : fitsPool s.dev h.basin (Config.parkedPages h.idx h.own)
  case true =>
    exact ⟨_, congrArg (ok s) (op.trans (if_pos fits)), ⟨rfl, rfl, rfl⟩, rfl, fun _ => findHandleIdx_modHandle later fun _ => rfl,
      fun full => Bool.noConfusion full, rfl⟩
  case false =>
    exact ⟨_, congrArg (ok s) (op.trans (if_neg (ne_true_of_eq_false fits))), ⟨rfl, rfl, rfl⟩, setStat_now .., fun room => Bool.noConfusion room,
      fun _ => ⟨(findHandleIdx_congr (congrArg (·.handles) (genStat_eng ..)) i).trans later, stat_genStat _ _ _ _ _ _ (by decide)⟩,
      setStat_reqs ..⟩

theorem handleParkDone_parks (moving : h.moving = true) (inHbm : h.inPool = false) (free : h.holds = []) :
    ∃ t kv, exec (.handleParkDone ⟨i, []⟩) s = .next t ∧ Aside s t ∧
      findHandleIdx t.dev i = some { h with
        moving := false, inPool := true, hbmPages := 0, st := .parked, expiry := some (s.dev.now + sCycles h.ttlS), kv := kv } ∧
      (∀ p ∈ ({ h with kv := kv } : Handle).ownPages, 2 ^ 40 ≤ p) ∧
      live t.dev (regA .gen 0 0x120) = live s.dev (regA .gen 0 0x120) + 1 ∧ SameButPages t.dev.reqs s.dev.reqs ∧
      t.dev.mem = { s.dev.mem with poison := t.dev.mem.poison, models := t.dev.mem.models } := by
  have op := (movesStore_moves found moving parkDoneOp).trans (parkDoneOp_parks found moving inHbm free)
  have parked := findHandleIdx_modHandle (f := Handle.parkedAt s.dev.now) (findHandleIdx_toPool found) fun _ => rfl
  exact ⟨_, _, congrArg (ok s) op, ⟨rfl, rfl, rfl⟩, parked, ownPages_poolPlaces s.dev h, live_setLive_self .., sameButPages_movePages _ _, rfl⟩

theorem parkWriteFail_stays (moving : h.moving = true) (inHbm : h.inPool = false) :
    ∃ t, exec (.parkWriteFail i) s = .next t ∧ Aside s t ∧ findHandleIdx t.dev i = some { h with moving := false, poolPages := 0 } ∧
      stat t .gen 0 1 = true ∧ t.dev.reqs = s.dev.reqs ∧ t.dev.mem = s.dev.mem := by
  have stayed := findHandleIdx_modHandle (f := Handle.stayed) found fun _ => rfl
  exact ⟨_, congrArg (ok s) (parkFailOp_stays found moving inHbm), ⟨rfl, rfl, rfl⟩,
    (findHandleIdx_congr (congrArg (·.handles) (genStat_eng ..)) i).trans stayed, stat_genStat _ _ _ _ _ _ (by decide),
    setStat_reqs .., setStat_mem ..⟩

theorem handleUnparkDone_returns (moving : h.moving = true) (inPool : h.inPool = true) :
    ∃ t h', exec (.handleUnparkDone ⟨i, []⟩) s = .next t ∧ Aside s t ∧ findHandleIdx t.dev i = some h' ∧
      h'.moving = false ∧ h'.inPool = false ∧ h'.poolPages = 0 ∧ h'.hbmPages = h.hbmPages ∧ (h.holds = [] → h'.expiry = none) ∧
      (∀ p ∈ h'.ownPages, p < 2 ^ 40) ∧
      exec (.handleParkDone ⟨i, []⟩) s = .next s ∧ t.dev.regs = s.dev.regs ∧ SameButPages t.dev.reqs s.dev.reqs := by
  have op := (movesStore_moves found moving unparkDoneOp).trans (unparkDoneOp_returns found moving inPool)
  have noPark := (movesStore_moves found moving parkDoneOp).trans (parkDoneOp_of_inPool found inPool)
  have back := findHandleIdx_modHandle (f := Handle.back (decide (h.holds ≠ []))) (findHandleIdx_fromPool found) fun _ => rfl
  exact ⟨_, _, congrArg (ok s) op, ⟨rfl, rfl, rfl⟩, back, rfl, rfl, rfl, rfl, fun free => if_neg (by simp [free]),
    ownPages_hbmPlaces s.dev h, congrArg (ok s) noPark, rfl, sameButPages_movePages _ _⟩

theorem handleTtlExpiry_frees {t0 : Nat} (ends : h.expiry = some t0) (owned : h.released = false) (free : h.holds = []) :
    ∃ t, exec (.handleTtlExpiry i) s = .next t ∧ Aside s t ∧ findHandleIdx t.dev i = none ∧ t.dev.now = max s.dev.now t0 ∧
      live t.dev (regA .gen 0 0x124) = live s.dev (regA .gen 0 0x124) + 1 ∧ t.dev.reqs = s.dev.reqs :=
  ⟨_, congrArg (ok s) ((ttlOp_ends found ends owned).trans (if_pos free)), ⟨rfl, rfl, rfl⟩, findHandleIdx_freeHandle _ _, rfl,
    live_setLive_self .., rfl⟩

theorem handleTtlExpiry_releases {t0 : Nat} (ends : h.expiry = some t0) (owned : h.released = false) (held : h.holds ≠ []) :
    exec (.handleTtlExpiry i) s = .next (on s (modHandle (advanceTo s.dev t0) i (fun h => { h with released := true }))) :=
  congrArg (ok s) ((ttlOp_ends found ends owned).trans (if_neg held))

end

/-- Settles O23: a store moves to the pool and back with its own pages (R275), and a lifetime that ends frees the handle or marks it
released (R272, R273). -/
theorem handleMoves : Obligations.HandleMoves := by
  unfold Obligations.HandleMoves
  intro s i h found
  refine ⟨handleParkIdle_idle found, fun busy => congrArg (ok s) (parkIdleOp_of_not_idle found busy), fun moving inHbm => ?_,
    handleUnparkDone_returns found, fun t0 ends owned => ?_, fun endless => congrArg (ok s) (ttlOp_of_no_expiry found endless)⟩
  · have noReturn := (movesStore_moves found moving unparkDoneOp).trans (unparkDoneOp_of_inHbm found inHbm)
    exact ⟨handleParkDone_parks found moving inHbm, parkWriteFail_stays found moving inHbm, congrArg (ok s) noReturn⟩
  · exact ⟨handleTtlExpiry_frees found ends owned, handleTtlExpiry_releases found ends owned⟩

end Sys2Proof.Proofs

/-! SUPPORT. The measurement log and its replay (R438, R439): what an extension adds, and what every command keeps. -/

namespace Sys2Proof.Machine

open Sys2Proof.Claims

/-! ### Fields of a byte list -/

theorem leNat_natLe (n v : Nat) : leNat (natLe n v) = v % 256 ^ n := by
  induction n generalizing v with
  | zero => simp [natLe, leNat, Nat.mod_one]
  | succ n ih => rw [natLe, leNat, ih, Nat.pow_succ', Nat.mod_mul, BitVec.toNat_ofNat]

theorem take_drop_of_parts {bs p q r : List Byte} {off n : Nat} (parts : bs = p ++ (q ++ r)) (before : p.length = off) (len : q.length = n) :
    (bs.drop off).take n = q := by
  subst parts before len
  simp

/-- A field that the list holds as a number of its own. -/
theorem fieldN_of_parts {bs p r : List Byte} {off n v : Nat} (parts : bs = p ++ (natLe n v ++ r)) (before : p.length = off) (lt : v < 256 ^ n) :
    fieldN bs off n = v := by
  rw [fieldN, take_drop_of_parts parts before (length_natLe ..), leNat_natLe, Nat.mod_eq_of_lt lt]

/-! ### A log entry (Table 19-8) -/

section
variable (seq slot etype target bank time version : Nat) (v : BitVec 384)

theorem length_logEntry : (logEntry seq slot etype target bank time version v).length = 128 := by
  simp [logEntry, slotBytes48, length_natLe]

theorem logEntry_seq (h : seq < 2 ^ 32) : fieldN (logEntry seq slot etype target bank time version v) 0 4 = seq :=
  fieldN_of_parts (p := []) (by simp only [logEntry, List.append_assoc, List.nil_append]; rfl) rfl h

theorem logEntry_slot (h : slot < 256) : byteAt (logEntry seq slot etype target bank time version v) 4 = slot :=
  fieldN_of_parts (p := natLe 4 seq) (by simp only [logEntry, List.append_assoc]; rfl) (length_natLe ..) h

theorem logEntry_etype (h : etype < 256) : byteAt (logEntry seq slot etype target bank time version v) 5 = etype :=
  fieldN_of_parts (p := natLe 4 seq ++ natLe 1 slot) (by simp only [logEntry, List.append_assoc]; rfl) (by simp [length_natLe]) h

theorem logEntry_digest : ((logEntry seq slot etype target bank time version v).drop 32).take 48 = slotBytes48 v :=
  take_drop_of_parts
    (p := natLe 4 seq ++ natLe 1 slot ++ natLe 1 etype ++ natLe 1 target ++ natLe 1 bank ++ natLe 8 time ++ natLe 4 version ++ List.replicate 12 0) (r := List.replicate 48 0)
    (by simp only [logEntry, List.append_assoc]) (by simp [length_natLe]) (length_natLe ..)

end

/-! ### Extensions (R438) -/

/-- What an extension does to the measurement block. -/
theorem extend_meas (s : State) (slot etype target bank version : Nat) (v : BitVec 384) :
    (extend s slot etype target bank version v).meas =
      { s.meas with
        slots := SMap.set (fun _ => 0) s.meas.slots slot (Sha.digest (slotBytes48 (slotOf s slot) ++ slotBytes48 v))
        log := if 4096 ≤ s.meas.log.length then s.meas.log
          else s.meas.log ++ [logEntry (s.meas.log.length + 1) slot etype target bank (sprNow s.dev) version v] } := by
  obtain ⟨r, counted⟩ : ∃ r, count s.dev .meas 0 0x114 1 = { s.dev with regs := r } := ⟨_, rfl⟩
  simp only [extend, onDev, counted]
  -- the kernel is not to evaluate the digest
  generalize SMap.set _ _ _ (Sha.digest _) = slots
  by_cases full : 4096 ≤ s.meas.log.length
  · simp only [full, if_true]
  · simp only [full, if_false, sprNow]

theorem slotOf_extend (s : State) (slot etype target bank version n : Nat) (v : BitVec 384) :
    slotOf (extend s slot etype target bank version v) n =
      if slot = n then Sha.digest (slotBytes48 (slotOf s slot) ++ slotBytes48 v) else slotOf s n := by
  rw [slotOf, extend_meas]
  exact SMap.get_set ..

/-! ### The record that the block keeps -/

theorem measInv_congr {s t : State} (h : t.meas = s.meas) : MeasInv t ↔ MeasInv s := by
  simp only [MeasInv, slotOf, h]

theorem measInv_empty {s : State} (h : s.meas = ⟨[], [], []⟩) : MeasInv s := by
  refine ⟨by simp [h], by rw [h]; rfl, ?_, ?_, ?_⟩
  · simp [h]
  · simp [h]
  · intro _ n
    rw [slotOf, h]; rfl

theorem replay_append (n : Nat) (es : List (List Byte)) (e : List Byte) (v : BitVec 384) :
    replay n (es ++ [e]) v =
      if byteAt e 4 = n then Sha.digest (slotBytes48 (replay n es v) ++ (e.drop 32).take 48) else replay n es v := by
  induction es generalizing v with
  | nil => rfl
  | cons x xs ih => exact ih _

/-- An extension of one of the sixteen slots is recorded. -/
theorem measInv_extend {s : State} {slot : Nat} (etype target bank version : Nat) (v : BitVec 384) (lt : slot < 16) (h : MeasInv s) :
    MeasInv (extend s slot etype target bank version v) := by
  obtain ⟨short, wf, entries, waits, replays⟩ := h
  have m := extend_meas s slot etype target bank version v
  have slots : SMap.wf (fun _ => 0) (extend s slot etype target bank version v).meas.slots = true := by
    rw [m]; exact SMap.wf_set wf ..
  have waiting : ∀ w ∈ (extend s slot etype target bank version v).meas.waiting, w.1 < 16 := by rw [m]; exact waits
  by_cases full : 4096 ≤ s.meas.log.length
  · have log : (extend s slot etype target bank version v).meas.log = s.meas.log := by rw [m]; exact if_pos full
    exact ⟨log ▸ short, slots, log ▸ entries, waiting, fun room => absurd full (by rw [log] at room; omega)⟩
  · generalize he : logEntry (s.meas.log.length + 1) slot etype target bank (sprNow s.dev) version v = e at m
    have log : (extend s slot etype target bank version v).meas.log = s.meas.log ++ [e] := by rw [m]; exact if_neg full
    have named : byteAt e 4 = slot := by rw [← he]; exact logEntry_slot _ _ _ _ _ _ _ _ (by omega)
    refine ⟨by rw [log, List.length_append, List.length_singleton]; omega, slots, ?_, waiting, ?_⟩
    · intro i x hx
      rw [log, List.getElem?_append] at hx
      split at hx
      · exact entries i x hx
      · obtain ⟨zero, rfl⟩ : i - s.meas.log.length = 0 ∧ e = x := by
          rw [List.getElem?_singleton] at hx
          split at hx
          · exact ⟨‹_›, Option.some.inj hx⟩
          · cases hx
        have last : s.meas.log.length + 1 = i + 1 := by omega
        exact ⟨by rw [← he]; exact length_logEntry .., by rw [← he, logEntry_seq _ _ _ _ _ _ _ _ (by omega), last], by omega⟩
    · intro _ n
      rw [log, replay_append, named, slotOf_extend, ← replays (by omega) n, ← he, logEntry_digest]
      split
      · next eq => rw [eq]
      · rfl

/-! ### What every operation keeps -/

/-- The queue is as before, and the measurement block keeps its record. -/
structure MeasKept (s t : State) : Prop where
  pending : t.pending = s.pending
  inv : MeasInv s → MeasInv t

namespace MeasKept

theorem refl (s : State) : MeasKept s s := ⟨rfl, id⟩

variable {s t u : State}

theorem trans (h : MeasKept s t) (g : MeasKept t u) : MeasKept s u := ⟨g.pending.trans h.pending, g.inv ∘ h.inv⟩

/-- What leaves the measurement block alone. -/
theorem of_meas (pending : t.pending = s.pending) (meas : t.meas = s.meas) : MeasKept s t := ⟨pending, (measInv_congr meas).2⟩

/-- What clears it. -/
theorem of_empty (pending : t.pending = s.pending) (meas : t.meas = ⟨[], [], []⟩) : MeasKept s t := ⟨pending, fun _ => measInv_empty meas⟩

theorem onDev (h : MeasKept s t) (f : Dev → Dev) : MeasKept s (onDev t f) := h.trans (of_meas rfl rfl)

theorem ite {c : Prop} [Decidable c] (ht : MeasKept s t) (hu : MeasKept s u) : MeasKept s (if c then t else u) := by
  split
  · exact ht
  · exact hu

theorem foldl {α : Type} {f : State → α → State} (step : ∀ s x, MeasKept s (f s x)) (xs : List α) (s : State) : MeasKept s (xs.foldl f s) := by
  induction xs generalizing s with
  | nil => exact refl s
  | cons x xs ih => exact (step s x).trans (ih _)

/-! ### Measurement -/

theorem extend (s : State) {slot : Nat} (lt : slot < 16) (etype target bank version : Nat) (v : BitVec 384) :
    MeasKept s (extend s slot etype target bank version v) :=
  ⟨(extend_kept ..).1.pending, measInv_extend etype target bank version v lt⟩

/-- Those that wait name slots of their own. -/
theorem extWaiting (s : State) : MeasKept s (extWaiting s) := by
  refine ⟨(extWaiting_kept s).pending, fun h => ?_⟩
  have all (ws : List (Nat × BitVec 384)) (t : State) (lt : ∀ w ∈ ws, w.1 < 16) (ht : MeasInv t) :
      MeasInv (ws.foldl (fun s w => Machine.extend s w.1 5 0xFF 0xFF 0 w.2) t) := by
    induction ws generalizing t with
    | nil => exact ht
    | cons w ws ih => exact ih _ (fun x hx => lt x (.tail _ hx)) (measInv_extend 5 0xFF 0xFF 0 w.2 (lt w (.head _)) ht)
  obtain ⟨short, wf, entries, waits, replays⟩ := h
  exact all s.meas.waiting _ waits ⟨short, wf, entries, fun _ => (List.not_mem_nil · |>.elim), replays⟩

theorem measExtOp (s : State) (fn : Nat) (v : W32) : MeasKept s (measExtOp s fn v) := by
  have lt : v.toNat % 16 < 16 := Nat.mod_lt _ (by decide)
  have waits : MeasKept s { s with meas := { s.meas with waiting := s.meas.waiting ++ [(v.toNat % 16, extData s.dev)] } } := by
    refine ⟨rfl, fun ⟨short, wf, entries, waits, replays⟩ => ⟨short, wf, entries, fun w hw => ?_, replays⟩⟩
    rcases List.mem_append.1 hw with old | new
    · exact waits w old
    · rw [List.mem_singleton.1 new]; exact lt
  unfold Machine.measExtOp
  exact .ite (.refl s) (.ite ((refl s).onDev _) (.ite (.extend s lt ..) waits))

theorem startImage (s : State) {n : Nat} (lt : n < 6) (bank etype : Nat) : MeasKept s (startImage s n bank etype).1 := by
  have measured (version : Nat) (v : BitVec 384) : MeasKept s (Machine.extend s (n + 1) etype n bank version v) :=
    extend s (Nat.lt_of_lt_of_le (Nat.succ_lt_succ lt) (by decide)) etype n bank version v
  unfold Machine.startImage
  dsimp only
  split
  · exact (measured ..).trans (of_meas rfl rfl)
  · exact (measured ..).trans (of_meas rfl rfl)

/-! ### Messages (R441, R480) -/

theorem sendSpdm (h : MeasKept s t) (via : Via) (resp : List Byte) : MeasKept s (sendSpdm t via resp) := h.onDev _

theorem setSpdm (h : MeasKept s t) (step : Nat) (vca b l : List Byte) : MeasKept s (setSpdm t step vca b l) := h.onDev _

theorem spdmAnswer (s : State) (via : Via) (req : List Byte) : MeasKept s (spdmAnswer s via req) := by
  have error (code data : Nat) : MeasKept s (Machine.sendSpdm s via (spdmError code data)) := (refl s).sendSpdm ..
  have told (step : Nat) (vca b l r : List Byte) : MeasKept s (Machine.sendSpdm (Machine.setSpdm s step vca b l) via r) :=
    ((refl s).setSpdm ..).sendSpdm ..
  have drawn (c : Bool) : MeasKept s (if c then s else { s with dev := (draw s.dev).2 }) := .ite (refl s) (of_meas rfl rfl)
  unfold Machine.spdmAnswer
  exact .ite (error ..) (.ite (told ..) (.ite (error ..) (.ite (.ite (error ..) (told ..)) (.ite (.ite (error ..) (told ..))
    (.ite (error ..) (.ite (told ..) (.ite (told ..) (.ite (.ite (error ..) (told ..))
    (.ite (error ..) (.ite (((drawn _).setSpdm ..).sendSpdm ..) (((drawn _).setSpdm ..).sendSpdm ..)))))))))))

theorem spdmServe (s : State) (via : Via) (req : List Byte) : MeasKept s (spdmServe s via req) := by
  unfold Machine.spdmServe
  split
  · exact spdmAnswer ..
  · exact (refl s).sendSpdm ..
  · exact refl s

theorem controlAnswer (s : State) (req : List Byte) : MeasKept s (controlAnswer s req) := by
  have sent (rest : List Byte) : MeasKept s (sendControl s req rest) := (refl s).onDev _
  unfold Machine.controlAnswer
  split
  · exact .ite (((refl s).onDev _).onDev _) (sent _)
  · exact sent _
  · exact sent _
  · exact sent _
  · exact sent _

theorem mctpServe (s : State) (m : List Byte) : MeasKept s (mctpServe s m) := .ite (controlAnswer ..) (.ite (spdmServe ..) (refl s))

theorem mctpIn (s : State) (m : List Byte) : MeasKept s (mctpIn s m) :=
  .ite (refl s) (.ite ((refl s).onDev _) (((refl s).onDev _).trans (mctpServe ..)))

theorem spdmIn (s : State) (via : Via) (req : List Byte) (mine : Nat → Bool) : MeasKept s (spdmIn s via req mine) :=
  .ite (refl s) (.ite (mctpIn ..) (.ite (((refl s).onDev _).trans (spdmServe ..)) (refl s)))

/-! ### Resets, power and boot -/

theorem lose (s : State) (spring cfg : Bool) : MeasKept s (lose s spring cfg) := of_empty rfl rfl

theorem deviceResetOp (s : State) (cause : Nat) : MeasKept s (deviceResetOp s cause) := .ite (refl s) ((lose ..).onDev _)

theorem railsOff (h : MeasKept s t) : MeasKept s (railsOff t) := h.trans (of_meas rfl rfl)

theorem enActs (s : State) : MeasKept s (enActs s) := (deviceResetOp s 2).onDev _

theorem powerOnOp (s : State) : MeasKept s (powerOnOp s) := by
  have off : MeasKept s (Machine.railsOff (Machine.lose s false false)) := (lose ..).railsOff
  exact .ite ((off.onDev _).trans (enActs _)) (off.onDev _)

theorem enRiseOp (s : State) : MeasKept s (enRiseOp s) := by
  unfold Machine.enRiseOp
  dsimp only
  refine .ite (refl s) (.ite ((refl s).onDev _) ?_)
  split
  · exact .ite ((refl s).onDev _) (enActs s)
  · exact enActs s

theorem enRiseActsOp (s : State) : MeasKept s (enRiseActsOp s) := .ite (refl s) (((refl s).onDev _).trans (enActs _))

theorem goodLowOp (s : State) : MeasKept s (goodLowOp s) := .ite ((deviceResetOp s 2).onDev _) (refl s)

theorem enFallOp (s : State) : MeasKept s (enFallOp s) :=
  .ite ((refl s).onDev _) (.ite (refl s) (.ite ((refl s).onDev _) ((lose ..).railsOff.onDev _)))

theorem vinOffOp (s : State) : MeasKept s (vinOffOp s) := (lose ..).railsOff.onDev _

theorem perstOnOp (s : State) : MeasKept s (perstOnOp s) := .ite (refl s) ((ite (deviceResetOp s 3) (refl s)).onDev _)

theorem thermTripOp (s : State) (die : Nat) : MeasKept s (thermTripOp s die) := .ite (refl s) ((lose ..).railsOff.onDev _)

theorem deepEntryOp (s : State) : MeasKept s (deepEntryOp s) :=
  .ite (refl s) ((((refl s).onDev flushFrames).trans (lose _ true false)).trans (of_meas rfl rfl))

theorem deepExitOp (s : State) (src : WakeSource) : MeasKept s (deepExitOp s src) := .ite (refl s) ((deviceResetOp s 5).onDev _)

theorem rstCtlOp (s : State) (fn : Nat) (v : W32) : MeasKept s (rstCtlOp s fn v) :=
  .ite ((ite ((refl s).onDev _) (refl s)).trans (deviceResetOp _ 4)) (refl s)

theorem resumeService (s : State) (n : Nat) : MeasKept s (resumeService s n) := by
  unfold Machine.resumeService
  split
  · exact extWaiting s
  · exact (refl s).onDev _
  · exact (refl s).onDev _
  · exact (refl s).onDev _
  · exact refl s

theorem restartDoneOp (s : State) (n : Nat) : MeasKept s (restartDoneOp s n) := by
  unfold Machine.restartDoneOp
  split
  · exact refl s
  · next h =>
    have lt : n < 6 := by omega
    have configured (bank : Nat) := ite (c := bank = bitsOf (liveN (restartTaken s n).dev .rst 0 0x108) 5 5) (refl (restartTaken s n))
      (extend (restartTaken s n) (by decide : 8 < 16) 4 0xFF 0xFF 0 (Config.bootConfigDigest bank))
    have started (bank : Nat) := (((refl s).onDev _).trans (configured bank)).trans (startImage _ lt bank 3)
    exact .ite (started _) ((((started _).onDev _).onDev _).trans (resumeService _ n))

theorem bootOp (s : State) : MeasKept s (bootOp s) := by
  unfold Machine.bootOp
  dsimp only
  have three (bank : Nat) := ((extend s (by decide : 0 < 16) 1 0xFF 0xFF 0 Config.romDigest).trans
    (extend _ (by decide : 7 < 16) 4 0xFF 0xFF 0 Config.fuseDigest)).trans (extend _ (by decide : 8 < 16) 4 0xFF 0xFF 0 (Config.bootConfigDigest bank))
  have first (bank : Nat) := (three bank).trans (startImage _ (by decide : 0 < 6) bank 2)
  have others (t : State) (bank : Nat) : MeasKept t ([1, 2, 3, 4, 5].foldl (fun s n => (Machine.startImage s n bank 2).1) t) :=
    ((((startImage t (by decide) bank 2).trans (startImage _ (by decide) bank 2)).trans (startImage _ (by decide) bank 2)).trans
      (startImage _ (by decide) bank 2)).trans (startImage _ (by decide) bank 2)
  exact .ite (refl s) (.ite ((refl s).onDev _) (.ite ((first _).onDev _)
    (((((first _).trans (others _ _)).onDev _).onDev _).trans (foldl mctpServe _ _))))

/-! ### Writes of the host, and transactions -/

theorem actWrite {fn i off : Nat} {k : Blk} {v : W32} {flags : List W64} (h : actWrite s fn k i off v flags = some t) : MeasKept s t := by
  have act {f : Dev → Dev} (h : some (Machine.onDev s f) = some t) : MeasKept s t := Option.some.inj h ▸ (refl s).onDev f
  unfold Machine.actWrite at h
  dsimp only at h
  split at h
  · exact act h
  · exact act h
  · exact act h
  · exact Option.some.inj h ▸ rstCtlOp ..
  · exact act h
  · exact act h
  · exact act h
  · exact Option.some.inj h ▸ measExtOp ..
  · exact act h
  · exact act h
  · obtain ⟨d, -, rfl⟩ := Option.map_eq_some_iff.1 h
    exact of_meas rfl rfl
  · exact act h
  · exact act h
  · exact act h
  · exact act h
  · exact act h
  · cases h

theorem writeReg (s : State) (fn : Nat) (k : Blk) (i off : Nat) (r : RegDef) (v : W32) (hw : List HwSet) (flags : List W64) :
    MeasKept s (writeReg s fn k i off r v hw flags) := by
  unfold Machine.writeReg
  split
  · next h => exact (actWrite h).onDev _
  · exact .ite ((refl s).onDev _) ((refl s).onDev _)

theorem hostWrite4 (s : State) (fn a : Nat) (v : W32) (hw : List HwSet) (flags : List W64) : MeasKept s (hostWrite4 s fn a v hw flags) := by
  have awake : MeasKept s (Machine.onDev s shoreAwake) := (refl s).onDev _
  unfold Machine.hostWrite4
  dsimp only
  refine .ite ((refl s).onDev _) ?_
  split
  · exact awake.onDev _
  · exact awake.onDev _
  · exact awake.onDev _
  · exact .ite (awake.onDev _) (awake.trans (writeReg ..))

theorem regWriteOp (s : State) (fn off size : Nat) (v : W64) (hw : List HwSet) : MeasKept s (regWriteOp s fn off size v hw) :=
  .ite (hostWrite4 ..) (.ite ((hostWrite4 ..).trans (hostWrite4 ..)) ((refl s).onDev _))

theorem metByLoad (errs : List ReadError) (h : MeasKept s t) : MeasKept s (metByLoad errs s t) :=
  .ite (h.trans (of_meas rfl rfl)) (.ite (h.trans (of_meas rfl rfl)) h)

theorem applyReg {cx : TxnCx} {a : Act} (h : applyReg cx s a = .ok t) : MeasKept s t := by
  unfold Machine.applyReg at h
  split at h
  · cases h
  · dsimp only at h
    split at h
    · cases h
    · split at h
      · cases h; exact (refl s).onDev _
      · split at h
        · cases h; exact refl s
        · split at h
          · cases h; exact writeReg ..
          · cases h; exact writeReg ..

theorem applyAct {cx : TxnCx} {a : Act} (h : applyAct cx s a = .next t) : MeasKept s t := by
  have out {x : ActRes} (h : toOut s x = .next t) : MeasKept s t := by
    unfold toOut at h
    split at h
    · cases h; exact of_meas rfl rfl
    · cases h
  have reg (h : (match Machine.applyReg cx s a with | .ok t => ActOut.next t | .error c => .abort c) = .next t) : MeasKept s t := by
    split at h
    · next u hu => cases h; exact applyReg hu
    · cases h
  unfold Machine.applyAct at h
  split at h
  · exact reg h
  · exact reg h
  · exact out h
  · exact out h
  · exact out h
  · split at h
    · cases h; exact refl s
    · cases h
    · cases h
  · exact out h

theorem runActs (cx : TxnCx) (as : List (Nat × Act)) (r : TxnRun) : MeasKept r.s (runActs cx as r).s := by
  induction as generalizing r with
  | nil => exact refl _
  | cons x as ih =>
    unfold Machine.runActs
    split
    · next h => exact (applyAct h).trans (ih { r with s := _, done := _ })
    · exact ih { r with guard := some _ }
    · exact refl _

theorem stepThree {cx : TxnCx} (h : stepThree cx s = .ok t) : MeasKept s t := by
  have ran := (runActs cx (actsOf cx.list) ⟨s, [], none, none⟩).onDev (dropEmptyStates cx)
  unfold Machine.stepThree at h
  dsimp only at h
  split at h
  · cases h
  · split at h
    · cases h
    · split at h
      · cases h
      · cases h; exact ran

theorem landHeld (s : State) (h : HeldWrite) : MeasKept s (landHeld s h) := by
  unfold Machine.landHeld
  split
  · exact writeReg ..
  · exact (refl s).onDev _
  · exact (refl s).onDev _
  · exact refl s

theorem release (s : State) : MeasKept s (release s) := ((refl s).onDev _).trans (foldl landHeld _ _)

theorem lateReset (s : State) (l : List Byte) : MeasKept s (lateReset s l) := foldl (fun _ _ => .ite (rstCtlOp ..) (refl _)) _ _

theorem txnStartOp (s : State) (lost : List (Space × Nat)) : MeasKept s (txnStartOp s lost) := by
  have taken (f : Dev → Dev) : MeasKept s (Machine.onDev s f) := (refl s).onDev f
  unfold Machine.txnStartOp
  split
  · exact refl s
  · split
    · exact taken _
    · dsimp only
      refine .ite (refl s) ?_
      split
      · exact (taken _).onDev _
      · split
        · exact (taken _).onDev _
        · split
          · exact .ite (refl s) ((taken _).onDev _)
          · exact (taken _).onDev _

theorem txnCommitOp (s : State) (slot : Nat) (flags : List W64) : MeasKept s (txnCommitOp s slot flags) := by
  unfold Machine.txnCommitOp
  split
  · dsimp only
    refine .ite ((refl s).onDev _) ?_
    split
    · exact .ite ((refl s).onDev _) ((((refl s).onDev _).onDev _).trans (release _))
    · next h => exact (((((refl s).onDev _).trans (stepThree h)).onDev _).onDev _ |>.trans (release _)).trans (lateReset ..)
  · exact refl s

theorem flrPf0State (s : State) : MeasKept s (flrPf0State s) := ((refl s).onDev _).trans (release _)

theorem txnPoolFail (s : State) (addr slot : Nat) : MeasKept s (txnPoolFail s addr slot) := by
  unfold Machine.txnPoolFail
  dsimp only
  split
  · exact refl s
  · split
    · split
      · exact .ite (txnStartOp ..) (refl s)
      · exact refl s
    · split
      · split
        · exact .ite (((refl s).onDev _).trans (release _)) (refl s)
        · exact refl s
      · exact refl s

theorem txnReads (s : State) (errs : List ReadError) : MeasKept s (txnReads s errs) := by
  unfold Machine.txnReads
  split
  · exact .ite (txnStartOp ..) ((((refl s).onDev _).trans (txnStartOp ..)).onDev _)
  · exact txnStartOp ..

/-! ### The TAP (R482) -/

theorem setIr (s : State) (ir : Nat) : MeasKept s (setIr s ir) := .ite (refl s) (of_meas rfl rfl)

theorem sampleOp (s : State) (bits : List Bool) : MeasKept s (sampleOp s bits) := .ite ((setIr s 2).trans (of_meas rfl rfl)) (refl s)

theorem coreDebugOp (s : State) (m core : Nat) (op : DebugOp) : MeasKept s (coreDebugOp s m core op) :=
  .ite (refl s) (.ite (of_meas rfl rfl) (of_meas rfl rfl))

end MeasKept

/-- A command that answers a next state which keeps the queue and the measurement record. -/
def AnswersKept (s : State) (o : Host.Outcome State Fault Refusal) : Prop := ∃ t, o = .next t ∧ MeasKept s t

namespace AnswersKept

theorem ok (s : State) (d : Dev) : AnswersKept s (ok s d) := ⟨_, rfl, .of_meas rfl rfl⟩

theorem forSlot (s : State) (slot : Nat) (op : Dev → Dev) : AnswersKept s (forSlot s slot op) := ok s _

theorem forCtx (s : State) (ctx : Nat) (op : Dev → Dev) : AnswersKept s (forCtx s ctx op) := ok s _

theorem okS {s t : State} (h : MeasKept s t) : AnswersKept s (okS t) := ⟨t, rfl, h⟩

theorem put (s : State) (fn : Nat) (k : Blk) (i off : Nat) (v : W32) (flags : List W64) : AnswersKept s (put s fn k i off v flags) :=
  okS (.hostWrite4 ..)

theorem putIf (c : Bool) (s : State) (fn : Nat) (k : Blk) (i off : Nat) (v : W32) : AnswersKept s (putIf c s fn k i off v) := by
  unfold Machine.putIf
  split
  · exact put ..
  · exact okS (.refl s)

theorem ldGoRow (op fn : Nat) (r : LoadReads) (s : State) : AnswersKept s (ldGoRow op fn r s) := by
  unfold Machine.ldGoRow
  split
  · exact okS (.metByLoad _ (.hostWrite4 ..))
  · exact okS (.refl s)

end AnswersKept

/-- Every command answers a next state, with the queue and the measurement record kept (R438). -/
theorem exec_answersKept (c : Instr) (s : State) : AnswersKept s (exec c s) := by
  cases c with
  | inTail | outHead | ringEnable | apply | mereMap | mereReadmit | restart | retrain | readmit => exact .putIf ..
  | measSel | measLogSel | thermPeak | rippleTmo | rippleFire | rstCore | errlogHead | flcDieReadmit | pwrDeep | deviceReset | measExtGo
  | fwpUpdGo => exact .put ..
  | flashWrite | flashRead | copyIn | copyOut | trim | flush => exact .ldGoRow ..
  | regWrite => exact .okS (.regWriteOp ..)
  | txnStart => exact .okS (.txnReads ..)
  | txnCommit => exact .okS (.txnCommitOp ..)
  | flrPf0 => exact .okS (.flrPf0State s)
  | poolAccessFail | fabTmo => exact .okS (.ite (((MeasKept.refl s).onDev _).trans (.txnPoolFail ..)) (.refl s))
  | deepEntry => exact .okS (.deepEntryOp s)
  | deepExit => exact .okS (.deepExitOp ..)
  | powerOnReset => exact .okS (.powerOnOp s)
  | pwrEnRise => exact .okS (.enRiseOp s)
  | pwrEnRiseActs => exact .okS (.enRiseActsOp s)
  | pwrGoodLow => exact .okS (.goodLowOp s)
  | pwrEnFall => exact .okS (.enFallOp s)
  | vinRemoved => exact .okS (.vinOffOp s)
  | perstAssert => exact .okS (.perstOnOp s)
  | thermalTrip => exact .okS (.thermTripOp ..)
  | boot => exact .okS (.bootOp s)
  | fwpRestartDone => exact .okS (.restartDoneOp ..)
  | getVersion | getCapabilities | negotiateAlgorithms | getDigests | getCertificate | challenge | getMeasurements | spdmUnsupported =>
    exact .okS (.spdmIn ..)
  | setEndpointId => exact .okS (.mctpIn ..)
  | mctpOther => exact .okS (.ite (.refl s) (.mctpIn ..))
  | trst => exact .okS (.ite (.of_meas rfl rfl) (.refl s))
  | idcode | extest | highz | clamp | bypass => exact .okS (.setIr ..)
  | samplePreload => exact .okS (.sampleOp ..)
  | coreDebug => exact .okS (.coreDebugOp ..)
  | _ => exact .ok s _

end Sys2Proof.Machine

/-! SUPPORT. The statements on steps, and on the measurement block's record. -/

namespace Sys2Proof.Proofs

open Sys2Proof.Machine Sys2Proof.Claims

/-! ### O1, O2: the step -/

/-- Settles O1: it is the definition of a step. -/
theorem stepRunsFront : Obligations.StepRunsFront := by
  unfold Obligations.StepRunsFront
  intro s c rest
  rfl

/-- Settles O2, by the cases of the commands. -/
theorem everyStepAnswers : Obligations.EveryStepAnswers := by
  unfold Obligations.EveryStepAnswers
  refine ⟨fun c s => ?_, fun s idle => ?_⟩
  · obtain ⟨t, next, kept⟩ := exec_answersKept c s
    exact ⟨t, next, kept.pending⟩
  · exact ⟨_, by rw [step, idle], rfl⟩

/-! ### O41, O42, O43: the measurement log -/

/-- Settles O41: each command keeps the record, and an idle step does not touch it. -/
theorem measurementsReplay : Obligations.MeasurementsReplay := by
  unfold Obligations.MeasurementsReplay
  intro s t inv next
  cases hp : s.pending with
  | nil =>
    rw [step, hp] at next
    cases next
    exact (measInv_congr rfl).2 inv
  | cons c rest =>
    rw [step, hp] at next
    obtain ⟨u, nextU, kept⟩ := exec_answersKept c { s with pending := rest }
    cases next.symm.trans nextU
    exact kept.inv ((measInv_congr rfl).2 inv)

/-- Settles O42: nothing is measured at reset. -/
theorem measurementsReplayAtReset : Obligations.MeasurementsReplayAtReset := by
  unfold Obligations.MeasurementsReplayAtReset
  exact measInv_empty rfl

/-- A running module whose log has one entry, where a device reset and, behind it, the extension of slot 10 are held by the lock of
a transaction that has ended (R114). -/
def heldResetAndExtension : State := { State.reset with
  meas := ⟨[], [[]], []⟩
  dev.power := { Dev.reset.power with rails := .good, pwrGood := true, perst := false, booting := false }
  dev.txn.held := [⟨0, regA .rst 0 0x100, 0xA501, []⟩, ⟨0, regA .meas 0 0x108, 0x8000000A, []⟩] }

/-- Refutes O43: the function-level reset of PF0 lands held writes in order; the device reset empties the log, and the extension
that lands after it adds an entry again, so that the log is neither empty nor an extension of the one before. -/
theorem not_logOnlyGrows : ¬ Obligations.LogOnlyGrows := by
  unfold Obligations.LogOnlyGrows
  intro h
  have after : (flrPf0State heldResetAndExtension).meas.log.map List.length = [128] := rfl
  rcases h .flrPf0 heldResetAndExtension _ rfl with ⟨more, grown⟩ | ⟨-, empty⟩
  · have first : ([[]] ++ more).map List.length = [128] := (congrArg (List.map List.length) grown).trans after
    cases first
  · rw [empty] at after
    cases after

end Sys2Proof.Proofs

/-! SUPPORT. The registers of measurement and of firmware updates. -/

namespace Sys2Proof.Machine

open Sys2Proof.Claims

/-! ### Writes that act at once -/

/-- A write that lands on a register whose write acts at once has that effect, and no other. -/
theorem hostWrite4_acts {s t : State} {fn : Nat} {k : Blk} {i off : Nat} {v : W32} {flags : List W64} (lt : off < 0x1000) (h : LandsOn s fn k i off)
    (act : actWrite s fn k i off v flags = some t) : hostWrite4 s fn (regA k i off) v [] flags = t := by
  obtain ⟨r, ⟨ans, aw, mv⟩, tgt, free⟩ := h
  rw [hostWrite4_reg (by rwa [regA_page k i off lt]) aw mv tgt free, writeReg, act]
  rfl

theorem put_act {s t : State} {fn : Nat} {k : Blk} {i off : Nat} {v : W32} {flags : List W64} (lt : off < 0x1000) (h : LandsOn s fn k i off)
    (act : actWrite s fn k i off v flags = some t) : put s fn k i off v flags = .next t := by
  rw [put, hostWrite4_acts lt h act, okS_next]

/-! ### Registers as numbers -/

theorem leNat_lt (bs : List Byte) : leNat bs < 256 ^ bs.length := by
  induction bs with
  | nil => decide
  | cons b bs ih =>
    rw [leNat, List.length_cons, Nat.pow_succ]
    have := b.isLt
    omega

theorem fieldN_lt (bs : List Byte) (off n : Nat) : fieldN bs off n < 256 ^ n :=
  (leNat_lt _).trans_le (Nat.pow_le_pow_right (by decide) (List.length_take_le ..))

theorem liveN_setLiveN_self (d : Dev) (k : Blk) (i off : Nat) {v : Nat} (h : v < 2 ^ 32) : liveN (setLiveN d k i off v) k i off = v := by
  rw [liveN, live_setLiveN, if_pos rfl, BitVec.toNat_ofNat, Nat.mod_eq_of_lt h]

/-! ### Latches of the MEAS page (R440) -/

/-- The words of a latch. -/
def latchWords (off : Nat) (bs : List Byte) : List (Nat × W32) :=
  (List.range (bs.length / 4)).map fun i => (regA .meas 0 (off + 4 * i), BitVec.ofNat 32 (fieldN bs (4 * i) 4))

theorem latch_eq_landValues (d : Dev) (off : Nat) (bs : List Byte) : latch d off bs = landValues d (latchWords off bs) := by
  simp only [latch, landValues, latchWords, List.foldl_map]
  rfl

theorem latch_eq (d : Dev) (off : Nat) (bs : List Byte) : ∃ r, latch d off bs = { d with regs := r } := by
  rw [latch_eq_landValues]
  generalize latchWords off bs = vs
  induction vs generalizing d with
  | nil => exact ⟨_, rfl⟩
  | cons v vs ih => exact ih (setLive d v.1 v.2)

theorem live_latch_ne {a : Nat} (d : Dev) (off : Nat) (bs : List Byte) (h : ∀ i, i < bs.length / 4 → regA .meas 0 (off + 4 * i) ≠ a) :
    live (latch d off bs) a = live d a := by
  rw [latch_eq_landValues, live_landValues_of_not_mem]
  rw [latchWords, List.map_map, List.mem_map]
  rintro ⟨i, hi, e⟩
  exact h i (List.mem_range.1 hi) e

theorem liveN_latch {i : Nat} (d : Dev) (off : Nat) (bs : List Byte) (h : i < bs.length / 4) :
    liveN (latch d off bs) .meas 0 (off + 4 * i) = fieldN bs (4 * i) 4 := by
  have nodup : ((latchWords off bs).map (·.1)).Nodup := by
    rw [latchWords, List.map_map]
    exact List.nodup_range.map_on fun x _ y _ e => by have := regA_inj .meas 0 e; omega
  have landed := live_landValues (x := (regA .meas 0 (off + 4 * i), BitVec.ofNat 32 (fieldN bs (4 * i) 4))) d nodup
    (List.mem_map.2 ⟨i, List.mem_range.2 h, rfl⟩)
  rw [liveN, latch_eq_landValues, landed]
  exact (BitVec.toNat_ofNat ..).trans (Nat.mod_eq_of_lt (fieldN_lt bs (4 * i) 4))

/-- A register of the MEAS page. -/
theorem page_meas {off : Nat} (h : off < 0x1000) : regA .meas 0 off / 0x1000 = 7 := by
  rw [regA_page _ _ _ h]; rfl

/-- A select register and the words that its write latches. -/
theorem selected_latch (s : State) {sel off v : Nat} (bs : List Byte) (hv : v < 2 ^ 32) (before : sel < off) (fits : off + 4 * (bs.length / 4) ≤ 0x1000) :
    let t := on s (latch (setLiveN s.dev .meas 0 sel v) off bs)
    reg t .meas 0 sel = v ∧ (∀ i, i < bs.length / 4 → reg t .meas 0 (off + 4 * i) = fieldN bs (4 * i) 4) ∧
      (∀ a, a / 0x1000 ≠ 7 → live t.dev a = live s.dev a) ∧ t.dev = { s.dev with regs := t.dev.regs } := by
  refine ⟨?_, fun i hi => liveN_latch _ off bs hi, fun a out => ?_, ?_⟩
  · show liveN (latch _ _ _) .meas 0 sel = v
    rw [liveN, live_latch_ne _ _ _ fun i hi e => by have := regA_inj .meas 0 e; omega]
    exact liveN_setLiveN_self _ _ _ _ hv
  · have apart (o : Nat) (ho : o < 0x1000) : regA .meas 0 o ≠ a := fun e => out (e ▸ page_meas ho)
    show live (latch _ _ _) a = _
    rw [live_latch_ne _ _ _ fun i hi => apart _ (by omega), live_setLiveN, if_neg (apart sel (by omega))]
  · obtain ⟨r, e⟩ := latch_eq (setLiveN s.dev .meas 0 sel v) off bs
    rw [e]; rfl

theorem length_slotBytes48 (v : BitVec 384) : (slotBytes48 v).length = 48 := length_natLe ..

/-- The entry that MEAS_LOG_SEL selects, or zeros, has 128 bytes. -/
theorem length_selected_entry {s : State} (inv : MeasInv s) (i : Nat) : (s.meas.log.getD i (List.replicate 128 0)).length = 128 := by
  obtain ⟨-, -, entries, -⟩ := inv
  rw [List.getD_eq_getElem?_getD]
  cases h : s.meas.log[i]? with
  | none => exact List.length_replicate
  | some e => exact (entries i e h).1

end Sys2Proof.Machine

/-! SUPPORT. The statements on the registers of measurement and of firmware updates. -/

namespace Sys2Proof.Proofs

open Sys2Proof.Machine Sys2Proof.Claims

/-! ### O44: the registers of measurement -/

theorem measSel_latches {s : State} {fn : Nat} (v : W32) (h : LandsOn s fn .meas 0 0x100) :
    exec (.measSel fn v) s = .next (on s (latch (setLiveN s.dev .meas 0 0x100 (v.toNat % 16)) 0x140 (slotBytes48 (slotOf s (v.toNat % 16))))) :=
  put_act (by decide) h rfl

theorem measLogSel_latches {s : State} {fn : Nat} (v : W32) (h : LandsOn s fn .meas 0 0x104) :
    exec (.measLogSel fn v) s = .next (on s (latch (setLiveN s.dev .meas 0 0x104 (v.toNat % 4096)) 0x200
      (s.meas.log.getD (v.toNat % 4096) (List.replicate 128 0)))) :=
  put_act (by decide) h rfl

section
variable {s : State} {v : W32} (go : v.getLsbD 31 = true) (h : LandsOn s 0 .meas 0 0x108)
include go h

theorem measExtGo_acts : exec (.measExtGo 0 v) s = .next
    (if v.toNat % 16 < 10 then onDev s (fun d => setStat d .meas 0 1)
     else if fwpRuns s.dev 0 then extend s (v.toNat % 16) 5 0xFF 0xFF 0 (extData s.dev)
     else { s with meas := { s.meas with waiting := s.meas.waiting ++ [(v.toNat % 16, extData s.dev)] } }) := by
  refine put_act (by decide) h ?_
  have acts : ¬(0 ≠ 0 ∨ (!bitOf v.toNat 31) = true) := by rw [bitOf_toNat, go]; decide
  exact congrArg some (if_neg acts)

theorem measExtGo_extends (host : 10 ≤ v.toNat % 16) (runs : fwpRuns s.dev 0 = true) :
    exec (.measExtGo 0 v) s = .next (extend s (v.toNat % 16) 5 0xFF 0xFF 0 (extData s.dev)) := by
  rw [measExtGo_acts go h, if_neg (by omega), if_pos runs]

theorem measExtGo_waits (host : 10 ≤ v.toNat % 16) (stopped : fwpRuns s.dev 0 = false) :
    exec (.measExtGo 0 v) s = .next { s with meas := { s.meas with waiting := s.meas.waiting ++ [(v.toNat % 16, extData s.dev)] } } := by
  rw [measExtGo_acts go h, if_neg (by omega), if_neg (by rw [stopped]; decide)]

theorem measExtGo_refuses (other : v.toNat % 16 < 10) : exec (.measExtGo 0 v) s = .next (on s (setStat s.dev .meas 0 1)) := by
  rw [measExtGo_acts go h, if_pos other]; rfl

end

/-- Settles O44, by the registers. -/
theorem measurementRegisters : Obligations.MeasurementRegisters := by
  unfold Obligations.MeasurementRegisters
  refine ⟨fun s fn v => ⟨fun h => ?_, fun inv h => ?_⟩, fun s v go h => ⟨fun host runs => ?_, measExtGo_waits go h, measExtGo_refuses go h⟩⟩
  · have len := length_slotBytes48 (slotOf s (v.toNat % 16))
    obtain ⟨sel, words, page, only⟩ := selected_latch s (sel := 0x100) (off := 0x140) (v := v.toNat % 16) (slotBytes48 (slotOf s (v.toNat % 16)))
      (by omega) (by decide) (by omega)
    exact ⟨_, measSel_latches v h, ⟨rfl, rfl, rfl⟩, sel, fun i hi => words i (by omega), page, only⟩
  · have len := length_selected_entry inv (v.toNat % 4096)
    obtain ⟨sel, words, page, only⟩ := selected_latch s (sel := 0x104) (off := 0x200) (v := v.toNat % 4096)
      (s.meas.log.getD (v.toNat % 4096) (List.replicate 128 0)) (by omega) (by decide) (by omega)
    exact ⟨_, measLogSel_latches v h, ⟨rfl, rfl, rfl⟩, sel, fun i hi => words i (by omega), page, only⟩
  · have ⟨⟨pending, tap, _⟩, _⟩ := extend_kept s (v.toNat % 16) 5 0xFF 0xFF 0 (extData s.dev)
    have lt : v.toNat % 16 < 256 := by omega
    refine ⟨_, measExtGo_extends go h host runs, pending, tap, ?_, fun n ne => ?_, fun room => ?_, fun full => ?_⟩
    · rw [slotOf_extend, if_pos rfl]
    · rw [slotOf_extend, if_neg (Ne.symm ne)]
    · exact ⟨_, by rw [extend_meas, if_neg (by omega)], logEntry_slot _ _ _ _ _ _ _ _ lt, logEntry_etype _ _ _ _ _ _ _ _ (by decide), logEntry_digest ..⟩
    · rw [extend_meas, if_pos full]

/-! ### O45: firmware updates -/

theorem fwpUpdGo_acts {s : State} (flags : List W64) (h : LandsOn s 0 .fwp 0 0x20C) :
    exec (.fwpUpdGo 0 1 flags) s = .next (on s (updGoOp s.dev 0 1 flags)) := put_act (by decide) h rfl

theorem updGoOp_starts {d : Dev} (flags : List W64) (idle : d.flash.update = none) :
    updGoOp d 0 1 flags = setLiveN { d with flash.update := some (liveN d .fwp 0 0x208 % 8, bitsOf (liveN d .fwp 0 0x208) 4 4, liveN d .fwp 0 0x204,
      liveN d .fwp 0 0x200 % 1024, updCheck d flags) } .fwp 0 0x210 1 :=
  if_neg (by rw [idle]; decide)

theorem updGoOp_busy {d : Dev} (flags : List W64) (busy : d.flash.update ≠ none) : updGoOp d 0 1 flags = d :=
  if_pos (.inr (.inr (Option.isSome_iff_ne_none.2 busy)))

/-- Settles O45, by the two commands. -/
theorem firmwareUpdates : Obligations.FirmwareUpdates := by
  unfold Obligations.FirmwareUpdates
  refine fun s fl => ⟨fun h idle => ?_, fun h busy => ?_, fun n bank len block res under runs small => ?_⟩
  · refine ⟨_, fwpUpdGo_acts fl h, ⟨rfl, rfl, rfl⟩, ?_⟩
    rw [updGoOp_starts fl idle]
    exact ⟨rfl, liveN_setLiveN_self _ _ _ _ (by decide), rfl⟩
  · rw [fwpUpdGo_acts fl h, updGoOp_busy fl busy]
  · have done : ∃ images bad, updDoneOp s.dev = setLiveN { s.dev with flash := { s.dev.flash with update := none, images := images, badImage := bad } }
        .fwp 0 0x210 (res * 16) ∧ (res ≠ 0 → images = s.dev.flash.images) := by
      rw [updDoneOp, under]
      exact ⟨_, _, if_neg (by rw [runs]; decide), fun failed => if_neg failed⟩
    obtain ⟨images, bad, e, kept⟩ := done
    refine ⟨_, rfl, ⟨rfl, rfl, rfl⟩, ?_⟩
    rw [e]
    exact ⟨rfl, liveN_setLiveN_self _ _ _ _ (by omega), kept, rfl⟩

end Sys2Proof.Proofs

/-! SUPPORT. What marks, counts and reports leave, power domains, clocks and sensors. -/

namespace Sys2Proof.Machine

open Sys2Proof.Claims

/-! ### Marks and counts -/

/-- A register of which every copy is as before reads as before. -/
theorem SameAt.live {a : Nat} {d e : Dev} (h : SameAt a d e) : live e a = live d a := view_congr (st := false) (h false).1 (h false).2

/-- It has a majority as before. -/
theorem SameAt.noMajority {a : Nat} {d e : Dev} (h : SameAt a d e) : noMajority e a = noMajority d a := by
  have lost : fieldLost e false a = fieldLost d false a := by
    have word : SMap.get regReset e.regs.live a = SMap.get regReset d.regs.live a := (h false).1
    funext f
    simp only [fieldLost, (h false).2, Bool.false_eq_true, if_false, word]
  rw [Machine.noMajority, Machine.noMajority, (h false).2, lost]

/-- Offsets of the status and capture registers of a page. -/
abbrev statOffs : List Nat := [0x20, 0x30, 0x34, 0x38, 0x3C]

/-- Only register words, signals and the error log differ; the copies of words at other offsets than those named are as before, and no status
bit has been cleared. -/
structure Marks (offs : List Nat) (d e : Dev) : Prop where
  only : ∃ r q p w l, e = { d with regs := r, host := { d.host with msix := q, waitVec := p, fwpSig := w }, log := l }
  same : ∀ a, a % 0x1000 ∉ offs → SameAt a d e
  stats : ∀ k i b, bitOf (liveN d k i 0x20) b = true → bitOf (liveN e k i 0x20) b = true

namespace Marks

variable {offs : List Nat} {d e f : Dev}

theorem refl (offs : List Nat) (d : Dev) : Marks offs d d := ⟨⟨_, _, _, _, _, rfl⟩, fun a _ => .refl a d, fun _ _ _ => id⟩

theorem trans (h : Marks offs d e) (g : Marks offs e f) : Marks offs d f := by
  obtain ⟨⟨_, _, _, _, _, eq⟩, same, stats⟩ := h
  obtain ⟨⟨_, _, _, _, _, eq'⟩, same', stats'⟩ := g
  exact ⟨⟨_, _, _, _, _, by rw [eq', eq]⟩, fun a ha => (same a ha).trans (same' a ha), fun k i b => stats' k i b ∘ stats k i b⟩

theorem mono {offs' : List Nat} (h : Marks offs d e) (sub : offs ⊆ offs') : Marks offs' d e :=
  ⟨h.only, fun a ha => h.same a fun m => ha (sub m), h.stats⟩

theorem ite {c : Prop} [Decidable c] {x y : Dev} (hx : Marks offs d x) (hy : Marks offs d y) : Marks offs d (if c then x else y) := by
  split
  · exact hx
  · exact hy

theorem foldl {α : Type} {g : Dev → α → Dev} (h : Marks offs d e) (xs : List α) (step : ∀ e x, Marks offs e (g e x)) : Marks offs d (xs.foldl g e) := by
  induction xs generalizing e with
  | nil => exact h
  | cons x xs ih => exact ih (h.trans (step e x))

/-! What is as before. -/

theorem now (h : Marks offs d e) : e.now = d.now := by obtain ⟨⟨_, _, _, _, _, rfl⟩, _, _⟩ := h; rfl
theorem txn (h : Marks offs d e) : e.txn = d.txn := by obtain ⟨⟨_, _, _, _, _, rfl⟩, _, _⟩ := h; rfl
theorem reqs (h : Marks offs d e) : e.reqs = d.reqs := by obtain ⟨⟨_, _, _, _, _, rfl⟩, _, _⟩ := h; rfl
theorem eng (h : Marks offs d e) : e.eng = d.eng := by obtain ⟨⟨_, _, _, _, _, rfl⟩, _, _⟩ := h; rfl
theorem mem (h : Marks offs d e) : e.mem = d.mem := by obtain ⟨⟨_, _, _, _, _, rfl⟩, _, _⟩ := h; rfl
theorem jobs (h : Marks offs d e) : e.jobs = d.jobs := by obtain ⟨⟨_, _, _, _, _, rfl⟩, _, _⟩ := h; rfl
theorem links (h : Marks offs d e) : e.links = d.links := by obtain ⟨⟨_, _, _, _, _, rfl⟩, _, _⟩ := h; rfl
theorem flash (h : Marks offs d e) : e.flash = d.flash := by obtain ⟨⟨_, _, _, _, _, rfl⟩, _, _⟩ := h; rfl
theorem power (h : Marks offs d e) : e.power = d.power := by obtain ⟨⟨_, _, _, _, _, rfl⟩, _, _⟩ := h; rfl

theorem word (h : Marks offs d e) (k : Blk) (i : Nat) {off : Nat} (lt : off < 0x1000 := by decide) (out : off ∉ offs := by decide) :
    live e (regA k i off) = live d (regA k i off) :=
  (h.same _ (by rwa [regA_off _ _ _ lt])).live

theorem wordN (h : Marks offs d e) (k : Blk) (i : Nat) {off : Nat} (lt : off < 0x1000 := by decide) (out : off ∉ offs := by decide) :
    liveN e k i off = liveN d k i off := congrArg BitVec.toNat (h.word k i lt out)

/-! The operations. -/

theorem withLog (h : Marks offs d e) (l : ErrLog) : Marks offs d { e with log := l } := by
  obtain ⟨⟨_, _, _, _, _, rfl⟩, same, stats⟩ := h
  exact ⟨⟨_, _, _, _, _, rfl⟩, same, stats⟩

theorem setLive (h : Marks offs d e) (k : Blk) (i : Nat) {off : Nat} (v : W32) (m : off ∈ offs := by decide) (lt : off < 0x1000 := by decide)
    (ne : off ≠ 0x20 := by decide) : Marks offs d (setLive e (regA k i off) v) := by
  refine h.trans ⟨⟨_, _, _, _, _, rfl⟩, fun a ha => sameAt_setLive _ _ fun eq => ha ?_, fun k' i' b set => ?_⟩
  · rwa [← eq, regA_off _ _ _ lt]
  · rwa [liveN, live_setLive_ne _ _ (regA_ne_of_off lt (by decide) ne)]

theorem setLiveN (h : Marks offs d e) (k : Blk) (i : Nat) {off : Nat} (v : Nat) (m : off ∈ offs := by decide) (lt : off < 0x1000 := by decide)
    (ne : off ≠ 0x20 := by decide) : Marks offs d (setLiveN e k i off v) := h.setLive k i _ m lt ne

theorem count (h : Marks offs d e) (k : Blk) (i : Nat) {off : Nat} (n : Nat) (m : off ∈ offs := by decide) (lt : off < 0x1000 := by decide)
    (ne : off ≠ 0x20 := by decide) : Marks offs d (count e k i off n) := h.setLive k i _ m lt ne

theorem setLiveBit (h : Marks offs d e) (k : Blk) (i : Nat) {off : Nat} (bit : Nat) (v : Bool) (m : off ∈ offs := by decide)
    (lt : off < 0x1000 := by decide) (ne : off ≠ 0x20 := by decide) : Marks offs d (setLiveBit e (regA k i off) bit v) := h.setLive k i _ m lt ne

/-- The status words of all pages after an event. -/
theorem stat_setStat (e : Dev) (k k' : Blk) (i i' bit bs : Nat) (t d2 d3 : W32) {b : Nat} (set : bitOf (liveN e k' i' 0x20) b = true) :
    bitOf (liveN (Machine.setStat e k i bit bs t d2 d3) k' i' 0x20) b = true := by
  rw [liveN, bitOf_toNat] at set ⊢
  by_cases same : regA k i 0x20 = regA k' i' 0x20
  · rw [← same] at set ⊢
    rw [live_setStat_stat, BitVec.getLsbD_or, set, Bool.true_or]
  · rw [live_setStat_ne]
    · exact set
    · intro m
      obtain ⟨o, ho, eq⟩ := List.mem_map.1 m
      by_cases o20 : o = 0x20
      · exact same (o20 ▸ eq)
      · exact regA_ne_of_off (by simp only [List.mem_cons, List.not_mem_nil, or_false] at ho; omega) (by decide) o20 eq

theorem setStat (h : Marks offs d e) (k : Blk) (i bit bs : Nat) (t d2 d3 : W32) (sub : statOffs ⊆ offs := by decide) :
    Marks offs d (setStat e k i bit bs t d2 d3) := by
  refine h.trans ⟨?_, fun a ha => sameAt_setStat _ _ _ _ _ _ _ _ fun m => ha ?_, fun k' i' b set => stat_setStat e k k' i i' bit bs t d2 d3 set⟩
  · obtain ⟨r, q, p, w, eq⟩ := setStat_eq e k i bit bs t d2 d3
    exact ⟨r, q, p, w, _, eq⟩
  · obtain ⟨o, ho, rfl⟩ := List.mem_map.1 m
    rw [regA_off _ _ _ (by simp only [List.mem_cons, List.not_mem_nil, or_false] at ho; omega)]
    exact sub ho

theorem holdEvent (h : Marks offs d e) (x : LogEvent) (c : 0x10C ∈ offs) (sub : statOffs ⊆ offs) : Marks offs d (holdEvent e x) := by
  unfold Machine.holdEvent
  dsimp only
  exact .ite ((h.count .errlog 0 1 c).withLog _) (.ite (h.withLog _) ((h.withLog _).setStat _ _ _ _ _ _ _ sub))

theorem logEvent (h : Marks offs d e) (kind source bs : Nat) (t : W32) (loc det ep : Nat) (c : 0x10C ∈ offs := by decide)
    (sub : statOffs ⊆ offs := by decide) : Marks offs d (logEvent e kind source bs t loc det ep) := by
  unfold Machine.logEvent
  dsimp only
  split
  · split
    · exact (h.withLog _).holdEvent _ c sub
    · exact .ite ((h.withLog _).holdEvent _ c sub) (.ite (h.withLog _) (h.withLog _))
  · exact h.holdEvent _ c sub

end Marks

/-! ### Clocks (R426) -/

theorem pllRelockOp_of_mem {d : Dev} {m : Nat} (h : m ∈ d.power.relock) : pllRelockOp d m =
    count { d with power := { d.power with relock := d.power.relock.filter (fun x => !decide (x = m)) } } .clk 0 0x114 1 :=
  if_pos (List.contains_iff_mem.2 h)

theorem pllRelockOp_of_not_mem {d : Dev} {m : Nat} (h : m ∉ d.power.relock) : pllRelockOp d m = d :=
  if_neg (mt List.contains_iff_mem.1 h)

theorem lockLostOp_running {d : Dev} {c : Nat} (lt : c ≤ 11) (run : running d = true) :
    lockLostOp d c = count (setStat d .clk 0 1 0 noTag (BitVec.ofNat 32 c) 0) .clk 0 0x114 1 :=
  if_neg fun h => h.elim (by omega) (by simp [run])

/-! ### The sensor sweep (R478) -/

/-- Offsets that the sensing part of a sweep may write. -/
abbrev senseOffs : List Nat := 0x100 :: 0x120 :: statOffs

theorem sense_marks (bit sensor limit : Nat) (d : Dev) (r : Option Nat) : Marks senseOffs d (sense bit sensor limit d r).1 := by
  unfold sense
  split
  · exact (Marks.refl _ d).setStat ..
  · split
    · exact (Marks.refl _ d).setStat ..
    · exact .refl _ d

theorem sense_hot {bit v limit : Nat} (sensor : Nat) (d : Dev) (hot : limit ≤ v) (lt : bit < 32) :
    bitOf (liveN (sense bit sensor limit d (some v)).1 .therm 0 0x20) bit = true := by
  have eq : (sense bit sensor limit d (some v)).1 = setStat d .therm 0 bit 0 noTag (BitVec.ofNat 32 (sensor + v % 256 * 256)) 0 := by
    simp only [sense, if_pos hot]
  rw [eq, statBit_setStat _ _ _ _ _ _ _ lt]

theorem sense_fails (bit sensor limit : Nat) (d : Dev) : bitOf (liveN (sense bit sensor limit d none).1 .therm 0 0x20) 3 = true := by
  rw [sense, statBit_setStat _ _ _ _ _ _ _ (by decide)]

theorem senseAll_marks (bit base limit i : Nat) (rs : List (Option Nat)) (d : Dev) (hot : Bool) :
    Marks senseOffs d (senseAll bit base limit i rs d hot).1 := by
  induction rs generalizing i d hot with
  | nil => exact .refl _ d
  | cons r rs ih => exact (sense_marks bit (base + i) limit d r).trans (ih ..)

theorem senseAll_hot {bit limit v : Nat} (base i : Nat) {rs : List (Option Nat)} (d : Dev) (hot : Bool) (m : some v ∈ rs) (le : limit ≤ v) (lt : bit < 32) :
    bitOf (liveN (senseAll bit base limit i rs d hot).1 .therm 0 0x20) bit = true := by
  induction rs generalizing i d hot with
  | nil => cases m
  | cons r rs ih =>
    rcases List.mem_cons.1 m with rfl | m
    · exact (senseAll_marks bit base limit (i + 1) rs (sense bit (base + i) limit d (some v)).1 _).stats .therm 0 bit (sense_hot (base + i) d le lt)
    · exact ih (i + 1) _ _ m

/-- A sweep's readings of the die sensors. -/
def dieRead (d : Dev) (r : Sweep) : Dev :=
  let d := (List.range 4).foldl (fun d m => if domState d m = 3 then setReading d (0x100 + 4 * m) none
    else setReading d (0x100 + 4 * m) (hottest ((r.die.drop (16 * m)).take 16))) d
  setReading d 0x110 (hottest ((r.die.drop 64).take 8))

/-- Every reading of a sweep, and the peak. -/
def sweepRead (d : Dev) (r : Sweep) : Dev :=
  let e := setReading (setReading (dieRead d r) 0x114 r.inlet) 0x118 r.outlet
  let top := match hottest (dieReadings d r) with | some v => v % 256 | none => 0
  if liveN e .therm 0 0x11C % 256 < top then setLiveN e .therm 0 0x11C top else e

/-- The alerts of a sweep: the dies' sensors, then the inlet's and the outlet's. -/
def sweepDies (d : Dev) (r : Sweep) : Dev × Bool := senseAll 0 0 (alertC (sweepRead d r)) 0 (dieReadings d r) (sweepRead d r) false

def sweepInlet (d : Dev) (r : Sweep) : Dev × Bool := sense 1 0xFE (inletC (sweepDies d r).1 + 1) (sweepDies d r).1 r.inlet

def sweepOutlet (d : Dev) (r : Sweep) : Dev × Bool := sense 1 0xFF 256 (sweepInlet d r).1 r.outlet

/-- The alerts and the readings of the stacks. -/
def sweepStacks (d : Dev) (r : Sweep) : Dev × Bool :=
  senseAll 2 0x80 95 0 ((List.range 12).map (fun i => r.stack.getD i none)) (sweepOutlet d r).1 false

def stackRead (d : Dev) (r : Sweep) : Dev :=
  (List.range 12).foldl (fun d i => match r.stack.getD i none with
    | some v => setLiveN d .hbm i 0x100 (liveN d .hbm i 0x100 - bitsOf (liveN d .hbm i 0x100) 15 8 * 256 + v % 256 * 256)
    | none => d) d

theorem sweepOp_running {d : Dev} (r : Sweep) (run : running d = true) :
    sweepOp d r = if (sweepDies d r).2 || (sweepInlet d r).2 || (sweepStacks d r).2 then count (stackRead (sweepStacks d r).1 r) .therm 0 0x120 1
      else stackRead (sweepStacks d r).1 r :=
  if_neg (by rw [run]; decide)

/-- Offsets that the readings of a sweep write. -/
abbrev readOffs : List Nat := [0x100, 0x104, 0x108, 0x10C, 0x110, 0x114, 0x118, 0x11C]

theorem setReading_marks {offs : List Nat} {d e : Dev} (h : Marks offs d e) {off : Nat} (r : Option Nat) (m : off ∈ offs) (lt : off < 0x1000) (ne : off ≠ 0x20) :
    Marks offs d (setReading e off r) := h.setLiveN .therm 0 _ m lt ne

theorem dieRead_marks (d : Dev) (r : Sweep) : Marks [0x100, 0x104, 0x108, 0x10C, 0x110] d (dieRead d r) := by
  have step (offs : List Nat) (ms : List Nat) (h : ∀ m ∈ ms, 0x100 + 4 * m ∈ offs ∧ m < 64) (d e : Dev) (he : Marks offs d e) :
      Marks offs d (ms.foldl (fun d m => if domState d m = 3 then setReading d (0x100 + 4 * m) none
        else setReading d (0x100 + 4 * m) (hottest ((r.die.drop (16 * m)).take 16))) e) := by
    induction ms generalizing e with
    | nil => exact he
    | cons m ms ih =>
      obtain ⟨mem, lt⟩ := h m (.head _)
      exact ih (fun x hx => h x (.tail _ hx)) _ (.ite (setReading_marks he _ mem (by omega) (by omega)) (setReading_marks he _ mem (by omega) (by omega)))
  exact setReading_marks (step _ _ (by decide) _ _ (.refl _ d)) _ (by decide) (by decide) (by decide)

theorem sweepRead_marks (d : Dev) (r : Sweep) : Marks readOffs d (sweepRead d r) := by
  have h : Marks readOffs d (setReading (setReading (dieRead d r) 0x114 r.inlet) 0x118 r.outlet) :=
    setReading_marks (setReading_marks ((dieRead_marks d r).mono (by decide)) _ (by decide) (by decide) (by decide)) _ (by decide) (by decide) (by decide)
  exact .ite (h.setLiveN .therm 0 _) h

theorem liveN_sweepRead (d : Dev) (r : Sweep) :
    liveN (sweepRead d r) .therm 0 0x114 = (match r.inlet with | some v => v % 256 + 2 ^ 31 | none => 0) ∧
    liveN (sweepRead d r) .therm 0 0x118 = (match r.outlet with | some v => v % 256 + 2 ^ 31 | none => 0) := by
  have small (x : Option Nat) : (match x with | some v => v % 256 + 2 ^ 31 | none => 0) < 2 ^ 32 := by
    split <;> omega
  have peak : Marks [0x11C] (setReading (setReading (dieRead d r) 0x114 r.inlet) 0x118 r.outlet) (sweepRead d r) :=
    .ite ((Marks.refl _ _).setLiveN .therm 0 _) (.refl _ _)
  rw [peak.wordN .therm 0, peak.wordN .therm 0]
  refine ⟨?_, liveN_setLiveN_self _ _ _ _ (small _)⟩
  have out : Marks [0x118] (setReading (dieRead d r) 0x114 r.inlet) (setReading (setReading (dieRead d r) 0x114 r.inlet) 0x118 r.outlet) :=
    (Marks.refl _ _).setLiveN .therm 0 _
  rw [out.wordN .therm 0]
  exact liveN_setLiveN_self _ _ _ _ (small _)

theorem sweepDies_marks (d : Dev) (r : Sweep) : Marks senseOffs (sweepRead d r) (sweepDies d r).1 := senseAll_marks ..

theorem sweepInlet_marks (d : Dev) (r : Sweep) : Marks senseOffs (sweepRead d r) (sweepInlet d r).1 :=
  (sweepDies_marks d r).trans (sense_marks ..)

/-- What the rest of a sweep does once the inlet is sensed. -/
theorem sweepOp_marks_outlet {d : Dev} (r : Sweep) (run : running d = true) : Marks senseOffs (sweepOutlet d r).1 (sweepOp d r) := by
  have after : Marks senseOffs (sweepOutlet d r).1 (stackRead (sweepStacks d r).1 r) := by
    refine (senseAll_marks ..).foldl _ fun e i => ?_
    split
    · exact (Marks.refl _ e).setLiveN .hbm i _
    · exact .refl _ e
  rw [sweepOp_running r run]
  exact .ite (after.count .therm 0 1) after

theorem sweepOp_marks {d : Dev} (r : Sweep) (run : running d = true) : Marks senseOffs (sweepRead d r) (sweepOp d r) :=
  ((sweepInlet_marks d r).trans (sense_marks ..)).trans (sweepOp_marks_outlet r run)

end Sys2Proof.Machine

namespace Sys2Proof.Proofs

open Sys2Proof.Machine Sys2Proof.Claims

/-! ### O57: clocks and sensors -/

theorem sensorSweep_reads {s : State} {r : Sweep} (run : running s.dev = true) :
    ∃ t, exec (.sensorSweep r) s = .next t ∧ Aside s t ∧
      t.dev.power = s.dev.power ∧ t.dev.mem = s.dev.mem ∧ t.dev.reqs = s.dev.reqs ∧
      (∀ v, r.inlet = some v → v < 256 → reg t .therm 0 0x114 = v + 2 ^ 31) ∧
      (∀ v, r.outlet = some v → v < 256 → reg t .therm 0 0x118 = v + 2 ^ 31) ∧
      ((∃ v, r.inlet = some v ∧ inletC s.dev + 1 ≤ v) → stat t .therm 0 1 = true) ∧
      ((∃ i v, i < 72 ∧ (dieReadings s.dev r).getD i none = some v ∧ alertC s.dev ≤ v) → stat t .therm 0 0 = true) ∧
      (r.inlet = none ∨ r.outlet = none → stat t .therm 0 3 = true) := by
  have sensed := sweepOp_marks r run
  have last := sweepOp_marks_outlet r run
  have read := sweepRead_marks s.dev r
  obtain ⟨inlet, outlet⟩ := liveN_sweepRead s.dev r
  refine ⟨_, rfl, ⟨rfl, rfl, rfl⟩, sensed.power.trans read.power, sensed.mem.trans read.mem, sensed.reqs.trans read.reqs, fun v hv lt => ?_,
    fun v hv lt => ?_, fun ⟨v, hv, hot⟩ => ?_, fun ⟨i, v, hi, hv, hot⟩ => ?_, fun fails => ?_⟩
  · exact (sensed.wordN .therm 0).trans (by rw [inlet, hv]; simp only [Nat.mod_eq_of_lt lt])
  · exact (sensed.wordN .therm 0).trans (by rw [outlet, hv]; simp only [Nat.mod_eq_of_lt lt])
  · have limit : inletC (sweepDies s.dev r).1 = inletC s.dev := by
      rw [inletC, inletC, (sweepDies_marks _ r).wordN .therm 0, read.wordN .therm 0]
    refine last.stats _ _ _ ((sense_marks ..).stats _ _ _ ?_)
    rw [sweepInlet, hv, limit]
    exact sense_hot _ _ hot (by decide)
  · have limit : alertC (sweepRead s.dev r) = alertC s.dev := by rw [alertC, alertC, read.wordN .therm 0]
    have known : some v ∈ dieReadings s.dev r := by
      have len : (dieReadings s.dev r).length = 72 := by simp [dieReadings]
      rw [List.getD_eq_getElem _ _ (by omega)] at hv
      exact hv ▸ List.getElem_mem _
    exact last.stats _ _ _ ((sense_marks ..).stats _ _ _ ((sense_marks ..).stats _ _ _
      (senseAll_hot 0 0 _ false known (limit ▸ hot) (by decide))))
  · refine last.stats _ _ _ ?_
    rcases fails with hi | ho
    · refine (sense_marks ..).stats _ _ _ ?_
      rw [sweepInlet, hi]
      exact sense_fails ..
    · rw [sweepOutlet, ho]
      exact sense_fails ..

/-- Settles O57, by the three commands. -/
theorem clocksAndSensors : Obligations.ClocksAndSensors := by
  unfold Obligations.ClocksAndSensors
  refine ⟨fun s => ⟨fun m h => ?_, fun m h => ?_, fun c lt run => ?_⟩, fun s r => ⟨fun still => ?_, sensorSweep_reads⟩⟩
  · exact congrArg (ok s) (pllRelockOp_of_mem h)
  · exact congrArg (ok s) (pllRelockOp_of_not_mem h)
  · exact congrArg (ok s) (lockLostOp_running lt run)
  · exact congrArg (ok s) (if_pos (by rw [still]; rfl))

end Sys2Proof.Proofs

/-! SUPPORT. Power domains: their states' word, entry, wake, S4. -/

namespace Sys2Proof.Machine

open Sys2Proof.Claims

/-! ### The word of the domains' states (PWR_STATE) -/

theorem domState_congr {d e : Dev} (h : live e (regA .pwr 0 0x118) = live d (regA .pwr 0 0x118)) (dom : Nat) : domState e dom = domState d dom := by
  rw [domState, liveN, h]
  rfl

theorem domMoving_congr {d e : Dev} (h : live e (regA .pwr 0 0x118) = live d (regA .pwr 0 0x118)) (dom : Nat) : domMoving e dom = domMoving d dom := by
  rw [domMoving, liveN, h]
  rfl

/-- A two-bit field of a word. -/
theorem bitsOf_pair (v dom : Nat) : bitsOf v (2 * dom + 1) (2 * dom) = v / 2 ^ (2 * dom) % 4 := by
  rw [bitsOf, Nat.shiftRight_eq_div_pow, show 2 * dom + 1 + 1 - 2 * dom = 2 by omega]
  rfl

/-- The word with another state of one domain. -/
def domWord (v dom st : Nat) : Nat := v - bitsOf v (2 * dom + 1) (2 * dom) * 2 ^ (2 * dom) + st * 2 ^ (2 * dom)

/-- The word's other fields. -/
theorem domWord_spec {v dom st : Nat} (h : dom ≤ 4) (hst : st < 4) (hv : v < 2 ^ 32) :
    domWord v dom st < 2 ^ 32 ∧ bitsOf (domWord v dom st) (2 * dom + 1) (2 * dom) = st ∧
      (∀ e, e ≤ 4 → e ≠ dom → bitsOf (domWord v dom st) (2 * e + 1) (2 * e) = bitsOf v (2 * e + 1) (2 * e)) ∧
      domWord v dom st / 2 ^ 10 = v / 2 ^ 10 := by
  simp only [domWord, bitsOf_pair]
  refine ⟨?_, ?_, fun e he ne => ?_, ?_⟩
  · interval_cases dom <;> omega
  · interval_cases dom <;> omega
  · interval_cases dom <;> interval_cases e <;> omega
  · interval_cases dom <;> omega

theorem bitOf_of_div_eq {v w : Nat} (h : w / 2 ^ 10 = v / 2 ^ 10) (dom : Nat) : bitOf w (16 + dom) = bitOf v (16 + dom) := by
  have split (x : Nat) : bitOf x (16 + dom) = bitOf (x / 2 ^ 10) (6 + dom) := by
    rw [bitOf, bitOf, Nat.testBit_div_two_pow]
    congr 1
    omega
  rw [split, split, h]

/-- What a change of a domain's state leaves. -/
structure DomSet (d e : Dev) (dom st : Nat) : Prop where
  only : e = { d with regs := e.regs }
  state : domState e dom = st
  others : ∀ x, x ≤ 4 → x ≠ dom → domState e x = domState d x
  moving : ∀ x, domMoving e x = domMoving d x
  words : ∀ off, off ≠ 0x118 → off < 0x1000 → live e (regA .pwr 0 off) = live d (regA .pwr 0 off)

theorem setHbmMode_pwr (d : Dev) (i mode : Nat) {off : Nat} (lt : off < 0x1000) :
    live (setHbmMode d i mode) (regA .pwr 0 off) = live d (regA .pwr 0 off) := by
  refine live_setLive_ne _ _ fun eq => ?_
  have page := congrArg (· / 0x1000) eq
  simp only [regA_page _ _ _ lt, regA_page .hbm i 0x100 (by decide), pageNo] at page
  omega

theorem setDom_spec (d : Dev) {dom st : Nat} (h : dom ≤ 4) (hst : st < 4) : DomSet d (setDom d dom st) dom st := by
  obtain ⟨lt, same, others, high⟩ := domWord_spec h hst (live d (regA .pwr 0 0x118)).isLt
  have word : liveN (setLiveN d .pwr 0 0x118 (domWord (liveN d .pwr 0 0x118) dom st)) .pwr 0 0x118 = domWord (liveN d .pwr 0 0x118) dom st :=
    liveN_setLiveN_self _ _ _ _ lt
  have set : DomSet d (setLiveN d .pwr 0 0x118 (domWord (liveN d .pwr 0 0x118) dom st)) dom st :=
    { only := rfl
      state := by rw [domState, word, liveN, same]
      others := fun x hx ne => by rw [domState, word, liveN, others x hx ne]; rfl
      moving := fun x => by rw [domMoving, word, liveN, bitOf_of_div_eq high]; rfl
      words := fun off ne off_lt => live_setLive_ne _ _ (regA_ne_of_off (by decide) off_lt (Ne.symm ne)) }
  unfold setDom
  dsimp only
  split
  · exact set
  · have mode (e : Dev) (i m : Nat) (he : DomSet d e dom st) : DomSet d (setHbmMode e i m) dom st := by
      have w := setHbmMode_pwr e i m (off := 0x118) (by decide)
      exact { only := by rw [setHbmMode, setLiveN, setLive, he.only]
              state := (domState_congr w _).trans he.state
              others := fun x hx ne => (domState_congr w x).trans (he.others x hx ne)
              moving := fun x => (domMoving_congr w x).trans (he.moving x)
              words := fun off ne off_lt => (setHbmMode_pwr e i m off_lt).trans (he.words off ne off_lt) }
    exact mode _ _ _ (mode _ _ _ (mode _ _ _ set))

/-- A flag of a domain on the move leaves the states. -/
theorem setMoving_spec (d : Dev) {dom : Nat} (h : dom ≤ 4) (b : Bool) :
    domMoving (setMoving d dom b) dom = b ∧ (∀ x, x ≤ 4 → domState (setMoving d dom b) x = domState d x) := by
  have word : live (setMoving d dom b) (regA .pwr 0 0x118) = if b then live d (regA .pwr 0 0x118) ||| BitVec.ofNat 32 (2 ^ (16 + dom))
      else live d (regA .pwr 0 0x118) &&& ~~~ BitVec.ofNat 32 (2 ^ (16 + dom)) := live_setLive_self ..
  have bit (j : Nat) (hj : j < 32) : (live (setMoving d dom b) (regA .pwr 0 0x118)).getLsbD j =
      if j = 16 + dom then b else (live d (regA .pwr 0 0x118)).getLsbD j := by
    rw [word]
    cases b
    · rw [if_neg (by decide), BitVec.getLsbD_and, BitVec.getLsbD_not, getLsbD_bitWord _ _ hj]
      rcases eq_or_ne j (16 + dom) with rfl | ne
      · simp
      · simp [ne, ne.symm, hj]
    · rw [if_pos rfl, BitVec.getLsbD_or, getLsbD_bitWord _ _ hj]
      rcases eq_or_ne j (16 + dom) with rfl | ne
      · simp
      · simp [ne, ne.symm]
  refine ⟨?_, fun x hx => Nat.eq_of_testBit_eq fun j => ?_⟩
  · rw [domMoving, liveN, bitOf_toNat, bit _ (by omega), if_pos rfl]
  · rw [domState, domState, testBit_bitsOf, testBit_bitsOf]
    by_cases hj : j < 2
    · have := bit (2 * x + j) (by omega)
      rw [if_neg (by omega)] at this
      exact congrArg _ this
    · simp [show ¬ j < 2 * x + 1 + 1 - 2 * x by omega]

/-! ### Resumes -/

theorem not_mem_filter_fst {α : Type} {dom : Nat} {xs : List (Nat × α)} : ∀ r ∈ xs.filter (fun r => !decide (r.1 = dom)), r.1 ≠ dom := by
  simp

theorem wakeNow_begins {d : Dev} {dom st : Nat} (run : running d = true) (free : dom ∉ d.power.s3) (idle : ∀ r ∈ d.power.resuming, r.1 ≠ dom)
    (deep : st < domState d dom) : wakeNow d dom st = setMoving { d with power.resuming := d.power.resuming ++ [(dom, st)] } dom true := by
  have none : d.power.resuming.find? (fun r => decide (r.1 = dom)) = none := by simpa using idle
  simp only [wakeNow, run, Bool.not_true, Bool.false_eq_true, if_false, List.contains_iff_mem, free, none, if_neg (Nat.not_le.2 deep)]

theorem wakeDom_free {d : Dev} (dom st : Nat) (free : transHeld d = false) : wakeDom d dom st = wakeNow d dom st :=
  if_neg (by simp [free])

theorem demandWakeOp_to (d : Dev) {dom : Nat} (h : dom ≤ 4) : demandWakeOp d dom = wakeDom d dom (wakeTo d dom) := by
  rw [demandWakeOp, if_neg (by omega), wakeTo]
  by_cases shore : dom = 4
  · rw [if_pos shore, if_pos (.inl shore), shore]
  · simp [shore]

theorem wakeTo_le (d : Dev) (dom : Nat) : wakeTo d dom ≤ 1 := by
  unfold wakeTo
  split <;> omega

theorem resumedOp_of_find {d : Dev} {dom : Nat} {r : Nat × Nat} (h : d.power.resuming.find? (fun r => decide (r.1 = dom)) = some r) :
    resumedOp d dom = count (setMoving (setDom { d with power.resuming := d.power.resuming.filter (fun r => !decide (r.1 = dom)) } dom r.2) dom false)
      .pwr 0 0x124 1 := by
  rw [resumedOp, h]

/-! ### Entry into S3 -/

/-- The requests, the power state and the word of the domains' states are as before. -/
structure DomsKept (d e : Dev) : Prop where
  reqs : e.reqs = d.reqs
  power : e.power = d.power
  word : live e (regA .pwr 0 0x118) = live d (regA .pwr 0 0x118)

namespace DomsKept

variable {d e f : Dev}

theorem refl (d : Dev) : DomsKept d d := ⟨rfl, rfl, rfl⟩

theorem trans (h : DomsKept d e) (g : DomsKept e f) : DomsKept d f :=
  ⟨g.reqs.trans h.reqs, g.power.trans h.power, g.word.trans h.word⟩

theorem foldl {α : Type} {g : Dev → α → Dev} (h : DomsKept d e) (xs : List α) (step : ∀ e x, DomsKept e (g e x)) : DomsKept d (xs.foldl g e) := by
  induction xs generalizing e with
  | nil => exact h
  | cons x xs ih => exact ih (h.trans (step e x))

theorem of_marks (h : Marks statOffs d e) : DomsKept d e := ⟨h.reqs, h.power, h.word .pwr 0⟩

theorem moveAway (d : Dev) (c : Ctx) : DomsKept d (moveAway d c) := by
  unfold Machine.moveAway
  split
  · exact ⟨rfl, rfl, rfl⟩
  · exact ⟨rfl, rfl, live_setLive_ne _ _ (regA_ne_of_off (by decide) (by decide) (by decide))⟩

theorem wear (d : Dev) : DomsKept d (wear d) := by
  have spent (e : Dev) (c c' : Prop) [Decidable c] [Decidable c'] (he : DomsKept d e) : DomsKept d
      (if c then setStat (if c' then setStat e .flc 0 2 else e) .flc 0 3 else (if c' then setStat e .flc 0 2 else e)) := by
    have low : DomsKept d (if c' then setStat e .flc 0 2 else e) :=
      he.trans (.of_marks (.ite ((Marks.refl _ e).setStat ..) (.refl _ e)))
    exact low.trans (.of_marks (.ite ((Marks.refl _ _).setStat ..) (.refl _ _)))
  exact spent _ _ _ ⟨rfl, rfl, rfl⟩

theorem flushSector (d : Dev) (b s : Nat) : DomsKept d (flushSector d b s) := by
  unfold Machine.flushSector
  split
  · obtain ⟨reqs, power, word⟩ := wear d
    exact ⟨reqs, power, word⟩
  · exact refl d

theorem flushFrames (d : Dev) : DomsKept d (flushFrames d) := by
  obtain ⟨reqs, power, word⟩ : DomsKept d (flushWhere d fun _ => true) := (refl d).foldl _ fun e x => flushSector e x.1 x.2
  exact ⟨reqs, power, word⟩

end DomsKept

/-- The entry into S3 abandoned: the mere is no longer on the move. -/
def s3Left (d : Dev) (m : Nat) : Dev := setMoving { d with power := { d.power with s3 := d.power.s3.filter (fun x => !decide (x = m)) } } m false

theorem live_s3Left_ne (d : Dev) (m : Nat) (k : Blk) (i : Nat) {off : Nat} (lt : off < 0x1000) (ne : off ≠ 0x118) :
    live (s3Left d m) (regA k i off) = live d (regA k i off) := live_setLive_ne _ _ (regA_ne_of_off (by decide) lt (Ne.symm ne))

theorem rowsHeld_s3Left (d : Dev) (m : Nat) : rowsHeld (s3Left d m) = rowsHeld d := by
  have ports (v : Version) : portsUp (s3Left d m) v = portsUp d v := by
    have size (q : Nat) : poolSize (s3Left d m) q = poolSize d q := by
      unfold poolSize
      simp only [liveN, live_s3Left_ne d m .fab _ (off := 0x104) (by decide) (by decide)]
    have up (q : Nat) : liveN (s3Left d m) .fab q 0x100 = liveN d .fab q 0x100 :=
      congrArg BitVec.toNat (live_s3Left_ne d m .fab q (by decide) (by decide))
    simp only [portsUp, size, up]
  have row : rowHeld (s3Left d m) = rowHeld d := by
    funext e
    have find : findVer (s3Left d m) e.1 = findVer d e.1 := rfl
    simp only [rowHeld, rowPortsUp, find, ports]
    rfl
  rw [rowsHeld, row]
  rfl

/-- The entry's last steps: records moved away, frames flushed, prefetched layers dropped. -/
def s3Emptied (d : Dev) (m : Nat) : Dev :=
  let d := ((ctxsHeld d m).filter (fun c => decide (c.phase = .saved))).foldl moveAway d
  { flushFrames d with eng.prefetch := d.eng.prefetch.filter (fun p => !decide (p.1 = m)) }

theorem s3Emptied_kept (d : Dev) (m : Nat) : DomsKept d (s3Emptied d m) := by
  have moved := (DomsKept.refl d).foldl ((ctxsHeld d m).filter (fun c => decide (c.phase = .saved))) DomsKept.moveAway
  obtain ⟨reqs, power, word⟩ := moved.trans (.flushFrames _)
  exact ⟨reqs, power, word⟩

theorem s3EntryOp_waits {d : Dev} {m : Nat} (h : fwpRuns d 1 = false ∨ fwpRuns d 2 = false ∨ fwpRuns d 3 = false) : s3EntryOp d m = d :=
  if_pos (by rcases h with h | h | h <;> simp [h])

theorem s3EntryOp_begun {d : Dev} {m : Nat} (entering : m ∈ d.power.s3) (r1 : fwpRuns d 1 = true) (r2 : fwpRuns d 2 = true) (r3 : fwpRuns d 3 = true) :
    s3EntryOp d m = if rowsHeld (s3Left d m) = true then s3Left d m
      else count (setLiveBit (setDom (s3Emptied (s3Left d m) m) m 3) (regA .therm 0 (0x100 + 4 * m)) 31 false) .pwr 0 0x128 1 := by
  rw [s3EntryOp, if_neg (by simp [entering, r1, r2, r3])]
  rfl

theorem s3Left_left (d : Dev) (m : Nat) : m ∉ (s3Left d m).power.s3 :=
  fun m' => by simpa using (List.mem_filter.1 m').2

end Sys2Proof.Machine

namespace Sys2Proof.Proofs

open Sys2Proof.Machine Sys2Proof.Claims

/-! ### O53: entry -/

theorem autoEntryOp_stays {d : Dev} {dom : Nat} (h : domIdle d dom = false ∨ transHeld d = true) : autoEntryOp d dom = d :=
  if_pos (by rcases h with h | h <;> simp [h])

theorem autoEntryOp_enters {d : Dev} {dom : Nat} (dom_le : dom ≤ 4) (run : running d = true) (up : d.power.booting = false)
    (still : domMoving d dom = false) (idle : domIdle d dom = true) (free : transHeld d = false)
    (major : noMajority d (regA .pwr 0 (if dom = 4 then 0x110 else 0x100 + 4 * dom)) = false) (floor : domState d dom < floorOf d dom)
    (shallow : domState d dom < 2)
    (may : domState d dom = 1 → heldUp d dom = false ∧ (dom = 4 → d.power.linkL1 = true) ∧ (dom < 4 → hbmUsed d = false)) :
    autoEntryOp d dom = setDom d dom (domState d dom + 1) := by
  rw [autoEntryOp, if_neg, if_neg, if_neg (by omega)]
  · rintro (h | ⟨held, deep⟩ | ⟨shore, one, l1⟩ | ⟨mere, deep, used⟩)
    · omega
    · simp [(may (by omega)).1] at held
    · simp [(may one).2.1 shore] at l1
    · simp [(may (by omega)).2.2 mere] at used
  · simp [run, up, still, idle, free, major]
    omega

theorem s3Entry_abandoned {s : State} {m : Nat} (lt : m < 4) (entering : m ∈ s.dev.power.s3) (r1 : fwpRuns s.dev 1 = true)
    (r2 : fwpRuns s.dev 2 = true) (r3 : fwpRuns s.dev 3 = true) (held : rowsHeld s.dev = true) :
    ∃ t, exec (.s3Entry m) s = .next t ∧ Aside s t ∧ domState t.dev m = domState s.dev m ∧ domMoving t.dev m = false ∧ m ∉ t.dev.power.s3 ∧
      t.dev.mem = s.dev.mem ∧ t.dev.reqs = s.dev.reqs := by
  have op : s3EntryOp s.dev m = s3Left s.dev m := by
    rw [s3EntryOp_begun entering r1 r2 r3, if_pos (by rw [rowsHeld_s3Left, held])]
  obtain ⟨still, states⟩ := setMoving_spec { s.dev with power := { s.dev.power with s3 := s.dev.power.s3.filter (fun x => !decide (x = m)) } }
    (dom := m) (by omega) false
  exact ⟨_, congrArg (ok s) op, ⟨rfl, rfl, rfl⟩, states m (by omega), still, s3Left_left s.dev m, rfl, rfl⟩

theorem s3Entry_enters {s : State} {m : Nat} (lt : m < 4) (entering : m ∈ s.dev.power.s3) (r1 : fwpRuns s.dev 1 = true)
    (r2 : fwpRuns s.dev 2 = true) (r3 : fwpRuns s.dev 3 = true) (free : rowsHeld s.dev = false) :
    ∃ t, exec (.s3Entry m) s = .next t ∧ Aside s t ∧ domState t.dev m = 3 ∧ domMoving t.dev m = false ∧ m ∉ t.dev.power.s3 ∧
      (∀ p ∈ t.dev.eng.prefetch, p.1 ≠ m) ∧ t.dev.reqs = s.dev.reqs := by
  have op : s3EntryOp s.dev m = count (setLiveBit (setDom (s3Emptied (s3Left s.dev m) m) m 3) (regA .therm 0 (0x100 + 4 * m)) 31 false) .pwr 0 0x128 1 := by
    rw [s3EntryOp_begun entering r1 r2 r3, if_neg (by rw [rowsHeld_s3Left, free]; decide)]
  obtain ⟨still, -⟩ := setMoving_spec { s.dev with power := { s.dev.power with s3 := s.dev.power.s3.filter (fun x => !decide (x = m)) } }
    (dom := m) (by omega) false
  have emptied := s3Emptied_kept (s3Left s.dev m) m
  have set := setDom_spec (s3Emptied (s3Left s.dev m) m) (dom := m) (st := 3) (by omega) (by decide)
  have word : live (s3EntryOp s.dev m) (regA .pwr 0 0x118) = live (setDom (s3Emptied (s3Left s.dev m) m) m 3) (regA .pwr 0 0x118) := by
    rw [op, live_count, if_neg (by decide), live_setLiveBit_ne _ _ _ (regA_ne_of_off (by omega) (by decide) (by omega))]
  have rest : s3EntryOp s.dev m = { s3Emptied (s3Left s.dev m) m with regs := (s3EntryOp s.dev m).regs } := by
    rw [op, count, setLive, setLiveBit, setLive, set.only]
  refine ⟨_, rfl, ⟨rfl, rfl, rfl⟩, (domState_congr word m).trans set.state, ?_, ?_, ?_, ?_⟩
  · exact (domMoving_congr word m).trans ((set.moving m).trans ((domMoving_congr emptied.word m).trans still))
  · change m ∉ (s3EntryOp s.dev m).power.s3
    rw [rest]
    change m ∉ (s3Emptied (s3Left s.dev m) m).power.s3
    rw [emptied.power]
    exact s3Left_left s.dev m
  · change ∀ p ∈ (s3EntryOp s.dev m).eng.prefetch, p.1 ≠ m
    rw [rest]
    exact not_mem_filter_fst
  · change (s3EntryOp s.dev m).reqs = s.dev.reqs
    rw [rest]
    exact emptied.reqs

/-- Settles O53, by the cases of the entry's guards and the word of the domains' states. -/
theorem domainEntry : Obligations.DomainEntry := by
  unfold Obligations.DomainEntry
  refine ⟨fun s dom dom_le run up still => ⟨fun busy => ?_, fun held => ?_, fun idle free major floor shallow may => ?_⟩,
    fun s m lt entering => ⟨fun stopped => ?_, s3Entry_abandoned lt entering, s3Entry_enters lt entering⟩⟩
  · exact congrArg (ok s) (autoEntryOp_stays (.inl busy))
  · exact congrArg (ok s) (autoEntryOp_stays (.inr held))
  · have set := setDom_spec s.dev dom_le (st := domState s.dev dom + 1) (by omega)
    exact ⟨_, congrArg (ok s) (autoEntryOp_enters dom_le run up still idle free major floor shallow may), ⟨rfl, rfl, rfl⟩, set.state, set.others, set.only⟩
  · exact congrArg (ok s) (s3EntryOp_waits stopped)

/-! ### O54: wake -/

theorem demandWake_waits {s : State} {dom : Nat} (dom_le : dom ≤ 4) (run : running s.dev = true) (held : transHeld s.dev = true)
    (still : domMoving s.dev dom = false) (deep : 1 < domState s.dev dom) :
    exec (.demandWake dom) s = .next (on s { s.dev with power := { s.dev.power with wakeWaits := s.dev.power.wakeWaits ++ [(dom, wakeTo s.dev dom)] } }) := by
  have le := wakeTo_le s.dev dom
  refine congrArg (ok s) ((demandWakeOp_to s.dev dom_le).trans (if_pos ?_))
  simp only [held, still, run, Bool.not_false, Bool.and_true, Bool.true_and, decide_eq_true_eq]
  omega

theorem demandWake_begins {s : State} {dom : Nat} (dom_le : dom ≤ 4) (run : running s.dev = true) (out : dom ∉ s.dev.power.s3)
    (free : transHeld s.dev = false) (idle : ∀ r ∈ s.dev.power.resuming, r.1 ≠ dom) (deep : 1 < domState s.dev dom) :
    ∃ t, exec (.demandWake dom) s = .next t ∧ Aside s t ∧ domMoving t.dev dom = true ∧
      t.dev.power.resuming = s.dev.power.resuming ++ [(dom, wakeTo s.dev dom)] ∧ domState t.dev dom = domState s.dev dom := by
  have le := wakeTo_le s.dev dom
  have op := (demandWakeOp_to s.dev dom_le).trans ((wakeDom_free dom _ free).trans (wakeNow_begins run out idle (by omega)))
  obtain ⟨moving, states⟩ := setMoving_spec { s.dev with power.resuming := s.dev.power.resuming ++ [(dom, wakeTo s.dev dom)] } dom_le true
  exact ⟨_, congrArg (ok s) op, ⟨rfl, rfl, rfl⟩, moving, rfl, states dom dom_le⟩

theorem domainResumed_ends {s : State} {dom st : Nat} (dom_le : dom ≤ 4) (hst : st < 4)
    (found : s.dev.power.resuming.find? (fun r => decide (r.1 = dom)) = some (dom, st)) :
    ∃ t, exec (.domainResumed dom) s = .next t ∧ Aside s t ∧ domState t.dev dom = st ∧ domMoving t.dev dom = false ∧
      (∀ r ∈ t.dev.power.resuming, r.1 ≠ dom) ∧ live t.dev (regA .pwr 0 0x124) = live s.dev (regA .pwr 0 0x124) + 1 := by
  have set := setDom_spec { s.dev with power.resuming := s.dev.power.resuming.filter (fun r => !decide (r.1 = dom)) } dom_le hst
  obtain ⟨still, states⟩ := setMoving_spec (setDom { s.dev with power.resuming := s.dev.power.resuming.filter (fun r => !decide (r.1 = dom)) } dom st)
    dom_le false
  have word (d : Dev) : live (count d .pwr 0 0x124 1) (regA .pwr 0 0x118) = live d (regA .pwr 0 0x118) := live_setLive_ne _ _ (by decide)
  refine ⟨_, congrArg (ok s) (resumedOp_of_find found), ⟨rfl, rfl, rfl⟩, ?_, ?_, ?_, ?_⟩
  · exact (domState_congr (word _) dom).trans ((states dom dom_le).trans set.state)
  · exact (domMoving_congr (word _) dom).trans still
  · rw [count, setLive, setMoving, setLiveBit, setLive, set.only]
    exact not_mem_filter_fst
  · change live (count _ _ _ _ _) _ = _
    rw [live_count, if_pos rfl, setMoving, live_setLiveBit_ne _ _ _ (by decide), set.words 0x124 (by decide) (by decide)]
    rfl

/-- Settles O54, by the cases of a wake and the word of the domains' states. -/
theorem domainWake : Obligations.DomainWake := by
  unfold Obligations.DomainWake
  refine ⟨fun s dom dom_le run out => ⟨demandWake_waits dom_le run, demandWake_begins dom_le run out, fun st hst => domainResumed_ends dom_le hst⟩,
    fun s => ⟨fun run up => ?_, fun l1 free run out idle deep => ?_, rfl⟩⟩
  · exact congrArg (ok s) (if_pos (by simp [run, up]))
  · have op : exitL1Op s.dev = setMoving { s.dev with power := { s.dev.power with linkL1 := false, resuming := s.dev.power.resuming ++ [(4, 0)] } } 4 true :=
      (if_pos l1).trans ((wakeDom_free (d := { s.dev with power.linkL1 := false }) 4 0 free).trans
        (wakeNow_begins (d := { s.dev with power.linkL1 := false }) run out (by rw [idle]; simp) deep))
    obtain ⟨moving, -⟩ := setMoving_spec { s.dev with power := { s.dev.power with linkL1 := false, resuming := s.dev.power.resuming ++ [(4, 0)] } }
      (dom := 4) (by decide) true
    refine ⟨_, congrArg (ok s) op, ⟨rfl, rfl, rfl⟩, rfl, ?_, moving⟩
    change s.dev.power.resuming ++ [(4, 0)] = [(4, 0)]
    rw [idle, List.nil_append]

/-! ### O55: S4 -/

theorem pwrDeepOp_accepts {d : Dev} (idle : ∀ b, 0 < b → b < 64 → basinState d b = 0 ∨ basinState d b = 2) (none : d.reqs = [])
    (r1 : fwpRuns d 1 = true) (r3 : fwpRuns d 3 = true) : pwrDeepOp d 0 1 = { d with power := { d.power with deepAsked := true } } := by
  rw [pwrDeepOp, if_neg (by decide), if_pos]
  simp only [Bool.and_eq_true, decide_eq_true_eq, List.all_eq_true, List.mem_range]
  refine ⟨⟨⟨fun b lt => ?_, none⟩, r1⟩, r3⟩
  by_cases b0 : b = 0
  · exact .inl b0
  · exact .inr (idle b (by omega) lt)

theorem pwrDeepOp_refuses {d : Dev} (h : (∃ b, 0 < b ∧ b < 64 ∧ (basinState d b = 1 ∨ basinState d b = 3)) ∨ d.reqs ≠ [] ∨
    fwpRuns d 1 = false ∨ fwpRuns d 3 = false) : pwrDeepOp d 0 1 = setStat d .pwr 0 0 0 noTag 4 0 := by
  rw [pwrDeepOp, if_neg (by decide), if_neg]
  simp only [Bool.and_eq_true, decide_eq_true_eq, List.all_eq_true, List.mem_range]
  rintro ⟨⟨⟨idle, none⟩, r1⟩, r3⟩
  rcases h with ⟨b, pos, lt, busy⟩ | held | s1 | s3
  · have := idle b lt
    omega
  · exact held none
  · simp [r1] at s1
  · simp [r3] at s3

theorem deepEntryOp_waits {s : State} (h : fwpRuns s.dev 2 = false ∨ fwpRuns s.dev 3 = false ∨ s.dev.power.resuming ≠ [] ∨ rowsHeld s.dev = true) :
    deepEntryOp s = s :=
  if_pos (by rcases h with h | h | h | h <;> simp [h])

theorem deepEntryOp_enters {s : State} (asked : s.dev.power.deepAsked = true) (r2 : fwpRuns s.dev 2 = true) (r3 : fwpRuns s.dev 3 = true)
    (none : s.dev.power.resuming = []) (free : rowsHeld s.dev = false) :
    deepEntryOp s = { onDev (lose (onDev s flushFrames) true false) (fun d => { d with power.rails := .deep, power.pwrGood := false }) with tap := Tap.reset } :=
  if_neg (by simp [asked, r2, r3, none, free])

theorem deepExit_resets {s : State} {src : WakeSource} (deep : s.dev.power.rails = .deep) (woken : deepWoken s.dev src = true) :
    ∃ t, exec (.deepExit src) s = .next t ∧ t.pending = s.pending ∧ t.dev.power.rails = .good ∧ t.dev.power.pwrGood = true ∧
      t.dev.power.wakeResume = true ∧ reg t .rst 0 0x104 % 16 = 5 ∧ FlashKept s t ∧ springKept s t ∧
      live t.dev (regA .rst 0 0x114) = live s.dev (regA .rst 0 0x114) + 1 := by
  have taken : deviceResetOp s 5 = resetTaken s 5 := if_neg (by simp [deep])
  have op : deepExitOp s src = onDev (resetTaken s 5) (fun d => { d with power.rails := .good, power.pwrGood := true, power.wakeResume := true }) := by
    rw [deepExitOp, if_neg (by simp [deep, woken]), taken]
  obtain ⟨pending, cause, -, -, -, flash, spring, count⟩ := resetTaken_leaves s (cause := 5) (by decide)
  exact ⟨_, congrArg Host.Outcome.next op, pending, rfl, rfl, rfl, cause, flash, spring, count⟩

/-- Settles O55, by the guard of each command; the exit is a device reset that is taken. -/
theorem deepSleep : Obligations.DeepSleep := by
  unfold Obligations.DeepSleep
  intro s
  refine ⟨fun lands => ⟨fun idle none r1 r3 => ?_, fun busy => ?_⟩, fun wait => ?_, fun asked r2 r3 none free => ?_, fun src => deepExit_resets⟩
  · exact put_act (by decide) lands (congrArg some (congrArg (on s) (pwrDeepOp_accepts idle none r1 r3)))
  · exact put_act (by decide) lands (congrArg some (congrArg (on s) (pwrDeepOp_refuses busy)))
  · exact congrArg Host.Outcome.next (deepEntryOp_waits wait)
  · exact ⟨_, congrArg Host.Outcome.next (deepEntryOp_enters asked r2 r3 none free), rfl, rfl, rfl, rfl, rfl, rfl⟩

end Sys2Proof.Proofs

/-! SUPPORT. The error log's records; fenced cores, stale messages and spares. -/

namespace Sys2Proof.Machine

open Sys2Proof.Claims

/-! ### The error log (R398–R401) -/

theorem length_recordBytes (e : LogEvent) (seq : Nat) (lost phase : Bool) : (recordBytes e seq lost phase).length = 64 := by
  simp only [recordBytes, List.length_append, length_natLe, List.length_replicate]

theorem errlogRecordOp_idle {d : Dev} (h : d.log.events = [] ∨ fwpRuns d 4 = false ∨ logEnabled d = false) : errlogRecordOp d = d := by
  unfold errlogRecordOp
  split
  · rfl
  · rename_i e rest held
    exact if_pos (by rcases h with h | h | h <;> simp_all)

/-- The log that has lost its oldest event: the ring is full. -/
def recordLost (d : Dev) (rest : List LogEvent) : Dev :=
  setStat { count { d with log.events := rest } .errlog 0 0x10C 1 with log.lost := true } .errlog 0 1

/-- The tail that follows. -/
def nextTail (d : Dev) : Nat := (logTail d + 1) % logSize d

/-- The ring's words and bytes once a record has been written. -/
def recordWritten (d : Dev) (e : LogEvent) (seq : Nat) : Dev :=
  let d' := shoreWrite d 0 (liveN d .errlog 0 0x100 % 1024) (64 * logTail d) (recordBytes e seq d.log.lost (logPhase d))
  setLiveN (setLiveN { d' with log.lost := false } .errlog 0 0x118 seq) .errlog 0 0x108
    (nextTail d + (if (if nextTail d = 0 then !logPhase d else logPhase d) then 65536 else 0))

theorem errlogRecordOp_takes {d : Dev} {e : LogEvent} {rest : List LogEvent} (held : d.log.events = e :: rest) (runs : fwpRuns d 4 = true)
    (on : logEnabled d = true) (size : logSize d ≠ 0) :
    errlogRecordOp d = if nextTail d = logHead d then recordLost d rest
      else setStat (recordWritten { d with log.events := rest } e ((liveN d .errlog 0 0x118 + 1) % 2 ^ 32)) .errlog 0 0 := by
  simp only [errlogRecordOp, held]
  rw [if_neg (by simp [runs, on, size])]
  rfl

theorem logSize_le (d : Dev) : logSize d ≤ 31744 := by
  unfold logSize bitsOf
  omega

/-- What follows a record's write in the words of the ring. -/
theorem liveN_recordWritten (d : Dev) (e : LogEvent) (seq : Nat) (size : logSize d ≠ 0) :
    liveN (recordWritten d e seq) .errlog 0 0x108 % 65536 = nextTail d := by
  have le := logSize_le d
  have small : nextTail d < 31744 := Nat.lt_of_lt_of_le (Nat.mod_lt _ (Nat.pos_of_ne_zero size)) le
  unfold recordWritten
  dsimp only
  generalize (if nextTail d = 0 then !logPhase d else logPhase d) = ph
  have phase : (if ph then 65536 else 0 : Nat) = 0 ∨ (if ph then 65536 else 0 : Nat) = 65536 := by cases ph <;> simp
  rw [liveN_setLiveN_self _ _ _ _ (by omega)]
  omega

/-- The record stands in the ring. -/
theorem shoreRead_recordWritten (d : Dev) (e : LogEvent) (seq : Nat) :
    shoreRead (recordWritten d e seq) 0 (liveN d .errlog 0 0x100 % 1024) (64 * logTail d) 64 = recordBytes e seq d.log.lost (logPhase d) := by
  have bytes := Mem.readN_writeL d.mem.shore (shoreAddr 0 (liveN d .errlog 0 0x100 % 1024) (64 * logTail d)) (recordBytes e seq d.log.lost (logPhase d))
  have shore : (recordWritten d e seq).mem.shore = Mem.writeL d.mem.shore (shoreAddr 0 (liveN d .errlog 0 0x100 % 1024) (64 * logTail d))
      (recordBytes e seq d.log.lost (logPhase d)) := by simp only [recordWritten, setLiveN_mem, shoreWrite, clearPoison]
  rw [length_recordBytes] at bytes
  rw [shoreRead, shore, bytes]

theorem recordWritten_frame (d : Dev) (e : LogEvent) (seq : Nat) :
    (recordWritten d e seq).log = { d.log with lost := false } ∧ (recordWritten d e seq).mem.hbm = d.mem.hbm ∧ (recordWritten d e seq).reqs = d.reqs := by
  simp only [recordWritten, setLiveN_log, setLiveN_mem, setLiveN_reqs, shoreWrite, clearPoison, and_self]

theorem shoreRead_congr {d e : Dev} (h : e.mem = d.mem) (b block off n : Nat) : shoreRead e b block off n = shoreRead d b block off n := by
  rw [shoreRead, h, shoreRead]

theorem ceMsOp_of_find {d : Dev} {c : LogCoal} (h : d.log.coal.find? (fun x => decide (x.kind = c.kind ∧ x.source = c.source)) = some c) :
    ceMsOp d c.kind c.source =
      let e := advanceTo d (c.last + msCycles (liveN d .errlog 0 0x110))
      let others := d.log.coal.filter (fun x => !decide (x.kind = c.kind ∧ x.source = c.source))
      if c.since = 0 then { e with log.coal := others }
      else holdEvent { e with log.coal := others ++ [{ c with last := e.now, since := 0 }] } { c.event with count := c.since } := by
  simp only [ceMsOp, h]

/-- FWP4 that runs with the log enabled holds each event. -/
theorem holdEvent_held {d : Dev} (e : LogEvent) (runs : fwpRuns d 4 = true) (on : logEnabled d = true) :
    holdEvent d e = { d with log.events := d.log.events ++ [e] } := by
  have later : fwpRuns { d with log.events := d.log.events ++ [e] } 4 = true := runs
  simp only [holdEvent, runs, on, Bool.not_true, Bool.or_self, Bool.false_and, Bool.false_eq_true, if_false, later, if_true]

/-! ### What the end of requests, pre-emption and messages leave -/

/-- Offsets that they count at, and those of the status and capture registers. -/
abbrev calmOffs : List Nat := 0x10C :: 0x110 :: 0x118 :: 0x11C :: 0x120 :: 0x124 :: 0x128 :: 0x164 :: statOffs

/-- Ports whose peers are as admitted, and whose links are down since, as before. -/
structure PortsLike (ps qs : List Port) : Prop where
  length : qs.length = ps.length
  admitted : ∀ p, (qs.getD p Port.reset).admitted = (ps.getD p Port.reset).admitted
  downAt : ∀ p, (qs.getD p Port.reset).downAt = (ps.getD p Port.reset).downAt

theorem PortsLike.refl (ps : List Port) : PortsLike ps ps := ⟨rfl, fun _ => rfl, fun _ => rfl⟩

theorem PortsLike.trans {ps qs rs : List Port} (h : PortsLike ps qs) (g : PortsLike qs rs) : PortsLike ps rs :=
  ⟨g.length.trans h.length, fun p => (g.admitted p).trans (h.admitted p), fun p => (g.downAt p).trans (h.downAt p)⟩

theorem length_setAt {α : Type} (xs : List α) (i : Nat) (v : α) : (setAt xs i v).length = xs.length := by
  induction xs generalizing i with
  | nil => rfl
  | cons x xs ih => cases i with
    | zero => rfl
    | succ i => exact congrArg (· + 1) (ih i)

theorem getD_setAt {α : Type} (xs : List α) (i j : Nat) (v z : α) :
    (setAt xs i v).getD j z = if j = i ∧ i < xs.length then v else xs.getD j z := by
  induction xs generalizing i j with
  | nil => rw [setAt, if_neg (fun h => Nat.not_lt_zero _ h.2)]
  | cons x xs ih =>
    cases i <;> cases j
    · simp [setAt]
    · simp [setAt]
    · simp [setAt]
    · rw [setAt, List.getD_cons_succ, ih, List.getD_cons_succ, List.length_cons]
      simp only [Nat.succ_inj, Nat.succ_lt_succ_iff]

theorem portAt_modPort (d : Dev) (p q : Nat) (f : Port → Port) :
    portAt (modPort d p f) q = if q = p ∧ p < d.links.ports.length then f (portAt d p) else portAt d q := getD_setAt ..

/-- Memory but for its poison, the jobs but for their contexts and what they were charged, flash and power are as before, and so is
every register but the counts; no status bit has been cleared. -/
structure Calm (d e : Dev) : Prop where
  now : e.now = d.now
  mem : ∃ p, e.mem = { d.mem with poison := p }
  jobs : ∃ c sp, e.jobs = { d.jobs with ctxs := c, spans := sp }
  ports : PortsLike d.links.ports e.links.ports
  flash : e.flash = d.flash
  power : e.power = d.power
  versions : e.txn.versions = d.txn.versions
  same : ∀ a, a % 0x1000 ∉ calmOffs → SameAt a d e
  stats : ∀ k i b, bitOf (liveN d k i 0x20) b = true → bitOf (liveN e k i 0x20) b = true

namespace Calm

variable {d e f : Dev}

theorem refl (d : Dev) : Calm d d := ⟨rfl, ⟨_, rfl⟩, ⟨_, _, rfl⟩, .refl _, rfl, rfl, rfl, fun a _ => .refl a d, fun _ _ _ h => h⟩

theorem trans (h : Calm d e) (g : Calm e f) : Calm d f := by
  obtain ⟨now, ⟨p, mem⟩, ⟨c, sp, jobs⟩, ports, flash, power, versions, same, stats⟩ := h
  obtain ⟨now', ⟨p', mem'⟩, ⟨c', sp', jobs'⟩, ports', flash', power', versions', same', stats'⟩ := g
  exact ⟨now'.trans now, ⟨p', by rw [mem', mem]⟩, ⟨c', sp', by rw [jobs', jobs]⟩, ports.trans ports', flash'.trans flash, power'.trans power,
    versions'.trans versions, fun a ha => (same a ha).trans (same' a ha), fun k i b => stats' k i b ∘ stats k i b⟩

theorem ite {c : Prop} [Decidable c] {x y : Dev} (hx : Calm d x) (hy : Calm d y) : Calm d (if c then x else y) := by
  split
  · exact hx
  · exact hy

theorem foldl {α : Type} {g : Dev → α → Dev} (h : Calm d e) (xs : List α) (step : ∀ e x, Calm e (g e x)) : Calm d (xs.foldl g e) := by
  induction xs generalizing e with
  | nil => exact h
  | cons x xs ih => exact ih (h.trans (step e x))

theorem of_marks (h : Marks calmOffs d e) : Calm d e :=
  ⟨h.now, ⟨d.mem.poison, h.mem⟩, ⟨d.jobs.ctxs, d.jobs.spans, h.jobs⟩, by rw [h.links]; exact .refl _, h.flash, h.power, congrArg _ h.txn, h.same, h.stats⟩

/-- A change outside all this. -/
theorem aside (h : Calm d e) (now : f.now = e.now := by rfl) (regs : f.regs = e.regs := by rfl) (mem : f.mem = e.mem := by rfl)
    (jobs : f.jobs = e.jobs := by rfl) (ports : f.links.ports = e.links.ports := by rfl) (flash : f.flash = e.flash := by rfl)
    (power : f.power = e.power := by rfl) (versions : f.txn.versions = e.txn.versions := by rfl) : Calm d f :=
  h.trans ⟨now, ⟨e.mem.poison, mem⟩, ⟨e.jobs.ctxs, e.jobs.spans, jobs⟩, ports ▸ .refl _, flash, power, versions, fun a _ => sameAt_of_regs regs a,
    fun k i b set => by rwa [liveN, live_congr regs]⟩

/-- A change of the contexts alone. -/
theorem withCtxs (h : Calm d e) (cs : List Ctx) : Calm d { e with jobs.ctxs := cs } :=
  h.trans ⟨rfl, ⟨_, rfl⟩, ⟨cs, _, rfl⟩, .refl _, rfl, rfl, rfl, fun a _ => sameAt_of_regs rfl a, fun _ _ _ h => h⟩

/-- A change of a port that leaves its peer's admission and the instant of its fall. -/
theorem modPort (h : Calm d e) (p : Nat) (g : Port → Port) (admitted : ∀ x, (g x).admitted = x.admitted := by exact fun _ => rfl)
    (downAt : ∀ x, (g x).downAt = x.downAt := by exact fun _ => rfl) : Calm d (modPort e p g) := by
  refine h.trans ⟨rfl, ⟨_, rfl⟩, ⟨_, _, rfl⟩, ⟨length_setAt .., fun q => ?_, fun q => ?_⟩, rfl, rfl, rfl, fun a _ => sameAt_of_regs rfl a, fun _ _ _ h => h⟩
  · have at' := portAt_modPort e p q g
    rw [portAt] at at'
    rw [at']
    split
    · rename_i own
      rw [admitted, portAt, own.1]
    · rfl
  · have at' := portAt_modPort e p q g
    rw [portAt] at at'
    rw [at']
    split
    · rename_i own
      rw [downAt, portAt, own.1]
    · rfl

theorem count (h : Calm d e) (k : Blk) (i : Nat) {off : Nat} (n : Nat) (m : off ∈ calmOffs := by decide) (lt : off < 0x1000 := by decide)
    (ne : off ≠ 0x20 := by decide) : Calm d (count e k i off n) := h.trans (.of_marks ((Marks.refl _ e).count k i n m lt ne))

theorem setStat (h : Calm d e) (k : Blk) (i bit bs : Nat) (t d2 d3 : W32) : Calm d (setStat e k i bit bs t d2 d3) :=
  h.trans (.of_marks ((Marks.refl _ e).setStat ..))

theorem logEvent (h : Calm d e) (kind source bs : Nat) (t : W32) (loc det ep : Nat) : Calm d (logEvent e kind source bs t loc det ep) :=
  h.trans (.of_marks ((Marks.refl _ e).logEvent ..))

theorem word (h : Calm d e) (k : Blk) (i : Nat) {off : Nat} (lt : off < 0x1000 := by decide) (out : off ∉ calmOffs := by decide) :
    SameAt (regA k i off) d e := h.same _ (by rwa [regA_off _ _ _ lt])

theorem wordN (h : Calm d e) (k : Blk) (i : Nat) {off : Nat} (lt : off < 0x1000 := by decide) (out : off ∉ calmOffs := by decide) :
    liveN e k i off = liveN d k i off := congrArg BitVec.toNat (h.word k i lt out).live

/-! Requests. -/

theorem dropCtx (h : Calm d e) (id : Nat) : Calm d (dropCtx e id) := by
  have left (x : Dev) (hx : ∃ sp, x = { e with jobs.spans := sp }) (cs : List Ctx) (ss : List SortCmd) (gs : List GathCmd) (p : List (Space × Nat)) :
      Calm d { x with jobs.ctxs := cs, eng.sorts := ss, eng.gaths := gs, mem.poison := p } := by
    obtain ⟨sp, rfl⟩ := hx
    exact h.trans ⟨rfl, ⟨p, rfl⟩, ⟨cs, sp, rfl⟩, .refl _, rfl, rfl, rfl, fun a _ => sameAt_of_regs rfl a, fun _ _ _ h => h⟩
  unfold Machine.dropCtx
  split
  · refine left _ ?_ _ _ _ _
    unfold endSpan
    split
    · exact ⟨_, rfl⟩
    · exact ⟨e.jobs.spans, rfl⟩
  · exact left e ⟨e.jobs.spans, rfl⟩ _ _ _ _

theorem endHold (h : Calm d e) (idx slot : Nat) : Calm d (endHold e idx slot) := by
  unfold Machine.endHold
  split
  · exact h
  · dsimp only
    exact .ite h.aside (.ite (.aside (.ite (h.count .gen 0 (off := 0x124) 1) h)) h.aside)

theorem releaseWork (h : Calm d e) (r : Req) : Calm d (releaseWork e r) := by
  have queued : Calm d (outOfQueues ((endedCtxs e r).foldl (fun d c => Machine.dropCtx d c.id) e) r) :=
    (h.foldl (endedCtxs e r) fun e c => (refl e).dropCtx c.id).aside
  rw [releaseWork_parts]
  dsimp only
  split
  · exact queued.endHold ..
  · exact queued

theorem finish (h : Calm d e) (r : Req) (cls : Nat) : Calm d (finish e r cls) := by
  have done : Calm d (workDone e r cls) := .ite (((h.releaseWork r).withCtxs _).count .bsn r.basin (off := 0x164) 1) ((h.releaseWork r).withCtxs _)
  rw [finish_eq]
  exact .ite done.aside done.aside

theorem endReq (h : Calm d e) (slot cls : Nat) : Calm d (endReq e slot cls) := by
  unfold Machine.endReq
  split
  · exact h
  · exact .ite ((h.finish _ cls).foldl _ fun e r => (refl e).finish r 0x11) h

theorem settle (h : Calm d e) : Calm d (settle e) := h.foldl _ fun e r => (refl e).endReq r.slot _

/-! Messages. -/

theorem withTx (h : Calm d e) (tx : List (Nat × List Byte)) : Calm d { e with links.tx := tx } := h.aside

theorem countTx (h : Calm d e) (p n : Nat) : Calm d (countTx e p n) := by
  unfold Machine.countTx
  exact (h.count .ndl p (off := 0x118) _).modPort p _

theorem countRx (h : Calm d e) (p : Nat) : Calm d (countRx e p) := by
  unfold Machine.countRx
  exact (h.count .ndl p (off := 0x11C) _).modPort p _

theorem sendFrame (h : Calm d e) (p typ src dst domain key : Nat) (body : List Byte) : Calm d (sendFrame e p typ src dst domain key body) := by
  unfold Machine.sendFrame
  dsimp only
  exact .ite (h.modPort p _) (((h.countTx p 1).modPort p _).withTx _)

theorem sendFrom (h : Calm d e) (src : Nat) (m : Msg) : Calm d (sendFrom e src m) := by
  unfold Machine.sendFrom
  refine .ite h.aside ?_
  split
  · exact .ite h.aside (h.sendFrame ..)
  · exact h

theorem sendMsg (h : Calm d e) (m : Msg) : Calm d (sendMsg e m) := h.sendFrom _ m

/-! Pre-emption. -/

theorem tellAll (h : Calm d e) (dom key op : Nat) : Calm d (tellAll e dom key op) := by
  unfold Machine.tellAll
  split
  · exact h.foldl _ fun e m => (refl e).sendMsg _
  · exact h

theorem tellSet (h : Calm d e) (c : Ctx) : Calm d (tellSet e c) := by
  unfold Machine.tellSet
  split
  · exact h
  · exact .ite (h.tellAll ..) (h.sendMsg _)

theorem preemptOne (h : Calm d e) (c : Ctx) : Calm d (preemptOne e c) := ((h.withCtxs _).count .sync c.mere (off := 0x110) 1).aside

theorem preemptSet (h : Calm d e) (set : Nat) (tell : Bool) : Calm d (preemptSet e set tell) :=
  h.foldl _ fun e c => .ite (((refl e).preemptOne c).tellSet c) ((refl e).preemptOne c)

theorem emptyMere (h : Calm d e) (m : Nat) : Calm d (emptyMere e m) := h.foldl _ fun e c => (refl e).preemptSet c.set true

theorem fenceContexts (h : Calm d e) (i : Nat) : Calm d (fenceContexts e i) := by
  refine h.foldl _ fun e c => settle ?_
  have set : Calm e ((setJobs e c.set).foldl (fun d x => Machine.dropCtx d x.id) e) := (refl e).foldl _ fun e x => (refl e).dropCtx x.id
  exact (ite set (refl e)).aside

/-! Linked sets and routes. -/

theorem endMember (h : Calm d e) (dom key cls : Nat) : Calm d (endMember e dom key cls) := by
  unfold Machine.endMember
  split
  · exact h
  · exact .ite ((h.withCtxs _).withCtxs _) (settle (aside (h.withCtxs _)))

theorem renewSet (h : Calm d e) (dom key : Nat) : Calm d (renewSet e dom key) := by
  unfold Machine.renewSet
  split
  · exact h
  · exact .ite h.aside h.aside

theorem endSet (h : Calm d e) (dom key cls skip : Nat) : Calm d (endSet e dom key cls skip) := by
  unfold Machine.endSet
  split
  · exact h
  · exact (h.renewSet dom key).foldl _ fun e m => .ite ((refl e).endMember dom key cls) ((refl e).sendMsg _)

theorem startSet (h : Calm d e) (dom key fuel : Nat) : Calm d (startSet dom key fuel e) := by
  induction fuel generalizing e with
  | zero => exact h
  | succ fuel ih =>
    unfold Machine.startSet
    split
    · exact h
    · refine .ite h (.ite (ih (h.endSet ..)) (foldl h.aside _ fun e m => .ite ?_ ((refl e).sendMsg _)))
      split
      · exact (refl e).withCtxs _
      · exact refl e

theorem startNext (h : Calm d e) (dom key : Nat) : Calm d (startNext e dom key) := h.startSet dom key _

theorem fenceHomes (h : Calm d e) (p fuel : Nat) : Calm d (fenceHomes p fuel e) := by
  induction fuel generalizing e with
  | zero => exact h
  | succ fuel ih =>
    unfold Machine.fenceHomes
    split
    · exact h
    · exact ih (((h.count .ndl p (off := 0x128) 1).endSet ..).startNext ..)

theorem fenceSets (h : Calm d e) (p : Nat) : Calm d (fenceSets e p) :=
  ((h.fenceHomes p _).count .ndl p (off := 0x128) _).foldl _ fun e x => (refl e).endMember x.1 x.2 0x61

theorem notice (h : Calm d e) (ports : List Nat) (src : Nat) (peers : List Nat) : Calm d (notice e ports src peers) :=
  h.foldl _ fun e _ => (refl e).sendFrame ..

theorem flood (h : Calm d e) : Calm d (flood e) := (h.notice ..).foldl _ fun e t => (refl e).notice _ t.1 t.2

theorem newRoutes (h : Calm d e) (p : Nat) : Calm d (newRoutes e p) :=
  .ite h (foldl (((h.aside).flood).fenceSets p) _ fun e m => (refl e).sendFrom m.1 m.2)

theorem replayHeld (h : Calm d e) (p : Nat) (frames : List (List Byte)) : Calm d (replayHeld e p frames) :=
  (countTx (.ite h ((h.count .ndl p (off := 0x120) _).setStat ..)) p _).aside

theorem fenceSet (h : Calm d e) (p dom key : Nat) : Calm d (fenceSet e p dom key) := by
  unfold Machine.fenceSet
  refine .ite (((h.count .ndl p (off := 0x128) 1).endSet ..).startNext ..) ?_
  split
  · exact (h.count .ndl p (off := 0x128) 1).endMember ..
  · exact h

end Calm

/-! ### Spares asked for -/

/-- The mappings asked for that have not lapsed on a mere. -/
def liveMaps (d : Dev) (m : Nat) : List (Nat × Nat) :=
  d.jobs.mapReq.filter (fun r => decide (r.1 / 264 ≠ m) || ((freeSpares d m).contains r.1 && (unmapped d m).contains r.2))

theorem wantSpare_calm (d : Dev) (m : Nat) : Calm { d with jobs.mapReq := liveMaps d m } (wantSpare d m) :=
  .ite (.emptyMere (.refl _) m) (.refl _)

/-! ### The declaration of a core (R403, R408) -/

/-- Quarantined cores gained, memory but for poison, the dead meres, and each core's epoch but one's, as before. -/
structure Fenced (i : Nat) (d e : Dev) : Prop where
  mem : ∃ p, e.mem = { d.mem with poison := p }
  dead : e.jobs.deadMeres = d.jobs.deadMeres
  quarantined : ∀ j, j ∈ d.jobs.quarantined → j ∈ e.jobs.quarantined
  others : ∀ j, j ≠ i → SameAt (regA .core j 0x108) d e

theorem regA_core_inj {i j off : Nat} (h : regA .core i off = regA .core j off) : i = j := by
  simp only [regA, pageNo] at h
  omega

theorem spareOut_marks (d0 d : Dev) (i : Nat) : Marks calmOffs d (spareOut d0 d i) :=
  .ite ((Marks.refl _ d).logEvent ..) (.refl _ d)

/-- The block when the declaration has fenced the contexts of the core. -/
def coreFenced (d : Dev) (i cause : Nat) : Dev :=
  let epoch := (liveN d .core i 0x108 + 1) % 65536
  let d := setLiveN d .core i 0x108 epoch
  let d := { d with jobs.quarantined := d.jobs.quarantined ++ [i] }
  fenceContexts (logEvent (count d .mere (i / 264) 0x20C 1) 0xC (pageNo .core i) 0xFF noTag (i % 264) cause epoch) i

theorem declareCore_eq {d : Dev} {i : Nat} (cause : Nat) (spare : Bool) (alive : isQuarantined d i = false)
    (major : noMajority d (regA .core i 0x108) = false) :
    declareCore d i cause spare = if spare then spareOut d (vacate (coreFenced d i cause) i) i
      else if isMapped (coreFenced d i cause) i then setMap (coreFenced d i cause) i false (gridOf (coreFenced d i cause) i) else coreFenced d i cause := by
  rw [declareCore, if_neg (by simp [alive, major])]
  rfl

/-- Registers but those of the counts, of CORE_MAP and of one epoch, the quarantined cores and the memories: what the last steps of a
declaration leave. -/
structure Vacated (d e : Dev) : Prop where
  mem : ∃ p, e.mem = { d.mem with poison := p }
  dead : e.jobs.deadMeres = d.jobs.deadMeres
  quarantined : e.jobs.quarantined = d.jobs.quarantined
  epochs : ∀ j, SameAt (regA .core j 0x108) d e

namespace Vacated

variable {d e f : Dev}

theorem refl (d : Dev) : Vacated d d := ⟨⟨_, rfl⟩, rfl, rfl, fun _ => .refl _ d⟩

theorem trans (h : Vacated d e) (g : Vacated e f) : Vacated d f := by
  obtain ⟨⟨p, mem⟩, dead, quarantined, epochs⟩ := h
  obtain ⟨⟨p', mem'⟩, dead', quarantined', epochs'⟩ := g
  exact ⟨⟨p', by rw [mem', mem]⟩, dead'.trans dead, quarantined'.trans quarantined, fun j => (epochs j).trans (epochs' j)⟩

theorem of_calm (h : Calm d e) : Vacated d e := by
  obtain ⟨c, sp, jobs⟩ := h.jobs
  exact ⟨h.mem, by rw [jobs], by rw [jobs], fun j => h.same _ (by rw [regA_off _ _ _ (by decide)]; decide)⟩

theorem setMap (d : Dev) (i : Nat) (mapped : Bool) (grid : Nat) : Vacated d (setMap d i mapped grid) :=
  ⟨⟨_, rfl⟩, rfl, rfl, fun _ => sameAt_setLive _ _ (regA_ne_of_off (by decide) (by decide) (by decide))⟩

theorem wantSpare (d : Dev) (m : Nat) : Vacated d (wantSpare d m) := by
  have maps : Vacated d { d with jobs.mapReq := liveMaps d m } := ⟨⟨_, rfl⟩, rfl, rfl, fun _ => .refl _ d⟩
  exact maps.trans (.of_calm (wantSpare_calm d m))

theorem vacate (d : Dev) (i : Nat) : Vacated d (vacate d i) := by
  unfold Machine.vacate
  split
  · exact (setMap d i false _).trans (wantSpare _ _)
  · exact refl d

end Vacated

theorem coreFenced_spec (d : Dev) (i cause : Nat) :
    Fenced i d (coreFenced d i cause) ∧ i ∈ (coreFenced d i cause).jobs.quarantined ∧
      liveN (coreFenced d i cause) .core i 0x108 = (liveN d .core i 0x108 + 1) % 65536 := by
  let x : Dev := { setLiveN d .core i 0x108 ((liveN d .core i 0x108 + 1) % 65536) with jobs.quarantined := d.jobs.quarantined ++ [i] }
  have counted : Vacated x (count x .mere (i / 264) 0x20C 1) :=
    ⟨⟨_, rfl⟩, rfl, rfl, fun _ => sameAt_setLive _ _ (regA_ne_of_off (by decide) (by decide) (by decide))⟩
  have after : Vacated x (coreFenced d i cause) :=
    counted.trans (.of_calm ((Calm.of_marks ((Marks.refl _ _).logEvent ..)).fenceContexts i))
  obtain ⟨mem, dead, quarantined, epochs⟩ := after
  refine ⟨⟨mem, dead, fun j hj => ?_, fun j ne => ?_⟩, ?_, ?_⟩
  · rw [quarantined]
    exact List.mem_append_left _ hj
  · exact (sameAt_setLive d _ fun eq => ne (regA_core_inj eq).symm).trans (epochs j)
  · rw [quarantined]
    exact List.mem_append_right _ (.head _)
  · rw [liveN, (epochs i).live]
    exact liveN_setLiveN_self _ _ _ _ (by omega)

/-- A core that is not quarantined and whose epoch has a majority is declared dead. -/
theorem declareCore_spec {d : Dev} {i : Nat} (cause : Nat) (spare : Bool) (alive : isQuarantined d i = false)
    (major : noMajority d (regA .core i 0x108) = false) :
    Fenced i d (declareCore d i cause spare) ∧ i ∈ (declareCore d i cause spare).jobs.quarantined ∧
      liveN (declareCore d i cause spare) .core i 0x108 = (liveN d .core i 0x108 + 1) % 65536 := by
  obtain ⟨⟨⟨p, mem⟩, dead, quarantined, others⟩, own, epoch⟩ := coreFenced_spec d i cause
  have last : Vacated (coreFenced d i cause) (declareCore d i cause spare) := by
    rw [declareCore_eq cause spare alive major]
    split
    · exact (Vacated.vacate _ i).trans (.of_calm (.of_marks (spareOut_marks ..)))
    · split
      · exact .setMap ..
      · exact .refl _
  obtain ⟨⟨p', mem'⟩, dead', quarantined', epochs'⟩ := last
  refine ⟨⟨⟨p', by rw [mem', mem]⟩, dead'.trans dead, fun j hj => quarantined' ▸ quarantined j hj, fun j ne => (others j ne).trans (epochs' j)⟩,
    quarantined' ▸ own, ?_⟩
  rw [liveN, (epochs' i).live]
  exact epoch

theorem declareCore_again {d : Dev} {i : Nat} (cause : Nat) (spare : Bool) (h : isQuarantined d i = true) : declareCore d i cause spare = d :=
  if_pos (.inl h)

theorem isQuarantined_iff {d : Dev} {i : Nat} : isQuarantined d i = true ↔ i ∈ d.jobs.quarantined := by
  rw [isQuarantined, List.contains_iff_mem]

/-- Every core of a list is quarantined once each has been declared. -/
theorem quarantined_foldl_declareCore (is : List Nat) (d : Dev) (major : ∀ i ∈ is, isQuarantined d i = false → noMajority d (regA .core i 0x108) = false) :
    (is.foldl (fun d i => declareCore d i 1 false) d).jobs.deadMeres = d.jobs.deadMeres ∧
      (∀ j, j ∈ d.jobs.quarantined → j ∈ (is.foldl (fun d i => declareCore d i 1 false) d).jobs.quarantined) ∧
      ∀ i ∈ is, i ∈ (is.foldl (fun d i => declareCore d i 1 false) d).jobs.quarantined := by
  induction is generalizing d with
  | nil => exact ⟨rfl, fun _ h => h, fun i h => nomatch h⟩
  | cons i is ih =>
    have step : (declareCore d i 1 false).jobs.deadMeres = d.jobs.deadMeres ∧ (∀ j, j ∈ d.jobs.quarantined → j ∈ (declareCore d i 1 false).jobs.quarantined) ∧
        i ∈ (declareCore d i 1 false).jobs.quarantined ∧ ∀ j, j ≠ i → SameAt (regA .core j 0x108) d (declareCore d i 1 false) := by
      cases q : isQuarantined d i
      · obtain ⟨⟨-, dead, kept, others⟩, own, -⟩ := declareCore_spec 1 false q (major i (.head _) q)
        exact ⟨dead, kept, own, others⟩
      · rw [declareCore_again 1 false q]
        exact ⟨rfl, fun _ h => h, isQuarantined_iff.1 q, fun j _ => .refl _ d⟩
    obtain ⟨dead, kept, own, others⟩ := step
    obtain ⟨dead', kept', all⟩ := ih (declareCore d i 1 false) fun j hj q => by
      have alive : ¬ j ∈ (declareCore d i 1 false).jobs.quarantined := fun h => by simp [isQuarantined_iff.2 h] at q
      rw [(others j fun eq => alive (eq ▸ own)).noMajority]
      exact major j (.tail _ hj) (by rw [← Bool.not_eq_true, isQuarantined_iff]; exact fun h => alive (kept j h))
    refine ⟨dead'.trans dead, fun j hj => kept' j (kept j hj), fun j hj => ?_⟩
    rcases List.mem_cons.1 hj with rfl | hj
    · exact kept' _ own
    · exact all j hj

/-! ### Heartbeats (R350, R406) -/

theorem hbCounts_iff {d : Dev} {m core : Nat} (lt : m < 4) (le : core ≤ 264) :
    hbCounts d m core = true ↔ domState d m = 0 ∧ d.power.relock.contains m = false ∧ (core < 264 → isQuarantined d (264 * m + core) = false) := by
  simp only [hbCounts, Bool.and_eq_true, decide_eq_true_eq, Bool.not_eq_true', Bool.and_eq_false_iff, decide_eq_false_iff_not]
  tauto

/-- What a heartbeat's loss reports. -/
def hbReported (d : Dev) (m core : Nat) : Dev :=
  let unit := if core = 264 then 0x1FF else core
  let d' := count (setStat d .sync m 0 0 noTag (BitVec.ofNat 32 unit) 0) .sync m 0x128 (hbMiss d m - missedRow d m core)
  logEvent (setMissed d' m core 0) 0xB (if core = 264 then pageNo .mere m else pageNo .core (264 * m + core)) 0xFF noTag unit (hbMiss d m)

theorem hbLostOp_counted {d : Dev} {m core : Nat} (h : hbCounts d m core = true) :
    hbLostOp d m core = if core = 264 then hbReported d m core else declareCore (hbReported d m core) (264 * m + core) 1 := by
  have missed : missedRow (setStat d .sync m 0 0 noTag (BitVec.ofNat 32 (if core = 264 then 0x1FF else core)) 0) m core = missedRow d m core := by
    obtain ⟨r, q, p, w, eq⟩ := setStat_eq d .sync m 0 0 noTag (BitVec.ofNat 32 (if core = 264 then 0x1FF else core)) 0
    rw [missedRow, eq]
    rfl
  rw [hbLostOp, if_neg (by simp [h])]
  dsimp only
  rfl

theorem hbLostOp_uncounted {d : Dev} {m core : Nat} (h : hbCounts d m core = false) : hbLostOp d m core = d := if_pos (by simp [h])

/-- A lost heartbeat's status, count and report, but for the core's count of missed periods. -/
theorem hbReported_marks (d : Dev) (m core : Nat) :
    Marks calmOffs { d with jobs := (hbReported d m core).jobs } (hbReported d m core) ∧
      (hbReported d m core).jobs = { d.jobs with missed := (hbReported d m core).jobs.missed } ∧
      bitOf (liveN (hbReported d m core) .sync m 0x20) 0 = true := by
  unfold hbReported
  dsimp only
  generalize (if core = 264 then 0x1FF else core) = unit
  generalize hx : setStat d .sync m 0 0 noTag (BitVec.ofNat 32 unit) 0 = x
  generalize hy : count x .sync m 0x128 (hbMiss d m - missedRow d m core) = y
  generalize hz : setMissed y m core 0 = z
  have stat : bitOf (liveN x .sync m 0x20) 0 = true := by rw [← hx, statBit_setStat _ _ _ _ _ _ _ (by decide)]
  have status : Marks calmOffs d x := hx ▸ (Marks.refl _ d).setStat ..
  have counted : Marks calmOffs x y := hy ▸ (Marks.refl _ x).count .sync m (off := 0x128) _
  have again : Marks calmOffs z (logEvent z 0xB (if core = 264 then pageNo .mere m else pageNo .core (264 * m + core)) 0xFF noTag unit (hbMiss d m)) :=
    (Marks.refl _ z).logEvent ..
  have jobs : (logEvent z 0xB (if core = 264 then pageNo .mere m else pageNo .core (264 * m + core)) 0xFF noTag unit (hbMiss d m)).jobs = z.jobs := again.jobs
  have both := status.trans counted
  have kept : z.jobs = { d.jobs with missed := z.jobs.missed } := by rw [← hz, setMissed, both.jobs]
  have row : Marks calmOffs { d with jobs := z.jobs } z := by
    obtain ⟨⟨r, q, p, w, l, eq⟩, same, stats⟩ := both
    have regs : z.regs = y.regs := by rw [← hz]; rfl
    refine ⟨⟨r, q, p, w, l, ?_⟩, fun a ha => ?_, fun k i b set => ?_⟩
    · rw [← hz, setMissed, eq]
    · exact ((sameAt_of_regs rfl a).trans (same a ha)).trans (sameAt_of_regs regs a)
    · have := stats k i b set
      rwa [liveN, live_congr regs]
  refine ⟨by rw [jobs]; exact row.trans again, by rw [jobs]; exact kept, again.stats .sync m 0 ?_⟩
  have regs : z.regs = y.regs := by rw [← hz]; rfl
  rw [liveN, live_congr regs]
  exact counted.stats .sync m 0 stat

end Sys2Proof.Machine

namespace Sys2Proof.Proofs

open Sys2Proof.Machine Sys2Proof.Claims

/-! ### O38: the error log -/

theorem errlogRecord_loses {s : State} {e : LogEvent} {rest : List LogEvent} (held : s.dev.log.events = e :: rest) (runs : fwpRuns s.dev 4 = true)
    (on : logEnabled s.dev = true) (size : logSize s.dev ≠ 0) (full : (logTail s.dev + 1) % logSize s.dev = logHead s.dev) :
    ∃ t, exec .errlogRecord s = .next t ∧ Aside s t ∧ t.dev.log.events = rest ∧ t.dev.log.lost = true ∧ stat t .errlog 0 1 = true ∧
      live t.dev (regA .errlog 0 0x10C) = live s.dev (regA .errlog 0 0x10C) + 1 ∧ t.dev.mem = s.dev.mem := by
  have op : errlogRecordOp s.dev = recordLost s.dev rest := (errlogRecordOp_takes held runs on size).trans (if_pos full)
  obtain ⟨r, q, p, w, eq⟩ := setStat_eq { count { s.dev with log.events := rest } .errlog 0 0x10C 1 with log.lost := true } .errlog 0 1 0 noTag 0 0
  refine ⟨_, congrArg (ok s) op, ⟨rfl, rfl, rfl⟩, ?_, ?_, ?_, ?_, ?_⟩
  · exact congrArg (·.log.events) eq
  · exact congrArg (·.log.lost) eq
  · exact statBit_setStat _ _ _ _ _ _ _ (by decide)
  · change live (recordLost s.dev rest) _ = _
    rw [recordLost, live_setStat_ne _ _ _ _ _ _ _ _ (by decide)]
    exact (live_congr (d := count { s.dev with log.events := rest } .errlog 0 0x10C 1) rfl _).trans (by rw [live_count, if_pos rfl]; rfl)
  · exact congrArg (·.mem) eq

theorem errlogRecord_writes {s : State} {e : LogEvent} {rest : List LogEvent} (held : s.dev.log.events = e :: rest) (runs : fwpRuns s.dev 4 = true)
    (on : logEnabled s.dev = true) (size : logSize s.dev ≠ 0) (room : (logTail s.dev + 1) % logSize s.dev ≠ logHead s.dev) :
    ∃ t, exec .errlogRecord s = .next t ∧ Aside s t ∧ t.dev.log.events = rest ∧ t.dev.log.lost = false ∧ stat t .errlog 0 0 = true ∧
      reg t .errlog 0 0x108 % 65536 = (logTail s.dev + 1) % logSize s.dev ∧
      shoreRead t.dev 0 (reg s .errlog 0 0x100 % 1024) (64 * logTail s.dev) 64 =
        recordBytes e ((reg s .errlog 0 0x118 + 1) % 2 ^ 32) s.dev.log.lost (logPhase s.dev) ∧
      t.dev.mem.hbm = s.dev.mem.hbm ∧ t.dev.reqs = s.dev.reqs := by
  have op : errlogRecordOp s.dev = setStat (recordWritten { s.dev with log.events := rest } e ((reg s .errlog 0 0x118 + 1) % 2 ^ 32)) .errlog 0 0 :=
    (errlogRecordOp_takes held runs on size).trans (if_neg room)
  generalize (reg s .errlog 0 0x118 + 1) % 2 ^ 32 = seq at op ⊢
  let d : Dev := { s.dev with log.events := rest }
  have tail : liveN (recordWritten d e seq) .errlog 0 0x108 % 65536 = nextTail d := liveN_recordWritten d e seq size
  have bytes : shoreRead (recordWritten d e seq) 0 (reg s .errlog 0 0x100 % 1024) (64 * logTail s.dev) 64 =
      recordBytes e seq s.dev.log.lost (logPhase s.dev) := by
    have ring : liveN d .errlog 0 0x100 = reg s .errlog 0 0x100 := rfl
    have tail : logTail d = logTail s.dev := rfl
    have phase : logPhase d = logPhase s.dev := rfl
    rw [← ring, ← tail, ← phase, shoreRead_recordWritten d e seq]
  have marks : Marks statOffs (recordWritten d e seq) (setStat (recordWritten d e seq) .errlog 0 0) := (Marks.refl _ _).setStat ..
  obtain ⟨r, q, p, w, eq⟩ := setStat_eq (recordWritten d e seq) .errlog 0 0 0 noTag 0 0
  obtain ⟨log, hbm, reqs⟩ := recordWritten_frame d e seq
  have left : (setStat (recordWritten d e seq) .errlog 0 0).log = (recordWritten d e seq).log := by rw [eq]
  refine ⟨_, congrArg (ok s) op, ⟨rfl, rfl, rfl⟩, ?_, ?_, ?_, ?_, ?_, ?_, marks.reqs.trans reqs⟩
  · exact congrArg ErrLog.events (left.trans log)
  · exact congrArg ErrLog.lost (left.trans log)
  · exact statBit_setStat _ _ _ _ _ _ _ (by decide)
  · exact (congrArg (· % 65536) (marks.wordN .errlog 0)).trans tail
  · exact (shoreRead_congr marks.mem ..).trans bytes
  · exact (congrArg Memories.hbm marks.mem).trans hbm

/-- Settles O38, by the cases of a record's write and of an interval's end. -/
theorem errorLog : Obligations.ErrorLog := by
  unfold Obligations.ErrorLog
  refine ⟨fun s => ⟨fun idle => congrArg (ok s) (errlogRecordOp_idle idle), fun e rest held runs on size =>
    ⟨errlogRecord_loses held runs on size, errlogRecord_writes held runs on size⟩⟩, fun s c found => ⟨fun none => ?_, fun some runs on => ?_⟩⟩
  · refine ⟨_, congrArg (ok s) ((ceMsOp_of_find found).trans (if_pos none)), ⟨rfl, rfl, rfl⟩, fun x hx => ?_, rfl, rfl⟩
    have other := (List.mem_filter.1 hx).2
    rintro ⟨kind, source⟩
    simp [kind, source] at other
  · refine ⟨_, congrArg (ok s) ((ceMsOp_of_find found).trans ((if_neg some).trans (holdEvent_held _ runs on))), ⟨rfl, rfl, rfl⟩, rfl, rfl, rfl⟩

/-! ### O39: fencing and stale messages -/

theorem core_lt_div {m core : Nat} (lt : core < 264) : (264 * m + core) / 264 = m := by omega

theorem hbLost_declares {s : State} {m core : Nat} (lt : m < 4) (core_lt : core < 264) (alive : isQuarantined s.dev (264 * m + core) = false)
    (major : noMajority s.dev (regA .core (264 * m + core) 0x108) = false) (awake : domState s.dev m = 0) (clock : s.dev.power.relock.contains m = false) :
    ∃ t, exec (.hbLost m core) s = .next t ∧ Aside s t ∧ isQuarantined t.dev (264 * m + core) = true ∧
      reg t .core (264 * m + core) 0x108 = (reg s .core (264 * m + core) 0x108 + 1) % 65536 ∧ t.dev.mem.hbm = s.dev.mem.hbm := by
  have counts := (hbCounts_iff (d := s.dev) lt (Nat.le_of_lt core_lt)).2 ⟨awake, clock, fun _ => alive⟩
  have op := (hbLostOp_counted counts).trans (if_neg (by omega))
  obtain ⟨marks, jobs, -⟩ := hbReported_marks s.dev m core
  have same : SameAt (regA .core (264 * m + core) 0x108) s.dev (hbReported s.dev m core) :=
    (sameAt_of_regs (e := { s.dev with jobs := (hbReported s.dev m core).jobs }) rfl _).trans (marks.same _ (by rw [regA_off _ _ _ (by decide)]; decide))
  have alive' : isQuarantined (hbReported s.dev m core) (264 * m + core) = false := by rw [isQuarantined, jobs]; exact alive
  obtain ⟨⟨⟨p, mem⟩, -, -, -⟩, own, epoch⟩ := declareCore_spec 1 true alive' (same.noMajority.trans major)
  refine ⟨_, congrArg (ok s) op, ⟨rfl, rfl, rfl⟩, isQuarantined_iff.2 own, ?_, ?_⟩
  · exact epoch.trans (by rw [liveN, same.live]; rfl)
  · exact (congrArg Memories.hbm mem).trans (show (hbReported s.dev m core).mem.hbm = s.dev.mem.hbm from congrArg Memories.hbm marks.mem)

theorem hbLost_standing {s : State} {m core : Nat} (lt : m < 4) (le : core ≤ 264) (still : domState s.dev m ≠ 0 ∨ s.dev.power.relock.contains m = true) :
    exec (.hbLost m core) s = .next s := by
  have none : hbCounts s.dev m core = false := by
    rw [← Bool.not_eq_true, hbCounts_iff lt le]
    rintro ⟨awake, clock, -⟩
    rcases still with h | h
    · exact h awake
    · exact absurd (clock.symm.trans h) (by decide)
  exact congrArg (ok s) (hbLostOp_uncounted none)

theorem hbLost_quarantined {s : State} {m core : Nat} (lt : m < 4) (core_lt : core < 264) (q : isQuarantined s.dev (264 * m + core) = true) :
    exec (.hbLost m core) s = .next s := by
  have none : hbCounts s.dev m core = false := by
    rw [← Bool.not_eq_true, hbCounts_iff lt (Nat.le_of_lt core_lt)]
    rintro ⟨-, -, h⟩
    simp [h core_lt] at q
  exact congrArg (ok s) (hbLostOp_uncounted none)

theorem hbLost_sequencer {s : State} {m : Nat} (lt : m < 4) (awake : domState s.dev m = 0) (clock : s.dev.power.relock.contains m = false) :
    ∃ t, exec (.hbLost m 264) s = .next t ∧ Aside s t ∧ t.dev.jobs = { s.dev.jobs with missed := t.dev.jobs.missed } ∧ stat t .sync m 0 = true := by
  have counts := (hbCounts_iff (d := s.dev) (core := 264) lt (by decide)).2 ⟨awake, clock, fun h => absurd h (by decide)⟩
  obtain ⟨-, jobs, status⟩ := hbReported_marks s.dev m 264
  exact ⟨_, congrArg (ok s) ((hbLostOp_counted counts).trans (if_pos rfl)), ⟨rfl, rfl, rfl⟩, jobs, status⟩

theorem stopTimeout_declares {s : State} {m core : Nat} (lt : m < 4) (core_lt : core < 264) (alive : isQuarantined s.dev (264 * m + core) = false)
    (major : noMajority s.dev (regA .core (264 * m + core) 0x108) = false)
    (saving : ∃ c ∈ s.dev.jobs.ctxs, c.phase = .saving ∧ 264 * m + core ∈ c.place) :
    ∃ t, exec (.preemptStopTimeout m core) s = .next t ∧ Aside s t ∧ isQuarantined t.dev (264 * m + core) = true ∧
      reg t .core (264 * m + core) 0x108 = (reg s .core (264 * m + core) 0x108 + 1) % 65536 := by
  obtain ⟨c, mem, phase, place⟩ := saving
  have due : s.dev.jobs.ctxs.any (fun c => decide (c.phase = .saving) && c.place.contains (264 * m + core)) = true :=
    List.any_eq_true.2 ⟨c, mem, by simp [phase, place]⟩
  obtain ⟨-, own, epoch⟩ := declareCore_spec 2 true alive major
  exact ⟨_, congrArg (ok s) (if_pos ⟨lt, core_lt, due⟩), ⟨rfl, rfl, rfl⟩, isQuarantined_iff.2 own, epoch⟩

theorem mem_coresOn {m k : Nat} (lt : k < 264) : 264 * m + k ∈ coresOn m := List.mem_map.2 ⟨k, List.mem_range.2 lt, Nat.add_comm ..⟩

/-- The loss of a mere's heartbeat, reported. -/
def mereReported (d : Dev) (m : Nat) : Dev :=
  logEvent { d with jobs.deadMeres := d.jobs.deadMeres ++ [m] } 0xB (pageNo .mere m) 0xFF noTag 0x1FF (hbMiss d m)

theorem mereLoss_declares {s : State} {m : Nat} (lt : m < 4) (alive : m ∉ s.dev.jobs.deadMeres)
    (major : ∀ k, k < 264 → noMajority s.dev (regA .core (264 * m + k) 0x108) = false) :
    ∃ t, exec (.mereHeartbeatLoss m) s = .next t ∧ Aside s t ∧ m ∈ t.dev.jobs.deadMeres ∧ ∀ k, k < 264 → isQuarantined t.dev (264 * m + k) = true := by
  let d := mereReported s.dev m
  have op : mereLossOp s.dev m = spareOut d ((coresOn m).foldl (fun d i => declareCore d i 1 false) d) (264 * m) :=
    if_neg (by simp [alive, lt])
  have marks : Marks calmOffs { s.dev with jobs.deadMeres := s.dev.jobs.deadMeres ++ [m] } d := (Marks.refl _ _).logEvent ..
  have same (j : Nat) : SameAt (regA .core j 0x108) s.dev d :=
    (sameAt_of_regs (e := { s.dev with jobs.deadMeres := s.dev.jobs.deadMeres ++ [m] }) rfl _).trans
      (marks.same _ (by rw [regA_off _ _ _ (by decide)]; decide))
  obtain ⟨dead, -, all⟩ := quarantined_foldl_declareCore (coresOn m) d fun i hi _ => by
    obtain ⟨k, hk, rfl⟩ := List.mem_map.1 hi
    rw [(same _).noMajority, Nat.add_comm]
    exact major k (List.mem_range.1 hk)
  have jobs := (spareOut_marks d ((coresOn m).foldl (fun d i => declareCore d i 1 false) d) (264 * m)).jobs
  refine ⟨_, congrArg (ok s) op, ⟨rfl, rfl, rfl⟩, ?_, fun k hk => isQuarantined_iff.2 ?_⟩
  · rw [jobs, dead, marks.jobs]
    exact List.mem_append_right _ (.head _)
  · rw [jobs]
    exact all _ (mem_coresOn hk)

/-- What a discarded message leaves. -/
theorem discarded_spec (d : Dev) (m source loc ep : Nat) :
    let e := logEvent (count d .mere m 0x210 1) 0xD source 0xFF noTag loc ep
    live e (regA .mere m 0x210) = live d (regA .mere m 0x210) + 1 ∧ e.mem = d.mem ∧ e.reqs = d.reqs ∧ e.jobs = d.jobs := by
  have marks : Marks calmOffs (count d .mere m 0x210 1) (logEvent (count d .mere m 0x210 1) 0xD source 0xFF noTag loc ep) := (Marks.refl _ _).logEvent ..
  refine ⟨?_, marks.mem, marks.reqs, marks.jobs⟩
  rw [marks.word .mere m, live_count, if_pos rfl]
  rfl

/-- Settles O39, by the declaration of a core and what its steps leave of the others. -/
theorem fencingAndStaleness : Obligations.FencingAndStaleness := by
  unfold Obligations.FencingAndStaleness
  refine ⟨fun s m core lt core_lt => ⟨hbLost_declares lt core_lt, hbLost_quarantined lt core_lt, hbLost_sequencer lt, fun still =>
    ⟨hbLost_standing lt (Nat.le_refl _) still, hbLost_standing lt (Nat.le_of_lt core_lt) still⟩, stopTimeout_declares lt core_lt, mereLoss_declares lt⟩,
    fun s m core epoch lt core_lt => ⟨fun same => ?_, fun alive awake clock => ?_, fun alive still came => ?_, fun other major => ?_, fun fenced => ?_⟩⟩
  · exact congrArg (ok s) (if_pos (.inr (.inr (.inr same))))
  · have counts := (hbCounts_iff (d := s.dev) lt (Nat.le_of_lt core_lt)).2 ⟨awake, clock, fun _ => alive⟩
    have op (came : Bool) : heartbeatOp s.dev m core came = if came then setMissed s.dev m core 0
        else setMissed (count s.dev .sync m 0x128 1) m core (missedRow s.dev m core + 1) :=
      (if_neg (by simp [alive])).trans (if_neg (by simp [counts]))
    exact ⟨congrArg (ok s) (op true), congrArg (ok s) (op false)⟩
  · have none : hbCounts s.dev m core = false := by
      rw [← Bool.not_eq_true, hbCounts_iff lt (Nat.le_of_lt core_lt)]
      rintro ⟨awake, clock, -⟩
      rcases still with h | h
      · exact h awake
      · exact absurd (clock.symm.trans h) (by decide)
    exact congrArg (ok s) ((if_neg (by simp [alive])).trans (if_pos (by simp [none])))
  · refine ⟨_, congrArg (ok s) (if_neg ?_), ⟨rfl, rfl, rfl⟩, discarded_spec s.dev m _ _ _⟩
    rintro (h | h | h | h)
    · omega
    · omega
    · simp [major] at h
    · exact other h
  · have op : heartbeatOp s.dev m core true = staleCore s.dev (264 * m + core) := if_pos ⟨rfl, lt, core_lt, fenced⟩
    rw [staleCore, core_lt_div core_lt] at op
    exact ⟨_, congrArg (ok s) op, ⟨rfl, rfl, rfl⟩, discarded_spec s.dev m _ _ _⟩

/-! ### O40: spares and readmission -/

theorem mereMapOp_asks {d : Dev} {m core grid : Nat} {v : W32} (lt : m < 4) (core_lt : core < 264) (go : v.getLsbD 31 = true)
    (hc : v.toNat % 512 = core) (hg : bitsOf v.toNat 23 16 = grid) :
    mereMapOp d 0 m v = if 264 * m + core ∈ freeSpares d m ∧ grid ∈ unmapped d m
      then wantSpare { d with jobs.mapReq := d.jobs.mapReq ++ [(264 * m + core, grid)] } m else setStat d .mere m 2 0 noTag 0 0 := by
  subst hc hg
  rw [mereMapOp, if_neg (by simp [bitOf_toNat, go]; omega)]
  simp only [core_lt, true_and, List.contains_iff_mem]

theorem wantSpare_mapReq {d : Dev} {m i grid : Nat} (only : d.jobs.mapReq = [(i, grid)]) (free : i ∈ freeSpares d m) (gone : grid ∈ unmapped d m) :
    (wantSpare d m).jobs.mapReq = [(i, grid)] := by
  obtain ⟨c, sp, jobs⟩ := (wantSpare_calm d m).jobs
  rw [jobs]
  simp [liveMaps, only, free, gone]

theorem isMapped_of_word {d : Dev} {i grid : Nat} (lt : grid < 256) (h : liveN d .core i 0x104 = 2 ^ 31 + grid) :
    isMapped d i = true ∧ gridOf d i = grid := by
  constructor
  · rw [isMapped, coreMap, h, bitOf, Nat.testBit_two_pow_add_eq, Nat.testBit_lt_two_pow (Nat.lt_trans lt (by decide))]
    rfl
  · rw [gridOf, coreMap, h]
    omega

/-- A spare's mapping. -/
def spareMapped (d : Dev) (m i grid : Nat) : Dev :=
  let d := setMap d i true grid
  { d with jobs.mapReq := d.jobs.mapReq.filter (fun r => !decide (r.1 = i ∨ (r.1 / 264 = m ∧ r.2 = grid))) }

theorem spared_maps {s : State} {m core grid : Nat} (lt : m < 4) (core_lt : core < 264) (grid_lt : grid < 256)
    (asked : (264 * m + core, grid) ∈ s.dev.jobs.mapReq) (free : 264 * m + core ∈ freeSpares s.dev m) (gone : grid ∈ unmapped s.dev m)
    (runs : fwpRuns s.dev 4 = true) (empty : mereEmpty s.dev m = true) :
    ∃ t, exec (.spared m core grid) s = .next t ∧ Aside s t ∧ isMapped t.dev (264 * m + core) = true ∧
      gridOf t.dev (264 * m + core) = grid ∧ (264 * m + core, grid) ∉ t.dev.jobs.mapReq ∧ t.dev.jobs.ctxs = s.dev.jobs.ctxs := by
  let d := spareMapped s.dev m (264 * m + core) grid
  let e := logEvent d 0xE (pageNo .mere m) 0xFF noTag grid core
  have op : sparedOp s.dev m core grid = spareOut s.dev e (264 * m + core) := by
    rw [sparedOp, if_neg, if_neg (by simp [empty])]
    · rfl
    · simp [runs, asked, free, gone]
      omega
  have marks : Marks calmOffs d (spareOut s.dev e (264 * m + core)) := ((Marks.refl _ d).logEvent ..).trans (spareOut_marks ..)
  have word : liveN d .core (264 * m + core) 0x104 = 2 ^ 31 + grid := by
    have set : liveN d .core (264 * m + core) 0x104 = 2 ^ 31 + grid % 256 :=
      liveN_setLiveN_self _ _ _ _ (by rw [if_pos rfl]; omega)
    rw [set, Nat.mod_eq_of_lt grid_lt]
  obtain ⟨mapped, at'⟩ := isMapped_of_word grid_lt ((marks.wordN .core (264 * m + core)).trans word)
  refine ⟨_, congrArg (ok s) op, ⟨rfl, rfl, rfl⟩, mapped, at', ?_, ?_⟩
  · change _ ∉ (spareOut s.dev e (264 * m + core)).jobs.mapReq
    rw [marks.jobs]
    exact fun h => by simpa using (List.mem_filter.1 h).2
  · change (spareOut s.dev e (264 * m + core)).jobs.ctxs = _
    rw [marks.jobs]
    rfl

theorem mereReadmit_returns {s : State} {m core : Nat} {v : W32} (lt : m < 4) (core_lt : core < 264) (lands : LandsOn s 0 .mere m 0x204)
    (go : v.getLsbD 31 = true) (hc : v.toNat % 512 = core) (fenced : isQuarantined s.dev (264 * m + core) = true)
    (was : 264 * m + core ∈ s.dev.jobs.coreReset) (alive : m ∉ s.dev.jobs.deadMeres) :
    ∃ t, exec (.mereReadmit 0 m v) s = .next t ∧ Aside s t ∧ isQuarantined t.dev (264 * m + core) = false ∧
      reg t .core (264 * m + core) 0x108 = reg s .core (264 * m + core) 0x108 := by
  subst hc
  let i := 264 * m + v.toNat % 512
  let d : Dev := { s.dev with jobs.quarantined := s.dev.jobs.quarantined.filter (fun j => !decide (j = i)),
                              jobs.coreReset := s.dev.jobs.coreReset.filter (fun j => !decide (j = i)) }
  let e := logEvent d 0xF (pageNo .core i) 0xFF noTag (i % 264) 0 (liveN d .core i 0x108)
  have op : mereReadmitOp s.dev m v = wantSpare e m := if_neg (by
    simp [bitOf_toNat, go, fenced, was, alive]
    omega)
  have marks : Marks calmOffs d e := (Marks.refl _ d).logEvent ..
  obtain ⟨-, -, quarantined, epochs⟩ := Vacated.wantSpare e m
  refine ⟨on s (wantSpare e m), ?_, ⟨rfl, rfl, rfl⟩, ?_, ?_⟩
  · exact (if_pos (decide_eq_true lt)).trans (put_act (by decide) lands (congrArg some (congrArg (on s) op)))
  · rw [isQuarantined, quarantined, marks.jobs]
    simp [d, i]
  · exact congrArg BitVec.toNat ((epochs i).live.trans (marks.word .core i))

/-- A core's registers of a context are those of a core just reset, where it holds the core. -/
theorem coreAt_reset {cs : List CoreSt} {ps : List Nat} {i j : Nat} (at' : ps[j]? = some i) (lt : j < cs.length) :
    ((cs.zip ps).map (fun x => if x.2 = i then freshCore 0 else x.1))[j]? = some (freshCore 0) := by
  obtain ⟨hj, rfl⟩ := List.getElem?_eq_some_iff.1 at'
  rw [List.getElem?_map, (List.getElem?_zip_eq_some (z := (cs[j], ps[j]))).2 ⟨List.getElem?_eq_getElem lt, List.getElem?_eq_getElem hj⟩]
  simp

theorem rstCore_resets {s : State} {m core : Nat} {v : W32} (core_lt : core < 264) (lands : LandsOn s 0 .rst 0 0x110) (go : v.getLsbD 31 = true)
    (hm : bitsOf v.toNat 10 9 = m) (hc : v.toNat % 512 = core) :
    ∃ t, exec (.rstCore 0 v) s = .next t ∧ Aside s t ∧ (isQuarantined s.dev (264 * m + core) = true → 264 * m + core ∈ t.dev.jobs.coreReset) ∧
      (∀ c ∈ t.dev.jobs.ctxs, holding c = true → ∀ j, j < c.place.length → c.place[j]? = some (264 * m + core) → j < c.cores.length →
        coreAt c j = some (freshCore 0)) ∧ t.dev.regs = s.dev.regs ∧ t.dev.mem = s.dev.mem := by
  subst hm hc
  refine ⟨on s (rstCoreOp s.dev v), put_act (by decide) lands rfl, ⟨rfl, rfl, rfl⟩, ?_⟩
  rw [rstCoreOp, if_neg (by simp [bitOf_toNat, go]; omega)]
  refine ⟨fun fenced => ?_, fun c mem holds j _ at' lt => ?_, rfl, rfl⟩
  · dsimp only
    split
    · exact List.mem_append_right _ (.head _)
    · rename_i h
      simpa [fenced] using h
  · obtain ⟨x, -, eq⟩ := List.mem_map.1 mem
    split at eq
    · subst eq
      have len : j < x.cores.length := by
        simp only [List.length_map, List.length_zip] at lt
        omega
      exact coreAt_reset at' len
    · rename_i idle
      exact absurd (eq ▸ holds) idle

/-- Settles O40, by the guards of each command. -/
theorem sparesAndReadmission : Obligations.SparesAndReadmission := by
  unfold Obligations.SparesAndReadmission
  intro s m core grid lt core_lt grid_lt
  refine ⟨fun v lands go hc hg => ⟨fun free gone none => ?_, fun not => ?_⟩, spared_maps lt core_lt grid_lt, fun v => mereReadmit_returns lt core_lt,
    fun v => rstCore_resets core_lt⟩
  · have op := (mereMapOp_asks (d := s.dev) lt core_lt go hc hg).trans (if_pos ⟨free, gone⟩)
    refine ⟨_, (if_pos (decide_eq_true lt)).trans (put_act (by decide) lands (congrArg some (congrArg (on s) op))), ⟨rfl, rfl, rfl⟩, ?_⟩
    exact wantSpare_mapReq (by rw [none]; rfl) free gone
  · have op := (mereMapOp_asks (d := s.dev) lt core_lt go hc hg).trans (if_neg (by tauto))
    exact (if_pos (decide_eq_true lt)).trans (put_act (by decide) lands (congrArg some (congrArg (on s) op)))

end Sys2Proof.Proofs

/-! SUPPORT. The pool ports, and the ports of the Ndelar links with their peers. -/

namespace Sys2Proof.Machine

open Sys2Proof.Claims

/-! ### A wake leaves what is not of power -/

theorem wakeNow_frame (d : Dev) (dom st : Nat) :
    (wakeNow d dom st).links = d.links ∧ (wakeNow d dom st).power.cxlReleased = d.power.cxlReleased := by
  rcases wakeNow_cases d dom st with e | e | e | e <;> rw [e]
  · exact ⟨rfl, rfl⟩
  · obtain ⟨r, q, p, w, eq⟩ := setStat_eq { d with
      power := { d.power with s3 := d.power.s3.filter (fun m => !decide (m = dom)), resuming := d.power.resuming ++ [(dom, 0)] } } .pwr 0 1 0 noTag (BitVec.ofNat 32 dom) 0
    rw [eq]
    exact ⟨rfl, rfl⟩
  · exact ⟨rfl, rfl⟩
  · exact ⟨rfl, rfl⟩

theorem wakeDom_frame (d : Dev) (dom st : Nat) :
    (wakeDom d dom st).links = d.links ∧ (wakeDom d dom st).power.cxlReleased = d.power.cxlReleased := by
  rcases wakeDom_cases d dom st with ⟨e, -⟩ | e <;> rw [e]
  · exact ⟨rfl, rfl⟩
  · exact wakeNow_frame d dom st

/-- A register of another page than PWR's reads as before a wake. -/
theorem wakeDom_word (d : Dev) (dom st : Nat) {k : Blk} {i off : Nat} (lt : off < 0x1000) (page : pageNo k i ≠ pageNo .pwr 0) :
    live (wakeDom d dom st) (regA k i off) = live d (regA k i off) := by
  refine (wakeDom_keeps d dom st).words _ fun m => page ?_
  have own : regA k i off / 0x1000 = pageNo .pwr 0 := by
    rcases List.mem_cons.1 m with h | h
    · rw [h, regA_page _ _ _ (by decide)]
    · obtain ⟨o, ho, eq⟩ := List.mem_map.1 h
      rw [← eq, regA_page _ _ _ (by simp only [List.mem_cons, List.not_mem_nil, or_false] at ho; omega)]
  rwa [regA_page _ _ _ lt] at own

theorem wakeDom_wordN (d : Dev) (dom st : Nat) {k : Blk} {i off : Nat} (lt : off < 0x1000 := by decide) (page : pageNo k i ≠ pageNo .pwr 0) :
    liveN (wakeDom d dom st) k i off = liveN d k i off := congrArg BitVec.toNat (wakeDom_word d dom st lt page)

/-! ### Failed pool accesses (R449, R450) -/

/-- The counter of an event. -/
def failReg (event : Nat) : Nat := match event with | 1 => 0x114 | 2 => 0x118 | 5 => 0x120 | _ => 0x11C

/-- The port that an event of an address is reported on. -/
def failPort (d : Dev) (a event : Nat) : Nat := if event = 2 then 0 else poolPort d a

theorem failReg_spec (event : Nat) : failReg event < 0x1000 ∧ failReg event ∉ 0x104 :: statOffs := by
  unfold failReg
  split <;> decide

theorem fabFail_spec (d : Dev) (a event basin : Nat) (tag : W32) :
    Marks (failReg event :: statOffs) d (fabFail d a event basin tag) ∧
      bitOf (liveN (fabFail d a event basin tag) .fab (failPort d a event) 0x20) 1 = true ∧
      live (fabFail d a event basin tag) (regA .fab (failPort d a event) (failReg event)) =
        live d (regA .fab (failPort d a event) (failReg event)) + 1 := by
  obtain ⟨lt, out⟩ := failReg_spec event
  have op : fabFail d a event basin tag = setStat (count d .fab (failPort d a event) (failReg event) 1) .fab (failPort d a event) 1 basin tag
      (BitVec.ofNat 32 (a / 65536)) (BitVec.ofNat 32 event) := rfl
  rw [op]
  refine ⟨((Marks.refl _ d).count _ _ _ (.head _) lt fun eq => out (by rw [eq]; decide)).setStat _ _ _ _ _ _ _ (List.subset_cons_self ..),
    statBit_setStat _ _ _ _ _ _ _ (by decide), ?_⟩
  rw [live_setStat_ne _ _ _ _ _ _ _ _ (regA_not_mem_statRegs lt fun m => out (List.mem_cons_of_mem _ m)), live_count, if_pos rfl]
  rfl

section Failed

variable {offs : List Nat} {d e : Dev} (h : Marks offs d e)

include h

theorem poolSize_marks (map : 0x104 ∉ offs) (q : Nat) : poolSize e q = poolSize d q := by rw [poolSize, poolSize, h.wordN .fab 0 (by decide) map]

theorem interleaved_marks (map : 0x104 ∉ offs) : interleaved e = interleaved d := by rw [interleaved, interleaved, h.wordN .fab 0 (by decide) map]

theorem poolPort_marks (map : 0x104 ∉ offs) (a : Nat) : poolPort e a = poolPort d a := by
  rw [poolPort, poolPort, interleaved_marks h map, poolSize_marks h map]

theorem poolDev_marks (map : 0x104 ∉ offs) (a : Nat) : poolDev e a = poolDev d a := by
  rw [poolDev, poolDev, interleaved_marks h map, poolSize_marks h map, poolPort_marks h map]

theorem translate_marks (lo : 0x110 ∉ offs) (hi : 0x114 ∉ offs) (b a : Nat) : translate e b a = translate d b a := by
  have root : xlatRoot e b = xlatRoot d b := by rw [xlatRoot, xlatRoot, h.wordN .bsn b (by decide) lo, h.wordN .bsn b (by decide) hi]
  have get (x : Nat) : xget e x = xget d x := by rw [xget, xget, h.mem]
  have pois (x : Nat) : poisoned e .hbm x = poisoned d .hbm x := by rw [poisoned, poisoned, h.mem]
  simp only [translate, root, get, pois]

theorem rowAt_marks (lo : 0x110 ∉ offs) (hi : 0x114 ∉ offs) (a : Nat) : rowAt e a = rowAt d a := by
  have ver (u : Nat) : findVer e u = findVer d u := by rw [findVer, findVer, h.txn]
  have hits (b x n : Nat) : hitsPool e b x n a = hitsPool d b x n a := by simp only [hitsPool, translate_marks h lo hi]
  simp only [rowAt, h.eng, ver, hits]

end Failed

/-- The address's access has failed and no request made it. -/
theorem poolHit_none {d : Dev} {slot : Nat} (h : findReq d slot = none) (a : Nat) (pois : Bool) : poolHit d a slot pois = d := by
  rw [poolHit, h]

theorem txnPoolFail_none {s : State} {slot : Nat} (h : findReq s.dev slot = none) (a : Nat) : txnPoolFail s a slot = s := by
  rw [txnPoolFail, h]

/-- A write-back that fails is reported; the row stays as it is, and is held. -/
theorem wbFail_spec (d : Dev) (e : Nat × Nat) (a : Nat) {event : Nat} (ne : event ≠ 2) :
    bitOf (liveN (wbFail d e a event) .fab (poolPort d a) 0x20) 2 = true ∧ (wbFail d e a event).eng.rowCache = d.eng.rowCache ∧
      e ∈ (wbFail d e a event).eng.rowsHeld ∧ (wbFail d e a event).mem = d.mem ∧
      live (wbFail d e a event) (regA .fab (poolPort d a) (failReg event)) = live d (regA .fab (poolPort d a) (failReg event)) + 1 := by
  obtain ⟨marks, -, counted⟩ := fabFail_spec d a event 0 noTag
  have port := poolPort_marks marks (fun m => (failReg_spec event).2 (by
    rcases List.mem_cons.1 m with h | h
    · rw [← h]; exact .head _
    · exact absurd h (by decide))) a
  rw [failPort, if_neg ne] at counted
  have status : Marks (failReg event :: statOffs) (fabFail d a event) (setStat (fabFail d a event) .fab (poolPort d a) 2 0 noTag
      (BitVec.ofNat 32 (a / 65536)) (BitVec.ofNat 32 event)) := (Marks.refl _ _).setStat _ _ _ _ _ _ _ (List.subset_cons_self ..)
  have op : wbFail d e a event = { setStat (fabFail d a event) .fab (poolPort d a) 2 0 noTag (BitVec.ofNat 32 (a / 65536)) (BitVec.ofNat 32 event) with
      eng.rowsHeld := if d.eng.rowsHeld.contains e then d.eng.rowsHeld else d.eng.rowsHeld ++ [e] } := by
    rw [wbFail, port]
    simp only [status.eng, marks.eng]
  rw [op]
  refine ⟨statBit_setStat _ _ _ _ _ _ _ (by decide), ?_, ?_, status.mem.trans marks.mem, ?_⟩
  · have cache : (setStat (fabFail d a event) .fab (poolPort d a) 2 0 noTag (BitVec.ofNat 32 (a / 65536)) (BitVec.ofNat 32 event)).eng.rowCache =
        d.eng.rowCache := by rw [status.eng, marks.eng]
    exact cache
  · dsimp only
    split
    · rename_i held
      exact List.contains_iff_mem.1 held
    · exact List.mem_append_right _ (.head _)
  · refine Eq.trans ?_ counted
    obtain ⟨lt, out⟩ := failReg_spec event
    exact live_setStat_ne _ _ _ _ _ _ _ _ (regA_not_mem_statRegs lt fun m => out (List.mem_cons_of_mem _ m))

/-! ### The word of a port and its peer (NDL_PEER_EPOCH) -/

theorem tmrFields_peer {p : Nat} (h : p < 8) : tmrFields (regA .ndl p 0x104) = [(31, 16)] := by
  interval_cases p <;> rfl

theorem vote_cases (x y z : Nat) : vote x y z = none ∨ vote x y z = some x ∨ vote x y z = some y := by
  unfold vote
  split
  · exact .inr (.inl rfl)
  · split
    · exact .inr (.inr rfl)
    · exact .inl rfl

/-- The vote of a field whose copies are the same in both words: its bits are the same, and all others are the word's own. -/
theorem getLsbD_voteField_congr {A b c A' b' c' : W32} {f : Nat × Nat} (hA : bitsOf A'.toNat f.1 f.2 = bitsOf A.toNat f.1 f.2)
    (hb : bitsOf b'.toNat f.1 f.2 = bitsOf b.toNat f.1 f.2) (hc : bitsOf c'.toNat f.1 f.2 = bitsOf c.toNat f.1 f.2) (w w' : W32) {n : Nat} (hn : n < 32) :
    (voteField A' b' c' w' f).getLsbD n = if f.2 ≤ n ∧ n ≤ f.1 then (voteField A b c w f).getLsbD n else w'.getLsbD n := by
  unfold voteField
  dsimp only
  rw [hA, hb, hc]
  rcases vote_cases (bitsOf A.toNat f.1 f.2) (bitsOf b.toNat f.1 f.2) (bitsOf c.toNat f.1 f.2) with v | v | v <;> rw [v] <;> dsimp only
  · rw [getLsbD_clearField w' f n hn, getLsbD_clearField w f n hn]
    split <;> rfl
  · rw [getLsbD_putField w' A f n hn, getLsbD_putField w A f n hn]
    split <;> rfl
  · rw [getLsbD_putField w' b f n hn, getLsbD_putField w b f n hn]
    split <;> rfl

/-- A word with other bits below bit 16. -/
def putLow (w v : W32) : W32 := (w &&& ~~~ 0xFFFF) ||| (v &&& 0xFFFF)

theorem getLsbD_putLow (w v : W32) {n : Nat} (hn : n < 32) : (putLow w v).getLsbD n = if n < 16 then v.getLsbD n else w.getLsbD n := by
  have low : (0xFFFF : W32).getLsbD n = decide (n < 16) := by
    interval_cases n <;> rfl
  rw [putLow, BitVec.getLsbD_or, BitVec.getLsbD_and, BitVec.getLsbD_and, BitVec.getLsbD_not, low, decide_eq_true hn]
  by_cases h : n < 16
  · rw [if_pos h, decide_eq_true h, Bool.not_true, Bool.and_false, Bool.and_false, Bool.false_or, Bool.and_true]
  · rw [if_neg h, decide_eq_false h, Bool.not_false, Bool.and_true, Bool.and_true, Bool.and_false, Bool.or_false]

theorem bitsOf_putLow (w v : W32) : bitsOf (putLow w v).toNat 31 16 = bitsOf w.toNat 31 16 :=
  (bitsOf_eq_iff (putLow w v) w (31, 16)).2 fun b lo hi => by
    rw [getLsbD_putLow w v (by omega), if_neg (by omega)]

/-- The word after a write of its low half, in every copy. -/
theorem live_setLow (d : Dev) {p : Nat} (h : p < 8) (v : W32) {n : Nat} (hn : n < 32) :
    (live (setPart d (regA .ndl p 0x104) 0xFFFF v) (regA .ndl p 0x104)).getLsbD n =
      if n < 16 then v.getLsbD n else (live d (regA .ndl p 0x104)).getLsbD n := by
  have copies : copiesOf (setPart d (regA .ndl p 0x104) 0xFFFF v) false (regA .ndl p 0x104) =
      (copiesOf d false (regA .ndl p 0x104)).map (fun t => { t with b := putLow t.b v, c := putLow t.c v }) := by
    have same : (fun t : TmrCopies => decide (t.off = regA .ndl p 0x104) && (t.staged == false)) =
        (fun t => decide (t.off = regA .ndl p 0x104) && !t.staged) := by funext t; cases t.staged <;> rfl
    rw [copiesOf, copiesOf, same]
    exact find?_modWhere_self (fun t : TmrCopies => decide (t.off = regA .ndl p 0x104) && !t.staged) _ d.regs.tmr fun t ht => ht
  have word : SMap.get regReset (setPart d (regA .ndl p 0x104) 0xFFFF v).regs.live (regA .ndl p 0x104) =
      putLow (SMap.get regReset d.regs.live (regA .ndl p 0x104)) v := SMap.get_set_self ..
  unfold live
  rw [copies]
  cases copiesOf d false (regA .ndl p 0x104) with
  | none => rw [Option.map_none, word, getLsbD_putLow _ _ hn]
  | some t =>
    rw [Option.map_some, word, tmrFields_peer h]
    dsimp only
    rw [votedWord_eq, votedWord_eq, List.foldl_cons, List.foldl_nil, List.foldl_cons, List.foldl_nil,
      getLsbD_voteField_congr (bitsOf_putLow _ v) (bitsOf_putLow _ v) (bitsOf_putLow _ v) (SMap.get regReset d.regs.live (regA .ndl p 0x104)) _ hn]
    split
    · rw [if_neg (by omega)]
    · rename_i out
      rw [getLsbD_putLow _ _ hn, if_pos (by omega), if_pos (by omega)]

theorem liveN_setLink (d : Dev) {p st width peer : Nat} (h : p < 8) (small : st + width * 4 < 256) :
    liveN (setLink d p st width peer) .ndl p 0x104 = liveN d .ndl p 0x104 / 65536 * 65536 + (st + width * 4 + peer % 256 * 256) := by
  have lt : st + width * 4 + peer % 256 * 256 < 65536 := by omega
  refine Nat.eq_of_testBit_eq fun n => ?_
  rw [Nat.mul_comm (_ / 65536), show (65536 : Nat) = 2 ^ 16 from rfl, Nat.testBit_two_pow_mul_add _ lt]
  by_cases hn : n < 32
  · have bit := live_setLow d h (BitVec.ofNat 32 (st + width * 4 + peer % 256 * 256)) hn
    rw [BitVec.getLsbD_ofNat, decide_eq_true hn, Bool.true_and] at bit
    refine bit.trans ?_
    split
    · rfl
    · rename_i ge
      rw [Nat.testBit_div_two_pow, Nat.sub_add_cancel (Nat.le_of_not_lt ge)]
      rfl
  · have big : (liveN (setLink d p st width peer) .ndl p 0x104).testBit n = false :=
      Nat.testBit_lt_two_pow (Nat.lt_of_lt_of_le (live _ _).isLt (Nat.pow_le_pow_right (by decide) (Nat.le_of_not_lt hn)))
    rw [big, if_neg (by omega), Nat.testBit_div_two_pow, Nat.sub_add_cancel (by omega)]
    exact (Nat.testBit_lt_two_pow (Nat.lt_of_lt_of_le (live _ _).isLt (Nat.pow_le_pow_right (by decide) (Nat.le_of_not_lt hn)))).symm

/-- What the word of a port says. -/
structure PeerWord (d : Dev) (p st width peer epoch : Nat) : Prop where
  state : portState d p = st
  width : bitsOf (liveN d .ndl p 0x104) 5 2 = width
  peer : portPeer d p = peer
  epoch : portEpoch d p = epoch

theorem peerWord_of {d : Dev} {p st width peer epoch : Nat} (hst : st < 4) (hw : width < 16) (hp : peer < 256) (he : epoch < 65536)
    (word : liveN d .ndl p 0x104 = epoch * 65536 + (st + width * 4 + peer * 256)) : PeerWord d p st width peer epoch := by
  refine ⟨?_, ?_, ?_, ?_⟩
  · rw [portState, word]; omega
  · rw [word, bitsOf, Nat.shiftRight_eq_div_pow]; omega
  · rw [portPeer, word, bitsOf, Nat.shiftRight_eq_div_pow]; omega
  · rw [portEpoch, word, bitsOf, Nat.shiftRight_eq_div_pow]; omega

theorem PeerWord.congr {d e : Dev} {p st width peer epoch : Nat} (h : PeerWord d p st width peer epoch)
    (same : liveN e .ndl p 0x104 = liveN d .ndl p 0x104) : PeerWord e p st width peer epoch := by
  obtain ⟨state, wid, per, epo⟩ := h
  exact ⟨by rw [portState, same]; exact state, by rw [same]; exact wid, by rw [portPeer, same]; exact per, by rw [portEpoch, same]; exact epo⟩

theorem portEpoch_eq (d : Dev) (p : Nat) : portEpoch d p = liveN d .ndl p 0x104 / 65536 := by
  have lt : liveN d .ndl p 0x104 < 2 ^ 32 := (live d _).isLt
  rw [portEpoch, bitsOf, Nat.shiftRight_eq_div_pow]
  omega

theorem portPeer_lt (d : Dev) (p : Nat) : portPeer d p < 256 := Nat.mod_lt _ (by decide)

theorem setLink_word (d : Dev) {p st width : Nat} (peer : Nat) (h : p < 8) (hst : st < 4) (hw : width < 16) :
    PeerWord (setLink d p st width peer) p st width (peer % 256) (portEpoch d p) := by
  have lt : liveN d .ndl p 0x104 < 2 ^ 32 := (live d _).isLt
  refine peerWord_of hst hw (Nat.mod_lt _ (by decide)) (by rw [portEpoch_eq]; omega) ?_
  rw [liveN_setLink d h (by omega), portEpoch_eq]

theorem setEpoch_word {d : Dev} {p st width peer e0 : Nat} (epoch : Nat) (h : PeerWord d p st width peer e0) : PeerWord (setEpoch d p epoch) p st width peer (epoch % 65536) := by
  obtain ⟨state, wid, per, epo⟩ := h
  have lt : liveN d .ndl p 0x104 % 65536 < 65536 := Nat.mod_lt _ (by decide)
  have word : liveN (setEpoch d p epoch) .ndl p 0x104 = liveN d .ndl p 0x104 % 65536 + epoch % 65536 * 65536 :=
    liveN_setLiveN_self _ _ _ _ (by omega)
  refine ⟨?_, ?_, ?_, ?_⟩
  · rw [← state, portState, portState, word]; omega
  · rw [← wid, word, bitsOf, bitsOf, Nat.shiftRight_eq_div_pow, Nat.shiftRight_eq_div_pow]; omega
  · rw [← per, portPeer, portPeer, word, bitsOf, bitsOf, Nat.shiftRight_eq_div_pow, Nat.shiftRight_eq_div_pow]; omega
  · rw [portEpoch_eq, word]; omega

end Sys2Proof.Machine

namespace Sys2Proof.Proofs

open Sys2Proof.Machine Sys2Proof.Claims

/-! ### O58: pool ports and failed accesses -/

theorem fab_page {q : Nat} (h : q < 2) : pageNo .fab q ≠ pageNo .pwr 0 := by
  interval_cases q <;> decide

theorem ndl_page {p : Nat} (h : p < 8) : pageNo .ndl p ≠ pageNo .pwr 0 := by
  interval_cases p <;> decide

theorem bit0_setLiveBit (d : Dev) (k : Blk) (i off : Nat) (v : Bool) : bitOf (liveN (setLiveBit d (regA k i off) 0 v) k i off) 0 = v := by
  rw [liveN, bitOf_toNat, setLiveBit, live_setLive_self]
  cases v
  · simp
  · simp

theorem fabLinkDown_lowers {s : State} {q : Nat} (lt : q < 2) (up : bitOf (reg s .fab q 0x100) 0 = true) :
    ∃ t, exec (.fabLinkDown q) s = .next t ∧ Aside s t ∧ stat t .fab q 0 = true ∧ bitOf (reg t .fab q 0x100) 0 = false ∧
      t.dev.mem = s.dev.mem ∧ t.dev.reqs = s.dev.reqs := by
  have op : ∃ x : Dev, fabDownOp s.dev q = wakeDom (setStat (setLiveBit x (regA .fab q 0x100) 0 false) .fab q 0 0 noTag 0 4) 4 0 ∧
      x.mem = s.dev.mem ∧ x.reqs = s.dev.reqs := by
    rw [fabDownOp, if_pos ⟨lt, up⟩]
    refine ⟨_, rfl, ?_, ?_⟩
    · split <;> rfl
    · split <;> rfl
  obtain ⟨x, op, mem, reqs⟩ := op
  have woken := wakeDom_keeps (setStat (setLiveBit x (regA .fab q 0x100) 0 false) .fab q 0 0 noTag 0 4) 4 0
  have status : Marks statOffs (setLiveBit x (regA .fab q 0x100) 0 false) (setStat (setLiveBit x (regA .fab q 0x100) 0 false) .fab q 0 0 noTag 0 4) :=
    (Marks.refl _ _).setStat ..
  refine ⟨_, congrArg (ok s) op, ⟨rfl, rfl, rfl⟩, ?_, ?_, ?_, ?_⟩
  · change bitOf (liveN (wakeDom _ 4 0) .fab q 0x20) 0 = true
    rw [wakeDom_wordN _ _ _ (by decide) (fab_page lt)]
    exact statBit_setStat _ _ _ _ _ _ _ (by decide)
  · change bitOf (liveN (wakeDom _ 4 0) .fab q 0x100) 0 = false
    rw [wakeDom_wordN _ _ _ (by decide) (fab_page lt), status.wordN .fab q]
    exact bit0_setLiveBit ..
  · exact woken.mem.trans (status.mem.trans mem)
  · exact woken.reqs.trans (status.reqs.trans reqs)

theorem fabLinkRetrained_raises {s : State} {q : Nat} (lt : q < 2) (met : 256 ≤ reg s .fab q 0x100) (runs : fwpRuns s.dev 5 = true) :
    ∃ t, exec (.fabLinkRetrained q) s = .next t ∧ Aside s t ∧ bitOf (reg t .fab q 0x100) 0 = true ∧ q ∈ t.dev.power.cxlReleased ∧
      t.dev.mem = s.dev.mem ∧ t.dev.reqs = s.dev.reqs := by
  let x : Dev := setLiveBit { s.dev with power := { s.dev.power with
    cxlReleased := if s.dev.power.cxlReleased.contains q then s.dev.power.cxlReleased else s.dev.power.cxlReleased ++ [q] } } (regA .fab q 0x100) 0 true
  have op : fabUpOp s.dev q = wakeDom x 4 0 := if_pos ⟨lt, met, runs⟩
  have woken := wakeDom_keeps x 4 0
  refine ⟨_, congrArg (ok s) op, ⟨rfl, rfl, rfl⟩, ?_, ?_, woken.mem, woken.reqs⟩
  · change bitOf (liveN (wakeDom _ 4 0) .fab q 0x100) 0 = true
    rw [wakeDom_wordN _ _ _ (by decide) (fab_page lt)]
    exact bit0_setLiveBit ..
  · change q ∈ (wakeDom x 4 0).power.cxlReleased
    rw [(wakeDom_frame x 4 0).2]
    change q ∈ if s.dev.power.cxlReleased.contains q then s.dev.power.cxlReleased else s.dev.power.cxlReleased ++ [q]
    split
    · rename_i held
      exact List.contains_iff_mem.1 held
    · exact List.mem_append_right _ (.head _)

theorem poolFailOp_none {d : Dev} {a event slot : Nat} (free : findReq d slot = none) (falls : poolEvent d a event = true)
    (ne : ¬(event = 5 ∧ (rowAt d a).isSome = true)) : poolFailOp d a event slot =
      if event = 1 then { fabFail d a event with mem.poison := d.mem.poison ++
        ((List.range 8).map (fun i => pageWord (fabFail d a event) true (a / 64 * 64 + 8 * i))).filter (fun w => !d.mem.poison.contains w) }
      else fabFail d a event := by
  have marks := (fabFail_spec d a event 0 noTag).1
  have gone : findReq (fabFail d a event) slot = none := by rw [findReq, marks.reqs]; exact free
  have row (five : event = 5) : (rowAt (fabFail d a event) a).isSome = (rowAt d a).isSome := by
    subst five
    rw [rowAt_marks marks (by decide) (by decide)]
  simp only [poolFailOp, free, falls, Bool.not_true, Bool.false_eq_true, if_false]
  rw [if_neg fun h => ne ⟨h.1, by rw [← row h.1]; exact h.2.2⟩]
  split
  · refine (poolHit_none ?_ ..).trans ?_
    · exact gone
    · rw [marks.mem]
  · exact poolHit_none gone ..

theorem poolFailOp_row {d : Dev} {a slot : Nat} {e : Nat × Nat} (free : findReq d slot = none) (mapped : poolMapped d a = true)
    (row : rowAt d a = some e) : poolFailOp d a 5 slot = wbFail d e a 5 := by
  have marks := (fabFail_spec d a 5 0 noTag).1
  have gone : findReq (fabFail d a 5) slot = none := by rw [findReq, marks.reqs]; exact free
  have row' : rowAt (fabFail d a 5) a = some e := by rw [rowAt_marks marks (by decide) (by decide), row]
  simp only [poolFailOp, free]
  rw [if_neg (by simp [poolEvent, mapped]), if_pos (by simp [gone, row']), row']
  rfl

/-- A failed access that no request made leaves nothing else to a transaction. -/
theorem poolAccessFail_none {s : State} {a event slot : Nat} {d : Dev} (falls : poolEvent s.dev a event = true)
    (op : poolFailOp s.dev a event slot = d) (gone : findReq d slot = none) : exec (.poolAccessFail a event slot) s = .next (on s d) := by
  have state : onDev s (poolFailOp · a event slot) = on s d := congrArg (on s) op
  refine congrArg Host.Outcome.next ((if_pos falls).trans ?_)
  rw [state, txnPoolFail_none (s := on s d) gone]

theorem poolAccessFail_unmapped {s : State} {a slot : Nat} (free : findReq s.dev slot = none) (out : poolMapped s.dev a = false) :
    ∃ t, exec (.poolAccessFail a 2 slot) s = .next t ∧ Aside s t ∧ stat t .fab 0 1 = true ∧
      live t.dev (regA .fab 0 0x118) = live s.dev (regA .fab 0 0x118) + 1 ∧ t.dev.mem = s.dev.mem ∧ t.dev.reqs = s.dev.reqs := by
  have falls : poolEvent s.dev a 2 = true := by simp [poolEvent, out]
  obtain ⟨marks, status, counted⟩ := fabFail_spec s.dev a 2 0 noTag
  have op := (poolFailOp_none free falls fun h => absurd h.1 (by decide)).trans (if_neg (by decide))
  exact ⟨_, poolAccessFail_none falls op (by rw [findReq, marks.reqs]; exact free), ⟨rfl, rfl, rfl⟩, status, counted, marks.mem, marks.reqs⟩

/-- The words of the 64 bytes of a pool access. -/
def lostWords (d : Dev) (a : Nat) : List (Space × Nat) := (List.range 8).map (fun i => pageWord d true (a / 64 * 64 + 8 * i))

/-- The block with the words of an access poisoned. -/
def withLost (d : Dev) (ws : List (Space × Nat)) : Dev :=
  { d with mem.poison := d.mem.poison ++ ws.filter (fun w => !d.mem.poison.contains w) }

theorem mem_withLost {d : Dev} {ws : List (Space × Nat)} {w : Space × Nat} (h : w ∈ ws) : w ∈ (withLost d ws).mem.poison := by
  by_cases old : w ∈ d.mem.poison
  · exact List.mem_append_left _ old
  · exact List.mem_append_right _ (List.mem_filter.2 ⟨h, by simpa using old⟩)

theorem liveN_withLost (d : Dev) (ws : List (Space × Nat)) (k : Blk) (i off : Nat) : liveN (withLost d ws) k i off = liveN d k i off :=
  congrArg BitVec.toNat (live_congr rfl _)

theorem poolFailOp_poison {d : Dev} {a slot : Nat} (free : findReq d slot = none) (mapped : poolMapped d a = true) :
    poolFailOp d a 1 slot = withLost (fabFail d a 1) (lostWords d a) := by
  have marks := (fabFail_spec d a 1 0 noTag).1
  have falls : poolEvent d a 1 = true := by simp [poolEvent, mapped]
  have words : lostWords (fabFail d a 1) a = lostWords d a := by
    simp only [lostWords, pageWord, if_true, poolDev_marks marks (by decide)]
  have pois : (fabFail d a 1).mem.poison = d.mem.poison := by rw [marks.mem]
  rw [poolFailOp_none free falls fun h => absurd h.1 (by decide), if_pos rfl, ← words]
  simp only [withLost, pois, lostWords]

theorem poolAccessFail_poison {s : State} {a slot : Nat} (free : findReq s.dev slot = none) (mapped : poolMapped s.dev a = true) :
    ∃ t, exec (.poolAccessFail a 1 slot) s = .next t ∧ Aside s t ∧ stat t .fab (poolPort s.dev a) 1 = true ∧
      (∀ i, i < 8 → poisoned t.dev .pool (pageWord s.dev true (a / 64 * 64 + 8 * i)).2 = true) ∧
      t.dev.mem.pool = s.dev.mem.pool ∧ t.dev.reqs = s.dev.reqs := by
  have falls : poolEvent s.dev a 1 = true := by simp [poolEvent, mapped]
  obtain ⟨marks, status, -⟩ := fabFail_spec s.dev a 1 0 noTag
  rw [failPort, if_neg (by decide)] at status
  have gone : findReq (withLost (fabFail s.dev a 1) (lostWords s.dev a)) slot = none := (congrArg (List.find? _) marks.reqs).trans free
  have pool : (fabFail s.dev a 1).mem.pool = s.dev.mem.pool := by rw [marks.mem]
  refine ⟨_, poolAccessFail_none falls (poolFailOp_poison free mapped) gone, ⟨rfl, rfl, rfl⟩, ?_, fun i hi => ?_, pool, marks.reqs⟩
  · change bitOf (liveN (withLost _ _) _ _ _) _ = true
    rw [liveN_withLost, status]
  · have named : pageWord s.dev true (a / 64 * 64 + 8 * i) ∈ lostWords s.dev a := List.mem_map.2 ⟨i, List.mem_range.2 hi, rfl⟩
    have space : pageWord s.dev true (a / 64 * 64 + 8 * i) = (.pool, (pageWord s.dev true (a / 64 * 64 + 8 * i)).2) := rfl
    rw [space] at named
    rw [poisoned, List.contains_iff_mem]
    exact mem_withLost named

theorem fabTmo_counts {s : State} {a slot : Nat} (free : findReq s.dev slot = none) (mapped : poolMapped s.dev a = true) :
    ∃ t, exec (.fabTmo a slot) s = .next t ∧ Aside s t ∧ stat t .fab (poolPort s.dev a) 1 = true ∧
      live t.dev (regA .fab (poolPort s.dev a) 0x11C) = live s.dev (regA .fab (poolPort s.dev a) 0x11C) + 1 ∧
      t.dev.mem = s.dev.mem ∧ t.dev.reqs = s.dev.reqs := by
  have event : ∃ n, (n = 3 ∨ n = 4) ∧ fabTmoOp s.dev a slot = poolHit (fabFail s.dev a n) a slot false := by
    simp only [fabTmoOp, free, mapped, Bool.not_true, Bool.false_eq_true, if_false]
    split
    · exact ⟨3, .inl rfl, rfl⟩
    · exact ⟨4, .inr rfl, rfl⟩
  obtain ⟨n, late, op⟩ := event
  obtain ⟨marks, status, counted⟩ := fabFail_spec s.dev a n 0 noTag
  have gone : findReq (fabFail s.dev a n) slot = none := by rw [findReq, marks.reqs]; exact free
  have port : failPort s.dev a n = poolPort s.dev a := if_neg (by omega)
  have counter : failReg n = 0x11C := by rcases late with rfl | rfl <;> rfl
  rw [port] at status counted
  rw [counter] at counted
  rw [poolHit_none gone] at op
  have state : onDev s (fabTmoOp · a slot) = on s (fabFail s.dev a n) := congrArg (on s) op
  refine ⟨on s (fabFail s.dev a n), ?_, ⟨rfl, rfl, rfl⟩, status, counted, marks.mem, marks.reqs⟩
  refine congrArg Host.Outcome.next ((if_pos mapped).trans ?_)
  rw [state, txnPoolFail_none (s := on s (fabFail s.dev a n)) gone]

theorem wbHeld_held {s : State} {a : Nat} {e : Nat × Nat} (row : rowAt s.dev a = some e) :
    ∃ t, exec (.wbHeld a false) s = .next t ∧ Aside s t ∧ stat t .fab (poolPort s.dev a) 2 = true ∧
      t.dev.eng.rowCache = s.dev.eng.rowCache ∧ e ∈ t.dev.eng.rowsHeld ∧ t.dev.mem = s.dev.mem := by
  have op : wbHeldOp s.dev a false = wbFail s.dev e a (if poolDown s.dev a then 4 else 3) := by
    rw [wbHeldOp, row]
    rfl
  have ne : (if poolDown s.dev a then 4 else 3) ≠ 2 := by split <;> decide
  obtain ⟨status, cache, held, mem, -⟩ := wbFail_spec s.dev e a ne
  exact ⟨_, congrArg (ok s) op, ⟨rfl, rfl, rfl⟩, status, cache, held, mem⟩

theorem wbHeld_cleans {s : State} {a : Nat} {e : Nat × Nat} (row : rowAt s.dev a = some e) (up : poolDown s.dev a = false) :
    ∃ t, exec (.wbHeld a true) s = .next t ∧ Aside s t ∧ (∀ x ∈ t.dev.eng.rowCache, (x.1, x.2.1) = e → x.2.2 = false) ∧
      e ∉ t.dev.eng.rowsHeld ∧ t.dev.mem = s.dev.mem := by
  have op : wbHeldOp s.dev a true = cleanRows s.dev (fun x => decide (x = e)) := by
    simp [wbHeldOp, row, up]
  refine ⟨_, congrArg (ok s) op, ⟨rfl, rfl, rfl⟩, fun x hx own => ?_, fun held => ?_, rfl⟩
  · obtain ⟨y, -, rfl⟩ := List.mem_map.1 hx
    by_cases hy : (y.1, y.2.1) = e
    · rw [if_pos (decide_eq_true hy)]
    · rw [if_neg (by simpa using hy)] at own
      exact absurd own hy
  · simpa using (List.mem_filter.1 held).2

/-- Settles O58, by the cases of a failed access and of a port's link. -/
theorem poolPortsAndFailures : Obligations.PoolPortsAndFailures := by
  unfold Obligations.PoolPortsAndFailures
  refine ⟨fun s q lt => ⟨fabLinkDown_lowers lt, fun down => ?_, fabLinkRetrained_raises lt, fun up runs => ?_⟩,
    fun s a slot free => ⟨poolAccessFail_unmapped free, poolAccessFail_poison free, fabTmo_counts free, fun e row =>
      ⟨wbHeld_held row, fun mapped => ?_, fun down => ?_, wbHeld_cleans row⟩⟩⟩
  · exact congrArg (ok s) (if_neg fun h => absurd (h.2.symm.trans down) (by decide))
  · exact congrArg (ok s) (if_pos ⟨lt, up, runs⟩)
  · have falls : poolEvent s.dev a 5 = true := by simp [poolEvent, mapped]
    obtain ⟨status, cache, held, mem, counted⟩ := wbFail_spec s.dev e a (event := 5) (by decide)
    have reqs : (wbFail s.dev e a 5).reqs = s.dev.reqs :=
      ((Marks.refl statOffs _).setStat ..).reqs.trans (fabFail_spec s.dev a 5 0 noTag).1.reqs
    exact ⟨_, poolAccessFail_none falls (poolFailOp_row free mapped row) (by rw [findReq, reqs]; exact free), ⟨rfl, rfl, rfl⟩, status, counted, cache,
      held, mem⟩
  · have op : wbHeldOp s.dev a true = s.dev := by simp [wbHeldOp, row, down]
    exact congrArg (ok s) op

/-! ### O59: ports and peers -/

/-- What a port's fall leaves. -/
theorem lowerLink_spec {d : Dev} {p : Nat} (lt : p < 8) (len : d.links.ports.length = 8) (up : portState d p = 1) :
    portState (lowerLink d p) p = 0 ∧ portPeer (lowerLink d p) p = portPeer d p ∧ (portAt (lowerLink d p) p).downAt = some d.now ∧
      (lowerLink d p).mem = d.mem := by
  have calm : Calm d (countTx d p 0) := (Calm.refl d).countTx p 0
  have same := calm.wordN .ndl p (off := 0x104)
  have state : portState (countTx d p 0) p = 1 := by rw [portState, same]; exact up
  have peer : portPeer (countTx d p 0) p = portPeer d p := by rw [portPeer, same]; rfl
  have op : lowerLink d p = modPort (setLink (countTx d p 0) p 0 0 (portPeer d p)) p (fun x => { x with downAt := some d.now }) := by
    rw [lowerLink, state, peer]
    rfl
  have word := setLink_word (countTx d p 0) (st := 0) (width := 0) (portPeer d p) lt (by decide) (by decide)
  have len' : p < (setLink (countTx d p 0) p 0 0 (portPeer d p)).links.ports.length := by
    have := calm.ports.length
    have same : (setLink (countTx d p 0) p 0 0 (portPeer d p)).links.ports = (countTx d p 0).links.ports := rfl
    rw [same]
    omega
  rw [op]
  refine ⟨word.state, word.peer.trans (Nat.mod_eq_of_lt (portPeer_lt d p)), ?_, rfl⟩
  rw [portAt_modPort, if_pos ⟨rfl, len'⟩]

theorem ndlLinkDown_lowers {s : State} {p : Nat} (lt : p < 8) (len : s.dev.links.ports.length = 8) (up : portState s.dev p = 1) :
    ∃ t, exec (.ndlLinkDown p) s = .next t ∧ Aside s t ∧ portState t.dev p = 0 ∧ stat t .ndl p 0 = true ∧
      portPeer t.dev p = portPeer s.dev p ∧ (portAt t.dev p).downAt = some s.dev.now ∧ t.dev.mem = s.dev.mem := by
  let x := setStat (lowerLink s.dev p) .ndl p 0 0 noTag (peerWord s.dev p) 0
  have op : linkDownOp s.dev p = wakeDom x 4 0 := if_neg (by rw [up]; omega)
  obtain ⟨state, peer, fell, mem⟩ := lowerLink_spec lt len up
  have marks : Marks statOffs (lowerLink s.dev p) x := (Marks.refl _ _).setStat ..
  have word : liveN (wakeDom x 4 0) .ndl p 0x104 = liveN (lowerLink s.dev p) .ndl p 0x104 :=
    (wakeDom_wordN x 4 0 (by decide) (ndl_page lt)).trans (marks.wordN .ndl p)
  have links : (wakeDom x 4 0).links = (lowerLink s.dev p).links := (wakeDom_frame x 4 0).1.trans marks.links
  refine ⟨_, congrArg (ok s) op, ⟨rfl, rfl, rfl⟩, ?_, ?_, ?_, ?_, (wakeDom_keeps x 4 0).mem.trans (marks.mem.trans mem)⟩
  · exact (congrArg (· % 4) word).trans state
  · exact (congrArg (bitOf · 0) (wakeDom_wordN x 4 0 (by decide) (ndl_page lt))).trans (statBit_setStat _ _ _ _ _ _ _ (by decide))
  · exact (congrArg (bitsOf · 15 8) word).trans peer
  · exact (congrArg (fun l : Links => (l.ports.getD p Port.reset).downAt) links).trans fell

theorem ndlCtl_retrain (d : Dev) (p : Nat) : ndlCtlOp d p 1 = retrainOp d p := rfl
theorem ndlCtl_readmit (d : Dev) (p : Nat) : ndlCtlOp d p 2 = readmitOp d p := rfl

theorem retrain_put {s : State} {p : Nat} (lt : p < 8) (lands : LandsOn s 0 .ndl p 0x10C) :
    exec (.retrain 0 p 1) s = .next (on s (retrainOp s.dev p)) :=
  (if_pos (decide_eq_true lt)).trans (put_act (by decide) lands (congrArg some (congrArg (on s) (ndlCtl_retrain s.dev p))))

theorem readmit_put {s : State} {p : Nat} (lt : p < 8) (lands : LandsOn s 0 .ndl p 0x10C) :
    exec (.readmit 0 p 2) s = .next (on s (readmitOp s.dev p)) :=
  (if_pos (decide_eq_true lt)).trans (put_act (by decide) lands (congrArg some (congrArg (on s) (ndlCtl_readmit s.dev p))))

theorem retrain_lowers {s : State} {p : Nat} (lt : p < 8) (len : s.dev.links.ports.length = 8) (up : portState s.dev p = 1) (system : ownSystem s.dev ≠ 0)
    (node : nodeLost s.dev = false) (runs : fwpRuns s.dev 5 = true) (lands : LandsOn s 0 .ndl p 0x10C) :
    ∃ t, exec (.retrain 0 p 1) s = .next t ∧ Aside s t ∧ portState t.dev p = 0 ∧ portPeer t.dev p = portPeer s.dev p ∧
      (portAt t.dev p).downAt = some s.dev.now ∧ t.dev.mem = s.dev.mem := by
  have op : retrainOp s.dev p = lowerLink s.dev p := by
    rw [retrainOp, if_neg (by omega), if_neg (by simp [runs]), if_neg (by simp [node, system, up])]
  obtain ⟨state, peer, fell, mem⟩ := lowerLink_spec lt len up
  exact ⟨_, (retrain_put lt lands).trans (congrArg (ok s) op), ⟨rfl, rfl, rfl⟩, state, peer, fell, mem⟩

/-! Training. -/

theorem trainingOp_hears {d : Dev} {p : Nat} {tr : Training} (lt : p < 8) (down : portState d p = 0) (run : running d = true)
    (up : d.power.booting = false) (runs : fwpRuns d 5 = true) (system : ownSystem d ≠ 0) (node : nodeLost d = false) :
    trainingOp d p tr =
      let e := wakeDom d 4 0
      if tr.system ≠ ownSystem e ∨ tr.node % 256 = ownNode e then
        setStat e .ndl p 2 0 noTag (BitVec.ofNat 32 (tr.node % 256 + tr.system % 65536 * 65536)) 0
      else
        let lanes := if tr.x4 then 4 else 8
        let e := setLink e p 0 lanes (tr.node % 256)
        let e := modPort e p (fun x => { x with system := tr.system, downAt := none, lastRx := e.now, lastTx := e.now, epoch := tr.epoch % 65536 })
        let e := setLink (countRx (countTx e p 1) p) p 1 lanes (tr.node % 256)
        newRoutes (replayHeld e p ((portAt e p).held.map (·.2))) p := by
  rw [trainingOp, if_neg (by simp [run, up, runs, system, node, down]; omega), down]
  rfl

theorem own_wakeDom (d : Dev) : ownSystem (wakeDom d 4 0) = ownSystem d ∧ ownNode (wakeDom d 4 0) = ownNode d := by
  have word : liveN (wakeDom d 4 0) .ndl 0 0x100 = liveN d .ndl 0 0x100 := wakeDom_wordN d 4 0 (by decide) (by decide)
  exact ⟨by rw [ownSystem, word]; rfl, by rw [ownNode, word]; rfl⟩

theorem training_conflicts {s : State} {p : Nat} {tr : Training} (lt : p < 8) (down : portState s.dev p = 0) (run : running s.dev = true)
    (up : s.dev.power.booting = false) (runs : fwpRuns s.dev 5 = true) (system : ownSystem s.dev ≠ 0) (node : nodeLost s.dev = false)
    (differ : tr.system ≠ ownSystem s.dev ∨ tr.node % 256 = ownNode s.dev) :
    ∃ t, exec (.training p tr) s = .next t ∧ Aside s t ∧ stat t .ndl p 2 = true ∧ portState t.dev p = 0 ∧ t.dev.links = s.dev.links := by
  obtain ⟨own, me⟩ := own_wakeDom s.dev
  have op := (trainingOp_hears lt down run up runs system node).trans (if_pos (by rwa [own, me]))
  have marks : Marks statOffs (wakeDom s.dev 4 0) (setStat (wakeDom s.dev 4 0) .ndl p 2 0 noTag
      (BitVec.ofNat 32 (tr.node % 256 + tr.system % 65536 * 65536)) 0) := (Marks.refl _ _).setStat ..
  have word := (marks.wordN .ndl p (off := 0x104)).trans (wakeDom_wordN s.dev 4 0 (by decide) (ndl_page lt))
  refine ⟨_, congrArg (ok s) op, ⟨rfl, rfl, rfl⟩, statBit_setStat _ _ _ _ _ _ _ (by decide), ?_, marks.links.trans (wakeDom_frame s.dev 4 0).1⟩
  exact (congrArg (· % 4) word).trans down

theorem training_trains {s : State} {p : Nat} {tr : Training} (lt : p < 8) (down : portState s.dev p = 0) (run : running s.dev = true)
    (up : s.dev.power.booting = false) (runs : fwpRuns s.dev 5 = true) (system : ownSystem s.dev ≠ 0) (node : nodeLost s.dev = false)
    (same : tr.system = ownSystem s.dev) (other : tr.node % 256 ≠ ownNode s.dev) :
    ∃ t, exec (.training p tr) s = .next t ∧ Aside s t ∧ portState t.dev p = 1 ∧ portPeer t.dev p = tr.node % 256 ∧
      portEpoch t.dev p = portEpoch s.dev p ∧ bitsOf (reg t .ndl p 0x104) 5 2 = if tr.x4 then 4 else 8 := by
  obtain ⟨own, me⟩ := own_wakeDom s.dev
  have op := (trainingOp_hears lt down run up runs system node).trans (if_neg (by rw [own, me]; exact fun h => h.elim (· same) other))
  dsimp only at op
  generalize hl : (if tr.x4 then 4 else 8) = lanes at op ⊢
  have lanes_lt : lanes < 16 := by rw [← hl]; split <;> decide
  generalize hx : setLink (wakeDom s.dev 4 0) p 0 lanes (tr.node % 256) = x at op
  generalize hy : modPort x p (fun y => { y with system := tr.system, downAt := none, lastRx := x.now, lastTx := x.now, epoch := tr.epoch % 65536 }) = y at op
  have first : portEpoch x p = portEpoch s.dev p := by
    rw [← hx, (setLink_word (wakeDom s.dev 4 0) (tr.node % 256) lt (by decide) lanes_lt).epoch, portEpoch,
      wakeDom_wordN s.dev 4 0 (by decide) (ndl_page lt)]
    rfl
  have kept : portEpoch (countRx (countTx y p 1) p) p = portEpoch s.dev p := by
    have calm : Calm y (countRx (countTx y p 1) p) := ((Calm.refl y).countTx p 1).countRx p
    have word : liveN y .ndl p 0x104 = liveN x .ndl p 0x104 := by rw [← hy]; exact congrArg BitVec.toNat (live_congr rfl _)
    rw [portEpoch, calm.wordN .ndl p, word]
    exact first
  have last := setLink_word (countRx (countTx y p 1) p) (st := 1) (tr.node % 256) lt (by decide) lanes_lt
  generalize setLink (countRx (countTx y p 1) p) p 1 lanes (tr.node % 256) = z at op last
  have calm : Calm z (newRoutes (replayHeld z p ((portAt z p).held.map (·.2))) p) := ((Calm.refl z).replayHeld p _).newRoutes p
  obtain ⟨state, width, peer, epoch⟩ := last.congr (calm.wordN .ndl p)
  exact ⟨_, congrArg (ok s) op, ⟨rfl, rfl, rfl⟩, state, peer.trans (Nat.mod_mod ..), epoch.trans kept, width⟩

/-! Declarations. -/

/-- What the declaration of a peer leaves. -/
theorem declarePeer_spec {d : Dev} {p cause : Nat} (lt : p < 8) (len : d.links.ports.length = 8) (major : epochLost d p = false) :
    portState (declarePeer d p cause) p = 2 ∧ bitOf (liveN (declarePeer d p cause) .ndl p 0x20) 1 = true ∧
      portEpoch (declarePeer d p cause) p = (portEpoch d p + 1) % 65536 ∧ (portAt (declarePeer d p cause) p).admitted = false ∧
      (declarePeer d p cause).now = d.now := by
  have sent : Calm d (countTx d p 0) := (Calm.refl d).countTx p 0
  let a := setEpoch (setLink (countTx d p 0) p 2 0 (portPeer d p)) p ((portEpoch d p + 1) % 65536)
  let b := modPort a p (fun x => { x with admitted := false, held := [], downAt := none, seqTx := 0, seqRx := 0 })
  let c := logEvent (setStat b .ndl p 1 0 noTag (peerWord b p) 0) 0xC (pageNo .ndl p) 0xFF noTag p cause ((portEpoch d p + 1) % 65536)
  let e := if fwpRuns c 5 then c else { c with links.down := c.links.down ++ [p] }
  let lost := dedup ((portAt d p).held.filterMap (fun h => frameSet (ownNode d) h.2))
  have op : declarePeer d p cause = newRoutes (lost.foldl (fun d x => fenceSet d p x.1 x.2) e) p := if_neg (by simp [major])
  have word := setEpoch_word ((portEpoch d p + 1) % 65536)
    (setLink_word (countTx d p 0) (st := 2) (width := 0) (portPeer d p) lt (by decide) (by decide))
  have reported : Calm (setStat b .ndl p 1 0 noTag (peerWord b p) 0) e := by
    have logged : Calm (setStat b .ndl p 1 0 noTag (peerWord b p) 0) c := (Calm.refl _).logEvent ..
    exact .ite logged logged.aside
  have after : Calm (setStat b .ndl p 1 0 noTag (peerWord b p) 0) (declarePeer d p cause) := by
    have ended : Calm (setStat b .ndl p 1 0 noTag (peerWord b p) 0) (lost.foldl (fun d x => fenceSet d p x.1 x.2) e) :=
      reported.foldl (g := fun d (x : Nat × Nat) => fenceSet d p x.1 x.2) lost fun y x => (Calm.refl y).fenceSet p x.1 x.2
    rw [op]
    exact ended.newRoutes p
  have all : Calm b (declarePeer d p cause) := ((Calm.refl b).setStat ..).trans after
  have same : liveN (declarePeer d p cause) .ndl p 0x104 = liveN a .ndl p 0x104 :=
    (all.wordN .ndl p).trans (congrArg BitVec.toNat (live_congr rfl _))
  obtain ⟨state, -, -, epoch⟩ := word.congr same
  have ports : p < a.links.ports.length := by
    have := sent.ports.length
    have own : a.links.ports = (countTx d p 0).links.ports := rfl
    rw [own]
    omega
  refine ⟨state, after.stats .ndl p 1 (statBit_setStat _ _ _ _ _ _ _ (by decide)), by rw [epoch, Nat.mod_mod], ?_, all.now.trans sent.now⟩
  refine (all.ports.admitted p).trans ?_
  exact congrArg Port.admitted ((portAt_modPort a p p _).trans (if_pos ⟨rfl, ports⟩))

theorem hbMiss_declares {s : State} {p : Nat} (lt : p < 8) (len : s.dev.links.ports.length = 8) (up : portState s.dev p = 1)
    (major : epochLost s.dev p = false) :
    ∃ t, exec (.ndlHbMiss p) s = .next t ∧ Aside s t ∧ portState t.dev p = 2 ∧ stat t .ndl p 1 = true ∧
      portEpoch t.dev p = (portEpoch s.dev p + 1) % 65536 ∧ (portAt t.dev p).admitted = false := by
  let d := advanceTo s.dev ((portAt s.dev p).lastRx + usCycles (max 2 (liveN s.dev .ndl p 0x108 % 256)))
  have op : hbMissOp s.dev p = declarePeer d p 1 := if_neg (by simp [up, lt])
  obtain ⟨state, status, epoch, admitted, -⟩ := declarePeer_spec (d := d) (cause := 1) lt len major
  exact ⟨_, congrArg (ok s) op, ⟨rfl, rfl, rfl⟩, state, status, epoch, admitted⟩

theorem downTimeout_declares {s : State} {p t0 : Nat} (lt : p < 8) (len : s.dev.links.ports.length = 8) (down : portState s.dev p = 0)
    (fell : (portAt s.dev p).downAt = some t0) (major : epochLost s.dev p = false) :
    ∃ t, exec (.linkDownTimeout p) s = .next t ∧ Aside s t ∧ portState t.dev p = 2 ∧ stat t .ndl p 1 = true ∧
      portEpoch t.dev p = (portEpoch s.dev p + 1) % 65536 ∧ (portAt t.dev p).admitted = false ∧
      t0 + msCycles (max 1 (bitsOf (reg s .ndl p 0x108) 31 16)) ≤ t.dev.now := by
  let d := advanceTo s.dev (t0 + msCycles (max 1 (bitsOf (liveN s.dev .ndl p 0x108) 31 16)))
  have op : downTimeoutOp s.dev p = declarePeer d p 2 := by
    rw [downTimeoutOp, fell]
    exact if_neg (by simp [down, lt])
  obtain ⟨state, status, epoch, admitted, now⟩ := declarePeer_spec (d := d) (cause := 2) lt len major
  exact ⟨_, congrArg (ok s) op, ⟨rfl, rfl, rfl⟩, state, status, epoch, admitted, now ▸ Nat.le_max_right ..⟩

theorem now_voteLost (d : Dev) (a : Nat) (known : Bool) : (voteLost d a known).now = d.now := by
  have mark (e : Dev) (k : Blk) (i off : Nat) : (voteMark e k i off true).now = e.now := by
    unfold voteMark noteSet
    dsimp only
    split <;> rfl
  unfold voteLost
  split
  · exact mark ..
  · unfold voteMismatch
    split
    · rfl
    · exact ((Calm.refl _).logEvent ..).now.trans (mark d _ _ (a % 0x1000))

theorem now_lostMark (d : Dev) (a : Nat) : (lostMark d a).now = d.now := by
  have marked (fs : List (Nat × Nat)) (e : Dev) : (fs.foldl (fun d _ => voteLost d a true) e).now = e.now := by
    induction fs generalizing e with
    | nil => rfl
    | cons f fs ih => exact (ih _).trans (now_voteLost e a true)
  unfold lostMark
  split
  · exact marked _ d
  · rfl

theorem hbMiss_lost {s : State} {p : Nat} (lt : p < 8) (up : portState s.dev p = 1) (lost : epochLost s.dev p = true) :
    ∃ t, exec (.ndlHbMiss p) s = .next t ∧ Aside s t ∧ t.dev = lostMark { s.dev with now := t.dev.now } (regA .ndl p 0x104) := by
  let d := advanceTo s.dev ((portAt s.dev p).lastRx + usCycles (max 2 (liveN s.dev .ndl p 0x108 % 256)))
  have op : hbMissOp s.dev p = lostMark d (regA .ndl p 0x104) := (if_neg (by simp [up, lt])).trans (if_pos lost)
  refine ⟨_, congrArg (ok s) op, ⟨rfl, rfl, rfl⟩, ?_⟩
  change lostMark d (regA .ndl p 0x104) = lostMark { s.dev with now := (lostMark d (regA .ndl p 0x104)).now } (regA .ndl p 0x104)
  rw [now_lostMark]
  rfl

theorem readmit_admits {s : State} {p : Nat} (lt : p < 8) (len : s.dev.links.ports.length = 8) (fenced : portState s.dev p = 2)
    (trained : bitsOf (reg s .ndl p 0x104) 5 2 ≠ 0) (runs : fwpRuns s.dev 5 = true) (lands : LandsOn s 0 .ndl p 0x10C) :
    ∃ t, exec (.readmit 0 p 2) s = .next t ∧ Aside s t ∧ portState t.dev p = 1 ∧ portEpoch t.dev p = portEpoch s.dev p ∧
      (portAt t.dev p).admitted = true := by
  let w := bitsOf (liveN s.dev .ndl p 0x104) 5 2
  have w_lt : w < 16 := Nat.mod_lt _ (by decide)
  let a := setLink s.dev p 1 w (portPeer s.dev p)
  let b := modPort a p (fun x => { x with admitted := true, lastRx := a.now, lastTx := a.now })
  have op : readmitOp s.dev p = newRoutes (logEvent b 0xF (pageNo .ndl p) 0xFF noTag p 0 (portEpoch b p)) p := by
    rw [readmitOp, if_neg (by omega), if_neg (by simp [runs]), if_neg (by simpa [fenced] using trained)]
  have calm : Calm b (newRoutes (logEvent b 0xF (pageNo .ndl p) 0xFF noTag p 0 (portEpoch b p)) p) := ((Calm.refl b).logEvent ..).newRoutes p
  have same : liveN b .ndl p 0x104 = liveN a .ndl p 0x104 := congrArg BitVec.toNat (live_congr rfl _)
  obtain ⟨state, -, -, epoch⟩ := (setLink_word s.dev (portPeer s.dev p) lt (by decide) w_lt : PeerWord a p 1 w _ _).congr ((calm.wordN .ndl p).trans same)
  refine ⟨_, (readmit_put lt lands).trans (congrArg (ok s) op), ⟨rfl, rfl, rfl⟩, state, epoch, (calm.ports.admitted p).trans ?_⟩
  exact congrArg Port.admitted ((portAt_modPort a p p _).trans (if_pos ⟨rfl, Nat.lt_of_lt_of_eq lt len.symm⟩))

/-- Settles O59, by the word of a port and what routes and sets leave of it. -/
theorem portsAndPeers : Obligations.PortsAndPeers := by
  unfold Obligations.PortsAndPeers
  refine ⟨fun s p tr lt len => ⟨fun none => ?_, fun down run up runs system node => ⟨training_conflicts lt down run up runs system node,
      training_trains lt down run up runs system node⟩, ndlLinkDown_lowers lt len, fun lands stopped => ?_, fun up system node runs lands =>
      retrain_lowers lt len up system node runs lands⟩,
    fun s p lt len => ⟨hbMiss_lost lt, hbMiss_declares lt len, fun t0 => downTimeout_declares lt len, fun lands stopped => ?_,
      fun fenced trained runs lands => readmit_admits lt len fenced trained runs lands⟩⟩
  · exact congrArg (ok s) (if_pos (by simp [none]))
  · have op : retrainOp s.dev p = { s.dev with links := { s.dev.links with asked := s.dev.links.asked ++ [(p, 1)] } } := by
      rw [retrainOp, if_neg (by omega), if_pos (by simp [stopped])]
    exact (retrain_put lt lands).trans (congrArg (ok s) op)
  · have op : readmitOp s.dev p = { s.dev with links := { s.dev.links with asked := s.dev.links.asked ++ [(p, 2)] } } := by
      rw [readmitOp, if_neg (by omega), if_pos (by simp [stopped])]
    exact (readmit_put lt lands).trans (congrArg (ok s) op)

end Sys2Proof.Proofs

/-! SUPPORT. Power-on, the loss of power, and boot. -/

namespace Sys2Proof.Machine

open Sys2Proof.Claims

/-! ### What a loss of power leaves -/

theorem lose_flash (s : State) (spring cfg : Bool) : FlashKept s (lose s spring cfg) := resetTaken_flash s 2

/-- Without the Spring domain every register reads its reset value. -/
theorem live_loseAll (s : State) (cfg : Bool) (a : Nat) : live (lose s false cfg).dev a = regReset a := rfl

/-- Flash is kept by two steps in turn, where no operation of the second awaits its completion and the records stand. -/
theorem flashKept_trans {s t u : State} (h : FlashKept s t) (g : FlashKept t u) (none : t.dev.txn.unsure = [])
    (records : s.dev.txn.unsure = [] → t.dev.flash.records = s.dev.flash.records) : FlashKept s u := by
  intro decided b x named lt
  have named' : b = 0 ∨ ∃ r ∈ t.dev.flash.records, r.1 = b := by rwa [records decided]
  rw [g none b x named' lt, h decided b x named lt]

theorem lose_records {s : State} (spring cfg : Bool) (decided : s.dev.txn.unsure = []) : (lose s spring cfg).dev.flash.records = s.dev.flash.records := by
  have recs : (settleRecords s.dev.fresh s.dev.txn.unsure.reverse [] s.dev.flash.records).1 = s.dev.flash.records := by rw [decided]; rfl
  exact recs

/-! ### Power-on reset -/

/-- The block after a power-on reset with PWR_EN low. -/
def poweredOn (s : State) : State :=
  let x := railsOff (lose s false false)
  let n := x.dev.fresh
  onDev x (fun d => { d with
    now := 0, fresh := n + 2,
    power := { sentKept d.power Dev.reset.power with
      perst := d.power.perst, straps := (if Config.contact n then 1 else 0) + (if Config.contact (n + 1) then 2 else 0) } })

theorem powerOnOp_eq (s : State) : powerOnOp s = if s.dev.power.pwrEn || s.dev.power.riseWaits then enActs (poweredOn s) else poweredOn s := rfl

theorem live_poweredOn (s : State) (a : Nat) : live (poweredOn s).dev a = regReset a := rfl
theorem staged_poweredOn (s : State) (a : Nat) : staged (poweredOn s).dev a = regReset a := rfl

theorem deviceResetOp_off {s : State} (cause : Nat) (off : s.dev.power.rails ≠ .good) : deviceResetOp s cause = resetTaken s cause :=
  if_neg (by simp [off])

/-- PWR_EN that is high acts after the power-on reset. -/
def coldStarted (s : State) : State := enActs (poweredOn s)

theorem coldStarted_eq (s : State) : coldStarted s =
    onDev (resetTaken (poweredOn s) 2) (fun d => { d with power.pwrEn := true, power.riseWaits := false, power.rails := .starting }) := by
  rw [coldStarted, enActs, deviceResetOp_off 2 (show (poweredOn s).dev.power.rails ≠ .good from nofun)]

theorem live_coldStarted (s : State) {a : Nat} (c : a ≠ regA .rst 0 0x104) (n : a ≠ regA .rst 0 0x114) : live (coldStarted s).dev a = regReset a := by
  rw [coldStarted_eq]
  refine (live_resetTaken (poweredOn s) 2 a c n).trans ?_
  rw [live_poweredOn, ite_self]

theorem staged_coldStarted (s : State) (a : Nat) : staged (coldStarted s).dev a = regReset a := by
  rw [coldStarted_eq]
  rfl

theorem coldStarted_count (s : State) : live (coldStarted s).dev (regA .rst 0 0x114) = regReset (regA .rst 0 0x114) + 1 := by
  rw [coldStarted_eq]
  exact (resetTaken_leaves (poweredOn s) (cause := 2) (by decide)).count

theorem poweredOn_flash (s : State) : FlashKept s (poweredOn s) := lose_flash s false false

theorem coldStarted_flash (s : State) : FlashKept s (coldStarted s) := by
  rw [coldStarted_eq]
  exact flashKept_trans (poweredOn_flash s) (resetTaken_flash (poweredOn s) 2) rfl fun decided => lose_records false false decided

/-- No basin but 0 is active where the registers read their reset values. -/
theorem basinState_reset {d : Dev} (h : ∀ b, live d (regA .bsn b 0x100) = regReset (regA .bsn b 0x100)) :
    basinState d 0 = 1 ∧ ∀ b, 0 < b → b < 64 → basinState d b = 0 := by
  refine ⟨?_, fun b pos lt => ?_⟩
  · rw [basinState, liveN, h]
    decide
  · rw [basinState, liveN, h]
    interval_cases b <;> rfl

end Sys2Proof.Machine

namespace Sys2Proof.Proofs

open Sys2Proof.Machine Sys2Proof.Claims

/-! ### O48: power-on, and losing power -/

theorem powerOnReset_resets (s : State) : ∃ t, exec .powerOnReset s = .next t ∧ t.pending = s.pending ∧ t.dev.now = 0 ∧ t.meas = ⟨[], [], []⟩ ∧
    t.tap = Tap.reset ∧ (∀ a, a ≠ regA .rst 0 0x104 → a ≠ regA .rst 0 0x114 → live t.dev a = regReset a ∧ staged t.dev a = regReset a) ∧
    t.dev.reqs = [] ∧ basinState t.dev 0 = 1 ∧ (∀ b, 0 < b → b < 64 → basinState t.dev b = 0) ∧
    t.dev.host.comps = [] ∧ t.dev.eng = Dev.reset.eng ∧ t.dev.jobs = Dev.reset.jobs ∧ t.dev.txn = Dev.reset.txn ∧
    t.dev.mem.hbm = [] ∧ t.dev.mem.pool = [] ∧ t.dev.mem.shore = [] ∧ FlashKept s t ∧
    ((s.dev.power.pwrEn || s.dev.power.riseWaits) = false → t.dev.power.rails = .off ∧
      ∀ a ∈ [regA .rst 0 0x104, regA .rst 0 0x114], live t.dev a = regReset a) ∧
    ((s.dev.power.pwrEn || s.dev.power.riseWaits) = true → t.dev.power.rails = .starting ∧ t.dev.power.pwrEn = true ∧
      reg t .rst 0 0x104 % 16 = 2 ∧ live t.dev (regA .rst 0 0x114) = regReset (regA .rst 0 0x114) + 1) := by
  have op := powerOnOp_eq s
  cases high : (s.dev.power.pwrEn || s.dev.power.riseWaits)
  · rw [high, if_neg (by decide)] at op
    obtain ⟨zero, others⟩ := basinState_reset (d := (poweredOn s).dev) fun b => live_poweredOn s _
    exact ⟨poweredOn s, congrArg Host.Outcome.next op, rfl, rfl, rfl, rfl, fun a _ _ => ⟨live_poweredOn s a, staged_poweredOn s a⟩, rfl, zero, others,
      rfl, rfl, rfl, rfl, rfl, rfl, rfl, poweredOn_flash s, fun _ => ⟨rfl, fun a _ => live_poweredOn s a⟩, nofun⟩
  · rw [high, if_pos rfl] at op
    have apart (b o : Nat) (ho : o < 0x1000) (ne : 0x100 ≠ o) : regA .bsn b 0x100 ≠ regA .rst 0 o := regA_ne_of_off (by decide) ho ne
    obtain ⟨zero, others⟩ := basinState_reset (d := (coldStarted s).dev) fun b =>
      live_coldStarted s (apart b _ (by decide) (by decide)) (apart b _ (by decide) (by decide))
    obtain ⟨-, -, pwrEn, -, rails, cause⟩ := enActs_spec (poweredOn s)
    have eq := coldStarted_eq s
    refine ⟨coldStarted s, congrArg Host.Outcome.next op, ?_, ?_, ?_, ?_, fun a c n => ⟨live_coldStarted s c n, staged_coldStarted s a⟩, ?_, zero, others,
      ?_, ?_, ?_, ?_, ?_, ?_, ?_, coldStarted_flash s, nofun, fun _ => ⟨rails, pwrEn, cause, coldStarted_count s⟩⟩
    all_goals rw [eq]; rfl

theorem pwrEnFall_loses {s : State} (vin : s.dev.power.vin = true) (idle : s.dev.power.riseWaits = false) (high : s.dev.power.pwrEn = true) :
    ∃ t, exec .pwrEnFall s = .next t ∧ t.pending = s.pending ∧ t.dev.power.rails = .off ∧ t.dev.power.pwrEn = false ∧
      t.dev.power.enFall = some s.dev.now ∧ t.dev.power.tripped = false ∧ t.dev.reqs = [] ∧ t.dev.jobs = Dev.reset.jobs ∧ t.dev.mem.hbm = [] ∧
      FlashKept s t ∧ (∀ a, springHeld a = true → live t.dev a = live s.dev a) := by
  have op : enFallOp s = onDev (railsOff (lose s true false)) (fun d => { d with
      power.pwrEn := false, power.enFall := some d.now, power.tripped := false, power.wakePins := [], power.wakeResume := false, power.mctpWait := [] }) := by
    simp [enFallOp, vin, idle, high]
  exact ⟨_, congrArg Host.Outcome.next op, rfl, rfl, rfl, rfl, rfl, rfl, rfl, rfl, lose_flash s true false,
    fun a held => (live_lose s false a).trans (if_pos held)⟩

theorem vinRemoved_loses (s : State) : ∃ t, exec .vinRemoved s = .next t ∧ t.pending = s.pending ∧ t.dev.power.vin = false ∧ t.dev.power.rails = .off ∧
    (∀ a, live t.dev a = regReset a) ∧ t.dev.reqs = [] ∧ FlashKept s t :=
  ⟨vinOffOp s, rfl, rfl, rfl, rfl, fun a => live_loseAll s false a, rfl, lose_flash s false false⟩

theorem thermalTrip_trips {s : State} {die : Nat} (le : die ≤ 4) (calm : s.dev.power.tripped = false)
    (up : s.dev.power.rails = .good ∨ s.dev.power.rails = .starting) :
    ∃ t, exec (.thermalTrip die) s = .next t ∧ t.pending = s.pending ∧ t.dev.power.tripped = true ∧ t.dev.power.rails = .off ∧
      bitOf (reg t .rst 0 0x104) 8 = true ∧ t.dev.reqs = [] ∧ FlashKept s t := by
  have op : thermTripOp s die = onDev (railsOff (lose s true false))
      (fun d => setLiveN { d with power.tripped := true } .rst 0 0x104 (liveN d .rst 0 0x104 ||| 256)) := by
    refine if_neg ?_
    rintro (h | h | h | h)
    · omega
    · simp [calm] at h
    · rcases up with e | e <;> simp [e] at h
    · rcases up with e | e <;> simp [e] at h
  refine ⟨_, congrArg Host.Outcome.next op, rfl, rfl, rfl, ?_, rfl, lose_flash s true false⟩
  have lt : liveN (railsOff (lose s true false)).dev .rst 0 0x104 ||| 256 < 2 ^ 32 := Nat.or_lt_two_pow (live _ _).isLt (by decide)
  have word : liveN (setLiveN { (railsOff (lose s true false)).dev with power.tripped := true } .rst 0 0x104
      (liveN (railsOff (lose s true false)).dev .rst 0 0x104 ||| 256)) .rst 0 0x104 = liveN (railsOff (lose s true false)).dev .rst 0 0x104 ||| 256 :=
    liveN_setLiveN_self _ _ _ _ lt
  change bitOf (liveN (setLiveN _ _ _ _ _) _ _ _) 8 = true
  rw [word, bitOf, Nat.testBit_or]
  exact Bool.or_true _

/-- Settles O48, by what each loss of power keeps. -/
theorem powerResets : Obligations.PowerResets := by
  unfold Obligations.PowerResets
  exact ⟨powerOnReset_resets, fun s => ⟨pwrEnFall_loses, vinRemoved_loses s, fun die => thermalTrip_trips⟩⟩

end Sys2Proof.Proofs

/-! SUPPORT. Messages: what the responder and the management bus answer, and boot. -/

namespace Sys2Proof.Machine

open Sys2Proof.Claims

/-! ### What an answer leaves -/

/-- An answer leaves registers, memory, requests and measurements, and a module that boots boots on. -/
structure Told (s t : State) : Prop where
  pending : t.pending = s.pending
  meas : t.meas = s.meas
  tap : t.tap = s.tap
  regs : t.dev.regs = s.dev.regs
  mem : t.dev.mem = s.dev.mem
  reqs : t.dev.reqs = s.dev.reqs
  booting : t.dev.power.booting = s.dev.power.booting

namespace Told

theorem refl (s : State) : Told s s := ⟨rfl, rfl, rfl, rfl, rfl, rfl, rfl⟩

variable {s t u : State}

theorem trans (h : Told s t) (g : Told t u) : Told s u :=
  ⟨g.pending.trans h.pending, g.meas.trans h.meas, g.tap.trans h.tap, g.regs.trans h.regs, g.mem.trans h.mem, g.reqs.trans h.reqs,
    g.booting.trans h.booting⟩

theorem ite {c : Prop} [Decidable c] (ht : Told s t) (hu : Told s u) : Told s (if c then t else u) := by
  split
  · exact ht
  · exact hu

theorem sendSpdm (h : Told s t) (via : Via) (resp : List Byte) : Told s (sendSpdm t via resp) := by
  cases via <;> exact h.trans ⟨rfl, rfl, rfl, rfl, rfl, rfl, rfl⟩

theorem setSpdm (h : Told s t) (step : Nat) (vca b l : List Byte) : Told s (setSpdm t step vca b l) :=
  h.trans ⟨rfl, rfl, rfl, rfl, rfl, rfl, rfl⟩

theorem sendControl (h : Told s t) (req rest : List Byte) : Told s (sendControl t req rest) :=
  h.trans ⟨rfl, rfl, rfl, rfl, rfl, rfl, rfl⟩

theorem drawn (s : State) : Told s { s with dev := (draw s.dev).2 } := ⟨rfl, rfl, rfl, rfl, rfl, rfl, rfl⟩

theorem setEid (s : State) (e : Nat) : Told s (onDev s (fun d => { d with power.eid := e })) := ⟨rfl, rfl, rfl, rfl, rfl, rfl, rfl⟩

theorem spdmAnswer (s : State) (via : Via) (req : List Byte) : Told s (spdmAnswer s via req) := by
  have error (code data : Nat) : Told s (Machine.sendSpdm s via (spdmError code data)) := (refl s).sendSpdm ..
  have told (step : Nat) (vca b l r : List Byte) : Told s (Machine.sendSpdm (Machine.setSpdm s step vca b l) via r) :=
    ((refl s).setSpdm ..).sendSpdm ..
  have drew (c : Bool) : Told s (if c then s else { s with dev := (draw s.dev).2 }) := .ite (refl s) (drawn s)
  unfold Machine.spdmAnswer
  exact .ite (error ..) (.ite (told ..) (.ite (error ..) (.ite (.ite (error ..) (told ..)) (.ite (.ite (error ..) (told ..))
    (.ite (error ..) (.ite (told ..) (.ite (told ..) (.ite (.ite (error ..) (told ..))
    (.ite (error ..) (.ite (((drew _).setSpdm ..).sendSpdm ..) (((drew _).setSpdm ..).sendSpdm ..)))))))))))

theorem spdmServe (s : State) (via : Via) (req : List Byte) : Told s (spdmServe s via req) := by
  unfold Machine.spdmServe
  split
  · exact spdmAnswer ..
  · exact (refl s).sendSpdm ..
  · exact refl s

theorem controlAnswer (s : State) (req : List Byte) : Told s (controlAnswer s req) := by
  unfold Machine.controlAnswer
  split
  · exact .ite ((setEid s _).sendControl ..) ((refl s).sendControl ..)
  · exact (refl s).sendControl ..
  · exact (refl s).sendControl ..
  · exact (refl s).sendControl ..
  · exact (refl s).sendControl ..

theorem mctpServe (s : State) (m : List Byte) : Told s (mctpServe s m) := .ite (controlAnswer ..) (.ite (spdmServe ..) (refl s))

theorem foldl_mctpServe (ms : List (List Byte)) (s : State) : Told s (ms.foldl Machine.mctpServe s) := by
  induction ms generalizing s with
  | nil => exact refl s
  | cons m ms ih => exact (mctpServe s m).trans (ih _)

end Told

/-- A response leaves on its own transport. -/
theorem sent_sendSpdm (s : State) (via : Via) (resp : List Byte) (v : Via) :
    sent (sendSpdm s via resp) v = sent s v ++ (if v = via then [if via = .doe then resp else (5 : Byte) :: resp] else []) := by
  cases via <;> cases v <;> simp [sent, sendSpdm, onDev]

/-- A command answers once it sends from a state that differs in the responder's transcript alone. -/
theorem answers_of_sendSpdm {s u : State} {via : Via} {c : Instr} {resp : List Byte} (told : Told s u) (nothing : ∀ v, sent u v = sent s v)
    (op : exec c s = .next (sendSpdm u via resp)) : Answers s via c resp := by
  have kept := told.sendSpdm via resp
  exact ⟨_, op, kept.pending, kept.meas, kept.tap, fun v => by rw [sent_sendSpdm, nothing], kept.regs, kept.mem, kept.reqs⟩

theorem answers_of_setSpdm {s : State} {via : Via} {c : Instr} {resp : List Byte} (step : Nat) (vca b l : List Byte)
    (op : exec c s = .next (sendSpdm (setSpdm s step vca b l) via resp)) : Answers s via c resp :=
  answers_of_sendSpdm ((Told.refl s).setSpdm ..) (fun v => by cases v <;> rfl) op

theorem answers_of_error {s : State} {via : Via} {c : Instr} {resp : List Byte} (op : exec c s = .next (sendSpdm s via resp)) : Answers s via c resp :=
  answers_of_sendSpdm (.refl s) (fun _ => rfl) op

/-! ### Requests reach the responder -/

theorem mctpIn_of_serves {s : State} (h : Serves s .smbus) (m : List Byte) : mctpIn s m = mctpServe s m := by
  obtain ⟨up, still, vin, rails, cool, booted⟩ := h
  simp [mctpIn, vin, rails, cool, booted, onDev, shoreAwake_id up still]

/-- A request of a row's code is served at once. -/
theorem spdmIn_of_serves {s : State} {via : Via} (h : Serves s via) {req : List Byte} {mine : Nat → Bool} (own : mine (byteAt req 1) = true) :
    spdmIn s via req mine = spdmServe s via req := by
  by_cases smbus : via = .smbus
  · subst smbus
    rw [spdmIn, if_neg (by simp [own]), if_pos rfl, mctpIn_of_serves h]
    rfl
  · obtain ⟨up, still, rest⟩ := h
    rw [if_neg smbus] at rest
    obtain ⟨run, out, ready⟩ := rest
    rw [spdmIn, if_neg (by simp [own]), if_neg smbus, if_pos (by simp [run, out, ready]), onDev, shoreAwake_id up still]

section
variable {s : State} {via : Via} {req : List Byte}

theorem spdmServe_running (h : reg s .fwp 0 0x100 % 4 = 0) : spdmServe s via req = spdmAnswer s via req := by
  have state : liveN s.dev .fwp 0 0x100 % 4 = 0 := h
  simp only [spdmServe, state]

theorem spdmServe_restarting (h : reg s .fwp 0 0x100 % 4 = 1) : spdmServe s via req = sendSpdm s via (spdmError 3 0) := by
  have state : liveN s.dev .fwp 0 0x100 % 4 = 1 := h
  simp only [spdmServe, state]

theorem spdmServe_stopped (h : 2 ≤ reg s .fwp 0 0x100 % 4) : spdmServe s via req = s := by
  unfold spdmServe
  have state : 2 ≤ liveN s.dev .fwp 0 0x100 % 4 := h
  split
  · omega
  · omega
  · rfl

/-! ### The responder's answers (R441) -/

theorem spdmAnswer_version (code : byteAt req 1 = 0x84) :
    spdmAnswer s via req = sendSpdm (setSpdm s 1 (req ++ [0x10, 0x04, 0, 0, 0, 1, 0, 0x12]) [] []) via [0x10, 0x04, 0, 0, 0, 1, 0, 0x12] := by
  simp [spdmAnswer, code]

theorem spdmAnswer_unsupported (code : byteAt req 1 ∉ [0x84, 0xE1, 0xE3, 0x81, 0x82, 0x83, 0xE0]) :
    spdmAnswer s via req = sendSpdm s via (spdmError 7 (byteAt req 1)) := by
  rw [spdmAnswer]
  exact if_pos (by simpa using code)

section
variable (version : byteAt req 0 = 0x12)
include version

theorem spdmAnswer_capabilities (code : byteAt req 1 = 0xE1) : spdmAnswer s via req =
    if s.dev.power.spdmStep = 1 then sendSpdm (setSpdm s 2 (s.dev.power.spdmVca ++ req ++ capabilities) [] []) via capabilities
    else sendSpdm s via (spdmError 4 0) := by
  simp [spdmAnswer, code, version]

theorem spdmAnswer_algorithms (code : byteAt req 1 = 0xE3) : spdmAnswer s via req =
    if s.dev.power.spdmStep = 2 then sendSpdm (setSpdm s 3 (s.dev.power.spdmVca ++ req ++ algorithms req) [] []) via (algorithms req)
    else sendSpdm s via (spdmError 4 0) := by
  simp [spdmAnswer, code, version]

variable (negotiated : s.dev.power.spdmStep = 3)
include negotiated

theorem spdmAnswer_digests (code : byteAt req 1 = 0x81) : ∃ b, spdmAnswer s via req =
    sendSpdm (setSpdm s 3 s.dev.power.spdmVca b s.dev.power.spdmL) via ([0x12, 0x01, 0, 1] ++ certDigest) :=
  ⟨_, by simp [spdmAnswer, code, version, negotiated]; rfl⟩

theorem spdmAnswer_certificate (code : byteAt req 1 = 0x82) : ∃ b, spdmAnswer s via req =
    sendSpdm (setSpdm s 3 s.dev.power.spdmVca b s.dev.power.spdmL) via (certificate req) :=
  ⟨_, by simp [spdmAnswer, code, version, negotiated]; rfl⟩

theorem spdmAnswer_challenge (code : byteAt req 1 = 0x83) (slot : byteAt req 2 % 16 = 0) (kind : byteAt req 3 ∈ [0, 1, 0xFF]) :
    spdmAnswer s via req = sendSpdm (setSpdm s 3 s.dev.power.spdmVca [] s.dev.power.spdmL) via
      (challengeBody s req ++ Config.sign (s.dev.power.spdmVca ++ s.dev.power.spdmB ++ req ++ challengeBody s req)) := by
  simp only [List.mem_cons, List.not_mem_nil, or_false] at kind
  have known : ¬(byteAt req 3 ≠ 0 ∧ byteAt req 3 ≠ 1 ∧ byteAt req 3 ≠ 255) := by omega
  simp [spdmAnswer, code, version, negotiated, slot, known]

theorem spdmAnswer_measurements (code : byteAt req 1 = 0xE0) (ix : byteAt req 3 ≤ 16 ∨ byteAt req 3 = 0xFF) (signed : bitOf (byteAt req 2) 0 = true)
    (slot : byteAt req 36 % 16 = 0) :
    spdmAnswer s via req = sendSpdm (setSpdm s 3 s.dev.power.spdmVca s.dev.power.spdmB []) via
      (measurementsBody s req ((req.drop 4).take 32) ++
        Config.sign (s.dev.power.spdmVca ++ s.dev.power.spdmL ++ req ++ measurementsBody s req ((req.drop 4).take 32))) := by
  have known : ¬(16 < byteAt req 3 ∧ byteAt req 3 ≠ 255) := by omega
  simp [spdmAnswer, code, version, negotiated, slot, signed, known]

end
end

/-! ### The management bus (R480) -/

section
variable {s : State} {req : List Byte}

/-- A control response leaves. -/
def controlOf (req rest : List Byte) : List Byte := [0] ++ natLe 1 (byteAt req 0 % 32) ++ natLe 1 (byteAt req 1) ++ rest

theorem sendControl_mctp (rest : List Byte) : (sendControl s req rest).dev.power.mctp = s.dev.power.mctp ++ [controlOf req rest] := rfl

theorem byteAt_lt (bs : List Byte) (off : Nat) : byteAt bs off < 256 := fieldN_lt bs off 1

theorem controlOf_type (rest : List Byte) : byteAt (controlOf req rest) 0 = 0 := rfl

theorem controlOf_command (rest : List Byte) : byteAt (controlOf req rest) 2 = byteAt req 1 :=
  fieldN_of_parts (p := [0] ++ natLe 1 (byteAt req 0 % 32)) (r := rest) (by simp [controlOf]) rfl (byteAt_lt req 1)

/-- What follows the command lies behind it. -/
theorem controlOf_rest (rest : List Byte) (i : Nat) : byteAt (controlOf req rest) (3 + i) = byteAt rest i := by
  simp [byteAt, fieldN, controlOf, natLe, Nat.add_comm 3 i]

end

end Sys2Proof.Machine

namespace Sys2Proof.Proofs

open Sys2Proof.Machine Sys2Proof.Claims

/-! ### O52: management -/

section
variable {s : State} {via : Via} {req : List Byte}

/-- A request of a row's own code is served at once. -/
theorem spdmRow_served (h : Serves s via) {c : Instr} (row : (c, byteAt req 1) ∈ [(Instr.getVersion via req, 0x84), (.getCapabilities via req, 0xE1),
      (.negotiateAlgorithms via req, 0xE3), (.getDigests via req, 0x81), (.getCertificate via req, 0x82), (.challenge via req, 0x83),
      (.getMeasurements via req, 0xE0)]) : exec c s = .next (spdmServe s via req) := by
  have served {mine : Nat → Bool} (own : mine (byteAt req 1) = true) : okS (spdmIn s via req mine) = .next (spdmServe s via req) :=
    congrArg Host.Outcome.next (spdmIn_of_serves h own)
  simp only [List.mem_cons, Prod.mk.injEq, List.not_mem_nil, or_false] at row
  rcases row with ⟨rfl, code⟩ | ⟨rfl, code⟩ | ⟨rfl, code⟩ | ⟨rfl, code⟩ | ⟨rfl, code⟩ | ⟨rfl, code⟩ | ⟨rfl, code⟩
  all_goals exact served (beq_iff_eq.2 code)

theorem spdmUnsupported_served (h : Serves s via) (code : byteAt req 1 ∉ [0x84, 0xE1, 0xE3, 0x81, 0x82, 0x83, 0xE0]) :
    exec (.spdmUnsupported via req) s = .next (spdmServe s via req) :=
  congrArg Host.Outcome.next (spdmIn_of_serves h (by simpa using code))

/-- While FWP0 runs. -/
theorem spdmServe_answers (h : Serves s via) (runs : reg s .fwp 0 0x100 % 4 = 0) :
    (byteAt req 1 = 0x84 → Answers s via (.getVersion via req) [0x10, 0x04, 0, 0, 0, 1, 0, 0x12]) ∧
    (byteAt req 1 ∉ [0x84, 0xE1, 0xE3, 0x81, 0x82, 0x83, 0xE0] → Answers s via (.spdmUnsupported via req) (spdmError 7 (byteAt req 1))) := by
  refine ⟨fun code => ?_, fun code => ?_⟩
  · exact answers_of_setSpdm _ _ _ _ ((spdmRow_served h (c := .getVersion via req) (by simp [code])).trans
      (congrArg _ ((spdmServe_running runs).trans (spdmAnswer_version code))))
  · exact answers_of_error (by rw [spdmUnsupported_served h code, spdmServe_running runs, spdmAnswer_unsupported code])

section
variable (h : Serves s via) (runs : reg s .fwp 0 0x100 % 4 = 0) (version : byteAt req 0 = 0x12)
include h runs version

theorem getCapabilities_answers (code : byteAt req 1 = 0xE1) :
    Answers s via (.getCapabilities via req) (if s.dev.power.spdmStep = 1 then capabilities else spdmError 4 0) := by
  have op := (spdmRow_served h (c := .getCapabilities via req) (by simp [code])).trans
    (congrArg _ ((spdmServe_running runs).trans (spdmAnswer_capabilities version code)))
  by_cases turn : s.dev.power.spdmStep = 1
  · rw [if_pos turn] at op ⊢
    exact answers_of_setSpdm _ _ _ _ op
  · rw [if_neg turn] at op ⊢
    exact answers_of_error op

theorem negotiateAlgorithms_answers (code : byteAt req 1 = 0xE3) :
    Answers s via (.negotiateAlgorithms via req) (if s.dev.power.spdmStep = 2 then algorithms req else spdmError 4 0) := by
  have op := (spdmRow_served h (c := .negotiateAlgorithms via req) (by simp [code])).trans
    (congrArg _ ((spdmServe_running runs).trans (spdmAnswer_algorithms version code)))
  by_cases turn : s.dev.power.spdmStep = 2
  · rw [if_pos turn] at op ⊢
    exact answers_of_setSpdm _ _ _ _ op
  · rw [if_neg turn] at op ⊢
    exact answers_of_error op

variable (negotiated : s.dev.power.spdmStep = 3)
include negotiated

theorem getDigests_answers (code : byteAt req 1 = 0x81) : Answers s via (.getDigests via req) ([0x12, 0x01, 0, 1] ++ certDigest) := by
  obtain ⟨b, answer⟩ := spdmAnswer_digests (via := via) version negotiated code
  exact answers_of_setSpdm _ _ _ _ ((spdmRow_served h (by simp [code])).trans (congrArg _ ((spdmServe_running runs).trans answer)))

theorem getCertificate_answers (code : byteAt req 1 = 0x82) : Answers s via (.getCertificate via req) (certificate req) := by
  obtain ⟨b, answer⟩ := spdmAnswer_certificate (via := via) version negotiated code
  exact answers_of_setSpdm _ _ _ _ ((spdmRow_served h (by simp [code])).trans (congrArg _ ((spdmServe_running runs).trans answer)))

theorem challenge_answers (code : byteAt req 1 = 0x83) (slot : byteAt req 2 % 16 = 0) (kind : byteAt req 3 ∈ [0, 1, 0xFF]) :
    Answers s via (.challenge via req)
      (challengeBody s req ++ Config.sign (s.dev.power.spdmVca ++ s.dev.power.spdmB ++ req ++ challengeBody s req)) :=
  answers_of_setSpdm _ _ _ _ ((spdmRow_served h (by simp [code])).trans
    (congrArg _ ((spdmServe_running runs).trans (spdmAnswer_challenge version negotiated code slot kind))))

theorem getMeasurements_answers (code : byteAt req 1 = 0xE0) (ix : byteAt req 3 ≤ 16 ∨ byteAt req 3 = 0xFF)
    (signed : bitOf (byteAt req 2) 0 = true) (slot : byteAt req 36 % 16 = 0) :
    Answers s via (.getMeasurements via req) (measurementsBody s req ((req.drop 4).take 32) ++
      Config.sign (s.dev.power.spdmVca ++ s.dev.power.spdmL ++ req ++ measurementsBody s req ((req.drop 4).take 32))) :=
  answers_of_setSpdm _ _ _ _ ((spdmRow_served h (by simp [code])).trans
    (congrArg _ ((spdmServe_running runs).trans (spdmAnswer_measurements version negotiated code ix signed slot))))

end

/-! The management bus. -/

theorem setEndpointId_served (h : Serves s .smbus) : exec (.setEndpointId req) s = .next (controlAnswer s req) :=
  congrArg Host.Outcome.next ((mctpIn_of_serves h _).trans (if_pos rfl))

theorem setEndpointId_sets (h : Serves s .smbus) (code : byteAt req 1 = 1) (setting : byteAt req 2 % 4 ≤ 1) :
    ∃ t m, exec (.setEndpointId req) s = .next t ∧ Aside s t ∧
      t.dev.power.eid = (if 8 ≤ byteAt req 3 ∧ byteAt req 3 ≤ 254 then byteAt req 3 else s.dev.power.eid) ∧
      t.dev.power.mctp = s.dev.power.mctp ++ [m] ∧ byteAt m 0 = 0 ∧ byteAt m 3 = (if 8 ≤ byteAt req 3 ∧ byteAt req 3 ≤ 254 then 0 else 2) ∧
      t.dev.regs = s.dev.regs ∧ t.dev.reqs = s.dev.reqs := by
  have answer : controlAnswer s req = setEidAnswer s req := by simp only [controlAnswer, code]
  have op := (setEndpointId_served h).trans (congrArg Host.Outcome.next answer)
  unfold setEidAnswer at op
  by_cases fits : 8 ≤ byteAt req 3 ∧ byteAt req 3 ≤ 254
  · rw [if_pos ⟨setting, fits⟩] at op
    refine ⟨_, controlOf req _, op, ⟨rfl, rfl, rfl⟩, (if_pos fits).symm, sendControl_mctp _, controlOf_type _, ?_, rfl, rfl⟩
    rw [if_pos fits]
    exact controlOf_rest _ 0
  · rw [if_neg fun both => fits both.2] at op
    refine ⟨_, controlOf req _, op, ⟨rfl, rfl, rfl⟩, (if_neg fits).symm, sendControl_mctp _, controlOf_type _, ?_, rfl, rfl⟩
    rw [if_neg fits]
    exact controlOf_rest _ 0

/-- A control message of another command than 1, 4 and 5. -/
theorem setEndpointId_other (h : Serves s .smbus) (code : byteAt req 1 ∉ [1, 4, 5]) : ∃ t m, exec (.setEndpointId req) s = .next t ∧ Aside s t ∧
    t.dev = { s.dev with power := { s.dev.power with mctp := s.dev.power.mctp ++ [m] } } ∧ byteAt m 0 = 0 ∧ byteAt m 2 = byteAt req 1 ∧
    (byteAt req 1 = 2 → byteAt m 3 = 0 ∧ byteAt m 4 = s.dev.power.eid % 256) ∧ (byteAt req 1 ≠ 2 → byteAt m 3 = 5) := by
  simp only [List.mem_cons, List.not_mem_nil, or_false, not_or] at code
  obtain ⟨one, four, five⟩ := code
  have op := setEndpointId_served (req := req) h
  by_cases get : byteAt req 1 = 2
  · have answer : controlAnswer s req = sendControl s req ([0] ++ natLe 1 s.dev.power.eid ++ [0, 0]) := by simp only [controlAnswer, get]
    rw [answer] at op
    refine ⟨_, controlOf req _, op, ⟨rfl, rfl, rfl⟩, rfl, controlOf_type _, controlOf_command _, fun _ => ⟨?_, ?_⟩, fun ne => absurd get ne⟩
    · exact controlOf_rest _ 0
    · refine (controlOf_rest _ 1).trans ?_
      simp [byteAt, fieldN, natLe, leNat]
  · have answer : controlAnswer s req = sendControl s req [5] := by
      simp only [controlAnswer]
    rw [answer] at op
    exact ⟨_, controlOf req _, op, ⟨rfl, rfl, rfl⟩, rfl, controlOf_type _, controlOf_command _, fun eq => absurd eq get, fun _ => controlOf_rest _ 0⟩

theorem mctpOther_discards (h : Serves s .smbus) : exec (.mctpOther req) s = .next s := by
  refine congrArg Host.Outcome.next ?_
  split
  · rfl
  · next other =>
    rw [mctpIn_of_serves h, mctpServe, if_neg (by omega), if_neg (by omega)]

theorem mctpOther_waits (vin : s.dev.power.vin = true) (cool : s.dev.power.tripped = false) (rails : s.dev.power.rails ≠ .off)
    (boots : s.dev.power.booting = true) (control : byteAt req 0 % 128 ≠ 0) (spdm : byteAt req 0 % 128 ≠ 5) :
    exec (.mctpOther req) s = .next (on s { s.dev with power := { s.dev.power with mctpWait := s.dev.power.mctpWait ++ [req] } }) := by
  refine congrArg Host.Outcome.next ?_
  rw [if_neg (by omega), mctpIn]
  simp [vin, cool, rails, boots, on, onDev]

theorem alertResponse_low (h : alertLow s.dev = true) : exec .alertResponse s = .next (on s { s.dev with power := { s.dev.power with
    alerts := s.dev.power.alerts ++ [BitVec.ofNat 8 (2 * (0x34 + s.dev.power.straps % 4))] } }) :=
  congrArg (fun d => Host.Outcome.next (on s d)) (if_pos h)

theorem alertResponse_high (h : alertLow s.dev = false) : exec .alertResponse s = .next s :=
  congrArg (fun d => Host.Outcome.next (on s d)) (if_neg (by simp [h]))

end

/-- Settles O52, by the responder's answers to each request and the bus's to each control message. -/
theorem management : Obligations.Management := by
  unfold Obligations.Management
  refine ⟨fun s via req h => ⟨fun c row restarts => ?_, fun c row stopped => ?_, fun runs => ?_⟩, fun s req => ?_⟩
  · exact answers_of_error (by rw [spdmRow_served h row, spdmServe_restarting restarts])
  · rw [spdmRow_served h row, spdmServe_stopped stopped]
  · obtain ⟨versions, unsupported⟩ := spdmServe_answers (req := req) h runs
    exact ⟨versions, unsupported, fun version => ⟨getCapabilities_answers h runs version, negotiateAlgorithms_answers h runs version, fun negotiated =>
      ⟨getDigests_answers h runs version negotiated, getCertificate_answers h runs version negotiated, challenge_answers h runs version negotiated,
        getMeasurements_answers h runs version negotiated⟩⟩⟩
  · exact ⟨setEndpointId_sets, setEndpointId_other, mctpOther_discards, mctpOther_waits, rfl, alertResponse_low, alertResponse_high⟩

end Sys2Proof.Proofs

namespace Sys2Proof.Machine

open Sys2Proof.Claims

/-! ### What an image's measurement and start leave (R433, R438) -/

/-- Words that an extension and the start of an image write. -/
def bootOffs : List Nat := [0x100, 0x10C, 0x110, 0x114] ++ statOffs

/-- Slots but slot 0 are measured: slot 0 stands, the log begins as it was, and of the block proper only words and signals differ. -/
structure Measured (s t : State) : Prop where
  pending : t.pending = s.pending
  tap : t.tap = s.tap
  marks : Marks bootOffs s.dev t.dev
  log : s.meas.log <+: t.meas.log
  rom : slotOf t 0 = slotOf s 0

namespace Measured

theorem refl (s : State) : Measured s s := ⟨rfl, rfl, .refl _ _, List.prefix_rfl, rfl⟩

variable {s t u : State}

theorem trans (h : Measured s t) (g : Measured t u) : Measured s u :=
  ⟨g.pending.trans h.pending, g.tap.trans h.tap, h.marks.trans g.marks, h.log.trans g.log, g.rom.trans h.rom⟩

theorem onDev (h : Measured s t) {f : Dev → Dev} (marks : Marks bootOffs t.dev (f t.dev)) : Measured s (onDev t f) :=
  h.trans ⟨rfl, rfl, marks, List.prefix_rfl, rfl⟩

end Measured

theorem extend_marks (s : State) (slot etype target bank version : Nat) (v : BitVec 384) :
    (extend s slot etype target bank version v).pending = s.pending ∧ (extend s slot etype target bank version v).tap = s.tap ∧
    Marks bootOffs s.dev (extend s slot etype target bank version v).dev := by
  have counted : Marks bootOffs s.dev (count s.dev .meas 0 0x114 1) := (Marks.refl bootOffs s.dev).count ..
  unfold extend
  dsimp only
  split
  · exact ⟨rfl, rfl, (counted.count .meas 0 (off := 0x110) 1).setStat ..⟩
  · exact ⟨rfl, rfl, counted.count .meas 0 (off := 0x10C) 1⟩

theorem extend_log (s : State) (slot etype target bank version : Nat) (v : BitVec 384) :
    (extend s slot etype target bank version v).meas.log = if 4096 ≤ s.meas.log.length then s.meas.log
      else s.meas.log ++ [logEntry (s.meas.log.length + 1) slot etype target bank (sprNow s.dev) version v] := by
  rw [extend_meas]

theorem extend_measured (s : State) {slot : Nat} (other : slot ≠ 0) (etype target bank version : Nat) (v : BitVec 384) :
    Measured s (extend s slot etype target bank version v) := by
  obtain ⟨pending, tap, marks⟩ := extend_marks s slot etype target bank version v
  refine ⟨pending, tap, marks, ?_, (slotOf_extend ..).trans (if_neg other)⟩
  rw [extend_log]
  split
  · exact List.prefix_rfl
  · exact List.prefix_append ..

/-- The start of an image, from the measurement of its slot. -/
theorem startImage_eq (s : State) (n bank etype : Nat) : ∃ version digest, startImage s n bank etype =
    if imageSound s.dev bank n then (fwpStarted (extend s (n + 1) etype n bank version digest) n version, true)
    else (fwpRefused (extend s (n + 1) etype n bank version digest) n, false) := ⟨_, _, rfl⟩

theorem fwpStarted_measured (s : State) (n version : Nat) : Measured s (fwpStarted s n version) :=
  (Measured.refl s).onDev (((Marks.refl _ _).setLiveN .fwp n (off := 0x110) version).setLiveN .fwp n (off := 0x100) 0)

theorem fwpRefused_measured (s : State) (n : Nat) : Measured s (fwpRefused s n) :=
  (Measured.refl s).onDev (((Marks.refl _ _).setLiveN .fwp n (off := 0x100) 2).setStat ..)

/-- The image is measured first. -/
theorem startImage_measures (s : State) (n bank etype : Nat) : ∃ version digest,
    Measured (extend s (n + 1) etype n bank version digest) (startImage s n bank etype).1 := by
  obtain ⟨version, digest, eq⟩ := startImage_eq s n bank etype
  refine ⟨version, digest, ?_⟩
  rw [eq]
  split
  · exact fwpStarted_measured ..
  · exact fwpRefused_measured ..

theorem startImage_measured (s : State) (n bank etype : Nat) : Measured s (startImage s n bank etype).1 := by
  obtain ⟨version, digest, kept⟩ := startImage_measures s n bank etype
  exact (extend_measured s (Nat.succ_ne_zero n) etype n bank version digest).trans kept

theorem startImage_good (s : State) (n bank etype : Nat) : (startImage s n bank etype).2 = imageSound s.dev bank n := by
  obtain ⟨version, digest, eq⟩ := startImage_eq s n bank etype
  rw [eq]
  cases imageSound s.dev bank n <;> rfl

/-! ### The steps of boot (R432) -/

/-- The images of the other processors. -/
def otherImages (s : State) (bank : Nat) : State := [1, 2, 3, 4, 5].foldl (fun s n => (startImage s n bank 2).1) s

/-- The last step: basins and ports, READY, and the end of the reset. -/
def bootLast (d : Dev) (bank : Nat) : Dev :=
  let d := if fwpRuns d 1 then bootBasins d else d
  let d := setLiveN (bootPorts d) .rst 0 0x108 (1 + 8 * 2 + bank * 32)
  { d with power.booting := false }

/-- The images after FWP0's, with the last step. -/
def bootReady (s : State) (bank : Nat) : State := onDev (otherImages s bank) (bootLast · bank)

/-- Messages that waited for READY. -/
def bootAnswers (s : State) : State :=
  s.dev.power.mctpWait.foldl mctpServe (onDev s (fun d => { d with power.mctpWait := [] }))

/-- Boot ends at step 3. -/
def bootStopped (s : State) (bank : Nat) : State := onDev s (fun d => setLiveN d .rst 0 0x108 (3 * 2 + bank * 32))

/-- Boot once the boot ROM, the fuses and the configuration are measured. -/
def bootImages (s : State) (bank : Nat) : State :=
  let (s, good) := startImage s 0 bank 2
  if !good then bootStopped s bank else bootAnswers (bootReady s bank)

/-- What is measured before any image. -/
def bootMeasured (s : State) (bank : Nat) : State :=
  extend (extend (extend s 0 1 0xFF 0xFF 0 Config.romDigest) 7 4 0xFF 0xFF 0 Config.fuseDigest) 8 4 0xFF 0xFF 0 (Config.bootConfigDigest bank)

theorem bootOp_eq (s : State) : bootOp s =
    if !s.dev.power.booting ∨ !running s.dev ∨ s.dev.power.perst ∨ reg s .rst 0 0x108 ≠ 0 then s
    else if noMajority s.dev (regA .rst 0 0x10C) = true then onDev s (lostMark · (regA .rst 0 0x10C))
    else bootImages (bootMeasured s (reg s .rst 0 0x10C % 2)) (reg s .rst 0 0x10C % 2) := by
  unfold bootOp bootImages bootMeasured bootStopped bootAnswers bootReady bootLast otherImages reg
  dsimp only

/-- FWP0's image decides how far boot comes. -/
theorem bootImages_eq (s : State) (bank : Nat) : bootImages s bank =
    if imageSound s.dev bank 0 then bootAnswers (bootReady (startImage s 0 bank 2).1 bank)
    else bootStopped (startImage s 0 bank 2).1 bank := by
  rw [← startImage_good s 0 bank 2, bootImages]
  generalize startImage s 0 bank 2 = r
  obtain ⟨t, good⟩ := r
  cases good
  · simp only [Bool.not_false, if_true, Bool.false_eq_true, if_false]
  · simp only [Bool.not_true, if_true, Bool.false_eq_true, if_false]

/-! The log of a boot. -/

/-- The slots that the log names, in order. -/
def loggedSlots (s : State) : List Nat := s.meas.log.map (byteAt · 4)

theorem extend_logged {s : State} {slots : List Nat} (h : loggedSlots s = slots) (short : slots.length < 4096) {slot : Nat} (lt : slot < 256)
    (etype target bank version : Nat) (v : BitVec 384) : loggedSlots (extend s slot etype target bank version v) = slots ++ [slot] := by
  have len : s.meas.log.length = slots.length := by rw [← h, loggedSlots, List.length_map]
  rw [loggedSlots, extend_log, if_neg (by omega), List.map_append, ← h]
  exact congrArg (_ ++ [·]) (logEntry_slot _ _ _ _ _ _ _ _ lt)

theorem bootMeasured_logged {s : State} (empty : s.meas = ⟨[], [], []⟩) (bank : Nat) : loggedSlots (bootMeasured s bank) = [0, 7, 8] := by
  have none : loggedSlots s = [] := by rw [loggedSlots, empty]; rfl
  exact extend_logged (extend_logged (extend_logged none (by decide) (by decide) ..) (by decide) (by decide) ..) (by decide) (by decide) ..

theorem bootMeasured_rom {s : State} (empty : s.meas = ⟨[], [], []⟩) (bank : Nat) :
    slotOf (bootMeasured s bank) 0 = Sha.digest (slotBytes48 0 ++ slotBytes48 Config.romDigest) := by
  have zero : slotOf s 0 = 0 := by rw [slotOf, empty]; rfl
  rw [bootMeasured, slotOf_extend, if_neg (by decide), slotOf_extend, if_neg (by decide), slotOf_extend, if_pos rfl, zero]

theorem bootMeasured_marks (s : State) (bank : Nat) : (bootMeasured s bank).pending = s.pending ∧ (bootMeasured s bank).tap = s.tap ∧
    Marks bootOffs s.dev (bootMeasured s bank).dev := by
  obtain ⟨pending, tap, marks⟩ := extend_marks s 0 1 0xFF 0xFF 0 Config.romDigest
  have later := (extend_measured (extend s 0 1 0xFF 0xFF 0 Config.romDigest) (by decide : 7 ≠ 0) 4 0xFF 0xFF 0 Config.fuseDigest).trans
    (extend_measured _ (by decide : 8 ≠ 0) 4 0xFF 0xFF 0 (Config.bootConfigDigest bank))
  exact ⟨later.pending.trans pending, later.tap.trans tap, marks.trans later.marks⟩

/-- What is measured after FWP0's image comes behind the first four entries. -/
theorem startImage_logged {s t : State} (logged : loggedSlots s = [0, 7, 8]) (bank : Nat) (h : (startImage s 0 bank 2).1.meas.log <+: t.meas.log) :
    (t.meas.log.take 4).map (byteAt · 4) = [0, 7, 8, 1] := by
  obtain ⟨version, digest, measured⟩ := startImage_measures s 0 bank 2
  have four := extend_logged logged (by decide) (by decide : 0 + 1 < 256) 2 0 bank version digest
  have pre := (measured.log.trans h).map (byteAt · 4)
  rw [show List.map (byteAt · 4) _ = _ from four] at pre
  rw [List.map_take]
  exact (List.prefix_iff_eq_take.1 pre).symm

/-! The last step of boot changes no memory. -/

theorem foldl_part_kept {α β : Type} (part : Dev → β) {f : Dev → α → Dev} (step : ∀ d x, part (f d x) = part d) (xs : List α) (d : Dev) :
    part (xs.foldl f d) = part d := by
  induction xs generalizing d with
  | nil => rfl
  | cons x xs ih => exact (ih _).trans (step d x)

theorem restoreBasin_mem (d : Dev) (r : Nat × List Nat) : (restoreBasin d r).mem = d.mem := by
  unfold restoreBasin
  dsimp only
  split
  · rfl
  · rw [setBasin]
    refine (setStat_mem ..).trans (foldl_part_kept Dev.mem (fun e x => ?_) _ d)
    rfl

theorem bootBasins_mem (d : Dev) : (bootBasins d).mem = d.mem := by
  refine (foldl_part_kept Dev.mem restoreBasin_mem _ _).trans ?_
  split
  · rfl
  · rfl

theorem bootPorts_mem (d : Dev) : (bootPorts d).mem = d.mem := by
  unfold bootPorts
  split
  · rfl
  · refine foldl_part_kept Dev.mem (fun e q => ?_) _ d
    split
    · rfl
    · rfl

theorem bootLast_mem (d : Dev) (bank : Nat) : (bootLast d bank).mem = d.mem := by
  refine (bootPorts_mem _).trans ?_
  split
  · exact bootBasins_mem d
  · rfl

theorem otherImages_measured (s : State) (bank : Nat) : Measured s (otherImages s bank) := by
  have step (n : Nat) (t : State) : Measured t (startImage t n bank 2).1 := startImage_measured ..
  exact ((((step 1 s).trans (step 2 _)).trans (step 3 _)).trans (step 4 _)).trans (step 5 _)

theorem bootAnswers_told (s : State) : Told s (bootAnswers s) :=
  (show Told s (onDev s (fun d => { d with power.mctpWait := [] })) from ⟨rfl, rfl, rfl, rfl, rfl, rfl, rfl⟩).trans (Told.foldl_mctpServe _ _)

/-! Where boot stands. -/

theorem bootStopped_step (s : State) {bank : Nat} (lt : bank < 2) :
    isReady (bootStopped s bank).dev = false ∧ bitsOf (reg (bootStopped s bank) .rst 0 0x108) 4 1 = 3 := by
  have word : liveN (bootStopped s bank).dev .rst 0 0x108 = 3 * 2 + bank * 32 := liveN_setLiveN_self _ _ _ _ (by omega)
  rw [isReady, reg, word]
  interval_cases bank
  · decide
  · decide

theorem bootLast_step (d : Dev) {bank : Nat} (lt : bank < 2) :
    isReady (bootLast d bank) = true ∧ bitsOf (liveN (bootLast d bank) .rst 0 0x108) 4 1 = 8 := by
  have word : liveN (bootLast d bank) .rst 0 0x108 = 1 + 8 * 2 + bank * 32 := liveN_setLiveN_self _ _ _ _ (by omega)
  rw [isReady, word]
  interval_cases bank
  · decide
  · decide

/-- READY is set, and messages that waited are answered. -/
theorem bootAnswers_last (s : State) {bank : Nat} (lt : bank < 2) : ∃ t, bootAnswers (onDev s (bootLast · bank)) = t ∧ t.pending = s.pending ∧
    t.tap = s.tap ∧ t.meas = s.meas ∧ isReady t.dev = true ∧ bitsOf (reg t .rst 0 0x108) 4 1 = 8 ∧
    t.dev.power.booting = false ∧ t.dev.mem = s.dev.mem := by
  have told := bootAnswers_told (onDev s (bootLast · bank))
  obtain ⟨ready, step⟩ := bootLast_step s.dev lt
  have word : live (bootAnswers (onDev s (bootLast · bank))).dev (regA .rst 0 0x108) = live (bootLast s.dev bank) (regA .rst 0 0x108) :=
    live_congr told.regs _
  refine ⟨_, rfl, told.pending, told.tap, told.meas, ?_, ?_, told.booting, told.mem.trans (bootLast_mem s.dev bank)⟩
  · rw [isReady, liveN, word]; exact ready
  · rw [reg, liveN, word]; exact step

/-- The module runs on, and the measurements go on from FWP0's. -/
theorem bootReady_spec (s : State) {bank : Nat} (lt : bank < 2) : ∃ t, bootAnswers (bootReady s bank) = t ∧ t.pending = s.pending ∧ t.tap = s.tap ∧
    s.meas.log <+: t.meas.log ∧ slotOf t 0 = slotOf s 0 ∧ isReady t.dev = true ∧ bitsOf (reg t .rst 0 0x108) 4 1 = 8 ∧
    t.dev.power.booting = false ∧ t.dev.mem = s.dev.mem := by
  have images := otherImages_measured s bank
  rw [bootReady]
  generalize otherImages s bank = u at images
  obtain ⟨t, eq, pending, tap, meas, ready, step, done, mem⟩ := bootAnswers_last u lt
  exact ⟨t, eq, pending.trans images.pending, tap.trans images.tap, by rw [meas]; exact images.log, by rw [slotOf, meas]; exact images.rom,
    ready, step, done, mem.trans images.marks.mem⟩

end Sys2Proof.Machine

namespace Sys2Proof.Proofs

open Sys2Proof.Machine Sys2Proof.Claims

/-! ### O50: boot -/

theorem boot_over {s : State} (done : s.dev.power.booting = false) : exec .boot s = .next s :=
  congrArg Host.Outcome.next ((bootOp_eq s).trans (if_pos (.inl (by rw [done]; rfl))))

section
variable {s : State} (boots : s.dev.power.booting = true) (run : running s.dev = true) (out : s.dev.power.perst = false)
  (first : reg s .rst 0 0x108 = 0) (known : noMajority s.dev (regA .rst 0 0x10C) = false)
include boots run out first known

theorem boot_starts : bootOp s = bootImages (bootMeasured s (reg s .rst 0 0x10C % 2)) (reg s .rst 0 0x10C % 2) := by
  rw [bootOp_eq, if_neg, if_neg]
  · rw [known]; decide
  · rintro (h | h | h | h)
    · rw [boots] at h; cases h
    · rw [run] at h; cases h
    · rw [out] at h; cases h
    · exact h first

theorem boot_runs : ∃ t, exec .boot s = .next t ∧ t.pending = s.pending ∧ t.tap = s.tap ∧
    (s.meas = ⟨[], [], []⟩ → (t.meas.log.take 4).map (byteAt · 4) = [0, 7, 8, 1] ∧
      slotOf t 0 = Sha.digest (slotBytes48 0 ++ slotBytes48 Config.romDigest)) ∧
    (imageSound s.dev (reg s .rst 0 0x10C % 2) 0 = false →
      isReady t.dev = false ∧ bitsOf (reg t .rst 0 0x108) 4 1 = 3 ∧ t.dev.power.booting = true) ∧
    (imageSound s.dev (reg s .rst 0 0x10C % 2) 0 = true → s.dev.power.mctpWait = [] →
      isReady t.dev = true ∧ bitsOf (reg t .rst 0 0x108) 4 1 = 8 ∧ t.dev.power.booting = false ∧ t.dev.mem.flash = s.dev.mem.flash) := by
  have op := congrArg (Host.Outcome.next (φ := Fault) (ρ := Refusal)) (boot_starts boots run out first known)
  have lt : reg s .rst 0 0x10C % 2 < 2 := Nat.mod_lt _ (by decide)
  generalize reg s .rst 0 0x10C % 2 = bank at op lt ⊢
  obtain ⟨pending, tap, marks⟩ := bootMeasured_marks s bank
  have image := startImage_measured (bootMeasured s bank) 0 bank 2
  have logs (t : State) (empty : s.meas = ⟨[], [], []⟩) := startImage_logged (t := t) (bootMeasured_logged empty bank) bank
  have sound : imageSound (bootMeasured s bank).dev bank 0 = imageSound s.dev bank 0 :=
    imageSound_congr (by rw [marks.flash]) (by rw [marks.flash]) _ _
  have rom (empty : s.meas = ⟨[], [], []⟩) := image.rom.trans (bootMeasured_rom empty bank)
  rw [bootImages_eq, sound] at op
  generalize (startImage (bootMeasured s bank) 0 bank 2).1 = u at op image logs rom
  cases good : imageSound s.dev bank 0
  · rw [good, if_neg (by decide)] at op
    obtain ⟨ready, step⟩ := bootStopped_step u lt
    exact ⟨_, op, image.pending.trans pending, image.tap.trans tap, fun empty => ⟨logs _ empty List.prefix_rfl, rom empty⟩,
      fun _ => ⟨ready, step, (congrArg Power.booting (image.marks.power.trans marks.power)).trans boots⟩, nofun⟩
  · rw [good, if_pos rfl] at op
    obtain ⟨t, eq, pending', tap', log, slot, ready, step, over', mem⟩ := bootReady_spec u lt
    rw [eq] at op
    exact ⟨t, op, pending'.trans (image.pending.trans pending), tap'.trans (image.tap.trans tap),
      fun empty => ⟨logs t empty log, slot.trans (rom empty)⟩, nofun,
      fun _ _ => ⟨ready, step, over', congrArg (fun m => m.flash) (mem.trans (image.marks.mem.trans marks.mem))⟩⟩

end

/-- Settles O50, by what FWP0's image decides. -/
theorem boot : Obligations.Boot := by
  unfold Obligations.Boot
  exact fun s => ⟨boot_over, boot_runs⟩

end Sys2Proof.Proofs

namespace Sys2Proof.Machine

open Sys2Proof.Claims

/-! ### Scans (R482) -/

section
variable {s : State}

theorem setIr_dark (dark : s.dev.power.rails ≠ .good) (ir : Nat) : setIr s ir = s := if_pos (by simp [tapOn, dark])

variable (up : s.dev.power.rails = .good)
include up

theorem tapOn_up : tapOn s.dev = true := by simp [tapOn, up]

/-- The instruction with which the register acts once it is selected. -/
def actingIr (d : Dev) (ir : Nat) : Nat := if [3, 4, 5].contains ir && !d.power.perst then 0xFF else ir

/-- The instruction is selected, and its register captures. -/
theorem setIr_up (ir : Nat) : setIr s ir = { s with
    tap := { s.tap with ir := ir, irOut := scanBits 8 1, drOut := drCapture { s with tap := { s.tap with ir := ir } } }
    dev := if [2, 3].contains (actingIr s.dev ir) then { s.dev with fresh := s.dev.fresh + 5 } else s.dev } := by
  rw [setIr, if_neg (by simp [tapOn_up up])]
  rfl

end

theorem drCapture_selected (s : State) (ir : Nat) : drCapture { s with tap := { s.tap with ir := ir } } =
    match actingIr s.dev ir with
    | 1 => scanBits 32 idcodeWord.toNat
    | 2 | 3 => contacts s.dev
    | _ => [false] := rfl

/-! ### Core debug (R483) -/

theorem debugCore_setDebug (d : Dev) (i : Nat) (k : CoreSt) (runs : Bool) : debugCore (setDebug d i k runs) i = (k, runs) := by
  have gone : (d.jobs.debugged.filter (fun x => !decide (x.1 = i))).find? (fun x => decide (x.1 = i)) = none := by
    simp [List.find?_eq_none]
  simp [debugCore, setDebug, List.find?_append, gone]

theorem xr_setX (k : CoreSt) {n : Nat} (pos : n ≠ 0) (v : W64) (m : Nat) : xr (setX k n v) m = if n = m then v else xr k m := by
  rw [setX, if_neg pos]
  by_cases zero : m = 0
  · rw [if_neg (by omega), xr, xr, if_pos zero, if_pos zero]
  · rw [xr, xr, if_neg zero, if_neg zero]
    exact SMap.get_set ..

theorem natLe_leNat (bs : List Byte) : natLe bs.length (leNat bs) = bs := by
  induction bs with
  | nil => rfl
  | cons b bs ih =>
    have low : (b.toNat + 256 * leNat bs) % 256 = b.toNat := by have := b.isLt; omega
    have high : (b.toNat + 256 * leNat bs) / 256 = leNat bs := by have := b.isLt; omega
    have head : BitVec.ofNat 8 (b.toNat + 256 * leNat bs) = b := BitVec.eq_of_toNat_eq ((BitVec.toNat_ofNat ..).trans low)
    rw [leNat, List.length_cons, natLe, high, ih, head]

/-- A debugger's access changes what the debugger has left of cores, and draws. -/
theorem debugAct_only (d : Dev) (i : Nat) (op : DebugOp) : ∃ n xs, (debugAct d i op).1 = { d with fresh := n, jobs := { d.jobs with debugged := xs } } := by
  cases op with
  | halt =>
    unfold debugAct
    dsimp only
    split
    · exact ⟨_, _, rfl⟩
    · exact ⟨_, _, rfl⟩
  | step =>
    unfold debugAct
    dsimp only
    split
    · exact ⟨_, _, rfl⟩
    · exact ⟨_, _, rfl⟩
  | resume => exact ⟨_, _, rfl⟩
  | start pc => exact ⟨_, _, rfl⟩
  | read r => exact ⟨_, _, rfl⟩
  | write r v => exact ⟨_, _, rfl⟩
  | readTarn a n => exact ⟨_, _, rfl⟩
  | writeTarn a v => exact ⟨_, _, rfl⟩

end Sys2Proof.Machine

namespace Sys2Proof.Proofs

open Sys2Proof.Machine Sys2Proof.Claims

/-! ### O51: the TAP -/

section
variable {s : State} (up : s.dev.power.rails = .good)
include up

theorem trst_selects : exec .trst s = .next { s with tap := { s.tap with ir := 1, debug := none } } :=
  congrArg Host.Outcome.next (if_pos (tapOn_up up))

theorem idcode_selects : exec .idcode s = .next { s with tap := { s.tap with ir := 1, irOut := scanBits 8 1, drOut := scanBits 32 0x11024347 } } :=
  congrArg Host.Outcome.next (setIr_up up 1)

theorem bypass_selects : exec .bypass s = .next { s with tap := { s.tap with ir := 0xFF, irOut := scanBits 8 1, drOut := [false] } } :=
  congrArg Host.Outcome.next (setIr_up up 0xFF)

theorem samplePreload_selects (bits : List Bool) : ∃ t, exec (.samplePreload bits) s = .next t ∧
    t = { s with tap := t.tap, dev := { s.dev with fresh := t.dev.fresh } } ∧ t.tap.ir = 2 ∧
    t.tap.irOut = scanBits 8 1 ∧ t.tap.drOut = contacts s.dev ∧ t.tap.drOut.getD 1 false = s.dev.power.pwrGood ∧
    t.tap.drOut.getD 2 false = !s.dev.power.perst ∧ t.tap.boundary.length = 15 ∧
    ∀ i, i < 15 → t.tap.boundary.getD i false = bits.getD i false := by
  have op := setIr_up up 2
  refine ⟨_, congrArg Host.Outcome.next (if_pos (tapOn_up up)), ?_⟩
  rw [op]
  refine ⟨rfl, rfl, rfl, rfl, rfl, rfl, ?_, fun i lt => ?_⟩
  · simp [scanCells]
  · simp [List.getD, scanCells, lt]

/-- EXTEST acts only under PERST#, and captures the contacts then. -/
theorem extest_selects : ∃ t, exec .extest s = .next t ∧ t = { s with tap := t.tap, dev := { s.dev with fresh := t.dev.fresh } } ∧
    tapActs t = (if s.dev.power.perst then 3 else 0xFF) ∧ t.tap.irOut = scanBits 8 1 ∧
    t.tap.drOut = if s.dev.power.perst then contacts s.dev else [false] := by
  have op := setIr_up up 3
  rw [drCapture_selected] at op
  refine ⟨_, congrArg Host.Outcome.next op, ?_⟩
  cases perst : s.dev.power.perst
  · have acting : actingIr s.dev 3 = 0xFF := by simp [actingIr, perst]
    simp [acting, tapActs, perst]
  · have acting : actingIr s.dev 3 = 3 := by simp [actingIr, perst]
    simp [acting, tapActs, perst]

/-- HIGHZ and CLAMP act only under PERST#; neither captures. -/
theorem setIr_holds {ir : Nat} (named : ir = 4 ∨ ir = 5) : ∃ t, setIr s ir = t ∧ t = { s with tap := t.tap } ∧
    tapActs t = (if s.dev.power.perst then ir else 0xFF) ∧ t.tap.irOut = scanBits 8 1 ∧ t.tap.drOut = [false] := by
  have op := setIr_up up ir
  rw [drCapture_selected] at op
  refine ⟨_, op, ?_⟩
  cases perst : s.dev.power.perst
  · have acting : actingIr s.dev ir = 0xFF := by rcases named with rfl | rfl <;> simp [actingIr, perst]
    rcases named with rfl | rfl <;> simp [acting, tapActs, perst]
  · have acting : actingIr s.dev ir = ir := by simp [actingIr, perst]
    rcases named with rfl | rfl <;> simp [acting, tapActs, perst]

theorem highz_selects : ∃ t, exec .highz s = .next t ∧ t = { s with tap := t.tap } ∧
    tapActs t = (if s.dev.power.perst then 4 else 0xFF) ∧ t.tap.irOut = scanBits 8 1 ∧ t.tap.drOut = [false] := by
  obtain ⟨t, op, spec⟩ := setIr_holds up (.inl rfl)
  exact ⟨t, congrArg Host.Outcome.next op, spec⟩

theorem clamp_selects : ∃ t, exec .clamp s = .next t ∧ t = { s with tap := t.tap } ∧
    tapActs t = (if s.dev.power.perst then 5 else 0xFF) ∧ t.tap.irOut = scanBits 8 1 ∧ t.tap.drOut = [false] := by
  obtain ⟨t, op, spec⟩ := setIr_holds up (.inr rfl)
  exact ⟨t, congrArg Host.Outcome.next op, spec⟩

variable {m core : Nat}

/-- CORE_DEBUG misses a core that is not OFFLINE. -/
theorem coreDebug_misses (held : coreStateWord s.dev (264 * m + core) ≠ 5) (op : DebugOp) : exec (.coreDebug m core op) s =
    .next { s with tap := { s.tap with ir := 0x20, irOut := scanBits 8 1, debug := none, read := List.replicate (debugLen op) 0 } } :=
  congrArg Host.Outcome.next ((if_neg (by simp [tapOn_up up])).trans (if_neg fun h => held h.2.2))

section
variable (hm : m < 4) (hc : core < 264) (offline : coreStateWord s.dev (264 * m + core) = 5)
include hm hc offline

theorem coreDebug_reaches (op : DebugOp) : exec (.coreDebug m core op) s = .next { s with
    dev := (debugAct s.dev (264 * m + core) op).1
    tap := { s.tap with ir := 0x20, irOut := scanBits 8 1, debug := some (264 * m + core), read := (debugAct s.dev (264 * m + core) op).2 } } :=
  congrArg Host.Outcome.next ((if_neg (by simp [tapOn_up up])).trans (if_pos ⟨hm, hc, offline⟩))

theorem coreDebug_only (op : DebugOp) : ∃ t, exec (.coreDebug m core op) s = .next t ∧ t.pending = s.pending ∧ t.meas = s.meas ∧ t.tap.ir = 0x20 ∧
    t.tap.debug = some (264 * m + core) ∧
    t.dev = { s.dev with fresh := t.dev.fresh, jobs := { s.dev.jobs with debugged := t.dev.jobs.debugged } } := by
  obtain ⟨n, xs, only⟩ := debugAct_only s.dev (264 * m + core) op
  have reaches := coreDebug_reaches up hm hc offline op
  rw [only] at reaches
  exact ⟨_, reaches, rfl, rfl, rfl, rfl, rfl⟩

theorem coreDebug_writes {n : Nat} {v : List Byte} (pos : n ≠ 0) (len : v.length = 8) : ∃ t, exec (.coreDebug m core (.write (.x n) v)) s = .next t ∧
    debugRead (debugCore t.dev (264 * m + core)).1 (.x n) = v ∧
    ∀ k, k < 32 → k ≠ n → debugRead (debugCore t.dev (264 * m + core)).1 (.x k) = debugRead (debugCore s.dev (264 * m + core)).1 (.x k) := by
  refine ⟨_, coreDebug_reaches up hm hc offline _, ?_, fun k _ ne => ?_⟩
  · have small : leNat v < 2 ^ 64 := by simpa [len] using leNat_lt v
    have bytes := natLe_leNat v
    rw [len] at bytes
    simp only [debugAct, debugCore_setDebug, debugRead, debugWrite, xr_setX _ pos, if_true, BitVec.toNat_ofNat, Nat.mod_eq_of_lt small, bytes]
  · simp only [debugAct, debugCore_setDebug, debugRead, debugWrite, xr_setX _ pos, if_neg ne.symm]

end

end

/-- Without rails the TAP is dead. -/
theorem tap_dark {s : State} (dark : s.dev.power.rails ≠ .good) (bits : List Bool) (m core : Nat) (op : DebugOp) :
    ∀ c ∈ [Instr.trst, .idcode, .bypass, .samplePreload bits, .extest, .highz, .clamp, .coreDebug m core op], exec c s = .next s := by
  have off : tapOn s.dev = false := by simp [tapOn, dark]
  have kept (ir : Nat) : okS (setIr s ir) = .next s := congrArg Host.Outcome.next (setIr_dark dark ir)
  intro c mem
  simp only [List.mem_cons, List.not_mem_nil, or_false] at mem
  rcases mem with rfl | rfl | rfl | rfl | rfl | rfl | rfl | rfl
  · exact congrArg Host.Outcome.next (if_neg (by simp [off]))
  · exact kept 1
  · exact kept 0xFF
  · exact congrArg Host.Outcome.next (if_neg (by simp [off]))
  · exact kept 3
  · exact kept 4
  · exact kept 5
  · exact congrArg Host.Outcome.next (if_pos (by simp [off]))

/-- Settles O51, by what the selected instruction captures and by what a debugger's access changes. -/
theorem tapInstructions : Obligations.TapInstructions := by
  unfold Obligations.TapInstructions
  exact fun s bits m core op => ⟨fun up => ⟨trst_selects up, idcode_selects up, bypass_selects up, samplePreload_selects up bits, extest_selects up,
    highz_selects up, clamp_selects up, fun hm hc offline => ⟨coreDebug_only up hm hc offline op,
      fun r => ⟨_, coreDebug_reaches up hm hc offline (.read r), rfl, rfl⟩, fun n v pos _ len => coreDebug_writes up hm hc offline pos len⟩,
    fun held => coreDebug_misses up held op⟩, fun dark => tap_dark dark bits m core op⟩

end Sys2Proof.Proofs

namespace Sys2Proof.Machine

open Sys2Proof.Claims

/-! ### Programs (R381, R386) -/

/-- A program wears the flash: it takes spare blocks, and words and signals tell it. -/
theorem wear_spec (d : Dev) : ∃ n k, Marks statOffs { d with fresh := n, mem := { d.mem with spare := k } } (wear d) := by
  refine ⟨d.fresh + 1, min d.mem.spare (Config.sparePct d.fresh), ?_⟩
  have drawn := Marks.refl statOffs { d with fresh := d.fresh + 1, mem := { d.mem with spare := min d.mem.spare (Config.sparePct d.fresh) } }
  unfold wear
  exact .ite ((Marks.ite (drawn.setStat ..) drawn).setStat ..) (.ite (drawn.setStat ..) drawn)

/-- A program gives the sector a fresh page; the sector is no longer one of an erased page. -/
theorem programSector_spec (d : Dev) (b s : Nat) : ∃ n k p w, Marks statOffs { d with fresh := n, mem := { d.mem with spare := k } } w ∧
    programSector d b s = { w with
      fresh := w.fresh + 1,
      mem := { w.mem with place := d.mem.place.filter (fun x => !decide (x.1 = b ∧ x.2.1 = s)) ++ [(b, s, p)] },
      flash := { w.flash with erased := d.flash.erased.filter (fun x => !decide (x = (b, s))) } } := by
  obtain ⟨n, k, worn⟩ := wear_spec d
  refine ⟨n, k, newPlace (draw (wear d)).2 (wear d).fresh, wear d, worn, ?_⟩
  rw [← show (wear d).mem.place = d.mem.place from congrArg (fun m => m.place) worn.mem,
    ← show (wear d).flash.erased = d.flash.erased from congrArg (fun f => f.erased) worn.flash]
  rfl

theorem programSector_mem (d : Dev) (b s : Nat) : ∃ k ps, (programSector d b s).mem = { d.mem with spare := k, place := ps } := by
  obtain ⟨n, k, p, w, worn, eq⟩ := programSector_spec d b s
  exact ⟨k, _, by rw [eq, worn.mem]⟩

/-! ### Keys of a namespace -/

theorem nsKey_lt {b x c y n : Nat} (hx : x < 2 ^ 50) (hy : y + n ≤ 2 ^ 50) : (nsKey c y ≤ nsKey b x ∧ nsKey b x < nsKey c y + n) ↔ b = c ∧ y ≤ x ∧ x < y + n := by
  unfold nsKey
  omega

theorem readN_getD (m : Mem) (a : Nat) {i n : Nat} (lt : i < n) : (Mem.readN m a n).getD i 0 = Mem.read m (a + i) := by
  induction n generalizing a i with
  | zero => omega
  | succ n ih =>
    cases i with
    | zero => rfl
    | succ i =>
      refine (ih (a + 1) (Nat.lt_of_succ_lt_succ lt)).trans ?_
      rw [Nat.add_assoc, Nat.add_comm 1]

theorem length_readN (m : Mem) (a n : Nat) : (Mem.readN m a n).length = n := by
  induction n generalizing a with
  | zero => rfl
  | succ n ih => exact congrArg (· + 1) (ih (a + 1))

/-! ### A sector goes to flash (R378) -/

theorem flushSector_mem {d : Dev} {b s : Nat} (dirty : (b, s) ∈ d.mem.dirty) : ∃ k ps, (flushSector d b s).mem = { d.mem with
    spare := k, place := ps
    flash := Mem.writeL d.mem.flash (nsKey b (s * 4096)) (Mem.readN d.mem.wcache (nsKey b (s * 4096)) 4096)
    wcache := Mem.clear d.mem.wcache (nsKey b (s * 4096)) (nsKey b (s * 4096) + 4096)
    dirty := d.mem.dirty.filter (fun x => !decide (x = (b, s)))
    unreadable := d.mem.unreadable.filter (fun x => !decide (x = (b, s))) } := by
  obtain ⟨k, ps, mem⟩ := programSector_mem d b s
  refine ⟨k, ps, ?_⟩
  rw [flushSector, if_pos (List.contains_iff_mem.2 dirty)]
  dsimp only
  rw [mem]

/-- Flushing changes where a sector lies and no byte that anyone reads. -/
theorem nsByte_flushSector {d : Dev} {b s c x : Nat} (dirty : (b, s) ∈ d.mem.dirty) (hs : s < 2 ^ 38) (hx : x < 2 ^ 50) :
    nsByte (flushSector d b s) c x = nsByte d c x := by
  obtain ⟨k, ps, mem⟩ := flushSector_mem dirty
  have range := nsKey_lt (b := c) (c := b) (n := 4096) hx (show s * 4096 + 4096 ≤ 2 ^ 50 by omega)
  have others {xs : List (Nat × Nat)} (ne : (c, x / 4096) ≠ (b, s)) :
      (xs.filter (fun x => !decide (x = (b, s)))).contains (c, x / 4096) = xs.contains (c, x / 4096) := by
    rw [Bool.eq_iff_iff, List.contains_iff_mem, List.contains_iff_mem, List.mem_filter]
    simp [ne]
  unfold nsByte poisoned
  rw [mem]
  dsimp only
  by_cases same : (c, x / 4096) = (b, s)
  · obtain ⟨rfl, rfl⟩ := Prod.mk.inj same
    obtain ⟨i, lt, at'⟩ : ∃ i, i < 4096 ∧ nsKey c x = nsKey c (x / 4096 * 4096) + i := ⟨x % 4096, Nat.mod_lt _ (by decide), by unfold nsKey; omega⟩
    have gone {xs : List (Nat × Nat)} : (xs.filter (fun y => !decide (y = (c, x / 4096)))).contains (c, x / 4096) = false := by
      simp
    have byte : Mem.read (Mem.writeL d.mem.flash (nsKey c (x / 4096 * 4096)) (Mem.readN d.mem.wcache (nsKey c (x / 4096 * 4096)) 4096)) (nsKey c x) =
        Mem.read d.mem.wcache (nsKey c x) := by
      rw [at', Mem.read_writeL _ _ _ _ (by rw [length_readN]; exact lt), readN_getD _ _ lt]
    simp only [gone, List.contains_iff_mem.2 dirty, byte, Bool.not_true, Bool.not_false, Bool.and_false, Bool.false_and, Bool.false_eq_true, if_false, if_true]
  · have outside : ¬(nsKey b (s * 4096) ≤ nsKey c x ∧ nsKey c x < nsKey b (s * 4096) + 4096) := by
      rw [range]
      rintro ⟨rfl, lo, hi⟩
      exact same (by rw [show x / 4096 = s by omega])
    have flash := Mem.read_writeL_of_not_mem d.mem.flash (nsKey b (s * 4096)) (nsKey c x) (Mem.readN d.mem.wcache (nsKey b (s * 4096)) 4096)
      (by rw [length_readN]; omega)
    have cache := (Mem.read_clear d.mem.wcache (nsKey b (s * 4096)) (nsKey b (s * 4096) + 4096) (nsKey c x)).trans (if_neg outside)
    rw [others same, others same]
    cases d.mem.dirty.contains (c, x / 4096)
    · simp only [flash, Bool.false_eq_true, if_false]
    · simp only [cache, if_true]

/-! ### A row goes to the pool (R379) -/

theorem writeBackOp_sector (d : Dev) (owner unit : Nat) : writeBackOp d false owner unit =
    if fwpRuns d 2 && decide (d.mem.dirty.head? = some (owner, unit)) then flushSector d owner unit else d := rfl

theorem writeBackOp_row (d : Dev) (owner unit : Nat) : writeBackOp d true owner unit =
    if rowPortsUp d owner && !d.eng.rowsHeld.contains (owner, unit) && decide (oldestRow d owner = some (owner, unit))
    then cleanRows d (fun e => decide (e = (owner, unit))) else d := rfl

theorem cleanRows_clean (d : Dev) (w : Nat × Nat) : ∀ e ∈ (cleanRows d (fun e => decide (e = w))).eng.rowCache, (e.1, e.2.1) = w → e.2.2 = false := by
  intro e mem eq
  obtain ⟨f, -, rfl⟩ := List.mem_map.1 mem
  by_cases named : (f.1, f.2.1) = w
  · simp [named]
  · simp only [named, decide_false, Bool.false_eq_true, if_false] at eq

end Sys2Proof.Machine

namespace Sys2Proof.Proofs

open Sys2Proof.Machine Sys2Proof.Claims

/-! ### O34: write-backs -/

section
variable {s : State} {owner unit : Nat}

theorem writeBack_sectorWaits (waits : ¬(fwpRuns s.dev 2 = true ∧ s.dev.mem.dirty.head? = some (owner, unit))) :
    exec (.writeBack false owner unit) s = .next s :=
  congrArg (fun d => Host.Outcome.next (on s d)) ((writeBackOp_sector ..).trans (if_neg (by simpa using waits)))

theorem writeBack_sector (runs : fwpRuns s.dev 2 = true) (first : s.dev.mem.dirty.head? = some (owner, unit)) (lt : unit < 2 ^ 38) :
    ∃ t, exec (.writeBack false owner unit) s = .next t ∧ Aside s t ∧ (owner, unit) ∉ t.dev.mem.dirty ∧
      (∀ b x, x < 2 ^ 50 → nsByte t.dev b x = nsByte s.dev b x) ∧ t.dev.mem.hbm = s.dev.mem.hbm ∧ t.dev.mem.pool = s.dev.mem.pool := by
  have op : writeBackOp s.dev false owner unit = flushSector s.dev owner unit :=
    (writeBackOp_sector ..).trans (if_pos (by simp [runs, first]))
  have dirty : (owner, unit) ∈ s.dev.mem.dirty := List.mem_of_mem_head? first
  obtain ⟨k, ps, mem⟩ := flushSector_mem dirty
  refine ⟨_, congrArg (fun d => Host.Outcome.next (on s d)) op, ⟨rfl, rfl, rfl⟩, ?_, fun b x hx => nsByte_flushSector dirty lt hx, ?_, ?_⟩
  · intro m
    rw [show (on s (flushSector s.dev owner unit)).dev.mem = _ from mem] at m
    simp at m
  · exact congrArg (fun m => m.hbm) mem
  · exact congrArg (fun m => m.pool) mem

theorem writeBack_rowWaits (waits : oldestRow s.dev owner ≠ some (owner, unit) ∨ s.dev.eng.rowsHeld.contains (owner, unit) = true) :
    exec (.writeBack true owner unit) s = .next s :=
  congrArg (fun d => Host.Outcome.next (on s d)) ((writeBackOp_row ..).trans (if_neg (by
    simp only [Bool.and_eq_true, Bool.not_eq_true', decide_eq_true_eq]
    rintro ⟨⟨-, free⟩, oldest⟩
    rcases waits with other | held
    · exact other oldest
    · rw [free] at held; cases held)))

theorem writeBack_row (up : rowPortsUp s.dev owner = true) (free : s.dev.eng.rowsHeld.contains (owner, unit) = false)
    (oldest : oldestRow s.dev owner = some (owner, unit)) : ∃ t, exec (.writeBack true owner unit) s = .next t ∧ Aside s t ∧
      (∀ e ∈ t.dev.eng.rowCache, e.1 = owner → e.2.1 = unit → e.2.2 = false) ∧ t.dev.mem = s.dev.mem ∧ t.dev.regs = s.dev.regs := by
  have op : writeBackOp s.dev true owner unit = cleanRows s.dev (fun e => decide (e = (owner, unit))) :=
    (writeBackOp_row ..).trans (if_pos (by rw [up, free, oldest]; simp))
  refine ⟨_, congrArg (fun d => Host.Outcome.next (on s d)) op, ⟨rfl, rfl, rfl⟩, fun e mem first second => ?_, rfl, rfl⟩
  exact cleanRows_clean _ _ e mem (by rw [first, second])

end

/-- Settles O34: what a write-back moves reads from its new place as it did. -/
theorem writeBacks : Obligations.WriteBacks := by
  unfold Obligations.WriteBacks
  exact fun s owner unit => ⟨fun stopped => writeBack_sectorWaits (by simp [stopped]), fun other => writeBack_sectorWaits (by simp [other]),
    writeBack_sector, writeBack_rowWaits, writeBack_row⟩

end Sys2Proof.Proofs

namespace Sys2Proof.Machine

open Sys2Proof.Claims

/-! ### A die as it is used (R402) -/

theorem dieCopies_congr {d e : Dev} (tmr : e.flash.dieTmr = d.flash.dieTmr) (n : Nat) : dieCopies e n = dieCopies d n := by
  simp only [dieCopies, tmr]

theorem dieEpoch_congr {d e : Dev} (dies : e.flash.dies = d.flash.dies) (tmr : e.flash.dieTmr = d.flash.dieTmr) (n : Nat) : dieEpoch e n = dieEpoch d n := by
  simp only [dieEpoch, dieCopies_congr tmr, dieRaw, dies]

theorem dieAt_congr {d e : Dev} (dies : e.flash.dies = d.flash.dies) (tmr : e.flash.dieTmr = d.flash.dieTmr) (n : Nat) : dieAt e n = dieAt d n := by
  simp only [dieAt, dieEpoch_congr dies tmr, dieRaw, dies]

theorem dieEpoch_setDie_kept {d : Dev} {n : Nat} {v : Die} (kept : v.epoch = (dieAt d n).epoch) : dieEpoch (setDie d n v) n = dieEpoch d n := by
  simp only [setDie, decide_eq_true kept, if_true, dieEpoch, dieCopies_putDie_self, dieRaw_putDie]

/-- A die reads as it has been written. -/
theorem dieAt_setDie_self (d : Dev) (n : Nat) (v : Die) : dieAt (setDie d n v) n = v := by
  by_cases kept : v.epoch = (dieAt d n).epoch
  · have raw : dieRaw (setDie d n v) n = { v with epoch := (dieRaw d n).epoch } := by
      simp only [setDie, decide_eq_true kept, if_true, dieRaw_putDie]
    rw [dieAt, dieEpoch_setDie_kept kept, raw]
    obtain ⟨state, epoch, fails⟩ := v
    exact congrArg (Die.mk state · fails) kept.symm
  · have eq : setDie d n v = putDie d n v none := by simp only [setDie, decide_eq_false kept, Bool.false_eq_true, if_false]
    rw [eq, dieAt_of_none (dieCopies_putDie_self ..), dieRaw_putDie, if_pos rfl]

theorem dieAt_setDie_ne (d : Dev) {n k : Nat} (v : Die) (ne : k ≠ n) : dieAt (setDie d n v) k = dieAt d k := by
  simp only [setDie, dieAt, dieEpoch, dieCopies_putDie_ne _ _ _ ne.symm, dieRaw_putDie, if_neg ne.symm]

theorem sectorDie_congr {d e : Dev} (place : e.mem.place = d.mem.place) (b s : Nat) : sectorDie e b s = sectorDie d b s := by
  simp only [sectorDie, sectorPlace, place]

theorem onDie_congr {d e : Dev} (alloc : e.mem.alloc = d.mem.alloc) (place : e.mem.place = d.mem.place) (erased : e.flash.erased = d.flash.erased) (n : Nat) :
    onDie e n = onDie d n := by
  simp only [onDie, alloc, erased, sectorDie_congr place]

/-! ### Sectors move (R381) -/

/-- Sectors move: where they lie and how many spare blocks remain changes, with words and signals of status; no die does. -/
structure Moved (d e : Dev) : Prop where
  mem : ∃ k ps, e.mem = { d.mem with spare := k, place := ps }
  dies : e.flash.dies = d.flash.dies
  dieTmr : e.flash.dieTmr = d.flash.dieTmr
  reqs : e.reqs = d.reqs
  word : ∀ k i off, off < 0x1000 → off ∉ statOffs → live e (regA k i off) = live d (regA k i off)

namespace Moved

variable {d e f : Dev}

theorem refl (d : Dev) : Moved d d := ⟨⟨_, _, rfl⟩, rfl, rfl, rfl, fun _ _ _ _ _ => rfl⟩

theorem trans (h : Moved d e) (g : Moved e f) : Moved d f := by
  obtain ⟨⟨k, ps, mem⟩, dies, tmr, reqs, word⟩ := h
  obtain ⟨⟨k', ps', mem'⟩, dies', tmr', reqs', word'⟩ := g
  exact ⟨⟨k', ps', by rw [mem', mem]⟩, dies'.trans dies, tmr'.trans tmr, reqs'.trans reqs, fun k i off lt out => (word' k i off lt out).trans (word k i off lt out)⟩

theorem dieAt (h : Moved d e) (n : Nat) : dieAt e n = dieAt d n := dieAt_congr h.dies h.dieTmr n

theorem alloc (h : Moved d e) : e.mem.alloc = d.mem.alloc := by obtain ⟨⟨k, ps, mem⟩, _⟩ := h; rw [mem]

theorem flash (h : Moved d e) : e.mem.flash = d.mem.flash := by obtain ⟨⟨k, ps, mem⟩, _⟩ := h; rw [mem]

theorem programSector (d : Dev) (b s : Nat) : Moved d (programSector d b s) := by
  obtain ⟨n, k, p, w, worn, eq⟩ := programSector_spec d b s
  rw [eq]
  exact ⟨⟨k, _, by rw [worn.mem]⟩, congrArg (fun f => f.dies) worn.flash, congrArg (fun f => f.dieTmr) worn.flash, worn.reqs,
    fun k i off lt out => worn.word k i lt out⟩

theorem relocate (d : Dev) (b s : Nat) : Moved d (relocate d b s) := by
  unfold Machine.relocate
  split
  · exact refl d
  · split
    · exact programSector d b s
    · exact ⟨⟨_, _, rfl⟩, rfl, rfl, rfl, fun _ _ _ _ _ => rfl⟩

theorem foldl_relocate (xs : List (Nat × Nat)) (d : Dev) : Moved d (xs.foldl (fun d x => Machine.relocate d x.1 x.2) d) := by
  induction xs generalizing d with
  | nil => exact refl d
  | cons x xs ih => exact (relocate d x.1 x.2).trans (ih _)

end Moved

/-- Words and signals that a die's declaration changes. -/
def dieOffs : List Nat := 0x10C :: statOffs

/-! ### Declaration, relocation and readmission (R403, R407, R412) -/

/-- A die in service whose epoch has a majority is fenced. -/
theorem declareDie_spec {d : Dev} {n : Nat} (lt : n < 256) (service : (dieAt d n).state = 0) (epoch : dieEpoch d n ≠ none) (cause : Nat) :
    dieAt (declareDie d n cause) n = ⟨2, ((dieAt d n).epoch + 1) % 65536, (dieAt d n).fails⟩ ∧
    (∀ k, k ≠ n → dieAt (declareDie d n cause) k = dieAt d k) ∧ (declareDie d n cause).mem.flash = d.mem.flash := by
  have marks := ((Marks.refl dieOffs (setDie d n ⟨2, ((dieAt d n).epoch + 1) % 65536, (dieAt d n).fails⟩)).setStat .flch (n % 32) 2 0 noTag
    (BitVec.ofNat 32 (n / 32)) 0).logEvent 0xC (pageNo .flch (n % 32)) 0xFF noTag n cause (((dieAt d n).epoch + 1) % 65536)
  have at' (e : Dev) (flash : e.flash = (setDie d n ⟨2, ((dieAt d n).epoch + 1) % 65536, (dieAt d n).fails⟩).flash) (k : Nat) :=
    dieAt_congr (congrArg (fun f => f.dies) flash) (congrArg (fun f => f.dieTmr) flash) k
  rw [declareDie, if_neg (by simp [service, epoch]; omega)]
  dsimp only
  split
  · exact ⟨(at' _ marks.flash n).trans (dieAt_setDie_self ..), fun k ne => (at' _ marks.flash k).trans (dieAt_setDie_ne _ _ ne),
      congrArg (fun m => m.flash) marks.mem⟩
  · exact ⟨(at' _ marks.flash n).trans (dieAt_setDie_self ..), fun k ne => (at' _ marks.flash k).trans (dieAt_setDie_ne _ _ ne),
      congrArg (fun m => m.flash) marks.mem⟩

theorem progFailOp_spec {d : Dev} {n : Nat} (lt : n < 256) (service : (dieAt d n).state = 0) (epoch : dieEpoch d n ≠ none) (page : Nat) :
    dieAt (progFailOp d n page) n = (if 64 ≤ (dieAt d n).fails + 1
      then ⟨2, ((dieAt d n).epoch + 1) % 65536, (dieAt d n).fails + 1⟩ else ⟨0, (dieAt d n).epoch, (dieAt d n).fails + 1⟩) ∧
    (progFailOp d n page).mem.flash = d.mem.flash := by
  have counted : dieAt (setDie d n { (dieAt d n) with fails := (dieAt d n).fails + 1 }) n = ⟨0, (dieAt d n).epoch, (dieAt d n).fails + 1⟩ := by
    rw [dieAt_setDie_self]
    exact congrArg (Die.mk · (dieAt d n).epoch ((dieAt d n).fails + 1)) service
  have marks := (Marks.refl statOffs (setDie d n { (dieAt d n) with fails := (dieAt d n).fails + 1 })).setStat .flch (n % 32) 1 0 noTag
    (BitVec.ofNat 32 (n / 32 + page * 8)) 0
  have known := dieEpoch_setDie_kept (d := d) (n := n) (v := { (dieAt d n) with fails := (dieAt d n).fails + 1 }) rfl
  rw [progFailOp, if_neg (by simp [service]; omega)]
  dsimp only
  generalize setStat _ _ _ _ _ _ _ _ = e at marks ⊢
  have dies := congrArg (fun f => f.dies) marks.flash
  have tmr := congrArg (fun f => f.dieTmr) marks.flash
  have now : dieAt e n = ⟨0, (dieAt d n).epoch, (dieAt d n).fails + 1⟩ := (dieAt_congr dies tmr n).trans counted
  have flash : e.mem.flash = d.mem.flash := congrArg (fun m => m.flash) marks.mem
  split
  · obtain ⟨fenced, -, kept⟩ := declareDie_spec (d := e) lt (by rw [now]) (by rw [dieEpoch_congr dies tmr, known]; exact epoch) 3
    exact ⟨by rw [fenced, now], kept.trans flash⟩
  · exact ⟨now, flash⟩

/-- The sectors of a fenced die have moved as far as they can. -/
def relocated (d : Dev) (n : Nat) : Dev := (onDie d n).foldl (fun d x => relocate d x.1 x.2) d

theorem relocated_of_empty {d : Dev} {n : Nat} (empty : onDie d n = []) : relocated d n = d := by rw [relocated, empty]; rfl

theorem dieRelocatedOp_spec {d : Dev} {n : Nat} (lt : n < 256) (fenced : (dieAt d n).state = 2) (runs : fwpRuns d 2 = true) (room : flashReadOnly d = false) :
    dieAt (dieRelocatedOp d n) n = { (dieAt d n) with state := if onDie (dieRelocatedOp d n) n = [] then 1 else 2 } ∧
    (onDie d n = [] → onDie (dieRelocatedOp d n) n = [] ∧ (dieRelocatedOp d n).mem = d.mem) ∧
    (∀ k, k ≠ n → dieAt (dieRelocatedOp d n) k = dieAt d k) ∧ (dieRelocatedOp d n).mem.flash = d.mem.flash ∧
    (dieRelocatedOp d n).mem.alloc = d.mem.alloc := by
  have moved : Moved d (relocated d n) := Moved.foldl_relocate _ d
  have op : dieRelocatedOp d n = if onDie (relocated d n) n = [] then setDie (relocated d n) n { (dieAt d n) with state := 1 } else relocated d n :=
    if_pos ⟨lt, fenced, runs, by simp [room]⟩
  have stays := onDie_congr (e := setDie (relocated d n) n { (dieAt d n) with state := 1 }) (d := relocated d n) rfl rfl rfl n
  rw [op]
  by_cases none' : onDie (relocated d n) n = []
  · rw [if_pos none', stays, if_pos none']
    exact ⟨dieAt_setDie_self .., fun empty => ⟨none', by rw [setDie_mem, relocated_of_empty empty]⟩,
      fun k ne => (dieAt_setDie_ne _ _ ne).trans (moved.dieAt k), moved.flash, moved.alloc⟩
  · rw [if_neg none', if_neg none', moved.dieAt]
    refine ⟨?_, fun empty => absurd (by rw [relocated_of_empty empty, empty]) none', fun k ne => moved.dieAt k, moved.flash, moved.alloc⟩
    rw [← fenced]

/-- The die is erased: what has not moved from it is read as it lies no more. -/
theorem onDie_erased (d : Dev) (n : Nat) : onDie { d with flash.erased := d.flash.erased ++ onDie d n } n = [] := by
  refine List.filter_eq_nil_iff.2 fun x mem => ?_
  by_cases here : sectorDie d x.1 x.2 = n
  · by_cases gone : x ∈ d.flash.erased
    · simp [gone]
    · have on : x ∈ onDie d n := List.mem_filter.2 ⟨mem, by simp [here, gone]⟩
      simp [on]
  · have elsewhere : sectorDie { d with flash.erased := d.flash.erased ++ onDie d n } x.1 x.2 ≠ n := here
    simp [elsewhere]

theorem readmitDie_spec {d : Dev} {n : Nat} (out : (dieAt d n).state ≠ 0) :
    dieAt (readmitDie d n) n = ⟨0, (dieAt d n).epoch, 0⟩ ∧ (∀ k, k ≠ n → dieAt (readmitDie d n) k = dieAt d k) ∧
    (readmitDie d n).mem.flash = d.mem.flash ∧ (readmitDie d n).mem.alloc = d.mem.alloc ∧ onDie (readmitDie d n) n = [] ∧
    (onDie d n = [] → (readmitDie d n).mem = d.mem) := by
  have moved : Moved d (relocated d n) := Moved.foldl_relocate _ d
  obtain ⟨x, hx⟩ : ∃ x, { relocated d n with flash.erased := (relocated d n).flash.erased ++ onDie (relocated d n) n } = x := ⟨_, rfl⟩
  have op : readmitDie d n = logEvent (setDie x n { (dieAt d n) with state := 0, fails := 0 }) 0xF (pageNo .flch (n % 32)) 0xFF noTag n 0 (dieAt d n).epoch := by
    rw [← hx]
    exact if_neg out
  have marks := (Marks.refl dieOffs (setDie x n { (dieAt d n) with state := 0, fails := 0 })).logEvent 0xF (pageNo .flch (n % 32)) 0xFF noTag n 0 (dieAt d n).epoch
  have at' (k : Nat) := dieAt_congr (congrArg (fun f => f.dies) marks.flash) (congrArg (fun f => f.dieTmr) marks.flash) k
  have mem : x.mem = (relocated d n).mem := by rw [← hx]
  have empty : onDie x n = [] := by rw [← hx]; exact onDie_erased _ n
  have before (k : Nat) : dieAt x k = dieAt d k := by rw [← hx]; exact moved.dieAt k
  rw [op]
  refine ⟨(at' n).trans (dieAt_setDie_self ..), fun k ne => (at' k).trans ((dieAt_setDie_ne _ _ ne).trans (before k)), ?_, ?_, ?_, fun none' => ?_⟩
  · rw [marks.mem, setDie_mem, mem, moved.flash]
  · rw [marks.mem, setDie_mem, mem, moved.alloc]
  · rw [onDie_congr (d := x) (by rw [marks.mem]; rfl) (by rw [marks.mem]; rfl) (by rw [marks.flash]; rfl), empty]
  · rw [marks.mem, setDie_mem, mem, relocated_of_empty none']

/-! ### Sector reads (R381) -/

/-- Words that a sector read counts in, but for the rebuilds. -/
def sectorOffs : List Nat := [0x104, 0x110, 0x10C] ++ statOffs

theorem countLate_marks (d : Dev) (b s : Nat) (users : List Req) : Marks [0x118] d (countLate d b s users) :=
  .ite ((Marks.refl _ d).count ..) (.refl _ d)

/-- The status and the record of a sector read on its channel. -/
def readStatus (d : Dev) (b s : Nat) (tag : W32) (die : Nat) : Dev :=
  setStat (count (count (count d .flch (die % 32) 0x104 1) .flch (die % 32) 0x110 1) .flch (die % 32) 0x114 1) .flch (die % 32) 0 b tag
    (BitVec.ofNat 32 (die / 32 + sectorPlace d b s / 1024 * 8)) 0

theorem readStatus_marks (d : Dev) (b s : Nat) (tag : W32) (die : Nat) : Marks (0x114 :: sectorOffs) d (readStatus d b s tag die) :=
  ((((Marks.refl _ d).count .flch (die % 32) (off := 0x104) 1).count .flch (die % 32) (off := 0x110) 1).count .flch (die % 32) (off := 0x114) 1).setStat ..

theorem readStatus_rebuilds (d : Dev) (b s : Nat) (tag : W32) (die : Nat) :
    live (readStatus d b s tag die) (regA .flch (die % 32) 0x114) = live d (regA .flch (die % 32) 0x114) + 1 := by
  have before := ((Marks.refl sectorOffs d).count .flch (die % 32) (off := 0x104) 1).count .flch (die % 32) (off := 0x110) 1
  have after := (Marks.refl sectorOffs (count (count (count d .flch (die % 32) 0x104 1) .flch (die % 32) 0x110 1) .flch (die % 32) 0x114 1)).setStat
    .flch (die % 32) 0 b tag (BitVec.ofNat 32 (die / 32 + sectorPlace d b s / 1024 * 8)) 0
  rw [readStatus, after.word .flch _ (off := 0x114), live_count, if_pos rfl, before.word .flch _ (off := 0x114)]
  rfl

/-- A sector read's status word of the controller, and its record in the log. -/
def readTold (d : Dev) (bit kind b s : Nat) (tag : W32) (die : Nat) : Dev :=
  logEvent (setStat d .flc 0 bit b tag (BitVec.ofNat 32 s) (BitVec.ofNat 32 die)) kind (pageNo .flch (die % 32)) b tag s die

theorem readTold_marks (d : Dev) (bit kind b s : Nat) (tag : W32) (die : Nat) : Marks sectorOffs d (readTold d bit kind b s tag die) :=
  ((Marks.refl sectorOffs d).setStat ..).logEvent ..

theorem sectorRead_clean (d : Dev) (b s : Nat) (tag : W32) : sectorRead d b s tag .clean = count d .flch (sectorDie d b s % 32) 0x104 1 := rfl

theorem sectorRead_rebuilt (d : Dev) (b s : Nat) (tag : W32) : sectorRead d b s tag .rebuilt =
    relocate (readTold (readStatus d b s tag (sectorDie d b s)) 1 9 b s tag (sectorDie d b s)) b s := rfl

theorem sectorRead_unreadable (d : Dev) (b s : Nat) (tag : W32) : ∃ e, readTold (readStatus d b s tag (sectorDie d b s)) 0 0xA b s tag (sectorDie d b s) = e ∧
    sectorRead d b s tag .unreadable =
      { e with mem.unreadable := if e.mem.unreadable.contains (b, s) then e.mem.unreadable else e.mem.unreadable ++ [(b, s)] } := ⟨_, rfl, rfl⟩

/-- A sector read changes no byte of flash and no request. -/
theorem sectorRead_kept (d : Dev) (b s : Nat) (tag : W32) (r : FlashRead) :
    (sectorRead d b s tag r).mem.flash = d.mem.flash ∧ (sectorRead d b s tag r).reqs = d.reqs := by
  have told (bit kind : Nat) := (readStatus_marks d b s tag (sectorDie d b s)).trans
    ((readTold_marks (readStatus d b s tag (sectorDie d b s)) bit kind b s tag (sectorDie d b s)).mono (List.subset_cons_self ..))
  cases r with
  | clean => exact ⟨rfl, rfl⟩
  | retried =>
    have marks := (((Marks.refl sectorOffs d).count .flch (sectorDie d b s % 32) (off := 0x104) 1).count .flch (sectorDie d b s % 32) (off := 0x110) 1).logEvent
      8 (pageNo .flch (sectorDie d b s % 32)) b tag s (sectorDie d b s) 0
    have moved := Moved.relocate (logEvent (count (count d .flch (sectorDie d b s % 32) 0x104 1) .flch (sectorDie d b s % 32) 0x110 1)
      8 (pageNo .flch (sectorDie d b s % 32)) b tag s (sectorDie d b s)) b s
    exact ⟨moved.flash.trans (congrArg (fun m => m.flash) marks.mem), moved.reqs.trans marks.reqs⟩
  | rebuilt =>
    have moved := Moved.relocate (readTold (readStatus d b s tag (sectorDie d b s)) 1 9 b s tag (sectorDie d b s)) b s
    exact ⟨moved.flash.trans (congrArg (fun m => m.flash) (told 1 9).mem), moved.reqs.trans (told 1 9).reqs⟩
  | unreadable => exact ⟨congrArg (fun m => m.flash) (told 0 0xA).mem, (told 0 0xA).reqs⟩

theorem sectorRead_counts (d : Dev) (b s : Nat) (tag : W32) : live (sectorRead d b s tag .rebuilt) (regA .flch (sectorDie d b s % 32) 0x114) =
    live d (regA .flch (sectorDie d b s % 32) 0x114) + 1 := by
  rw [sectorRead_rebuilt, (Moved.relocate _ b s).word .flch _ 0x114 (by decide) (by decide), (readTold_marks ..).word .flch _ (off := 0x114), readStatus_rebuilds]

theorem sectorRead_lost (d : Dev) (b s : Nat) (tag : W32) :
    (b, s) ∈ (sectorRead d b s tag .unreadable).mem.unreadable ∧ bitOf (liveN (sectorRead d b s tag .unreadable) .flc 0 0x20) 0 = true := by
  obtain ⟨e, told, eq⟩ := sectorRead_unreadable d b s tag
  have status : bitOf (liveN e .flc 0 0x20) 0 = true := by
    rw [← told]
    exact ((Marks.refl sectorOffs _).logEvent ..).stats .flc 0 0 (statBit_setStat _ _ _ _ _ _ _ (by decide))
  rw [eq]
  refine ⟨?_, status⟩
  by_cases listed : e.mem.unreadable.contains (b, s) = true
  · exact (if_pos listed).symm ▸ List.contains_iff_mem.1 listed
  · simp only [if_neg listed]
    exact List.mem_append_right _ (List.mem_singleton_self _)

end Sys2Proof.Machine

namespace Sys2Proof.Proofs

open Sys2Proof.Machine Sys2Proof.Claims

/-! ### O36: reads of flash, and its dies -/

section
variable {s : State} {b sec : Nat} {r : FlashRead}

theorem readOutcome_whole (alive : (dieAt s.dev (sectorDie s.dev b sec)).state ≠ 2) (kept : s.dev.flash.erased.contains (b, sec) = false) :
    readOutcome s.dev b sec r = r := if_neg fun h => h.1.elim alive (by rw [kept]; nofun)

theorem readOutcome_rebuilt (readable : r ≠ .unreadable)
    (lost : (dieAt s.dev (sectorDie s.dev b sec)).state = 2 ∨ s.dev.flash.erased.contains (b, sec) = true) : readOutcome s.dev b sec r = .rebuilt :=
  if_pos ⟨lost, readable⟩

theorem readOutcome_unreadable : readOutcome s.dev b sec .unreadable = .unreadable := if_neg fun h => h.2 rfl

/-- The read of a sector on flash, with its late count before and the flags of those that use it after. -/
theorem flashReadDoneOp_eq (flash : onFlash s.dev b sec = true) (fresh : s.dev.mem.unreadable.contains (b, sec) = false ∨ r = .unreadable) :
    let users := s.dev.reqs.filter (fun q => usesSector s.dev q b sec)
    let d := sectorRead (countLate s.dev b sec users) b sec (match users.head? with | some q => q.tag | none => noTag) (readOutcome s.dev b sec r)
    flashReadDoneOp s.dev b sec r = if readOutcome s.dev b sec r = .retried ∨ readOutcome s.dev b sec r = .rebuilt
      then users.foldl (fun d q => modReq d q.slot (fun q => q.flag 12)) d else d := by
  have open' : ¬(s.dev.mem.unreadable.contains (b, sec) && decide (r ≠ .unreadable)) = true := by
    rcases fresh with out | rfl
    · rw [out]; nofun
    · simp
  exact (if_neg (by simp [flash])).trans (if_neg open')

theorem foldl_flag_kept (users : List Req) (d : Dev) : (users.foldl (fun d q => modReq d q.slot (fun q => q.flag 12)) d).mem = d.mem ∧
    (users.foldl (fun d q => modReq d q.slot (fun q => q.flag 12)) d).regs = d.regs :=
  ⟨foldl_part_kept Dev.mem (f := fun d q => modReq d q.slot (fun q => q.flag 12)) (fun _ _ => rfl) users d,
    foldl_part_kept Dev.regs (f := fun d q => modReq d q.slot (fun q => q.flag 12)) (fun _ _ => rfl) users d⟩

theorem flashReadDone_reads (flash : onFlash s.dev b sec = true) (fresh : s.dev.mem.unreadable.contains (b, sec) = false ∨ r = .unreadable) :
    ∃ t, exec (.flashReadDone b sec r) s = .next t ∧ Aside s t ∧ t.dev.mem.flash = s.dev.mem.flash ∧
      (r = .clean → (dieAt s.dev (sectorDie s.dev b sec)).state ≠ 2 → s.dev.flash.erased.contains (b, sec) = false →
        t.dev = count (countLate s.dev b sec (s.dev.reqs.filter (fun q => usesSector s.dev q b sec))) .flch (sectorDie s.dev b sec % 32) 0x104 1) ∧
      (r ≠ .unreadable → (dieAt s.dev (sectorDie s.dev b sec)).state = 2 ∨ s.dev.flash.erased.contains (b, sec) = true →
        live t.dev (regA .flch (sectorDie s.dev b sec % 32) 0x114) = live s.dev (regA .flch (sectorDie s.dev b sec % 32) 0x114) + 1) ∧
      (r = .unreadable → (b, sec) ∈ t.dev.mem.unreadable ∧ stat t .flc 0 0 = true) := by
  have op := flashReadDoneOp_eq flash fresh
  dsimp only at op
  have late := countLate_marks s.dev b sec (s.dev.reqs.filter (fun q => usesSector s.dev q b sec))
  generalize countLate s.dev b sec (s.dev.reqs.filter (fun q => usesSector s.dev q b sec)) = d at op late ⊢
  generalize (match (s.dev.reqs.filter (fun q => usesSector s.dev q b sec)).head? with | some q => q.tag | none => noTag) = tag at op
  have die : sectorDie d b sec = sectorDie s.dev b sec := sectorDie_congr (by rw [late.mem]) b sec
  obtain ⟨flashKept, -⟩ := sectorRead_kept d b sec tag (readOutcome s.dev b sec r)
  obtain ⟨mem, regs⟩ := foldl_flag_kept (s.dev.reqs.filter (fun q => usesSector s.dev q b sec)) (sectorRead d b sec tag (readOutcome s.dev b sec r))
  have flash' : d.mem.flash = s.dev.mem.flash := congrArg (fun m => m.flash) late.mem
  refine ⟨_, congrArg (fun d => Host.Outcome.next (on s d)) op, ⟨rfl, rfl, rfl⟩, ?_, fun clean alive kept => ?_, fun readable lost => ?_, fun eq => ?_⟩
  · change (ite _ _ _ : Dev).mem.flash = _
    split
    · rw [mem, flashKept, flash']
    · rw [flashKept, flash']
  · subst clean
    change (ite _ _ _ : Dev) = _
    rw [readOutcome_whole alive kept, if_neg (by simp), sectorRead_clean, die]
  · have outcome := readOutcome_rebuilt readable lost
    change live (ite _ _ _) _ = _
    rw [if_pos (.inr outcome), live_congr regs, outcome, ← die, sectorRead_counts, late.word .flch _ (off := 0x114)]
  · subst eq
    rw [readOutcome_unreadable]
    exact sectorRead_lost d b sec tag

theorem patrol_reads (flash : onFlash s.dev b sec = true) (fresh : s.dev.mem.unreadable.contains (b, sec) = false ∨ r = .unreadable)
    (on' : ctlBit s.dev .flc 0 0 = true) (runs : fwpRuns s.dev 2 = true) : ∃ t, exec (.patrol b sec r) s = .next t ∧ Aside s t ∧
      t.dev.mem.flash = s.dev.mem.flash ∧ t.dev.reqs = s.dev.reqs ∧
      (r = .clean → (dieAt s.dev (sectorDie s.dev b sec)).state ≠ 2 → s.dev.flash.erased.contains (b, sec) = false →
        t.dev = count s.dev .flch (sectorDie s.dev b sec % 32) 0x104 1) ∧
      (r ≠ .unreadable → (dieAt s.dev (sectorDie s.dev b sec)).state = 2 ∨ s.dev.flash.erased.contains (b, sec) = true →
        live t.dev (regA .flch (sectorDie s.dev b sec % 32) 0x114) = live s.dev (regA .flch (sectorDie s.dev b sec % 32) 0x114) + 1) ∧
      (r = .unreadable → (b, sec) ∈ t.dev.mem.unreadable ∧ stat t .flc 0 0 = true) := by
  have open' : (!s.dev.mem.unreadable.contains (b, sec) || decide (r = .unreadable)) = true := by
    rcases fresh with out | rfl
    · rw [out]; rfl
    · simp
  have op : patrolOp s.dev b sec r = sectorRead s.dev b sec noTag (readOutcome s.dev b sec r) := if_pos (by rw [on', runs, flash, open']; rfl)
  obtain ⟨kept, reqs⟩ := sectorRead_kept s.dev b sec noTag (readOutcome s.dev b sec r)
  refine ⟨_, congrArg (fun d => Host.Outcome.next (on s d)) op, ⟨rfl, rfl, rfl⟩, kept, reqs, fun clean alive whole => ?_, fun readable lost => ?_, fun eq => ?_⟩
  · subst clean
    rw [readOutcome_whole alive whole]
    rfl
  · rw [readOutcome_rebuilt readable lost]
    exact sectorRead_counts s.dev b sec noTag
  · subst eq
    rw [readOutcome_unreadable]
    exact sectorRead_lost s.dev b sec noTag

end

section
variable {s : State} {n : Nat} (lt : n < 256)
include lt

theorem flashDieTimeout_fences (service : (dieAt s.dev n).state = 0) (epoch : dieEpoch s.dev n ≠ none) :
    ∃ t, exec (.flashDieTimeout n) s = .next t ∧ Aside s t ∧
      dieAt t.dev n = ⟨2, ((dieAt s.dev n).epoch + 1) % 65536, (dieAt s.dev n).fails⟩ ∧
      (∀ k, k ≠ n → dieAt t.dev k = dieAt s.dev k) ∧ t.dev.mem.flash = s.dev.mem.flash :=
  ⟨_, rfl, ⟨rfl, rfl, rfl⟩, declareDie_spec lt service epoch 2⟩

theorem progFail_counts (page : Nat) (service : (dieAt s.dev n).state = 0) (epoch : dieEpoch s.dev n ≠ none) :
    ∃ t, exec (.progFail n page) s = .next t ∧ Aside s t ∧ t.dev.mem.flash = s.dev.mem.flash ∧
      dieAt t.dev n = (if 64 ≤ (dieAt s.dev n).fails + 1
        then ⟨2, ((dieAt s.dev n).epoch + 1) % 65536, (dieAt s.dev n).fails + 1⟩
        else ⟨0, (dieAt s.dev n).epoch, (dieAt s.dev n).fails + 1⟩) := by
  obtain ⟨die, flash⟩ := progFailOp_spec lt service epoch page
  exact ⟨_, rfl, ⟨rfl, rfl, rfl⟩, flash, die⟩

theorem dieRelocated_moves (fenced : (dieAt s.dev n).state = 2) (runs : fwpRuns s.dev 2 = true) (room : flashReadOnly s.dev = false) :
    ∃ t, exec (.dieRelocated n) s = .next t ∧ Aside s t ∧
      dieAt t.dev n = { (dieAt s.dev n) with state := if onDie t.dev n = [] then 1 else 2 } ∧
      (onDie s.dev n = [] → onDie t.dev n = [] ∧ t.dev.mem = s.dev.mem) ∧ (∀ k, k ≠ n → dieAt t.dev k = dieAt s.dev k) ∧
      t.dev.mem.flash = s.dev.mem.flash ∧ t.dev.mem.alloc = s.dev.mem.alloc :=
  ⟨_, rfl, ⟨rfl, rfl, rfl⟩, dieRelocatedOp_spec lt fenced runs room⟩

omit lt in
theorem flcDieReadmit_readmits (h : LandsOn s 0 .flc 0 0x148) (sel : reg s .flc 0 0x140 % 256 = n) (out : (dieAt s.dev n).state ≠ 0)
    (runs : fwpRuns s.dev 2 = true) : ∃ t, exec (.flcDieReadmit 0 1) s = .next t ∧ Aside s t ∧ dieAt t.dev n = ⟨0, (dieAt s.dev n).epoch, 0⟩ ∧
      (∀ k, k ≠ n → dieAt t.dev k = dieAt s.dev k) ∧ t.dev.mem.flash = s.dev.mem.flash ∧ t.dev.mem.alloc = s.dev.mem.alloc ∧
      onDie t.dev n = [] ∧ (onDie s.dev n = [] → t.dev.mem = s.dev.mem) := by
  have selected : liveN s.dev .flc 0 0x140 % 256 = n := sel
  have op : dieReadmitOp s.dev 1 = readmitDie s.dev n := by
    rw [dieReadmitOp, selected]
    exact (if_neg (not_or.2 ⟨by decide, out⟩)).trans (if_pos runs)
  have acts : actWrite s 0 .flc 0 0x148 1 [] = some (on s (readmitDie s.dev n)) := by rw [← op]; rfl
  exact ⟨_, put_act (by decide) h acts, ⟨rfl, rfl, rfl⟩, readmitDie_spec out⟩

end

/-- Settles O36, by the outcome of each read and by what moves before a die is given up or taken back. -/
theorem flashReadsAndDies : Obligations.FlashReadsAndDies := by
  unfold Obligations.FlashReadsAndDies
  exact ⟨fun s b sec r flash fresh => ⟨flashReadDone_reads flash fresh, patrol_reads flash fresh⟩,
    fun s n lt => ⟨flashDieTimeout_fences lt, progFail_counts lt, dieRelocated_moves lt, flcDieReadmit_readmits⟩⟩

end Sys2Proof.Proofs

namespace Sys2Proof.Machine

open Sys2Proof.Claims

/-! ### The load engine starts (R384) -/

/-- What a load command keeps of the words that its reads will meet. -/
theorem ldStart_refused {d : Dev} (busy : d.flash.load ≠ none) (r : LoadReads) : ldStart d r 1 = setStat d .flc 0 5 := by
  obtain ⟨c, hc⟩ := Option.ne_none_iff_exists'.1 busy
  rw [ldStart, if_neg (by decide), hc]

/-- The words that a start writes. -/
def ldBusy (d : Dev) : Dev := setLiveN (setLiveN d .flc 0 0x11C 0) .flc 0 0x118 (liveN (setLiveN d .flc 0 0x11C 0) .flc 0 0x118 ||| 1)

theorem ldBusy_marks (d : Dev) : Marks [0x118, 0x11C] d (ldBusy d) :=
  ((Marks.refl _ d).setLiveN .flc 0 (off := 0x11C) 0).setLiveN .flc 0 (off := 0x118) _

theorem ldBusy_spec (d : Dev) : bitOf (liveN (ldBusy d) .flc 0 0x118) 0 = true ∧ liveN (ldBusy d) .flc 0 0x11C = 0 := by
  have lt : liveN (setLiveN d .flc 0 0x11C 0) .flc 0 0x118 ||| 1 < 2 ^ 32 := Nat.or_lt_two_pow (live _ _).isLt (by decide)
  constructor
  · rw [ldBusy, liveN_setLiveN_self _ _ _ _ lt, bitOf, Nat.testBit_or]
    exact Bool.or_true _
  · rw [liveN, ldBusy, live_setLiveN, if_neg (regA_ne_of_off (by decide) (by decide) (by decide)), live_setLiveN, if_pos rfl]
    rfl

theorem ldStart_starts {d : Dev} (idle : d.flash.load = none) (r : LoadReads) : ∃ e,
    ldStart d r 1 = { ldBusy d with flash.load := some ⟨ldOp d, ldBasin d, ldBlock d, ldLen d, ldDst d, e, r.errs⟩ } := by
  have word {off : Nat} (lt : off < 0x1000) (out : off ∉ [0x118, 0x11C]) : liveN (ldBusy d) .flc 0 off = liveN d .flc 0 off :=
    (ldBusy_marks d).wordN .flc 0 lt out
  have op : ldOp (ldBusy d) = ldOp d := by rw [ldOp, ldOp, word (by decide) (by decide)]
  have basin : ldBasin (ldBusy d) = ldBasin d := by rw [ldBasin, ldBasin, word (by decide) (by decide)]
  have block : ldBlock (ldBusy d) = ldBlock d := by rw [ldBlock, ldBlock, word (by decide) (by decide)]
  have len : ldLen (ldBusy d) = ldLen d := by rw [ldLen, ldLen, word (by decide) (by decide)]
  have dst : ldDst (ldBusy d) = ldDst d := by rw [ldDst, ldDst, word (by decide) (by decide), word (by decide) (by decide)]
  refine ⟨if ldCheck (ldBusy d) r.flags = 0 ∧ flushAll (ldBusy d) then 256 else ldCheck (ldBusy d) r.flags, ?_⟩
  rw [ldStart, if_neg (by decide), idle, ← op, ← basin, ← block, ← len, ← dst]
  rfl

/-! ### The load engine ends (R385) -/

/-- The end of a command: RESULT, MOVED, and the status bit. -/
def ldFinish (e : LdEnd) : Dev :=
  setStat (setLiveN (setLiveN { e.d with flash.load := none } .flc 0 0x11C e.moved) .flc 0 0x118 (e.result * 16)) .flc 0 4

theorem ldFinish_marks (e : LdEnd) : Marks ([0x118, 0x11C] ++ statOffs) { e.d with flash.load := none } (ldFinish e) :=
  (((Marks.refl _ _).setLiveN .flc 0 (off := 0x11C) e.moved).setLiveN .flc 0 (off := 0x118) (e.result * 16)).setStat ..

theorem ldFinish_words {e : LdEnd} (hr : e.result < 2 ^ 28) (hm : e.moved < 2 ^ 32) :
    liveN (ldFinish e) .flc 0 0x118 = e.result * 16 ∧ liveN (ldFinish e) .flc 0 0x11C = e.moved ∧ bitOf (liveN (ldFinish e) .flc 0 0x20) 4 = true := by
  have status := (Marks.refl statOffs (setLiveN (setLiveN { e.d with flash.load := none } .flc 0 0x11C e.moved) .flc 0 0x118 (e.result * 16))).setStat
    .flc 0 4 0 noTag 0 0
  refine ⟨(status.wordN .flc 0).trans (liveN_setLiveN_self _ _ _ _ (by omega)), (status.wordN .flc 0).trans ?_, statBit_setStat _ _ _ _ _ _ _ (by decide)⟩
  rw [liveN, live_setLiveN, if_neg (regA_ne_of_off (by decide) (by decide) (by decide))]
  exact liveN_setLiveN_self _ _ _ _ hm

/-- A step that reads none of the words that its errors name is the plain step. -/
theorem withErrors_of_unread {d : Dev} {x : Reader} {names : Dev → ErrorPlace → Option (Space × Nat)} (unread : ∀ e p, names e p = none)
    (errs : List ReadError) (step : Dev → Dev) : withErrors d x names errs step = step d := by
  have reads : readErrors d x names errs = d := by
    induction errs with
    | nil => rfl
    | cons e es ih => rw [readErrors_cons, unread]; exact ih
  have lost : lostOnWay d names errs = [] := by
    rw [lostOnWay, List.filterMap_eq_nil_iff.2]
    · rfl
    · intro e _
      split
      · exact unread d _
      · rfl
  rw [withErrors_eq, reads, lost]
  rfl

theorem ldWord_trim {c : LoadCmd} (trim : c.op = 5) (d : Dev) (p : ErrorPlace) : ldWord d c p = none := by
  unfold ldWord
  split <;> simp [trim]

/-- What ends of a command: its checks' result, or what it moved. -/
def ldOutcome (d : Dev) (c : LoadCmd) : LdEnd := if c.early = 0 ∨ c.early = 256 then ldRun d c else ⟨d, c.early, 0⟩

/-- A command that meets no word in error ends with what it moved. -/
theorem ldDoneOp_ends {d : Dev} {c : LoadCmd} (load : d.flash.load = some c) (runs : (c.op ≠ 1 ∧ c.op ≠ 5 ∧ c.op ≠ 6) ∨ fwpRuns d 2 = true)
    (clean : c.early ≠ 0 ∨ c.errs = [] ∨ c.op = 5) : ldDoneOp d = ldFinish (ldOutcome d c) := by
  have acts : ¬((c.op = 1 ∨ c.op = 5 ∨ c.op = 6) ∧ (!fwpRuns d 2) = true) := by
    rintro ⟨op, stopped⟩
    rcases runs with ⟨one, five, six⟩ | up
    · omega
    · rw [up] at stopped; cases stopped
  rw [ldDoneOp, load]
  refine (if_neg acts).trans ?_
  rcases clean with early | errs | trim
  · rw [if_neg early, withErrors_nil]; rfl
  · rw [errs, ite_self, withErrors_nil]; rfl
  · rw [withErrors_of_unread (ldWord_trim trim)]; rfl

/-! ### Sectors of a namespace as they read -/

theorem poisoned_clear (d : Dev) (lo hi w : Nat) : poisoned (clearPoison d .ns lo hi) .ns w = (poisoned d .ns w && !(decide (lo ≤ w * 8) && decide (w * 8 + 8 ≤ hi))) := by
  rw [Bool.eq_iff_iff, poisoned, clearPoison]
  simp only [List.contains_iff_mem, List.mem_filter, Bool.and_eq_true, decide_true, Bool.true_and, poisoned]

/-- Blocks are poisoned as before. -/
theorem shorePoison_clear (d : Dev) (lo hi a n : Nat) : shorePoison (clearPoison d .ns lo hi) a n = shorePoison d a n := by
  rw [Bool.eq_iff_iff, shorePoison, shorePoison, clearPoison]
  simp only [List.any_eq_true, List.mem_filter]
  constructor
  · rintro ⟨p, ⟨mem, -⟩, here⟩
    exact ⟨p, mem, here⟩
  · rintro ⟨p, mem, here⟩
    refine ⟨p, ⟨mem, ?_⟩, here⟩
    have space : p.1 = .shore := of_decide_eq_true (Bool.and_eq_true _ _ ▸ here).1
    simp [space]

/-- What a read of a namespace sees: whether the byte is cached, unreadable or poisoned, and what its place holds. -/
theorem nsByte_congr {d e : Dev} {b x : Nat} (dirty : e.mem.dirty.contains (b, x / 4096) = d.mem.dirty.contains (b, x / 4096))
    (unreadable : e.mem.unreadable.contains (b, x / 4096) = d.mem.unreadable.contains (b, x / 4096))
    (poison : poisoned e .ns (nsKey b x / 8) = poisoned d .ns (nsKey b x / 8))
    (cache : Mem.read e.mem.wcache (nsKey b x) = Mem.read d.mem.wcache (nsKey b x))
    (flash : Mem.read e.mem.flash (nsKey b x) = Mem.read d.mem.flash (nsKey b x)) : nsByte e b x = nsByte d b x := by
  simp only [nsByte, dirty, unreadable, poison]
  cases d.mem.dirty.contains (b, x / 4096)
  · simp only [Bool.false_eq_true, if_false, flash]
  · simp only [if_true, cache]

theorem nsByte_cached {d : Dev} {b x : Nat} (dirty : d.mem.dirty.contains (b, x / 4096) = true) (whole : poisoned d .ns (nsKey b x / 8) = false) :
    nsByte d b x = .ok (Mem.read d.mem.wcache (nsKey b x)) := by
  simp only [nsByte, dirty, whole, Bool.not_true, Bool.false_and, Bool.false_eq_true, if_false, if_true]

theorem nsByte_onFlash {d : Dev} {b x : Nat} (dirty : d.mem.dirty.contains (b, x / 4096) = false)
    (readable : d.mem.unreadable.contains (b, x / 4096) = false) (whole : poisoned d .ns (nsKey b x / 8) = false) :
    nsByte d b x = .ok (Mem.read d.mem.flash (nsKey b x)) := by
  simp only [nsByte, dirty, readable, whole, Bool.and_false, Bool.false_eq_true, if_false]

/-- The bytes of an extent of sectors lie in its keys, in whole words. -/
theorem nsKey_extent {b c x lo n : Nat} (hx : x < 2 ^ 50) (fits : (lo + n) * 4096 ≤ 2 ^ 50) :
    (nsKey b (lo * 4096) ≤ nsKey c x ∧ nsKey c x < nsKey b ((lo + n) * 4096) ↔ c = b ∧ lo * 4096 ≤ x ∧ x < (lo + n) * 4096) ∧
    (nsKey b (lo * 4096) ≤ nsKey c x / 8 * 8 ∧ nsKey c x / 8 * 8 + 8 ≤ nsKey b ((lo + n) * 4096) ↔ c = b ∧ lo * 4096 ≤ x ∧ x < (lo + n) * 4096) := by
  unfold nsKey
  omega

/-! ### TRIM (R383) -/

section
variable {d : Dev} {b lo n : Nat} (fits : (lo + n) * 4096 ≤ 2 ^ 50)
include fits

/-- A trimmed sector reads as zeros. -/
theorem nsByte_trimmed {x : Nat} (above : lo * 4096 ≤ x) (below : x < (lo + n) * 4096) : nsByte (ldTrim d b lo n) b x = .ok 0 := by
  obtain ⟨key, word⟩ := nsKey_extent (b := b) (c := b) (x := x) (by omega) fits
  have inside : b = b ∧ lo * 4096 ≤ x ∧ x < (lo + n) * 4096 := ⟨rfl, above, below⟩
  have trimmed : lo ≤ x / 4096 ∧ x / 4096 < lo + n := by omega
  have gone (xs : List (Nat × Nat)) : (xs.filter (fun x => !(decide (x.1 = b ∧ lo ≤ x.2 ∧ x.2 < lo + n)))).contains (b, x / 4096) = false := by
    rw [Bool.eq_false_iff, Ne, List.contains_iff_mem, List.mem_filter]
    simp [trimmed]
  have whole : poisoned (ldTrim d b lo n) .ns (nsKey b x / 8) = false := by
    refine (poisoned_clear d (nsKey b (lo * 4096)) (nsKey b ((lo + n) * 4096)) (nsKey b x / 8)).trans ?_
    rw [decide_eq_true (word.2 inside).1, decide_eq_true (word.2 inside).2]
    simp
  rw [nsByte_onFlash (gone _) (gone _) whole]
  exact congrArg Acc.ok ((Mem.read_clear ..).trans (if_pos (key.2 inside)))

/-- Every other byte reads as before. -/
theorem nsByte_untrimmed {c x : Nat} (hx : x < 2 ^ 50) (out : c ≠ b ∨ x < lo * 4096 ∨ (lo + n) * 4096 ≤ x) :
    nsByte (ldTrim d b lo n) c x = nsByte d c x := by
  obtain ⟨key, word⟩ := nsKey_extent (b := b) (c := c) hx fits
  have outside : ¬(c = b ∧ lo * 4096 ≤ x ∧ x < (lo + n) * 4096) := by omega
  have kept (xs : List (Nat × Nat)) : (xs.filter (fun x => !(decide (x.1 = b ∧ lo ≤ x.2 ∧ x.2 < lo + n)))).contains (c, x / 4096) =
      xs.contains (c, x / 4096) := by
    rw [Bool.eq_iff_iff, List.contains_iff_mem, List.contains_iff_mem, List.mem_filter]
    have : ¬(c = b ∧ lo ≤ x / 4096 ∧ x / 4096 < lo + n) := by omega
    simp [this]
  refine nsByte_congr (kept _) (kept _) ?_ ((Mem.read_clear ..).trans (if_neg (mt key.1 outside))) ((Mem.read_clear ..).trans (if_neg (mt key.1 outside)))
  refine (poisoned_clear d (nsKey b (lo * 4096)) (nsKey b ((lo + n) * 4096)) (nsKey c x / 8)).trans ?_
  have : (decide (nsKey b (lo * 4096) ≤ nsKey c x / 8 * 8) && decide (nsKey c x / 8 * 8 + 8 ≤ nsKey b ((lo + n) * 4096))) = false := by
    rw [Bool.eq_false_iff, Ne, Bool.and_eq_true, decide_eq_true_eq, decide_eq_true_eq, word]
    exact outside
  rw [this]
  simp

end

/-! ### WRITE (R378, R384) -/

/-- A sector's bytes lie in the write cache. -/
def cacheSector (d : Dev) (b sec : Nat) (bs : List Byte) : Dev :=
  { clearPoison d .ns (nsKey b (sec * 4096)) (nsKey b ((sec + 1) * 4096)) with
    mem := { (clearPoison d .ns (nsKey b (sec * 4096)) (nsKey b ((sec + 1) * 4096))).mem with
      wcache := Mem.writeL d.mem.wcache (nsKey b (sec * 4096)) bs,
      dirty := d.mem.dirty.filter (fun x => !decide (x = (b, sec))) ++ [(b, sec)],
      alloc := if d.mem.alloc.contains (b, sec) then d.mem.alloc else d.mem.alloc ++ [(b, sec)] },
    flash := { d.flash with hostBytes := d.flash.hostBytes + 4096 } }

section
variable (d : Dev) (b sec : Nat) (bs : List Byte)

theorem cacheSector_dirty : (cacheSector d b sec bs).mem.dirty = d.mem.dirty.filter (fun x => !decide (x = (b, sec))) ++ [(b, sec)] := rfl
theorem cacheSector_unreadable : (cacheSector d b sec bs).mem.unreadable = d.mem.unreadable := rfl
theorem cacheSector_wcache : (cacheSector d b sec bs).mem.wcache = Mem.writeL d.mem.wcache (nsKey b (sec * 4096)) bs := rfl
theorem cacheSector_flash : (cacheSector d b sec bs).mem.flash = d.mem.flash := rfl
theorem cacheSector_shore : (cacheSector d b sec bs).mem.shore = d.mem.shore := rfl
theorem cacheSector_eng : (cacheSector d b sec bs).eng = d.eng := rfl
theorem cacheSector_poison : (cacheSector d b sec bs).mem.poison = (clearPoison d .ns (nsKey b (sec * 4096)) (nsKey b ((sec + 1) * 4096))).mem.poison := rfl

theorem cacheSector_poisoned (w : Nat) : poisoned (cacheSector d b sec bs) .ns w =
    (poisoned d .ns w && !(decide (nsKey b (sec * 4096) ≤ w * 8) && decide (w * 8 + 8 ≤ nsKey b ((sec + 1) * 4096)))) := by
  rw [← poisoned_clear, poisoned, poisoned, cacheSector_poison]

theorem cacheSector_shorePoison (a n : Nat) : shorePoison (cacheSector d b sec bs) a n = shorePoison d a n := by
  rw [← shorePoison_clear d (nsKey b (sec * 4096)) (nsKey b ((sec + 1) * 4096)), shorePoison, shorePoison, cacheSector_poison]

end

theorem ldWrite_succ {b block sector n i : Nat} {d : Dev} (whole : shorePoison d (shoreAddr 0 block (i * 4096)) 4096 = false) :
    ldWrite b block sector (n + 1) i d =
      ldWrite b block sector n (i + 1) (cacheSector d b (sector + i) (Mem.readN d.mem.shore (shoreAddr 0 block (i * 4096)) 4096)) := by
  rw [ldWrite]
  dsimp only
  rw [if_neg (by rw [whole]; nofun)]
  rfl

section
variable {d : Dev} {b sec : Nat} {bs : List Byte} (len : bs.length = 4096) (fits : sec < 2 ^ 38)
include len fits

/-- The sector reads as what was written. -/
theorem nsByte_written {j : Nat} (lt : j < 4096) : nsByte (cacheSector d b sec bs) b (sec * 4096 + j) = .ok (bs.getD j 0) := by
  have here : (sec * 4096 + j) / 4096 = sec := by omega
  have inside : b = b ∧ sec * 4096 ≤ sec * 4096 + j ∧ sec * 4096 + j < (sec + 1) * 4096 := ⟨rfl, by omega, by omega⟩
  obtain ⟨-, word⟩ := nsKey_extent (b := b) (c := b) (x := sec * 4096 + j) (lo := sec) (n := 1) (by omega) (by omega)
  obtain ⟨low, high⟩ := word.2 inside
  have dirty : (cacheSector d b sec bs).mem.dirty.contains (b, (sec * 4096 + j) / 4096) = true := by
    rw [here, cacheSector_dirty, List.contains_iff_mem]
    exact List.mem_append_right _ (List.mem_singleton_self _)
  have whole : poisoned (cacheSector d b sec bs) .ns (nsKey b (sec * 4096 + j) / 8) = false := by
    rw [cacheSector_poisoned, decide_eq_true low, decide_eq_true high]
    simp only [Bool.and_self, Bool.not_true, Bool.and_false]
  have key : nsKey b (sec * 4096 + j) = nsKey b (sec * 4096) + j := by unfold nsKey; omega
  rw [nsByte_cached dirty whole, key, cacheSector_wcache, Mem.read_writeL _ _ _ _ (by rw [len]; exact lt)]

/-- Every other byte reads as before. -/
theorem nsByte_unwritten {c x : Nat} (hx : x < 2 ^ 50) (other : (c, x / 4096) ≠ (b, sec)) :
    nsByte (cacheSector d b sec bs) c x = nsByte d c x := by
  have outside : ¬(c = b ∧ sec * 4096 ≤ x ∧ x < (sec + 1) * 4096) := by
    rintro ⟨rfl, low, high⟩
    exact other (by rw [show x / 4096 = sec by omega])
  obtain ⟨key, word⟩ := nsKey_extent (b := b) (c := c) (x := x) (lo := sec) (n := 1) hx (by omega)
  have dirty : (cacheSector d b sec bs).mem.dirty.contains (c, x / 4096) = d.mem.dirty.contains (c, x / 4096) := by
    rw [cacheSector_dirty, Bool.eq_iff_iff, List.contains_iff_mem, List.contains_iff_mem, List.mem_append, List.mem_singleton, List.mem_filter]
    simp only [other, decide_false, Bool.not_false, and_true, or_false]
  have whole : poisoned (cacheSector d b sec bs) .ns (nsKey c x / 8) = poisoned d .ns (nsKey c x / 8) := by
    have clear : (decide (nsKey b (sec * 4096) ≤ nsKey c x / 8 * 8) && decide (nsKey c x / 8 * 8 + 8 ≤ nsKey b ((sec + 1) * 4096))) = false := by
      rw [Bool.eq_false_iff, Ne, Bool.and_eq_true, decide_eq_true_eq, decide_eq_true_eq, word]
      exact outside
    rw [cacheSector_poisoned, clear, Bool.not_false, Bool.and_true]
  have cache : Mem.read (cacheSector d b sec bs).mem.wcache (nsKey c x) = Mem.read d.mem.wcache (nsKey c x) := by
    have apart := mt key.1 outside
    have lower : nsKey b ((sec + 1) * 4096) = nsKey b (sec * 4096) + 4096 := by unfold nsKey; omega
    rw [cacheSector_wcache, Mem.read_writeL_of_not_mem]
    rw [len]
    omega
  exact nsByte_congr dirty (by rw [cacheSector_unreadable]) whole cache (by rw [cacheSector_flash])

end

/-- A WRITE of n sectors from the i-th on has moved them all. -/
structure LdWritten (d : Dev) (b block sector n i : Nat) (e : LdEnd) : Prop where
  result : e.result = 0
  moved : e.moved = (i + n) * 4096
  shore : e.d.mem.shore = d.mem.shore
  eng : e.d.eng = d.eng
  written : ∀ k j, i ≤ k → k < i + n → j < 4096 →
    nsByte e.d b ((sector + k) * 4096 + j) = .ok (Mem.read d.mem.shore (shoreAddr 0 block (k * 4096) + j))
  others : ∀ c x, x < 2 ^ 50 → (c ≠ b ∨ x / 4096 < sector + i ∨ sector + i + n ≤ x / 4096) → nsByte e.d c x = nsByte d c x

theorem ldWrite_written {b block sector : Nat} (n i : Nat) (d : Dev) (fits : sector + i + n ≤ 2 ^ 38)
    (whole : ∀ k, i ≤ k → k < i + n → shorePoison d (shoreAddr 0 block (k * 4096)) 4096 = false) :
    LdWritten d b block sector n i (ldWrite b block sector n i d) := by
  induction n generalizing i d with
  | zero => exact ⟨rfl, rfl, rfl, rfl, fun k j _ _ _ => by omega, fun _ _ _ _ => rfl⟩
  | succ n ih =>
    have one : sector + i < 2 ^ 38 := by omega
    rw [ldWrite_succ (whole i (Nat.le_refl i) (by omega))]
    have len := length_readN d.mem.shore (shoreAddr 0 block (i * 4096)) 4096
    have byte {j : Nat} (lt : j < 4096) := readN_getD d.mem.shore (shoreAddr 0 block (i * 4096)) lt
    generalize Mem.readN d.mem.shore (shoreAddr 0 block (i * 4096)) 4096 = bs at len byte
    obtain ⟨result, moved, shore, eng, written, others⟩ := ih (i + 1) (cacheSector d b (sector + i) bs) (by omega)
      fun k low high => (cacheSector_shorePoison ..).trans (whole k (by omega) (by omega))
    refine ⟨result, moved.trans (by omega), shore.trans (cacheSector_shore ..), eng.trans (cacheSector_eng ..), fun k j low high lt => ?_, fun c x hx out => ?_⟩
    · by_cases first : k = i
      · subst first
        have before : ((sector + k) * 4096 + j) / 4096 < sector + (k + 1) := by omega
        rw [others b _ (by omega) (.inr (.inl before)), nsByte_written len one lt, byte lt]
      · rw [written k j (by omega) (by omega) lt, cacheSector_shore]
    · rw [others c x hx (by omega)]
      refine nsByte_unwritten len one hx fun eq => ?_
      obtain ⟨rfl, at'⟩ := Prod.mk.inj eq
      omega

end Sys2Proof.Machine

namespace Sys2Proof.Proofs

open Sys2Proof.Machine Sys2Proof.Claims

/-! ### O33: load commands -/

section
variable {s : State} {fn op : Nat} {x r : LoadReads} {c : Instr}

theorem ldRow_eq (row : (op, r, c) ∈ [(1, x, Instr.flashWrite fn x), (2, ⟨x.flags, []⟩, .flashRead fn x.flags), (3, x, .copyIn fn x), (4, x, .copyOut fn x),
      (5, ⟨[], []⟩, .trim fn), (6, ⟨[], []⟩, .flush fn)]) : exec c s = ldGoRow op fn r s := by
  simp only [List.mem_cons, Prod.mk.injEq, List.not_mem_nil, or_false] at row
  rcases row with ⟨rfl, rfl, rfl⟩ | ⟨rfl, rfl, rfl⟩ | ⟨rfl, rfl, rfl⟩ | ⟨rfl, rfl, rfl⟩ | ⟨rfl, rfl, rfl⟩ | ⟨rfl, rfl, rfl⟩
  all_goals rfl

/-- A row whose operation FLC_LD_OP names writes 1 to FLC_LD_GO. -/
theorem ldGoRow_lands (named : ldOp s.dev = op) (h : LandsOn s fn .flc 0 0x114) :
    ldGoRow op fn r s = .next (metByLoad r.errs s (on s (ldGo s.dev ⟨r.flags, []⟩ 1))) := by
  have lands : hostWrite4 s fn (regA .flc 0 0x114) 1 [] r.flags = on s (ldGo s.dev ⟨r.flags, []⟩ 1) := hostWrite4_acts (by decide) h rfl
  rw [ldGoRow, if_pos named, lands]
  rfl

theorem ldGoRow_armed (named : ldOp s.dev = op) (h : LandsOn s fn .flc 0 0x114) (armed : isArmed s.dev .flc 0 = true) :
    ldGoRow op fn r s = .next (on s { s.dev with flash.goWaits := s.dev.flash.goWaits ++ [(1, r)] }) := by
  rw [ldGoRow_lands named h, ldGo, if_pos armed, metByLoad]
  refine congrArg Host.Outcome.next ((if_pos ?_).trans ?_)
  · simp
  · simp [on]

theorem ldGoRow_starts (named : ldOp s.dev = op) (h : LandsOn s fn .flc 0 0x114) (free : isArmed s.dev .flc 0 = false) (idle : s.dev.flash.load = none) :
    ∃ e, ldGoRow op fn r s = .next (on s { ldBusy s.dev with
      flash.load := some ⟨op, ldBasin s.dev, ldBlock s.dev, ldLen s.dev, ldDst s.dev, e, r.errs⟩ }) := by
  obtain ⟨e, started⟩ := ldStart_starts idle ⟨r.flags, []⟩
  refine ⟨e, ?_⟩
  rw [ldGoRow_lands named h, ldGo, if_neg (by simp [free]), started, metByLoad]
  refine congrArg Host.Outcome.next ((if_neg ?_).trans ((if_pos ?_).trans ?_))
  · rw [show (on s _).dev.flash.goWaits = s.dev.flash.goWaits from rfl]
    exact Nat.lt_irrefl _
  · rw [idle]; rfl
  · rw [← named]; rfl

theorem ldGoRow_refused (named : ldOp s.dev = op) (h : LandsOn s fn .flc 0 0x114) (free : isArmed s.dev .flc 0 = false) (busy : s.dev.flash.load ≠ none) :
    ldGoRow op fn r s = .next (on s (setStat s.dev .flc 0 5)) := by
  rw [ldGoRow_lands named h, ldGo, if_neg (by simp [free]), ldStart_refused busy, metByLoad]
  refine congrArg Host.Outcome.next ((if_neg ?_).trans (if_neg ?_))
  · rw [show (on s (setStat s.dev .flc 0 5)).dev.flash = s.dev.flash from setStat_flash ..]
    exact Nat.lt_irrefl _
  · simp [busy]

end

/-- What a command with an extent of its own moves. -/
theorem ldOutcome_runs {d : Dev} {c : LoadCmd} (checked : c.early = 0) (free : ldClaimed d c.basin c.dst (c.len / 4096) = false) :
    ldOutcome d c = match c.op with
    | 1 => ldWrite c.basin c.block c.dst (c.len / 4096) 0 d
    | 2 => ldRead c.basin c.block c.dst (c.len / 4096) 0 d
    | 3 => ldCopyIn c.basin c.block c.dst (c.len / 64) 0 d
    | 4 => ldCopyOut c.basin c.block c.dst (c.len / 64) 0 d
    | 5 => ⟨ldTrim d c.basin c.dst (c.len / 4096), 0, 0⟩
    | _ => ⟨flushWhere d (fun x => decide (c.early = 256 ∨ x.1 = c.basin)), 0, 0⟩ :=
  (if_pos (.inl checked)).trans (if_neg (by simp [free]))

theorem nsByte_of_mem {d e : Dev} (mem : e.mem = d.mem) (b x : Nat) : nsByte e b x = nsByte d b x :=
  nsByte_congr (by rw [mem]) (by rw [mem]) (by rw [poisoned, poisoned, mem]) (by rw [mem]) (by rw [mem])

section
variable {s : State} {c : LoadCmd} (load : s.dev.flash.load = some c)
include load

/-- WRITE, TRIM and FLUSH wait for FWP2. -/
theorem ldDone_waits (op : c.op = 1 ∨ c.op = 5 ∨ c.op = 6) (stopped : fwpRuns s.dev 2 = false) : exec .ldDone s = .next s := by
  have same : ldDoneOp s.dev = s.dev := by
    rw [ldDoneOp, load]
    exact if_pos ⟨op, by rw [stopped]; rfl⟩
  have waits : orWait s.dev (ldDoneOp s.dev) = s.dev := by rw [same, orWait_of_linkDown rfl]
  exact congrArg (fun d => Host.Outcome.next (on s d)) waits

section
variable (runs : (c.op ≠ 1 ∧ c.op ≠ 5 ∧ c.op ≠ 6) ∨ fwpRuns s.dev 2 = true)
include runs

/-- A command that ends with a result has its words and status, and its memory is what it moved. -/
theorem ldDone_ends (clean : c.early ≠ 0 ∨ c.errs = [] ∨ c.op = 5) {e : LdEnd} (outcome : ldOutcome s.dev c = e) (link : e.d.eng = s.dev.eng)
    (hr : e.result < 16) (hm : e.moved < 2 ^ 32) : exec .ldDone s = .next (on s (ldFinish e)) ∧ Aside s (on s (ldFinish e)) ∧
      (ldFinish e).flash.load = none ∧ reg (on s (ldFinish e)) .flc 0 0x118 = e.result * 16 ∧ reg (on s (ldFinish e)) .flc 0 0x11C = e.moved ∧
      stat (on s (ldFinish e)) .flc 0 4 = true ∧ (ldFinish e).mem = e.d.mem := by
  have marks := ldFinish_marks e
  have ends := ldDoneOp_ends load runs clean
  rw [outcome] at ends
  have met : orWait s.dev (ldDoneOp s.dev) = ldFinish e := by
    rw [ends, orWait_of_linkDown]
    rw [marks.eng, ← link]
  obtain ⟨result, moved, status⟩ := ldFinish_words (e := e) (by omega) hm
  exact ⟨congrArg (fun d => Host.Outcome.next (on s d)) met, ⟨rfl, rfl, rfl⟩, congrArg (fun f => f.load) marks.flash, result, moved, status, marks.mem⟩

theorem ldDone_fails (early : c.early ≠ 0) (lt : c.early < 16) : ∃ t, exec .ldDone s = .next t ∧ Aside s t ∧ t.dev.flash.load = none ∧
    reg t .flc 0 0x118 = c.early * 16 ∧ reg t .flc 0 0x11C = 0 ∧ stat t .flc 0 4 = true ∧ t.dev.mem = s.dev.mem := by
  have outcome : ldOutcome s.dev c = ⟨s.dev, c.early, 0⟩ := if_neg (by omega)
  exact ⟨_, ldDone_ends load runs (.inl early) outcome rfl lt (by norm_num)⟩

section
variable (checked : c.early = 0)
include checked

theorem ldDone_claimed (op : c.op = 5 ∨ (c.op = 1 ∧ c.errs = [])) (claimed : ldClaimed s.dev c.basin c.dst (c.len / 4096) = true) :
    ∃ t, exec .ldDone s = .next t ∧ Aside s t ∧ t.dev.flash.load = none ∧ reg t .flc 0 0x118 = 10 * 16 ∧ stat t .flc 0 4 = true ∧
      t.dev.mem = s.dev.mem := by
  have outcome : ldOutcome s.dev c = ⟨s.dev, 10, 0⟩ := (if_pos (.inl checked)).trans (if_pos ⟨by omega, claimed⟩)
  have clean : c.early ≠ 0 ∨ c.errs = [] ∨ c.op = 5 := .inr (op.symm.imp_left And.right)
  obtain ⟨ends, aside, free, result, -, status, mem⟩ := ldDone_ends load runs clean outcome rfl (by norm_num) (by norm_num)
  exact ⟨_, ends, aside, free, result, status, mem⟩

variable (free : ldClaimed s.dev c.basin c.dst (c.len / 4096) = false)
include free

theorem ldDone_trims (op : c.op = 5) : ∃ t, exec .ldDone s = .next t ∧ Aside s t ∧ t.dev.flash.load = none ∧ reg t .flc 0 0x118 = 0 ∧
    stat t .flc 0 4 = true ∧
    (∀ x, x < 2 ^ 50 → c.dst * 4096 ≤ x → x < (c.dst + c.len / 4096) * 4096 → (c.dst + c.len / 4096) * 4096 ≤ 2 ^ 50 → nsByte t.dev c.basin x = .ok 0) ∧
    (∀ b x, x < 2 ^ 50 → (c.dst + c.len / 4096) * 4096 ≤ 2 ^ 50 →
      (b ≠ c.basin ∨ x < c.dst * 4096 ∨ (c.dst + c.len / 4096) * 4096 ≤ x) → nsByte t.dev b x = nsByte s.dev b x) := by
  have outcome : ldOutcome s.dev c = ⟨ldTrim s.dev c.basin c.dst (c.len / 4096), 0, 0⟩ := by
    simp only [ldOutcome_runs checked free, op]
  obtain ⟨ends, aside, gone, result, -, status, mem⟩ := ldDone_ends load runs (.inr (.inr op)) outcome rfl (by norm_num) (by norm_num)
  exact ⟨_, ends, aside, gone, result, status, fun x _ above below fits => (nsByte_of_mem mem ..).trans (nsByte_trimmed fits above below),
    fun b x hx fits out => (nsByte_of_mem mem ..).trans (nsByte_untrimmed fits hx out)⟩

theorem ldDone_writes (op : c.op = 1) (errs : c.errs = []) (fits : (c.dst + c.len / 4096) * 4096 ≤ 2 ^ 50) (small : c.len < 2 ^ 32)
    (whole : ∀ i, i < c.len / 4096 → shorePoison s.dev (shoreAddr 0 c.block (i * 4096)) 4096 = false) :
    ∃ t, exec .ldDone s = .next t ∧ Aside s t ∧ t.dev.flash.load = none ∧ reg t .flc 0 0x118 = 0 ∧ reg t .flc 0 0x11C = c.len / 4096 * 4096 ∧
      stat t .flc 0 4 = true ∧ t.dev.mem.shore = s.dev.mem.shore ∧
      (∀ i j, i < c.len / 4096 → j < 4096 →
        nsByte t.dev c.basin ((c.dst + i) * 4096 + j) = .ok (Mem.read s.dev.mem.shore (shoreAddr 0 c.block (i * 4096) + j))) ∧
      (∀ b x, x < 2 ^ 50 → (b ≠ c.basin ∨ x < c.dst * 4096 ∨ (c.dst + c.len / 4096) * 4096 ≤ x) → nsByte t.dev b x = nsByte s.dev b x) := by
  have outcome : ldOutcome s.dev c = ldWrite c.basin c.block c.dst (c.len / 4096) 0 s.dev := by
    simp only [ldOutcome_runs checked free, op]
  have moves := ldWrite_written (b := c.basin) (block := c.block) (sector := c.dst) (c.len / 4096) 0 s.dev (by omega)
    fun k _ lt => whole k (by omega)
  generalize ldWrite c.basin c.block c.dst (c.len / 4096) 0 s.dev = e at outcome moves
  obtain ⟨result, moved, shore, eng, written, others⟩ := moves
  obtain ⟨ends, aside, gone, result', moved', status, mem⟩ := ldDone_ends load runs (.inr (.inl errs)) outcome eng (by omega) (by omega)
  refine ⟨_, ends, aside, gone, result'.trans (by omega), moved'.trans (moved.trans (by rw [Nat.zero_add])), status, ?_, fun i j lt hj => ?_, fun b x hx out => ?_⟩
  · exact (congrArg (fun m => m.shore) mem).trans shore
  · exact (nsByte_of_mem mem ..).trans (written i j (by omega) (by omega) hj)
  · refine (nsByte_of_mem mem ..).trans (others b x hx (out.imp_right (Or.imp (fun below => ?_) fun above => ?_)))
    · exact (Nat.div_lt_iff_lt_mul (by decide)).2 below
    · exact (Nat.le_div_iff_mul_le (by decide)).2 above

end

end

end

/-- Settles O33: each row starts its own command, and each command ends with what it moved. -/
theorem loadCommands : Obligations.LoadCommands := by
  unfold Obligations.LoadCommands
  refine ⟨fun s fn x r op c row => ?_, fun s c load => ⟨ldDone_waits load, fun runs => ⟨ldDone_fails load runs, ldDone_claimed load runs,
    fun checked op errs free => ldDone_writes load runs checked free op errs, fun checked op free => ldDone_trims load runs checked free op⟩⟩⟩
  rw [ldRow_eq row]
  refine ⟨fun other => if_neg other, fun named lands => ⟨fun armed => ?_, fun free idle => ?_, ldGoRow_refused named lands⟩⟩
  · exact ⟨_, ldGoRow_armed named lands armed, ⟨rfl, rfl, rfl⟩, rfl⟩
  · obtain ⟨e, starts⟩ := ldGoRow_starts (r := r) named lands free idle
    obtain ⟨busy, zero⟩ := ldBusy_spec s.dev
    have marks := ldBusy_marks s.dev
    exact ⟨_, e, starts, ⟨rfl, rfl, rfl⟩, rfl, busy, zero, marks.mem, rfl, marks.reqs⟩

end Sys2Proof.Proofs

/-! SUPPORT. Contexts of jobs: reads of a context after its change, and what its end leaves. -/

namespace Sys2Proof.Machine

open Sys2Proof.Claims

/-! ### A context and its cores -/

theorem findCtx_id {d : Dev} {id : Nat} {c : Ctx} (h : findCtx d id = some c) : c.id = id := by simpa using List.find?_some h

theorem findCtx_congr {d e : Dev} (ctxs : e.jobs.ctxs = d.jobs.ctxs) (id : Nat) : findCtx e id = findCtx d id := by rw [findCtx, findCtx, ctxs]

theorem findCtx_modCtx {d : Dev} {id : Nat} {c : Ctx} {f : Ctx → Ctx} (found : findCtx d id = some c) (keeps : ∀ x, x.id = id → (f x).id = id) :
    findCtx (modCtx d id f) id = some (f c) :=
  (find?_modWhere_self _ f d.jobs.ctxs fun x h => decide_eq_true (keeps x (of_decide_eq_true h))).trans (congrArg (Option.map f) found)

theorem getElem?_setAt {α : Type} (xs : List α) (i j : Nat) (v : α) : (setAt xs i v)[j]? = if i = j then xs[j]?.map (fun _ => v) else xs[j]? := by
  induction xs generalizing i j with
  | nil => simp [setAt]
  | cons x xs ih =>
    cases i <;> cases j
    · rfl
    · rfl
    · rfl
    · rw [setAt, List.getElem?_cons_succ, List.getElem?_cons_succ, ih]
      simp only [Nat.succ_inj]

theorem coreAt_setCore {c : Ctx} {i : Nat} {k : CoreSt} (at' : coreAt c i = some k) (k' : CoreSt) : coreAt (setCore c i k') i = some k' := by
  refine (getElem?_setAt c.cores i i k').trans ?_
  rw [if_pos rfl, show c.cores[i]? = some k from at', Option.map_some]

/-! ### A span of core time (R359) -/

theorem endSpan_spans {d : Dev} {c : Ctx} (holds : holding c = true) : (c.basin, c.place.length, c.started, d.now) ∈ (endSpan d c).jobs.spans := by
  rw [endSpan, if_pos holds]
  exact List.mem_append_right _ (List.mem_singleton_self _)

theorem endSpan_ctxs (d : Dev) (c : Ctx) : (endSpan d c).jobs.ctxs = d.jobs.ctxs := by
  unfold endSpan
  split
  · rfl
  · rfl

/-! ### No context comes with the end of a request -/

/-- No context has the id. -/
def NoCtx (id : Nat) (d : Dev) : Prop := ∀ c ∈ d.jobs.ctxs, c.id ≠ id

namespace NoCtx

variable {id : Nat} {d e : Dev}

theorem find (h : NoCtx id d) : findCtx d id = none := List.find?_eq_none.2 fun c mem => by simpa using h c mem

theorem of_subset (h : NoCtx id d) (sub : ∀ c ∈ e.jobs.ctxs, ∃ x ∈ d.jobs.ctxs, x.id = c.id) : NoCtx id e := fun c mem => by
  obtain ⟨x, hx, same⟩ := sub c mem
  rw [← same]
  exact h x hx

theorem of_jobs (h : NoCtx id d) (jobs : e.jobs = d.jobs) : NoCtx id e := h.of_subset fun c mem => ⟨c, jobs ▸ mem, rfl⟩

theorem foldl {α : Type} {f : Dev → α → Dev} (h : NoCtx id d) (xs : List α) (step : ∀ d x, NoCtx id d → NoCtx id (f d x)) : NoCtx id (xs.foldl f d) := by
  induction xs generalizing d with
  | nil => exact h
  | cons x xs ih => exact ih (step d x h)

end NoCtx

theorem dropCtx_ctxs (d : Dev) (id : Nat) : (dropCtx d id).jobs.ctxs = d.jobs.ctxs.filter (fun c => !decide (c.id = id)) := by
  unfold dropCtx
  dsimp only
  split
  · exact congrArg _ (endSpan_ctxs ..)
  · rfl

theorem dropCtx_noCtx (d : Dev) (id : Nat) : NoCtx id (dropCtx d id) := fun c mem => by
  rw [dropCtx_ctxs] at mem
  simpa using (List.mem_filter.1 mem).2

theorem endHold_jobs (d : Dev) (idx slot : Nat) : (endHold d idx slot).jobs = d.jobs := by
  unfold endHold
  split
  · rfl
  · dsimp only
    split
    · rfl
    · split
      · split
        · rfl
        · rfl
      · rfl

namespace NoCtx

variable {id : Nat} {d : Dev}

theorem dropCtx (h : NoCtx id d) (other : Nat) : NoCtx id (dropCtx d other) :=
  h.of_subset fun c mem => ⟨c, (List.mem_filter.1 (dropCtx_ctxs d other ▸ mem)).1, rfl⟩

theorem releaseWork (h : NoCtx id d) (r : Req) : NoCtx id (releaseWork d r) := by
  have dropped : NoCtx id ((endedCtxs d r).foldl (fun d c => Machine.dropCtx d c.id) d) := h.foldl _ fun _ c hd => hd.dropCtx c.id
  rw [releaseWork_parts]
  dsimp only
  split
  · exact (dropped.of_jobs rfl).of_jobs (endHold_jobs ..)
  · exact dropped.of_jobs rfl

theorem workDone (h : NoCtx id d) (r : Req) (cls : Nat) : NoCtx id (workDone d r cls) := by
  have left (e : Dev) (ctxs : e.jobs.ctxs = modWhere (fun c => decide (c.slot = r.slot)) (fun c => { c with slot := Config.totalTags, fault := some cls })
      (Machine.releaseWork d r).jobs.ctxs) : NoCtx id e :=
    (h.releaseWork r).of_subset fun c mem => by
      rw [ctxs] at mem
      obtain ⟨x, hx, eq⟩ := List.mem_map.1 mem
      refine ⟨x, hx, ?_⟩
      rw [← eq]
      split
      · rfl
      · rfl
  unfold Machine.workDone
  dsimp only
  split
  · exact left _ rfl
  · exact left _ rfl

theorem finish (h : NoCtx id d) (r : Req) (cls : Nat) : NoCtx id (finish d r cls) := by
  rw [finish_eq]
  split
  · exact (h.workDone r cls).of_jobs rfl
  · exact (h.workDone r cls).of_jobs rfl

theorem endReq (h : NoCtx id d) (slot cls : Nat) : NoCtx id (endReq d slot cls) := by
  unfold Machine.endReq
  split
  · exact h
  · split
    · exact (h.finish _ _).foldl _ fun _ r hd => hd.finish r 0x11
    · exact h

theorem endAt (h : NoCtx id d) (slot cls : Nat) : NoCtx id (endAt d slot cls) := by
  unfold Machine.endAt
  split
  · exact h
  · exact (h.of_jobs (e := modReq d slot fun r => { r with busy := false }) rfl).endReq slot _

end NoCtx

end Sys2Proof.Machine

namespace Sys2Proof.Proofs

open Sys2Proof.Machine Sys2Proof.Claims

/-! ### O29: contexts leave -/

section
variable {s : State} {c : Ctx} (found : findCtx s.dev c.id = some c)
include found

theorem saveDone_waits (works : ∃ k ∈ c.cores, k.tiles ≠ []) : exec (.saveDone c.id) s = .next s := by
  obtain ⟨k, mem, busy⟩ := works
  have tiles : c.cores.any (fun k => decide (k.tiles ≠ [])) = true := List.any_eq_true.2 ⟨k, mem, decide_eq_true busy⟩
  have op : saveDoneOp s.dev c.id = s.dev := by
    rw [saveDoneOp, found]
    exact if_pos (by simp only [tiles, Bool.or_true, Bool.true_or])
  exact congrArg (fun d => Host.Outcome.next (on s d)) op

theorem saveDone_saves (phase : c.phase = .saving) (clock : s.dev.power.relock.contains c.mere = false) (tiles : ∀ k ∈ c.cores, k.tiles = [])
    (pipe : c.pipe = true) (stopped : fwpRuns s.dev 1 = false) : ∃ t, exec (.saveDone c.id) s = .next t ∧ Aside s t ∧
      findCtx t.dev c.id = some { c with phase := .saved, place := [] } ∧ (c.basin, c.place.length, c.started, s.dev.now) ∈ t.dev.jobs.spans ∧
      t.dev.reqs = s.dev.reqs ∧ t.dev.mem = s.dev.mem := by
  have none' : c.cores.any (fun k => decide (k.tiles ≠ [])) = false := List.any_eq_false.2 fun k mem => by simp [tiles k mem]
  obtain ⟨n, hn⟩ : ∃ n, n = (c.cores.map (fun k => ((List.range 96).filter (fun f => (frameOf k f).dirty)).length)).sum := ⟨_, rfl⟩
  obtain ⟨j, span⟩ := endSpan_eq s.dev c
  have saved : saveDoneOp s.dev c.id = count (modCtx (endSpan s.dev c) c.id (fun c => { c with phase := .saved, place := [] })) .sync c.mere 0x118 n := by
    have still : fwpRuns (count (modCtx (endSpan s.dev c) c.id (fun c => { c with phase := .saved, place := [] })) .sync c.mere 0x118 n) 1 = false := by
      rw [fwpRuns, ((Marks.refl [0x118] (modCtx (endSpan s.dev c) c.id (fun c => { c with phase := .saved, place := [] }))).count .sync c.mere n).wordN .fwp 1,
        span]
      exact stopped
    rw [saveDoneOp, found]
    dsimp only
    rw [if_neg (by rw [clock, none', pipe, phase]; simp), ← hn, relieve, still, if_pos pipe]
    rfl
  refine ⟨_, congrArg (fun d => Host.Outcome.next (on s d)) saved, ⟨rfl, rfl, rfl⟩, ?_, ?_, ?_, ?_⟩
  · exact findCtx_modCtx (f := fun c => { c with phase := .saved, place := [] }) ((findCtx_congr (endSpan_ctxs ..) _).trans found) fun _ h => h
  · exact endSpan_spans (by simp [holding, phase])
  · exact congrArg (fun d => d.reqs) span
  · exact congrArg (fun d => d.mem) span

theorem contextEnd_pipe (pipe : c.pipe = true) : exec (.contextEnd c.id) s = .next (on s (dropCtx s.dev c.id)) := by
  have op : ctxEndOp s.dev c.id = dropCtx s.dev c.id := by
    rw [ctxEndOp, found]
    exact (if_neg (by simp [ctxCanEnd, pipe])).trans (if_pos pipe)
  exact congrArg (fun d => Host.Outcome.next (on s d)) op

/-- A RUN_JOB's context whose cores have all ended takes its request with it. -/
theorem ctxEndOp_ended {k : CoreSt} {r : Req} (own : c.pipe = false) (sound : c.fault = none) (alone : c.link = none) (ended : allEnded c = true)
    (core : coreAt c 0 = some k) (req : findReq s.dev c.slot = some r) (due : r.due = []) :
    ctxEndOp s.dev c.id =
      endAt (modReq (dropCtx s.dev c.id) c.slot (fun r => { r with outLen := k.outLen, outCount := 0, busy := false })) c.slot 0 := by
  obtain ⟨j, g, p, dropped⟩ := dropCtx_eq s.dev c.id
  have req' : findReq (dropCtx s.dev c.id) c.slot = some r := by rw [dropped]; exact req
  have now : findReq (modReq (dropCtx s.dev c.id) c.slot (fun r => { r with outLen := k.outLen, outCount := 0, busy := false })) c.slot =
      some { r with outLen := k.outLen, outCount := 0, busy := false } := findReq_modReq req' fun _ h => h
  rw [ctxEndOp, found]
  dsimp only
  rw [if_neg (by simp [ctxCanEnd, own, ended]), if_neg (by simp [own]), core, sound, leaveSet, alone]
  simp only [Option.isSome_none, Bool.false_eq_true, if_false]
  rw [now]
  exact if_neg fun h => h.1 due

theorem contextEnd_job {k : CoreSt} {r : Req} (own : c.pipe = false) (sound : c.fault = none) (alone : c.link = none) (ended : allEnded c = true)
    (core : coreAt c 0 = some k) (req : findReq s.dev c.slot = some r) (up : r.live = true) (loud : r.silent = false) (due : r.due = []) :
    ∃ t r', exec (.contextEnd c.id) s = .next t ∧ Aside s t ∧ findReq t.dev c.slot = some r' ∧ r'.ended = some 0 ∧ r'.outLen = k.outLen ∧
      findCtx t.dev c.id = none := by
  obtain ⟨j, g, p, dropped⟩ := dropCtx_eq s.dev c.id
  have req' : findReq (dropCtx s.dev c.id) c.slot = some r := by rw [dropped]; exact req
  have now : findReq (modReq (dropCtx s.dev c.id) c.slot (fun r => { r with outLen := k.outLen, outCount := 0, busy := false })) c.slot =
      some { r with outLen := k.outLen, outCount := 0, busy := false } := findReq_modReq req' fun _ h => h
  obtain ⟨done, -, -⟩ := endAt_spec 0 now up due loud
  have gone := ((dropCtx_noCtx s.dev c.id).of_jobs (e := modReq (dropCtx s.dev c.id) c.slot
    (fun r => { r with outLen := k.outLen, outCount := 0, busy := false })) rfl).endAt c.slot 0
  exact ⟨_, _, congrArg (fun d => Host.Outcome.next (on s d)) (ctxEndOp_ended found own sound alone ended core req due), ⟨rfl, rfl, rfl⟩, done, rfl, rfl,
    gone.find⟩

end

/-- Settles O29, by what a saved context keeps and what an ended one releases. -/
theorem contextsLeave : Obligations.ContextsLeave := by
  unfold Obligations.ContextsLeave
  exact fun s c found => ⟨saveDone_waits found, saveDone_saves found, contextEnd_pipe found,
    fun r k own sound alone ended core _ req up loud due _ _ => contextEnd_job found own sound alone ended core req up loud due⟩

end Sys2Proof.Proofs

/-! ## A bundle of one S slot (O26) -/

namespace Sys2Proof.Machine

open Sys2Proof.Claims

/-! ### The slots of a bundle whose header is 1 -/

/-- Only the S slot of a bundle is there: its header enables it alone, and the words of the others are zeros. -/
structure ScalarOnly (w : Nat) : Prop where
  header : Bundle.header w = 1
  slotV : Bundle.slotV w = 0
  slotT : Bundle.slotT w = 0
  slotM : Bundle.slotM w = 0

theorem scalarOnly {w : Nat} (header : w % 65536 = 1) (rest : w / 2 ^ 64 = 0) : ScalarOnly w where
  header := header
  slotV := by simp [Bundle.slotV, bitsOf]; omega
  slotT := by simp [Bundle.slotT, bitsOf]; omega
  slotM := by simp [Bundle.slotM, bitsOf]; omega

theorem ScalarOnly.enS {w : Nat} (only : ScalarOnly w) : Bundle.enS w = true := by
  have odd := only.header
  simp only [Bundle.header] at odd
  simp [Bundle.enS, bitOf]
  omega

/-! ### The empty V, T and M slots neither wait nor fault -/

theorem illegalSlot_scalar {w : Nat} (only : ScalarOnly w) (gang : Bool) (i : Nat) : illegalSlot gang i w 0 = !sDefined (SS.op (Bundle.slotS w)) := by
  simp [illegalSlot, only.enS, only.header]

theorem illegalSlot_empty {w : Nat} (only : ScalarOnly w) (gang : Bool) (i : Nat) {j : Nat} (pos : 1 ≤ j) : illegalSlot gang i w j = false := by
  have v : vLegal 0 = true ∧ vWrites 0 = [] := by decide
  have t : tLegal gang i 0 = true ∧ tWrites 0 = [] := by simp [tLegal, tWrites, tDefined, TS.op]
  have m : mDefined (MS.op 0) = true ∧ mWrites 0 = [] := by decide
  match j with
  | 1 => simp [illegalSlot, only.slotV, v]
  | 2 => simp [illegalSlot, only.slotT, t]
  | j + 3 => simp [illegalSlot, only.slotM, m]

theorem slotStall_empty {e : Env} {w : Nat} (only : ScalarOnly w) {j : Nat} (pos : 1 ≤ j) : slotStall e w j = false := by
  match j with
  | 1 => simp [slotStall, only.slotV, VS.op, vMem]
  | 2 => simp [slotStall, only.slotT, tVectors, tStall, TS.op]
  | j + 3 => simp [slotStall, only.slotM, mStall, MS.op, mRecord, mReq]

theorem slotFault_empty {e : Env} {w : Nat} (only : ScalarOnly w) {j : Nat} (pos : 1 ≤ j) : slotFault e w j = none := by
  unfold slotFault
  rw [illegalSlot_empty only _ _ pos]
  match j with
  | 1 => simp [only.slotV, vFault, VS.op, vMem]
  | 2 => simp [only.slotT, tFault, TS.op]
  | j + 3 => simp [only.slotM, mFault, MS.op]

theorem firstStop_empty {e : Env} {w : Nat} (only : ScalarOnly w) (js : List Nat) (pos : ∀ j ∈ js, 1 ≤ j) : firstStop e w js = none := by
  induction js with
  | nil => rfl
  | cons j js ih =>
    have first := pos j (List.mem_cons_self ..)
    simp [firstStop, slotStall_empty only first, slotFault_empty only first, ih fun i mem => pos i (List.mem_cons_of_mem _ mem)]

/-! ### The two-register operations -/

/-- OP 0x01 to 0x0E and 0x10 to 0x16: those with two source registers and a destination. -/
def TwoRegister (op : Nat) : Prop := 1 ≤ op ∧ op ≤ 0x16 ∧ op ≠ 0x0F

section
variable {e : Env} {w : Nat} (only : ScalarOnly w) (two : TwoRegister (SS.op (Bundle.slotS w)))
include two

theorem sDefined_twoRegister : sDefined (SS.op (Bundle.slotS w)) = true := by
  obtain ⟨low, high, gap⟩ := two
  simp only [sDefined, Bool.or_eq_true, decide_eq_true_eq]
  omega

theorem memory_twoRegister : sLoad (SS.op (Bundle.slotS w)) = false ∧ sStore (SS.op (Bundle.slotS w)) = false := by
  obtain ⟨low, high, gap⟩ := two
  simp only [sLoad, sStore, decide_eq_false_iff_not]
  omega

theorem sApply_twoRegister (k : CoreSt) : sApply e (Bundle.slotS w) k =
    setX k (SS.rd (Bundle.slotS w)) (alu (SS.op (Bundle.slotS w)) (xr e.k (SS.rs1 (Bundle.slotS w))) (xr e.k (SS.rs2 (Bundle.slotS w)))) := by
  obtain ⟨low, high, gap⟩ := two
  have other : SS.op (Bundle.slotS w) ≠ 0x61 := by omega
  have writes : sWrites (Bundle.slotS w) = xw (SS.rd (Bundle.slotS w)) := by
    rw [sWrites, if_pos]
    simp [low, show SS.op (Bundle.slotS w) ≤ 0x36 by omega]
  simp only [sApply, if_neg other, writes, sResult, if_pos high]
  by_cases zero : SS.rd (Bundle.slotS w) = 0
  · simp [xw, zero, setX]
  · simp [xw, zero]

theorem sNext_twoRegister : sNext e (Bundle.slotS w) = e.k.pc + 32 := by
  obtain ⟨low, high, gap⟩ := two
  simp only [sNext]
  rw [if_neg (by omega), if_neg (by omega), if_neg (by omega)]

include only

theorem firstStop_twoRegister : firstStop e w [0, 1, 2, 3] = none := by
  have ⟨load, store⟩ := memory_twoRegister two
  have legal : illegalSlot e.c.gang e.i w 0 = false := by rw [illegalSlot_scalar only, sDefined_twoRegister two]; rfl
  have stall : slotStall e w 0 = false := by simp [slotStall, load, store]
  have fault : slotFault e w 0 = none := by
    obtain ⟨low, high, gap⟩ := two
    simp only [slotFault, legal, sFault, load, store]
    rw [if_neg (by decide), if_neg (by decide), if_neg (by omega), if_neg (by omega), if_neg (by omega)]
  rw [firstStop, stall, Bool.and_false, if_neg Bool.false_ne_true]
  simp only [fault]
  exact firstStop_empty only [1, 2, 3] (by decide)

theorem issueBundle_twoRegister (at' : (findCtx e.d e.c.id).bind (fun c => coreAt c e.i) = some e.k) :
    issueBundle e w e.d = setLiveN (count (modCtx e.d e.c.id (fun c => setCore c e.i
        { setX e.k (SS.rd (Bundle.slotS w)) (alu (SS.op (Bundle.slotS w)) (xr e.k (SS.rs1 (Bundle.slotS w))) (xr e.k (SS.rs2 (Bundle.slotS w)))) with
          pc := e.k.pc + 32, bundles := e.k.bundles + 1 })) .core (e.c.place.getD e.i 0) 0x110 1) .core (e.c.place.getD e.i 0) 0x10C e.k.pc := by
  have ⟨load, store⟩ := memory_twoRegister two
  have stores : sStores e (Bundle.slotS w) ++ vStores e 0 = [] := by simp [sStores, store, vStores, VS.op]
  have v : ∀ k, vApply e 0 k = k := fun k => by simp [vApply, VS.op]
  have m : ∀ k, mApply e 0 k = k := fun k => by simp [mApply, MS.op, mReq]
  have submit : ∀ d, mSubmit e 0 d = d := fun d => by simp [mSubmit, MS.op]
  have bundles : ∀ n x, (setX e.k n x).bundles = e.k.bundles := fun n x => by unfold setX; split <;> rfl
  have other : SS.op (Bundle.slotS w) ≠ 0x70 := by obtain ⟨low, high, gap⟩ := two; omega
  have none0 : TS.op 0 = 0 ∧ MS.op 0 ≠ 7 := by decide
  simp only [issueBundle, at', only.slotV, only.slotT, only.slotM, stores, List.foldl_nil, v, m, submit, none0.1, if_pos, if_neg none0.2, if_neg other,
    sApply_twoRegister two, sNext_twoRegister two, bundles]
end

/-! ### A core that fetches -/

section
variable {s : State} {id i w : Nat} {c : Ctx} {k : CoreSt} (fetched : Fetches s id i c k w)
include fetched

/-- A fetched bundle is looked at slot by slot. -/
theorem bundleOp_of_fetches : bundleOp s.dev id i = bundleAt ⟨s.dev, c, i, k⟩ := by
  obtain ⟨found, at', -, running, pipe, stop, relock, ended, -⟩ := fetched
  simp only [bundleOp, found, at', running, pipe, stop, ended, relock, ne_eq, not_true_eq_false, decide_false, Bool.or_self, Bool.false_eq_true, if_false]

/-- A bundle none of whose slots waits or faults issues (R306). -/
theorem bundleOp_issues (go : firstStop ⟨s.dev, c, i, k⟩ w [0, 1, 2, 3] = none) (sync : syncTry ⟨s.dev, c, i, k⟩ (Bundle.slotM w) = (s.dev, true)) :
    bundleOp s.dev id i = issueBundle ⟨s.dev, c, i, k⟩ w s.dev := by
  rw [bundleOp_of_fetches fetched]
  obtain ⟨found, -, -, -, -, -, -, -, wait, align, top, pending, code, poison, word⟩ := fetched
  have place : ¬(k.pc % 32 ≠ 0 ∨ tarnTop ≤ k.pc) := by omega
  simp only [bundleAt, if_neg wait, if_neg place, pending, code, findCtx_id found, poison, word, go, sync, Bool.not_true, Bool.false_eq_true, if_false, if_true]

/-- A bundle whose S slot is illegal faults its context (R305, R307). -/
theorem bundleOp_illegal (stop : firstStop ⟨s.dev, c, i, k⟩ w [0, 1, 2, 3] = some (0, some 1)) : bundleOp s.dev id i = ctxFault s.dev id i 1 0 := by
  rw [bundleOp_of_fetches fetched]
  obtain ⟨found, -, -, -, -, -, -, -, wait, align, top, pending, code, poison, word⟩ := fetched
  have place : ¬(k.pc % 32 ≠ 0 ∨ tarnTop ≤ k.pc) := by omega
  simp only [bundleAt, if_neg wait, if_neg place, pending, code, findCtx_id found, poison, word, stop, Bool.not_true, Bool.false_eq_true, if_false]
  exact congrArg₂ (fun e n => ctxFault e id i 1 0 n) (if_neg (by decide)) (if_neg (by decide))
end

/-- A context of a basin that does not wait: its command is the operation alone, where that touches no link. -/
theorem forCtx_found {s : State} {id : Nat} {c : Ctx} {op : Dev → Dev} (found : findCtx s.dev id = some c) (goes : basinWaits s.dev c.basin = false)
    (link : (op s.dev).eng.linkDown = s.dev.eng.linkDown) : forCtx s id op = .next (on s (op s.dev)) := by
  have found' : s.dev.jobs.ctxs.find? (fun c => decide (c.id = id)) = some c := found
  simp only [forCtx, found', goes, Bool.false_eq_true, if_false, orWait_of_linkDown link]
  rfl

theorem exec_bundle {s : State} {id i w : Nat} {c : Ctx} {k : CoreSt} (fetched : Fetches s id i c k w)
    (link : (bundleOp s.dev id i).eng.linkDown = s.dev.eng.linkDown) : exec (.bundle id i []) s = .next (on s (bundleOp s.dev id i)) := by
  obtain ⟨found, -, goes, -⟩ := fetched
  show execBundle id i [] s = _
  simp only [execBundle, bundleErrors_nil]
  exact forCtx_found found goes link

/-! ### The fault of a context -/

/-- Its outstanding draws are discarded. -/
def CoreSt.noDraws (k : CoreSt) : CoreSt := { k with xfers := k.xfers.filter (fun x => !x.draw) }

/-- A fault of no other kind than JOB_FAULT: the context stops, and the faulting core's page records it. -/
theorem ctxFault_ill {d : Dev} {id : Nat} {c : Ctx} (found : findCtx d id = some c) (clean : c.fault = none) (i slot : Nat) :
    Marks (0x11C :: statOffs) (modCtx d id (fun c => { c with fault := some 0x60, cores := c.cores.map CoreSt.noDraws })) (ctxFault d id i 1 slot) := by
  simp only [ctxFault, found, clean, Option.isSome_none, Bool.false_eq_true, if_false, causeClass]
  split
  · exact .refl _ _
  · exact ((Marks.refl _ _).count .core _ (off := 0x11C) 1).setStat _ _ _ _ _ _ _

end Sys2Proof.Machine

namespace Sys2Proof.Proofs

open Sys2Proof.Machine Sys2Proof.Claims

theorem scalarBundle_issues {s : State} {id i w : Nat} {c : Ctx} {k : CoreSt} (fetched : Fetches s id i c k w) (only : ScalarOnly w)
    (two : TwoRegister (SS.op (Bundle.slotS w))) :
    ∃ t, exec (.bundle id i []) s = .next t ∧ Aside s t ∧
      t.dev.jobs = (modCtx s.dev id (fun c => setCore c i { setX k (SS.rd (Bundle.slotS w))
          (alu (SS.op (Bundle.slotS w)) (xr k (SS.rs1 (Bundle.slotS w))) (xr k (SS.rs2 (Bundle.slotS w)))) with
        pc := k.pc + 32, bundles := k.bundles + 1 })).jobs ∧
      t.dev.mem.hbm = s.dev.mem.hbm ∧ t.dev.mem.shore = s.dev.mem.shore ∧ t.dev.reqs = s.dev.reqs ∧ t.dev.eng = s.dev.eng := by
  have found : findCtx s.dev id = some c := fetched.1
  have own : c.id = id := findCtx_id found
  have at' : (findCtx s.dev c.id).bind (fun c => coreAt c i) = some k := by rw [own, found]; exact fetched.2.1
  have sync : syncTry ⟨s.dev, c, i, k⟩ 0 = (s.dev, true) := by simp [syncTry, MS.op]
  have issued := bundleOp_issues fetched (firstStop_twoRegister (e := ⟨s.dev, c, i, k⟩) only two) (by rw [only.slotM]; exact sync)
  rw [issueBundle_twoRegister (e := ⟨s.dev, c, i, k⟩) only two at'] at issued
  have marks : Marks [0x110, 0x10C] _ (bundleOp s.dev id i) := issued ▸
    ((Marks.refl [0x110, 0x10C] _).count .core (c.place.getD i 0) (off := 0x110) 1).setLiveN .core (c.place.getD i 0) (off := 0x10C) k.pc
  refine ⟨_, exec_bundle fetched (congrArg (·.linkDown) marks.eng), ⟨rfl, rfl, rfl⟩, marks.jobs.trans (by rw [own]), ?_, ?_, marks.reqs, marks.eng⟩
  · exact congrArg (·.hbm) marks.mem
  · exact congrArg (·.shore) marks.mem

theorem undefinedBundle_faults {s : State} {id i w : Nat} {c : Ctx} {k : CoreSt} (fetched : Fetches s id i c k w) (only : ScalarOnly w)
    (undefined : sDefined (SS.op (Bundle.slotS w)) = false) (clean : c.fault = none) :
    ∃ t, exec (.bundle id i []) s = .next t ∧ Aside s t ∧ t.dev.mem = s.dev.mem ∧ t.dev.reqs = s.dev.reqs ∧
      findCtx t.dev id = some { c with fault := some 0x60, cores := c.cores.map CoreSt.noDraws } := by
  have found : findCtx s.dev id = some c := fetched.1
  have ill : illegalSlot c.gang i w 0 = true := by rw [illegalSlot_scalar only, undefined]; rfl
  have stop : firstStop ⟨s.dev, c, i, k⟩ w [0, 1, 2, 3] = some (0, some 1) := by simp [firstStop, slotFault, ill]
  have faults := bundleOp_illegal fetched stop
  have marks : Marks _ _ (bundleOp s.dev id i) := faults ▸ ctxFault_ill found clean i 0
  refine ⟨_, exec_bundle fetched (congrArg (·.linkDown) marks.eng), ⟨rfl, rfl, rfl⟩, marks.mem, marks.reqs, ?_⟩
  exact (findCtx_congr (congrArg (·.ctxs) marks.jobs) id).trans
    (findCtx_modCtx (f := fun c => { c with fault := some 0x60, cores := c.cores.map CoreSt.noDraws }) found fun x own => own)

theorem xr_zero (k : CoreSt) : xr k 0 = 0 := if_pos rfl

theorem setX_zero (k : CoreSt) (v : W64) : setX k 0 v = k := if_pos rfl

theorem setX_others (k : CoreSt) (n : Nat) (v : W64) : (setX k n v).v = k.v ∧ (setX k n v).p = k.p ∧ (setX k n v).t = k.t ∧
    (setX k n v).acc = k.acc ∧ (setX k n v).pc = k.pc ∧ (setX k n v).tarn = k.tarn := by
  unfold setX
  split <;> exact ⟨rfl, rfl, rfl, rfl, rfl, rfl⟩

/-- Settles O26: the other slots' words are zeros, which neither wait, fault nor act, so the S slot alone decides. -/
theorem bundlesIssue : Obligations.BundlesIssue := by
  refine ⟨fun s id i w c k fetched header rest low high gap => ?_, fun s id i w c k fetched header rest undefined clean => ?_, fun k n m v => ?_⟩
  · exact scalarBundle_issues fetched (scalarOnly header rest) ⟨low, high, gap⟩
  · exact undefinedBundle_faults fetched (scalarOnly header rest) undefined clean
  · refine ⟨xr_zero k, setX_zero k v, fun pos => ⟨?_, fun ne => ?_, setX_others k n v⟩⟩
    · rw [xr_setX k pos, if_pos rfl]
    · rw [xr_setX k pos, if_neg (Ne.symm ne)]

end Sys2Proof.Proofs

/-! ## Transfers and tile work (O27) -/

namespace Sys2Proof.Machine

open Sys2Proof.Claims

/-! ### One core of a context -/

/-- A change of one core of a context, where it has one of that number. -/
def onCore (i : Nat) (f : CoreSt → CoreSt) (c : Ctx) : Ctx :=
  match coreAt c i with
  | some k => setCore c i (f k)
  | none => c

theorem onCore_id (i : Nat) (f : CoreSt → CoreSt) (c : Ctx) : (onCore i f c).id = c.id := by
  unfold onCore
  split <;> rfl

/-- A context, and a core of it, as the block proper holds them. -/
structure HasCore (d : Dev) (id i : Nat) (c : Ctx) (k : CoreSt) : Prop where
  ctx : findCtx d id = some c
  core : coreAt c i = some k

namespace HasCore

variable {d e : Dev} {id i : Nat} {c : Ctx} {k : CoreSt}

theorem congr (h : HasCore d id i c k) (ctxs : e.jobs.ctxs = d.jobs.ctxs) : HasCore e id i c k := ⟨(findCtx_congr ctxs id).trans h.ctx, h.core⟩

theorem modCore (h : HasCore d id i c k) (f : CoreSt → CoreSt) : HasCore (modCtx d id (onCore i f)) id i (setCore c i (f k)) (f k) where
  ctx := by
    rw [findCtx_modCtx h.ctx fun x own => (onCore_id i f x).trans own, onCore, h.core]
  core := coreAt_setCore h.core (f k)

theorem setCore (h : HasCore d id i c k) (k' : CoreSt) : HasCore (modCtx d id (setCore · i k')) id i (setCore c i k') k' where
  ctx := findCtx_modCtx h.ctx fun _ own => own
  core := coreAt_setCore h.core k'

end HasCore

/-! ### The tile unit (R333) -/

theorem tileStartOp_stopping {d : Dev} {id i : Nat} {c : Ctx} {k : CoreSt} (has : HasCore d id i c k) (stop : stopping d c = true) :
    tileStartOp d id i = d := by
  simp only [tileStartOp, has.ctx, has.core, stop]
  split
  · rfl
  · simp

theorem tileStartOp_starts {d : Dev} {id i : Nat} {c : Ctx} {k : CoreSt} {o : TileOp} {os : List TileOp} (has : HasCore d id i c k)
    (queue : k.tiles = o :: os) (running : c.phase = .running) (clock : d.power.relock.contains c.mere = false) (waits : o.started = false)
    (stop : stopping d c = false) (narrow : mereWide (TS.op o.word) = false) :
    tileStartOp d id i = modCtx d id (fun c => Machine.setCore c i { k with tiles := { o with started := true } :: os }) := by
  simp only [tileStartOp, has.ctx, has.core, queue, running, clock, waits, stop, narrow, ne_eq, not_true_eq_false, false_and, decide_false, Bool.false_and,
    Bool.or_self, Bool.false_eq_true, if_false]

/-- A core's state once its TFILL has ended. -/
def filled (k : CoreSt) (o : TileOp) (os : List TileOp) : CoreSt :=
  { k with tiles := os, acc := accRegion k.acc (TS.ad o.word) 32 32 (fun _ _ _ => BitVec.ofNat 32 (TS.imm o.word)) }

theorem tileEndOp_fill {d : Dev} {id i : Nat} {c : Ctx} {k : CoreSt} {o : TileOp} {os : List TileOp} (has : HasCore d id i c k)
    (queue : k.tiles = o :: os) (clock : d.power.relock.contains c.mere = false) (runs : o.started = true) (stop : stopping d c = false)
    (fill : TS.op o.word = 1) : tileEndOp d id i = modCtx d id (fun c => Machine.setCore c i (filled k o os)) := by
  have narrow : mereWide 1 = false := by decide
  have reads : tileReads o = [] := by simp [tileReads, fill]
  simp only [tileEndOp, has.ctx, has.core, queue, clock, runs, stop, fill, narrow, reads, tileRun, List.any_nil, List.foldl_nil, Bool.not_true, Bool.or_false,
    Bool.false_eq_true, if_false]
  rfl

/-! ### What an accumulator holds after a fill -/

theorem accGet_accSet (acc : SMap W32) (a i j a' i' j' : Nat) (w : W32) :
    accGet (accSet acc a i j w) a' i' j' = if accKey a i j = accKey a' i' j' then w else accGet acc a' i' j' := SMap.get_set _ _ _ _ _

/-- Places of one accumulator row set to one word. -/
theorem accGet_foldl_row (a i a' i' j' : Nat) (w : W32) (js : List Nat) (acc : SMap W32) :
    accGet (js.foldl (fun m j => accSet m a i j w) acc) a' i' j' =
      if ∃ j ∈ js, accKey a i j = accKey a' i' j' then w else accGet acc a' i' j' := by
  induction js generalizing acc with
  | nil => simp
  | cons j js ih =>
    rw [List.foldl_cons, ih, accGet_accSet]
    by_cases here : accKey a i j = accKey a' i' j'
    · simp only [List.exists_mem_cons_iff, here, if_true, ite_self, true_or]
    · simp only [List.exists_mem_cons_iff, here, if_false, false_or]

theorem accGet_foldl_rows (a a' i' j' cols : Nat) (w : W32) (is : List Nat) (acc : SMap W32) :
    accGet (is.foldl (fun m i => (List.range cols).foldl (fun m j => accSet m a i j w) m) acc) a' i' j' =
      if ∃ i ∈ is, ∃ j ∈ List.range cols, accKey a i j = accKey a' i' j' then w else accGet acc a' i' j' := by
  induction is generalizing acc with
  | nil => simp
  | cons i is ih =>
    rw [List.foldl_cons, ih, accGet_foldl_row]
    by_cases here : ∃ j ∈ List.range cols, accKey a i j = accKey a' i' j'
    · simp only [List.exists_mem_cons_iff, here, if_true, ite_self, true_or]
    · simp only [List.exists_mem_cons_iff, here, if_false, false_or]

theorem accGet_fill (acc : SMap W32) (ad a i j : Nat) (w : W32) (hi : i < 32) (hj : j < 32) :
    accGet (accRegion acc ad 32 32 (fun _ _ _ => w)) a i j = if a = ad then w else accGet acc a i j := by
  rw [accRegion, accGet_foldl_rows]
  refine if_congr ⟨fun ⟨x, hx, y, hy, key⟩ => ?_, fun same => ⟨i, List.mem_range.2 hi, j, List.mem_range.2 hj, by rw [same]⟩⟩ rfl rfl
  have := List.mem_range.1 hx
  have := List.mem_range.1 hy
  simp only [accKey] at key
  omega

/-! ### A draw of one piece from the die buffer (R301) -/

/-- A core without the transfers of one number. -/
def CoreSt.without (k : CoreSt) (x : Nat) : CoreSt := { k with xfers := k.xfers.filter (fun y => !decide (y.id = x)) }

theorem CoreSt.not_mem_without {k : CoreSt} {x : Nat} {y : Xfer} (mem : y ∈ (k.without x).xfers) : y.id ≠ x := by
  simpa using (List.mem_filter.1 mem).2

theorem dropXfer_eq (d : Dev) (id i x : Nat) : dropXfer d id i x = modCtx d id (onCore i (·.without x)) := rfl

/-- Bytes put into a core's tarn. -/
def CoreSt.withTarn (k : CoreSt) (t : Nat) (bs : List Byte) : CoreSt := { k with tarn := Mem.writeL k.tarn t bs }

/-- What the cores of a context see in space 1 does not depend on the contexts. -/
theorem dbufSeen_modCtx (d : Dev) (id : Nat) (f : Ctx → Ctx) (c : Ctx) : dbufSeen (modCtx d id f) c = dbufSeen d c := rfl

theorem linkWait_dbuf (d : Dev) (c : Ctx) {x : Xfer} (dbuf : x.space = 1) : linkWait d c x = false := by simp [linkWait, dbuf]

theorem drawLandsOp_waits {d : Dev} {id i xid : Nat} {c : Ctx} {k : CoreSt} {x : Xfer} (has : HasCore d id i c k)
    (draw : k.xfers.find? (fun y => decide (y.id = xid) && y.draw) = some x) (wait : mustWait (ordering d c k) x = true ∨ stopping d c = true) :
    drawLandsOp d id i xid = d := by
  simp only [drawLandsOp, has.ctx, has.core, draw]
  rcases wait with first | stop
  · simp [first]
  · simp [stop]

theorem drawLandsOp_dbuf {d : Dev} {id i : Nat} {c : Ctx} {k : CoreSt} {x : Xfer} {a t n : Nat} (has : HasCore d id i c k)
    (draw : k.xfers.find? (fun y => decide (y.id = x.id) && y.draw) = some x) (dbuf : x.space = 1) (piece : x.pieces = [(a, t, n)])
    (running : c.phase = .running) (stop : stopping d c = false) (next : mustWait (ordering d c k) x = false) :
    ∃ bad, drawLandsOp d id i x.id = landPiece id i (dropXfer d id i x.id) t (Mem.readN (dbufSeen d c) a n) bad := by
  have own := findCtx_id has.ctx
  simp only [drawLandsOp, has.ctx, has.core, draw, running, stop, next, linkWait_dbuf d c dbuf, piece, dbuf, landPieces, spaceRead, Acc.bind, own,
    dropXfer_eq, dbufSeen_modCtx]
  exact ⟨_, rfl⟩

/-! ### A return of one piece into the die buffer (R301, R404) -/

theorem modReq_ne_due {d : Dev} {slot : Nat} (none0 : ∀ r ∈ d.reqs, r.due = []) :
    ∀ r ∈ (modReq d slot (fun r => { r with busy := false })).reqs, r.due = [] := by
  intro r mem
  obtain ⟨q, old, rfl⟩ := List.mem_map.1 mem
  split
  · exact none0 q old
  · exact none0 q old

theorem settle_noneDue {d : Dev} (none0 : ∀ r ∈ d.reqs, r.due = []) : settle d = d := by
  have empty : d.reqs.filter (fun r => r.live && !r.busy && decide (r.due ≠ [] ∧ r.op ≠ 6)) = [] :=
    List.filter_eq_nil_iff.2 fun r mem => by simp [none0 r mem]
  rw [settle, empty, List.foldl_nil]

/-- No request waits for the return: the context is not saved, or none is due to end. -/
def NoneEnds (d : Dev) (c : Ctx) : Prop := c.phase ≠ .saved ∨ ∀ r ∈ d.reqs, r.due = []

theorem NoneEnds.congr {d e : Dev} {c c' : Ctx} (h : NoneEnds d c) (reqs : e.reqs = d.reqs) (phase : c'.phase = c.phase) : NoneEnds e c' := by
  rw [NoneEnds, reqs, phase]
  exact h

theorem savedReturns_noneEnds {d : Dev} {id : Nat} {c : Ctx} (found : findCtx d id = some c) (quiet : NoneEnds d c) :
    ∃ rs, savedReturns d id = { d with reqs := rs } := by
  simp only [savedReturns, found]
  split
  · rename_i saved
    obtain ⟨phase, -⟩ := saved
    have none0 := quiet.resolve_left (· phase)
    exact ⟨_, settle_noneDue (modReq_ne_due none0)⟩
  · exact ⟨d.reqs, rfl⟩

theorem applyClean_only (k : CoreSt) (space : Nat) (fs : List (Nat × Nat)) : ∃ m, applyClean k space fs = { k with frames := m } := by
  induction fs generalizing k with
  | nil => exact ⟨_, rfl⟩
  | cons f fs ih =>
    rw [applyClean, List.foldl_cons]
    split
    · obtain ⟨m, eq⟩ := ih (setFrame k f.1 ⟨true, false, false, some (space, f.2)⟩)
      exact ⟨m, eq⟩
    · exact ih k

theorem returnCompletesOp_waits {d : Dev} {id i xid : Nat} {c : Ctx} {k : CoreSt} {x : Xfer} (has : HasCore d id i c k)
    (ret : k.xfers.find? (fun y => decide (y.id = xid) && !y.draw) = some x) (first : mustWait (ordering d c k) x = true) :
    returnCompletesOp d id i xid = d := by
  simp [returnCompletesOp, has.ctx, has.core, ret, first]

theorem returnCompletesOp_stale {d : Dev} {id i : Nat} {c : Ctx} {k : CoreSt} {x : Xfer} (has : HasCore d id i c k)
    (ret : k.xfers.find? (fun y => decide (y.id = x.id) && !y.draw) = some x) (dbuf : x.space = 1) (unsent : x.sent = [])
    (next : mustWait (ordering d c k) x = false) (known : noMajority d (regA .core x.core 0x108) = false)
    (stale : x.epoch ≠ liveN d .core x.core 0x108) :
    returnCompletesOp d id i x.id = savedReturns (staleCore (dropXfer d id i x.id) x.core) id := by
  simp [returnCompletesOp, has.ctx, has.core, ret, linkWait_dbuf d c dbuf, unsent, next, known, stale]

theorem staleCore_marks (d : Dev) (core : Nat) : Marks ([0x210, 0x10C] ++ statOffs) d (staleCore d core) :=
  ((Marks.refl _ _).count _ _ (off := 0x210) 1).logEvent _ _ _ _ _ _ _

theorem nodes_dbuf {x : Xfer} {a t n : Nat} (piece : x.pieces = [(a, t, n)]) (here : a < 2 ^ 32) : x.nodes = [] := by
  have out : ¬2 ^ 32 ≤ a := by omega
  rw [Xfer.nodes, piece]
  split
  · rfl
  · simp only [List.filter_cons, out, decide_false, Bool.false_eq_true, if_false, List.filter_nil, List.map_nil]

/-- A window with bytes written to it. -/
def Ctx.withBytes (c : Ctx) (a : Nat) (bs : List Byte) : Ctx := { c with dbuf := Mem.writeL c.dbuf a bs }

theorem returnCompletesOp_dbuf {d : Dev} {id i : Nat} {c : Ctx} {k : CoreSt} {x : Xfer} {a t n : Nat} (has : HasCore d id i c k)
    (ret : k.xfers.find? (fun y => decide (y.id = x.id) && !y.draw) = some x) (dbuf : x.space = 1) (piece : x.pieces = [(a, t, n)]) (here : a < 2 ^ 32)
    (len : x.data.length = n) (free : c.link = none) (next : mustWait (ordering d c k) x = false) (unsent : x.sent = [])
    (known : noMajority d (regA .core x.core 0x108) = false) (fresh : x.epoch = liveN d .core x.core 0x108) :
    ∃ bad, returnCompletesOp d id i x.id =
      retired (dropXfer (copyPoison (modCtx (dropXfer d id i x.id) id (·.withBytes a x.data)) (.dbuf id) a x.data.length bad) id i x.id) id i x := by
  have own := findCtx_id has.ctx
  have nodes := nodes_dbuf piece here
  have out : ¬2 ^ 32 ≤ a := by omega
  have ready : routesReady d x = true := by simp [routesReady, nodes]
  have last : ∀ e, lastFrames e x = [] := fun e => by simp [lastFrames, nodes]
  have nearby : remoteOf c false a = none := by simp [remoteOf, free]
  have whole : x.data.take n = x.data := List.take_of_length_le len.le
  simp only [returnCompletesOp, has.ctx, has.core, ret, linkWait_dbuf d c dbuf, next, known, unsent, fresh, ready, piece, dbuf, nodes, retPieces, spaceWrite, free, nearby,
    whole, own, Acc.bind, last, ne_eq, not_true_eq_false, if_false, if_true, Bool.or_self, Bool.false_eq_true, Bool.not_true, if_neg out]
  exact ⟨_, rfl⟩

end Sys2Proof.Machine

namespace Sys2Proof.Proofs

open Sys2Proof.Machine Sys2Proof.Claims

/-! ### Draws -/

section
variable {s : State} {id i : Nat} {c : Ctx} {k : CoreSt} {x : Xfer} (has : HasCore s.dev id i c k) (goes : basinWaits s.dev c.basin = false)
include has goes

theorem exec_drawLands (xid : Nat) (link : (drawLandsOp s.dev id i xid).eng.linkDown = s.dev.eng.linkDown) :
    exec (.drawLands id i xid [] []) s = .next (on s (drawLandsOp s.dev id i xid)) := by
  show execDrawLands id i xid [] [] s = _
  simp only [execDrawLands, drawErrors_nil]
  exact forCtx_found has.ctx goes link

theorem exec_returnCompletes (xid : Nat) (link : (returnCompletesOp s.dev id i xid).eng.linkDown = s.dev.eng.linkDown) :
    exec (.returnCompletes id i xid []) s = .next (on s (returnCompletesOp s.dev id i xid)) := by
  show execReturnCompletes id i xid [] s = _
  simp only [execReturnCompletes, returnErrors_nil]
  exact forCtx_found has.ctx goes link

theorem draw_waits (draw : k.xfers.find? (fun y => decide (y.id = x.id) && y.draw) = some x)
    (wait : mustWait (ordering s.dev c k) x = true ∨ stopping s.dev c = true) : exec (.drawLands id i x.id [] []) s = .next s := by
  have same := drawLandsOp_waits has draw wait
  rw [exec_drawLands has goes x.id (by rw [same]), same]

theorem draw_lands (draw : k.xfers.find? (fun y => decide (y.id = x.id) && y.draw) = some x) {a t0 n : Nat} (dbuf : x.space = 1)
    (piece : x.pieces = [(a, t0, n)]) (running : c.phase = .running) (stop : stopping s.dev c = false) (next : mustWait (ordering s.dev c k) x = false) :
    ∃ t c' k', exec (.drawLands id i x.id [] []) s = .next t ∧ Aside s t ∧ findCtx t.dev id = some c' ∧ coreAt c' i = some k' ∧
      Mem.readN k'.tarn t0 n = Mem.readN (dbufSeen s.dev c) a n ∧ (∀ y, (y < t0 ∨ t0 + n ≤ y) → Mem.read k'.tarn y = Mem.read k.tarn y) ∧
      (∀ y ∈ k'.xfers, y.id ≠ x.id) ∧ c'.dbuf = c.dbuf ∧ k'.x = k.x ∧ k'.pc = k.pc ∧ t.dev.regs = s.dev.regs := by
  obtain ⟨bad, lands⟩ := drawLandsOp_dbuf has draw dbuf piece running stop next
  have len := length_readN (dbufSeen s.dev c) a n
  generalize Mem.readN (dbufSeen s.dev c) a n = bs at lands len ⊢
  subst len
  obtain ⟨ctx, core⟩ := ((has.modCore (·.without x.id)).modCore (·.withTarn t0 bs)).congr (e := drawLandsOp s.dev id i x.id) (by rw [lands]; rfl)
  refine ⟨_, _, _, exec_drawLands has goes x.id (by rw [lands]; rfl), ⟨rfl, rfl, rfl⟩, ctx, core, Mem.readN_writeL _ _ _, fun y out => ?_,
    fun y mem => CoreSt.not_mem_without mem, rfl, rfl, rfl, by rw [lands]; rfl⟩
  exact Mem.read_writeL_of_not_mem _ _ _ _ out

/-! ### Returns -/

theorem return_waits (ret : k.xfers.find? (fun y => decide (y.id = x.id) && !y.draw) = some x) (first : mustWait (ordering s.dev c k) x = true) :
    exec (.returnCompletes id i x.id []) s = .next s := by
  have same := returnCompletesOp_waits has ret first
  rw [exec_returnCompletes has goes x.id (by rw [same]), same]

section
variable (ret : k.xfers.find? (fun y => decide (y.id = x.id) && !y.draw) = some x) (dbuf : x.space = 1) (unsent : x.sent = [])
  (next : mustWait (ordering s.dev c k) x = false) (known : noMajority s.dev (regA .core x.core 0x108) = false) (quiet : NoneEnds s.dev c)
include ret dbuf unsent next known quiet

theorem return_stale (stale : x.epoch ≠ reg s .core x.core 0x108) :
    ∃ t c' k', exec (.returnCompletes id i x.id []) s = .next t ∧ Aside s t ∧ findCtx t.dev id = some c' ∧ coreAt c' i = some k' ∧
      c'.dbuf = c.dbuf ∧ (∀ y ∈ k'.xfers, y.id ≠ x.id ∨ y.draw = true) ∧ t.dev.mem = s.dev.mem := by
  have marks := staleCore_marks (dropXfer s.dev id i x.id) x.core
  have has' := (has.modCore (·.without x.id)).congr (e := staleCore (dropXfer s.dev id i x.id) x.core) (congrArg (·.ctxs) marks.jobs)
  have quiet' : NoneEnds (staleCore (dropXfer s.dev id i x.id) x.core) (setCore c i (k.without x.id)) := by rw [NoneEnds, marks.reqs]; exact quiet
  obtain ⟨rs, saved⟩ := savedReturns_noneEnds has'.ctx quiet'
  have discards := (returnCompletesOp_stale has ret dbuf unsent next known stale).trans saved
  obtain ⟨ctx, core⟩ := has'.congr (e := returnCompletesOp s.dev id i x.id) (by rw [discards])
  refine ⟨_, _, _, exec_returnCompletes has goes x.id ?_, ⟨rfl, rfl, rfl⟩, ctx, core, rfl, fun y mem => .inl (CoreSt.not_mem_without mem), ?_⟩
  · rw [discards]
    exact congrArg (·.linkDown) marks.eng
  · show (returnCompletesOp s.dev id i x.id).mem = _
    rw [discards]
    exact marks.mem

theorem return_completes {a t0 n : Nat} (piece : x.pieces = [(a, t0, n)]) (here : a < 2 ^ 32) (len : x.data.length = n) (free : c.link = none)
    (fresh : x.epoch = reg s .core x.core 0x108) :
    ∃ t c' k', exec (.returnCompletes id i x.id []) s = .next t ∧ Aside s t ∧ findCtx t.dev id = some c' ∧ coreAt c' i = some k' ∧
      Mem.readN c'.dbuf a n = x.data ∧ (∀ y, (y < a ∨ a + n ≤ y) → Mem.read c'.dbuf y = Mem.read c.dbuf y) ∧
      (∀ y ∈ k'.xfers, y.id ≠ x.id) ∧ k'.tarn = k.tarn ∧ k'.x = k.x ∧ t.dev.regs = s.dev.regs := by
  obtain ⟨bad, completes⟩ := returnCompletesOp_dbuf has ret dbuf piece here len free next unsent known fresh
  obtain ⟨m, clean⟩ := applyClean_only ((k.without x.id).without x.id) x.space x.frames
  -- the core without the return and its window written, then the core again with its frames clean
  obtain ⟨e, completes, written, reqs, regs, eng⟩ :
      ∃ e, returnCompletesOp s.dev id i x.id = retired (dropXfer e id i x.id) id i x ∧
        HasCore e id i ((setCore c i (k.without x.id)).withBytes a x.data) (k.without x.id) ∧ e.reqs = s.dev.reqs ∧ e.regs = s.dev.regs ∧ e.eng = s.dev.eng :=
    ⟨_, completes, ⟨findCtx_modCtx (f := (·.withBytes a x.data)) (has.modCore (·.without x.id)).ctx fun _ own => own, (has.modCore (·.without x.id)).core⟩,
      rfl, rfl, rfl⟩
  have has' := (written.modCore (·.without x.id)).modCore (applyClean · x.space x.frames)
  obtain ⟨rs, saved⟩ := savedReturns_noneEnds has'.ctx (quiet.congr reqs rfl)
  have eq := completes.trans saved
  obtain ⟨ctx, core⟩ := has'.congr (e := returnCompletesOp s.dev id i x.id) (by rw [eq])
  refine ⟨_, _, _, exec_returnCompletes has goes x.id (by rw [eq]; exact congrArg (·.linkDown) eng), ⟨rfl, rfl, rfl⟩, ctx, core, ?_, fun y out => ?_,
    fun y mem => ?_, ?_, ?_, by rw [eq]; exact regs⟩
  · rw [← len]
    exact Mem.readN_writeL _ _ _
  · exact Mem.read_writeL_of_not_mem _ _ _ _ (len.symm ▸ out)
  · rw [clean] at mem
    exact CoreSt.not_mem_without mem
  · rw [clean]
    rfl
  · rw [clean]
    rfl
end
end

/-! ### Tile operations -/

section
variable {s : State} {id i : Nat} {c : Ctx} {k : CoreSt} {o : TileOp} {os : List TileOp} (has : HasCore s.dev id i c k) (queue : k.tiles = o :: os)
  (clock : s.dev.power.relock.contains c.mere = false)
include has queue clock

theorem fill_ends (runs : o.started = true) (stop : stopping s.dev c = false) (fill : TS.op o.word = 1) :
    ∃ t c' k', exec (.tileOpEnd id ⟨i, []⟩) s = .next t ∧ Aside s t ∧ findCtx t.dev id = some c' ∧ coreAt c' i = some k' ∧ k'.tiles = os ∧
      (∀ a b, a < 32 → b < 32 → accGet k'.acc (TS.ad o.word) a b = BitVec.ofNat 32 (TS.imm o.word)) ∧
      (∀ ad a b, ad ≠ TS.ad o.word → a < 32 → b < 32 → accGet k'.acc ad a b = accGet k.acc ad a b) ∧
      k'.x = k.x ∧ k'.v = k.v ∧ k'.tarn = k.tarn ∧ k'.pc = k.pc ∧ t.dev.regs = s.dev.regs ∧ t.dev.mem.hbm = s.dev.mem.hbm := by
  have ends : exec (.tileOpEnd id ⟨i, []⟩) s = .next (on s (modCtx s.dev id (fun c => setCore c i (filled k o os)))) := by
    show execTileOpEnd id ⟨i, []⟩ s = _
    rw [execTileOpEnd, tileErrors_nil, tileEndOp_fill has queue clock runs stop fill]
    rfl
  obtain ⟨ctx, core⟩ := has.setCore (filled k o os)
  refine ⟨_, _, _, ends, ⟨rfl, rfl, rfl⟩, ctx, core, rfl, fun a b ha hb => ?_, fun ad a b other ha hb => ?_, rfl, rfl, rfl, rfl, rfl, rfl⟩
  · exact (accGet_fill _ _ _ _ _ _ ha hb).trans (if_pos rfl)
  · exact (accGet_fill _ _ _ _ _ _ ha hb).trans (if_neg other)
end

/-- Settles O27: each operation changes one core of the context found, so what that core and its window hold is read off. -/
theorem transfersAndTileWork : Obligations.TransfersAndTileWork := by
  refine ⟨fun s id i c k x a t0 n found at' goes draw => ?_, fun s id i c k x a t0 n found at' goes ret => ?_,
    fun s id i c k o os found at' queue running clock => ?_⟩
  · exact ⟨draw_waits ⟨found, at'⟩ goes draw, fun dbuf piece running stop next => draw_lands ⟨found, at'⟩ goes draw dbuf piece running stop next⟩
  · refine ⟨return_waits ⟨found, at'⟩ goes ret, fun dbuf unsent next known stale quiet => ?_,
      fun dbuf piece here len free next unsent known fresh quiet => ?_⟩
    · exact return_stale ⟨found, at'⟩ goes ret dbuf unsent next known quiet stale
    · exact return_completes ⟨found, at'⟩ goes ret dbuf unsent next known quiet piece here len free fresh
  · refine ⟨fun stop => ?_, fun waits stop narrow => ?_, fun runs stop fill => fill_ends ⟨found, at'⟩ queue clock runs stop fill⟩
    · exact congrArg (fun d => Host.Outcome.next (on s d)) (tileStartOp_stopping ⟨found, at'⟩ stop)
    · exact congrArg (fun d => Host.Outcome.next (on s d)) (tileStartOp_starts ⟨found, at'⟩ queue running clock waits stop narrow)

end Sys2Proof.Proofs

/-! ## Model loads and the weir's layers (O35) -/

namespace Sys2Proof.Machine

open Sys2Proof.Claims

/-! ### Loads that start (R371) -/

theorem evictFor_of_fits {d : Dev} {b pages : Nat} (fits : fitsHbm d b pages = true) (vs : List Version) : evictFor b pages vs d = d := by
  cases vs with
  | nil => rfl
  | cons v vs => rw [evictFor, if_pos fits]

theorem loadStartOp_fits {d : Dev} {uid : Nat} {v : Version} (found : findVer d uid = some v) (model : v.cls = 4) (kept : v.kept = true)
    (away : v.resident = false) (still : v.loading = false) (want : wanted d uid = true) (fits : fitsHbm d v.basin (Mdl.hbmPages v.desc) = true) :
    loadStartOp d uid = modVer d uid (fun v => { v with loading := true, loadWaits := false }) := by
  simp only [loadStartOp, found, model, kept, away, still, want, evictFor_of_fits fits, ite_self, fits, if_true, ne_eq, not_true_eq_false, decide_false,
    Bool.not_true, Bool.or_self, Bool.false_eq_true, if_false]

/-! ### Loads that end (R370, R371) -/

theorem modelAt_dropModel_self (d : Dev) (uid : Nat) : modelAt (dropModel d uid) uid = none := by
  simp [modelAt, dropModel]

theorem modelAt_dropModel_ne (d : Dev) {uid u : Nat} (ne : u ≠ uid) : modelAt (dropModel d uid) u = modelAt d u := by
  simp only [modelAt, dropModel, List.find?_filter]
  congr 1
  funext h
  by_cases own : h.uid = u
  · simp [own, ne]
  · simp [own]

/-- Pages are given out: of the memories only marks of poison change. -/
theorem givePages_only (d : Dev) (stack many n : Nat) :
    ∃ f p, (givePages d stack many n).1 = { d with fresh := f, mem := { d.mem with poison := p } } := ⟨_, _, rfl⟩

theorem givePages_length (d : Dev) (stack many n : Nat) : (givePages d stack many n).2.length = n := by simp [givePages]

theorem givePages_range (d : Dev) (stack n : Nat) {p : Nat} (mem : p ∈ (givePages d stack 3 n).2) :
    stack * stackPages ≤ p ∧ p < (stack + 3) * stackPages := by
  obtain ⟨i, -, rfl⟩ := List.mem_map.1 mem
  have low : Config.devicePage (d.fresh + i) % (3 * stackPages) < 3 * stackPages := Nat.mod_lt _ (by decide)
  exact ⟨Nat.le_add_right _ _, by rw [Nat.add_mul]; omega⟩

/-- What the pages of some meres are: as many as their frames take, on each mere's own stacks. -/
structure Given (d0 : Dev) (layers : List (Nat × Nat)) (n : Nat) (acc : Dev × List (List Nat)) : Prop where
  only : ∃ f p, acc.1 = { d0 with fresh := f, mem := { d0.mem with poison := p } }
  meres : acc.2.length = n
  length : ∀ m, m < n → (acc.2.getD m []).length = ceilDiv (mereOrder layers m).length 16
  range : ∀ m, m < n → ∀ p ∈ acc.2.getD m [], 3 * m * stackPages ≤ p ∧ p < 3 * (m + 1) * stackPages

/-- The pages of one mere are given out. -/
def giveMere (layers : List (Nat × Nat)) (acc : Dev × List (List Nat)) (m : Nat) : Dev × List (List Nat) :=
  ((givePages acc.1 (3 * m) 3 (ceilDiv (mereOrder layers m).length 16)).1, acc.2 ++ [(givePages acc.1 (3 * m) 3 (ceilDiv (mereOrder layers m).length 16)).2])

theorem Given.step {d0 : Dev} {layers : List (Nat × Nat)} {n : Nat} {acc : Dev × List (List Nat)} (h : Given d0 layers n acc) :
    Given d0 layers (n + 1) (giveMere layers acc n) := by
  obtain ⟨⟨f, p, only⟩, rfl, length, range⟩ := h
  obtain ⟨f', p', only'⟩ := givePages_only acc.1 (3 * acc.2.length) 3 (ceilDiv (mereOrder layers acc.2.length).length 16)
  have before : ∀ m, m < acc.2.length → (giveMere layers acc acc.2.length).2.getD m [] = acc.2.getD m [] := fun m lt => by
    simp [giveMere, List.getD, List.getElem?_append_left lt]
  have last : (giveMere layers acc acc.2.length).2.getD acc.2.length [] = (givePages acc.1 (3 * acc.2.length) 3 (ceilDiv (mereOrder layers acc.2.length).length 16)).2 := by
    simp [giveMere, List.getD]
  refine ⟨⟨f', p', only'.trans (by rw [only])⟩, by simp [giveMere], fun m lt => ?_, fun m lt p mem => ?_⟩
  · rcases Nat.lt_succ_iff_lt_or_eq.1 lt with old | rfl
    · rw [before m old]
      exact length m old
    · rw [last, givePages_length]
  · rcases Nat.lt_succ_iff_lt_or_eq.1 lt with old | rfl
    · exact range m old p (before m old ▸ mem)
    · rw [last] at mem
      exact givePages_range _ _ _ mem

theorem given_meres (d : Dev) (layers : List (Nat × Nat)) (n : Nat) : Given d layers n ((List.range n).foldl (giveMere layers) (d, [])) := by
  induction n with
  | zero => exact ⟨⟨_, _, rfl⟩, rfl, fun m lt => absurd lt (Nat.not_lt_zero m), fun m lt => absurd lt (Nat.not_lt_zero m)⟩
  | succ n ih =>
    rw [List.range_succ, List.foldl_append]
    exact ih.step

/-- The frames of a version, as HBM holds them. -/
def heldModel (uid : Nat) (x : List Byte) (pages : List (List Nat)) : HeldModel :=
  ⟨uid, WImg.pitch x, WImg.layers x, WImg.frames x, (WImg.frames x).map (frameBytes x), pages⟩

theorem holdModel_eq (d : Dev) (uid : Nat) (x : List Byte) :
    ∃ f p pages, holdModel d uid x = { d with fresh := f, mem := { d.mem with poison := p, models := (dropModel d uid).mem.models ++ [heldModel uid x pages] } } ∧
      ∀ m, m < 4 → (pages.getD m []).length = ceilDiv (mereOrder (WImg.layers x) m).length 16 ∧
        ∀ p ∈ pages.getD m [], 3 * m * stackPages ≤ p ∧ p < 3 * (m + 1) * stackPages := by
  obtain ⟨⟨f, p, only⟩, -, length, range⟩ := given_meres (dropModel d uid) (WImg.layers x) 4
  have parts : holdModel d uid x =
      let r := (List.range 4).foldl (giveMere (WImg.layers x)) (dropModel d uid, [])
      { r.1 with mem.models := r.1.mem.models ++ [heldModel uid x r.2] } := rfl
  refine ⟨f, p, _, parts.trans ?_, fun m lt => ⟨length m lt, range m lt⟩⟩
  dsimp only
  rw [only]
  rfl

theorem modelAt_append_self {ms : List HeldModel} {h : HeldModel} {uid : Nat} (own : h.uid = uid) (none0 : ms.find? (fun h => decide (h.uid = uid)) = none) :
    (ms ++ [h]).find? (fun h => decide (h.uid = uid)) = some h := by
  simp [List.find?_append, none0, own]

theorem modelAt_append_ne {ms : List HeldModel} {h : HeldModel} {u : Nat} (ne : h.uid ≠ u) :
    (ms ++ [h]).find? (fun h => decide (h.uid = u)) = ms.find? (fun h => decide (h.uid = u)) := by
  simp [List.find?_append, ne]

/-- A loop each of whose steps leaves the state. -/
theorem foldl_unchanged {α β : Type} {step : α → β → α} {xs : List β} {a : α} (same : ∀ x ∈ xs, step a x = a) : xs.foldl step a = a := by
  induction xs with
  | nil => rfl
  | cons x xs ih =>
    rw [List.foldl_cons, same x (List.mem_cons_self ..)]
    exact ih fun y mem => same y (List.mem_cons_of_mem _ mem)

theorem wakeModel_noneLive {d : Dev} (none0 : ∀ r ∈ d.reqs, r.live = false) (uid : Nat) : wakeModel d uid = d :=
  foldl_unchanged fun r mem => by rw [none0 r mem]; rfl

theorem countWeir_marks (d : Dev) (n : Nat) : Marks [0x114] d (countWeir d 0x114 n) :=
  (Marks.refl _ d).foldl _ fun e m => (Marks.refl [0x114] e).count .weir m n

end Sys2Proof.Machine

namespace Sys2Proof.Proofs

open Sys2Proof.Machine Sys2Proof.Claims

/-- A version whose load has ended at some time. -/
def loadedAt (now : Nat) (v : Version) : Version := { v with loading := false, resident := true, lastUse := now }

theorem modelLoad_ends {s : State} {uid : Nat} {v : Version} {x : List Byte} (found : findVer s.dev uid = some v) (loads : v.loading = true)
    (read : readWeights s.dev v.basin v.desc = .ok x) (dead : ∀ r ∈ s.dev.reqs, r.live = false) :
    ∃ t h, exec (.modelLoadDone uid) s = .next t ∧ Aside s t ∧
      findVer t.dev uid = some { v with loading := false, resident := true, lastUse := s.dev.now } ∧ modelAt t.dev uid = some h ∧
      h.layers = WImg.layers x ∧ h.frames = (WImg.frames x).map (frameBytes x) ∧
      (∀ m, m < 4 → (h.pages.getD m []).length = ceilDiv (mereOrder (WImg.layers x) m).length 16 ∧
        ∀ p ∈ h.pages.getD m [], 3 * m * stackPages ≤ p ∧ p < 3 * (m + 1) * stackPages) ∧
      t.dev.mem.hbm = s.dev.mem.hbm ∧ t.dev.mem.flash = s.dev.mem.flash ∧ t.dev.mem.xlat = s.dev.mem.xlat ∧
      (∀ u, u ≠ uid → modelAt t.dev u = modelAt s.dev u) := by
  have known := findVer_modVer (f := loadedAt s.dev.now) found fun _ => rfl
  obtain ⟨f, p, pages, held, given⟩ := holdModel_eq (modVer s.dev uid (loadedAt s.dev.now)) uid x
  have marks := countWeir_marks (holdModel (modVer s.dev uid (loadedAt s.dev.now)) uid x) 1
  have quiet : ∀ r ∈ (countWeir (holdModel (modVer s.dev uid (loadedAt s.dev.now)) uid x) 0x114 1).reqs, r.live = false := by
    rw [marks.reqs, held]
    exact dead
  have ends : loadDoneOp s.dev uid =
      countWeir (holdModel (modVer s.dev uid (loadedAt s.dev.now)) uid x) 0x114 1 := by
    simp only [loadDoneOp, found, loads, read, Bool.not_true, Bool.false_eq_true, if_false]
    exact wakeModel_noneLive quiet uid
  rw [← ends, held] at marks
  refine ⟨on s (loadDoneOp s.dev uid), heldModel uid x pages, rfl, ⟨rfl, rfl, rfl⟩, ?_, ?_, rfl, rfl, given, ?_, ?_, ?_, fun u ne => ?_⟩
  · show (loadDoneOp s.dev uid).txn.versions.find? _ = _
    rw [marks.txn]
    exact known
  · show (loadDoneOp s.dev uid).mem.models.find? _ = _
    rw [marks.mem]
    exact modelAt_append_self rfl (modelAt_dropModel_self s.dev uid)
  · exact congrArg (·.hbm) marks.mem
  · exact congrArg (·.flash) marks.mem
  · exact congrArg (·.xlat) marks.mem
  · show (loadDoneOp s.dev uid).mem.models.find? _ = _
    rw [marks.mem]
    exact (modelAt_append_ne (Ne.symm ne)).trans (modelAt_dropModel_ne s.dev ne)

end Sys2Proof.Proofs

/-! ## A load that fails (O35) -/

namespace Sys2Proof.Machine

open Sys2Proof.Claims

/-! ### Requests that end beside one -/

theorem findReq_of_nodup {d : Dev} {r : Req} (apart : (d.reqs.map (·.slot)).Nodup) (mem : r ∈ d.reqs) : findReq d r.slot = some r := by
  have some' : (findReq d r.slot).isSome := List.find?_isSome.2 ⟨r, mem, decide_eq_true rfl⟩
  obtain ⟨q, found⟩ := Option.isSome_iff_exists.1 some'
  rw [found, List.inj_on_of_nodup_map apart (List.mem_of_find?_eq_some found) mem (findReq_slot found)]

theorem mem_modWhere {α : Type} {p : α → Bool} {f : α → α} {xs : List α} {y : α} (mem : y ∈ modWhere p f xs) : y ∈ xs ∨ ∃ x ∈ xs, p x = true ∧ y = f x := by
  obtain ⟨x, old, rfl⟩ := List.mem_map.1 mem
  split
  · rename_i changed
    exact .inr ⟨x, old, changed, rfl⟩
  · exact .inl old

/-- No CONTINUE has the slot. -/
def NoContinueAt (slot : Nat) (d : Dev) : Prop := ∀ c ∈ d.reqs, c.slot = slot → c.op ≠ 6

namespace NoContinueAt

variable {slot : Nat} {d : Dev}

theorem modReq (h : NoContinueAt slot d) {other : Nat} {f : Req → Req} (same : ∀ r, (f r).slot = r.slot ∧ (f r).op = r.op) :
    NoContinueAt slot (modReq d other f) := by
  intro c mem own
  rcases mem_modWhere mem with old | ⟨r, old, -, rfl⟩
  · exact h c old own
  · rw [(same r).2]
    exact h r old ((same r).1.symm.trans own)

theorem finish (h : NoContinueAt slot d) {r : Req} (cls : Nat) (plain : r.slot = slot → r.op ≠ 6) : NoContinueAt slot (finish d r cls) := by
  obtain ⟨-, -, reqs⟩ := workDone_keeps d r cls
  cases quiet : r.silent
  · intro c mem own
    rw [(finish_of_not_silent cls quiet).2] at mem
    rcases mem_modWhere mem with old | ⟨q, -, -, rfl⟩
    · exact h c old own
    · exact plain own
  · rw [finish_eq, quiet, if_pos rfl]
    exact fun c mem own => h c (reqs ▸ (List.mem_filter.1 mem).1) own

end NoContinueAt

/-- The end of other requests leaves one that is no CONTINUE. -/
structure Beside (slot : Nat) (d e : Dev) : Prop where
  find : findReq e slot = findReq d slot
  plain : NoContinueAt slot e

theorem Beside.finish {slot : Nat} {d e : Dev} (h : Beside slot d e) {r : Req} (cls : Nat) (ne : r.slot ≠ slot) : Beside slot d (finish e r cls) :=
  ⟨(finish_other e cls ne).1.trans h.find, h.plain.finish cls fun own => absurd own ne⟩

theorem Beside.foldl_finish {slot : Nat} {d e : Dev} (h : Beside slot d e) (rs : List Req) (ne : ∀ c ∈ rs, c.slot ≠ slot) :
    Beside slot d (rs.foldl (fun d c => Machine.finish d c 0x11) e) := by
  induction rs generalizing e with
  | nil => exact h
  | cons c rs ih => exact ih (h.finish 0x11 (ne c (List.mem_cons_self ..))) fun q mem => ne q (List.mem_cons_of_mem _ mem)

theorem Beside.endReq {slot : Nat} {d e : Dev} (h : Beside slot d e) {other : Nat} (cls : Nat) (ne : other ≠ slot) : Beside slot d (endReq e other cls) := by
  unfold Machine.endReq
  split
  · exact h
  · rename_i r found
    split
    · have ended := h.finish (r := r) cls (findReq_slot found ▸ ne)
      refine ended.foldl_finish _ fun c mem own => ?_
      obtain ⟨old, is⟩ := List.mem_filter.1 mem
      exact ended.plain c old own (by simpa using (Bool.and_eq_true_iff.1 (Bool.and_eq_true_iff.1 (Bool.and_eq_true_iff.1 is).1).1).1)
    · exact h

theorem Beside.endAt {slot : Nat} {d e : Dev} (h : Beside slot d e) {other : Nat} (cls : Nat) (ne : other ≠ slot) : Beside slot d (endAt e other cls) := by
  unfold Machine.endAt
  split
  · exact h
  · exact Beside.endReq ⟨(findReq_modReq_ne e (fun r => { r with busy := false }) (fun _ own => own) ne).trans h.find, h.plain.modReq fun _ => ⟨rfl, rfl⟩⟩ _ ne

theorem NoContinueAt.endReq {d : Dev} {slot : Nat} (h : NoContinueAt slot d) (cls : Nat) : NoContinueAt slot (endReq d slot cls) := by
  unfold Machine.endReq
  split
  · exact h
  · rename_i r found
    split
    · have ended : NoContinueAt slot (Machine.finish d r cls) := h.finish cls fun own => h r (List.mem_of_find?_eq_some found) own
      refine (Beside.foldl_finish ⟨rfl, ended⟩ _ fun c mem own => ?_).plain
      obtain ⟨old, is⟩ := List.mem_filter.1 mem
      exact ended c old own (by simpa using (Bool.and_eq_true_iff.1 (Bool.and_eq_true_iff.1 (Bool.and_eq_true_iff.1 is).1).1).1)
    · exact h

theorem NoContinueAt.endAt {d : Dev} {slot : Nat} (h : NoContinueAt slot d) (cls : Nat) : NoContinueAt slot (endAt d slot cls) := by
  unfold Machine.endAt
  split
  · exact h
  · exact NoContinueAt.endReq (h.modReq (f := fun r => { r with busy := false }) fun _ => ⟨rfl, rfl⟩) _

theorem foldl_endAt_beside {slot : Nat} {d e : Dev} (h : Beside slot d e) (cls : Nat) (rs : List Req) (ne : ∀ c ∈ rs, c.slot ≠ slot) :
    Beside slot d (rs.foldl (fun d r => endAt d r.slot cls) e) := by
  induction rs generalizing e with
  | nil => exact h
  | cons c rs ih => exact ih (h.endAt cls (ne c (List.mem_cons_self ..))) fun q mem => ne q (List.mem_cons_of_mem _ mem)

/-- Several requests of different slots end with a class: one that is due for nothing has ended with it. -/
theorem foldl_endAt_ends {d : Dev} {r : Req} (cls : Nat) {rs : List Req} (mem : r ∈ rs) (apart : (rs.map (·.slot)).Nodup) (up : r.live = true)
    (due : r.due = []) (loud : r.silent = false) {e : Dev} (h : Beside r.slot d e) (found : findReq d r.slot = some r) :
    findReq (rs.foldl (fun d r => endAt d r.slot cls) e) r.slot = some (r.endedAs cls) := by
  induction rs generalizing e with
  | nil => exact absurd mem List.not_mem_nil
  | cons q rs ih =>
    obtain ⟨others, apart'⟩ := List.nodup_cons.1 apart
    rw [List.foldl_cons]
    by_cases own : q.slot = r.slot
    · have ne : ∀ c ∈ rs, c.slot ≠ r.slot := fun c hc same => others (List.mem_map.2 ⟨c, hc, same.trans own.symm⟩)
      rw [own]
      have ended : Beside r.slot (endAt e r.slot cls) (endAt e r.slot cls) := ⟨rfl, h.plain.endAt cls⟩
      exact (foldl_endAt_beside ended cls rs ne).find.trans (endAt_spec cls (h.find.trans found) up due loud).1
    · have later : r ∈ rs := (List.mem_cons.1 mem).resolve_left fun same => own (same ▸ rfl)
      exact ih later apart' (h.endAt cls own)

theorem Calm.endAt {d e : Dev} (h : Calm d e) (slot cls : Nat) : Calm d (endAt e slot cls) := by
  unfold Machine.endAt
  split
  · exact h
  · exact (h.aside (f := Machine.modReq e slot fun r => { r with busy := false })).endReq ..

/-! ### The load -/

theorem waitsFor_live {r : Req} {uid : Nat} (waits : waitsFor r uid = true) : r.live = true := by
  simp only [waitsFor, Bool.and_eq_true] at waits
  exact waits.1.1

/-- The block once a failed load has stopped: the weir of the frame's mere has its status bit set. -/
def loadStopped (d : Dev) (uid m frame : Nat) (v : Version) : Dev :=
  setStat (modVer d uid (fun v => { v with loading := false })) .weir m 2 v.basin noTag (BitVec.ofNat 32 frame) (BitVec.ofNat 32 (v.slot % 64))

theorem loadFailOp_reads {d : Dev} {uid frame : Nat} {v : Version} {hdr : List Byte} (found : findVer d uid = some v) (loads : v.loading = true)
    (read : nsRead d v.basin (Mdl.imgSector v.desc * 4096) (64 + 8 * Mdl.nLayer v.desc) = .ok hdr) :
    loadFailOp d uid frame = (d.reqs.filter (waitsFor · uid)).foldl (fun d r => endAt d r.slot 0x41) (loadStopped d uid (frameMere (WImg.layers hdr) frame) frame v) := by
  have reqs : (loadStopped d uid (frameMere (WImg.layers hdr) frame) frame v).reqs = d.reqs := ((Marks.refl statOffs _).setStat _ _ _ _ _ _ _).reqs
  simp only [loadFailOp, found, loads, read, Bool.not_true, Bool.false_eq_true, if_false]
  rw [← reqs]
  rfl

theorem frameMere_of_find {layers : List (Nat × Nat)} {frame : Nat} {l : Nat × Nat}
    (found : layers.find? (fun l => decide (l.1 ≤ frame ∧ frame < l.1 + l.2)) = some l) : frameMere layers frame = (frame - l.1) % 4 := by
  rw [frameMere, found]

end Sys2Proof.Machine

namespace Sys2Proof.Proofs

open Sys2Proof.Machine Sys2Proof.Claims

theorem modelLoad_fails {s : State} {uid frame : Nat} {v : Version} {hdr : List Byte} (found : findVer s.dev uid = some v) (loads : v.loading = true)
    (read : nsRead s.dev v.basin (Mdl.imgSector v.desc * 4096) (64 + 8 * Mdl.nLayer v.desc) = .ok hdr) (apart : (s.dev.reqs.map (·.slot)).Nodup) :
    ∃ t, exec (.loadFail uid frame) s = .next t ∧ Aside s t ∧
      findVer t.dev uid = some { v with loading := false } ∧ stat t .weir (frameMere (WImg.layers hdr) frame) 2 = true ∧
      (∀ l, (WImg.layers hdr).find? (fun l => decide (l.1 ≤ frame ∧ frame < l.1 + l.2)) = some l →
        frameMere (WImg.layers hdr) frame = (frame - l.1) % 4) ∧
      (∀ r ∈ s.dev.reqs, waitsFor r uid = true → r.due = [] → r.silent = false → r.op ≠ 6 →
        ∃ r', findReq t.dev r.slot = some r' ∧ r'.ended = some 0x41) ∧
      ((∀ r ∈ s.dev.reqs, waitsFor r uid = false) → t.dev.mem = s.dev.mem ∧ t.dev.reqs = s.dev.reqs) := by
  have fails := loadFailOp_reads (frame := frame) found loads read
  have stops : Marks statOffs (modVer s.dev uid (fun v => { v with loading := false })) (loadStopped s.dev uid (frameMere (WImg.layers hdr) frame) frame v) :=
    (Marks.refl statOffs _).setStat _ _ _ _ _ _ _
  have calm : Calm (loadStopped s.dev uid (frameMere (WImg.layers hdr) frame) frame v) (loadFailOp s.dev uid frame) :=
    fails ▸ (Calm.refl _).foldl _ fun e r => (Calm.refl e).endAt r.slot 0x41
  have same := stops.reqs
  refine ⟨on s (loadFailOp s.dev uid frame), rfl, ⟨rfl, rfl, rfl⟩, ?_, calm.stats _ _ _ ?_, fun l layer => frameMere_of_find layer,
    fun r mem waits due loud plain => ?_, fun none0 => ?_⟩
  · show (loadFailOp s.dev uid frame).txn.versions.find? _ = _
    rw [calm.versions, stops.txn]
    exact findVer_modVer (f := fun v => { v with loading := false }) found fun _ => rfl
  · exact statBit_setStat _ _ _ _ _ _ _ (by decide)
  · have own := findReq_of_nodup apart mem
    have plain' : NoContinueAt r.slot s.dev := fun c old at' => by rwa [List.inj_on_of_nodup_map apart old mem at']
    have beside : Beside r.slot s.dev (loadStopped s.dev uid (frameMere (WImg.layers hdr) frame) frame v) :=
      ⟨congrArg (List.find? _) same, fun c old => plain' c (same ▸ old)⟩
    refine ⟨_, (congrArg (findReq · r.slot) fails).trans (foldl_endAt_ends 0x41 (List.mem_filter.2 ⟨mem, waits⟩) ?_ (waitsFor_live waits) due loud beside own), rfl⟩
    exact apart.sublist (List.filter_sublist.map _)
  · have empty : s.dev.reqs.filter (waitsFor · uid) = [] := List.filter_eq_nil_iff.2 fun r mem => by simp [none0 r mem]
    rw [empty, List.foldl_nil] at fails
    rw [fails]
    exact ⟨stops.mem, same⟩

end Sys2Proof.Proofs

/-! ## The weir's layers (O35) -/

namespace Sys2Proof.Machine

open Sys2Proof.Claims

/-! ### Passes, and the pages of the weirs -/

/-- The pass of a number. -/
def passAt (d : Dev) (id : Nat) : Option Pass := d.eng.passes.find? (fun q => decide (q.id = id))

/-- A change of a pass. -/
def modPass (d : Dev) (id : Nat) (f : Pass → Pass) : Dev := { d with eng.passes := modWhere (fun q => decide (q.id = id)) f d.eng.passes }

theorem passAt_modPass {d : Dev} {id : Nat} {q : Pass} {f : Pass → Pass} (found : passAt d id = some q) (keeps : ∀ x, (f x).id = x.id) :
    passAt (modPass d id f) id = some (f q) :=
  (find?_modWhere_self _ f d.eng.passes fun x h => by rwa [keeps]).trans (congrArg (Option.map f) found)

theorem regA_weir_ne {m m' : Nat} (ne : m ≠ m') (o : Nat) : regA .weir m o ≠ regA .weir m' o := by
  simp only [regA, pageNo]
  omega

/-- The next pass's layers on one mere. -/
def Pass.withNext (q : Pass) (m : Nat) (n : Nat × Nat) : Pass :=
  { q with next := (List.range 4).map (fun i => if i = m then n else q.next.getD i (0, 0)) }

theorem Pass.withNext_getD (q : Pass) (m : Nat) (n : Nat × Nat) {i : Nat} (lt : i < 4) :
    (q.withNext m n).next.getD i (0, 0) = if i = m then n else q.next.getD i (0, 0) := by
  simp [Pass.withNext, List.getD, lt]

/-- A loop over distinct numbers, by what holds once some of them are done. -/
theorem foldl_done {α : Type} {P : List Nat → α → Prop} {step : α → Nat → α} (next : ∀ done a m, P done a → m ∉ done → P (done ++ [m]) (step a m))
    (ms : List Nat) (done : List Nat) {a : α} (h : P done a) (apart : (done ++ ms).Nodup) : P (done ++ ms) (ms.foldl step a) := by
  induction ms generalizing done a with
  | nil => rwa [List.append_nil]
  | cons m ms ih =>
    have fresh : m ∉ done := fun old => List.disjoint_of_nodup_append apart old (List.mem_cons_self ..)
    have shift : done ++ m :: ms = (done ++ [m]) ++ ms := by rw [List.append_assoc, List.singleton_append]
    rw [shift] at apart ⊢
    exact ih (done ++ [m]) (next done a m h fresh) apart

/-! ### A layer lands (R374, R375) -/

section
variable {d0 d : Dev} {v : Version} {p : Pass} {layer : Nat}

/-- Once some meres have landed a layer. -/
structure Landed (d0 : Dev) (v : Version) (p : Pass) (layer : Nat) (done : List Nat) (d : Dev) : Prop where
  mem : d.mem = d0.mem
  pass : ∃ q, passAt d p.id = some q ∧ { q with next := p.next } = { p with landed := p.landed + 1 } ∧
    ∀ i, i < 4 → q.next.getD i (0, 0) = if i ∈ done ∧ Mdl.nLayer v.desc ≤ layer ∧ lands v p layer i = true
      then ((p.next.getD i (0, 0)).1, layer - Mdl.nLayer v.desc + 1) else p.next.getD i (0, 0)
  layers : ∀ i, live d (regA .weir i 0x108) = live d0 (regA .weir i 0x108) + (if i ∈ done ∧ lands v p layer i = true then 1 else 0)
  bytes : ∀ i, SMap.get (fun _ => 0) d.eng.weirBytes i = SMap.get (fun _ => 0) d0.eng.weirBytes i +
    (if i ∈ done ∧ lands v p layer i = true then layerBytes d0 v layer i else 0)

/-- A mere's landed layer is counted, and its bytes. -/
def countLanded (v : Version) (layer : Nat) (d : Dev) (m : Nat) : Dev :=
  count { d with eng.weirBytes := SMap.set (fun _ => 0) d.eng.weirBytes m (SMap.get (fun _ => 0) d.eng.weirBytes m + layerBytes d v layer m) } .weir m 0x108 1

/-- A mere's weir counts a layer where it lands one; of the next pass it keeps how many. -/
theorem landLayer_eq (v : Version) (p : Pass) (layer : Nat) (d : Dev) (m : Nat) :
    landLayer v p layer d m = if lands v p layer m = true then
      (if Mdl.nLayer v.desc ≤ layer then countLanded v layer (modPass d p.id (·.withNext m ((p.next.getD m (0, 0)).1, layer - Mdl.nLayer v.desc + 1))) m
       else countLanded v layer (signalLanded d p m true) m) else d := by
  by_cases own : layer < Mdl.nLayer v.desc
  · have before : ¬Mdl.nLayer v.desc ≤ layer := by omega
    have law : lands v p layer m = decide ((p.ahead.getD m (0, 0)).2 ≤ layer) := if_pos own
    simp only [landLayer, before, if_false, law, decide_eq_true_eq]
    by_cases held : (p.ahead.getD m (0, 0)).2 ≤ layer
    · rw [if_neg (by omega), if_pos held]
      rfl
    · rw [if_pos (by omega), if_neg held]
  · have after : Mdl.nLayer v.desc ≤ layer := by omega
    have law : lands v p layer m = decide ((p.next.getD m (0, 0)).2 = layer - Mdl.nLayer v.desc ∧ layer - Mdl.nLayer v.desc < (p.next.getD m (0, 0)).1) :=
      if_neg own
    simp only [landLayer, after, if_true, law, decide_eq_true_eq]
    rfl

/-- Counting a mere's landed layer on a state with the same memories, registers and byte counts. -/
theorem Landed.counted {done : List Nat} {e : Dev} {m : Nat} (h : Landed d0 v p layer done d) (fresh : m ∉ done) (on : lands v p layer m = true)
    (mem : e.mem = d.mem) (regs : e.regs = d.regs) (bytes : e.eng.weirBytes = d.eng.weirBytes)
    (pass : ∃ q, passAt e p.id = some q ∧ { q with next := p.next } = { p with landed := p.landed + 1 } ∧
      ∀ i, i < 4 → q.next.getD i (0, 0) = if i ∈ done ++ [m] ∧ Mdl.nLayer v.desc ≤ layer ∧ lands v p layer i = true
        then ((p.next.getD i (0, 0)).1, layer - Mdl.nLayer v.desc + 1) else p.next.getD i (0, 0)) :
    Landed d0 v p layer (done ++ [m]) (countLanded v layer e m) where
  mem := mem.trans h.mem
  pass := pass
  layers i := by
    have before := h.layers i
    refine (live_count _ .weir m 0x108 1 _).trans ?_
    have same : live { e with eng.weirBytes := SMap.set (fun _ => 0) e.eng.weirBytes m (SMap.get (fun _ => 0) e.eng.weirBytes m + layerBytes e v layer m) }
        (regA .weir i 0x108) = live d (regA .weir i 0x108) := live_congr regs _
    rw [same, before]
    by_cases here : m = i
    · subst here
      simp [fresh, on]
    · rw [if_neg (regA_weir_ne here 0x108)]
      simp [Ne.symm here]
  bytes i := by
    have before := h.bytes i
    have size : layerBytes e v layer m = layerBytes d0 v layer m := by simp only [layerBytes, modelAt, mem, h.mem]
    refine (SMap.get_set _ _ _ _ _).trans ?_
    rw [bytes, size]
    by_cases here : m = i
    · subst here
      rw [before]
      simp [fresh, on]
    · rw [if_neg here, before]
      simp [Ne.symm here]

theorem Landed.step {done : List Nat} {m : Nat} (h : Landed d0 v p layer done d) (fresh : m ∉ done) :
    Landed d0 v p layer (done ++ [m]) (landLayer v p layer d m) := by
  obtain ⟨q, found, rest, next⟩ := h.pass
  rw [landLayer_eq]
  by_cases on : lands v p layer m = true
  · rw [if_pos on]
    by_cases after : Mdl.nLayer v.desc ≤ layer
    · rw [if_pos after]
      refine h.counted fresh on rfl rfl rfl ⟨_, passAt_modPass found fun _ => rfl, rest, fun i lt => ?_⟩
      rw [Pass.withNext_getD _ _ _ lt, next i lt]
      by_cases here : i = m
      · subst here
        simp [after, on]
      · simp [here]
    · rw [if_neg after]
      refine h.counted fresh on rfl rfl rfl ⟨q, found, rest, fun i lt => ?_⟩
      rw [next i lt]
      simp [after]
  · rw [if_neg on]
    have apart : ∀ i, (i ∈ done ++ [m] ∧ lands v p layer i = true) ↔ (i ∈ done ∧ lands v p layer i = true) := fun i => by
      by_cases here : i = m
      · simp [here, on]
      · simp [here]
    have apart' : ∀ i, (i ∈ done ++ [m] ∧ Mdl.nLayer v.desc ≤ layer ∧ lands v p layer i = true) ↔
        (i ∈ done ∧ Mdl.nLayer v.desc ≤ layer ∧ lands v p layer i = true) := fun i => by
      rw [and_left_comm, apart i, and_left_comm]
    refine ⟨h.mem, ⟨q, found, rest, fun i lt => ?_⟩, fun i => ?_, fun i => ?_⟩
    · rw [next i lt, if_congr (apart' i) rfl rfl]
    · rw [h.layers i, if_congr (apart i) rfl rfl]
    · rw [h.bytes i, if_congr (apart i) rfl rfl]

theorem layerLandedOp_lands (found : passAt d0 p.id = some p) (ver : findVer d0 p.model = some v) (turn : layer = p.landed) (written : layer < p.written) :
    Landed d0 v p layer (List.range 4) (layerLandedOp d0 p.id layer) := by
  have found' : d0.eng.passes.find? (fun q => decide (q.id = p.id)) = some p := found
  have goes : ¬(layer ≠ p.landed ∨ p.written ≤ layer) := by omega
  have start : Landed d0 v p layer [] (modPass d0 p.id (fun q => { q with landed := q.landed + 1 })) :=
    ⟨rfl, ⟨_, passAt_modPass found fun _ => rfl, rfl, fun i _ => by simp⟩, fun i => (by simp : live d0 _ = _), fun i => by simp [modPass]⟩
  simp only [layerLandedOp, found', ver, if_neg goes]
  exact foldl_done (P := Landed d0 v p layer) (fun done a m h fresh => h.step fresh) (List.range 4) [] start List.nodup_range

theorem layerLandedOp_other (found : passAt d0 p.id = some p) (out : layer ≠ p.landed ∨ p.written ≤ layer) : layerLandedOp d0 p.id layer = d0 := by
  have found' : d0.eng.passes.find? (fun q => decide (q.id = p.id)) = some p := found
  simp only [layerLandedOp, found', if_pos out]
  split <;> rfl

end

end Sys2Proof.Machine

/-! ## The weir writes layers, and drops those prefetched (O35) -/

namespace Sys2Proof.Machine

open Sys2Proof.Claims

section
variable {d0 d : Dev} {v : Version} {p : Pass} {layer : Nat}

/-- Once some meres have been asked to write a layer: the pass's new poison, the next pass's layers, and the waits for FREED. -/
structure Written (d0 : Dev) (v : Version) (p : Pass) (layer : Nat) (done : List Nat) (d : Dev) : Prop where
  mem : d.mem = d0.mem
  control : ∀ i, ctlBit d .weir i 0 = ctlBit d0 .weir i 0
  pass : ∃ q, passAt d p.id = some q ∧ { q with next := p.next, bad := p.bad } = { p with written := p.written + 1 } ∧
    q.bad = p.bad ++ (if layer < Mdl.nLayer v.desc then done.flatMap (layerPoison d0 v.uid layer) else []) ∧
    ∀ i, i < 4 → q.next.getD i (0, 0) = if i ∈ done ∧ Mdl.nLayer v.desc ≤ layer ∧ writes d0 v p layer i = true
      then (layer - Mdl.nLayer v.desc + 1, (p.next.getD i (0, 0)).2) else p.next.getD i (0, 0)
  waits : ∀ i, live d (regA .weir i 0x110) = live d0 (regA .weir i 0x110) ∨ (i ∈ done ∧ writes d0 v p layer i = true ∧
    live d (regA .weir i 0x110) = live d0 (regA .weir i 0x110) + 1)

/-- The cores have freed the slot: LANDED goes down, and the weir has waited for it or not. -/
def freeSlot (p : Pass) (m : Nat) (d : Dev) : Dev :=
  let x := draw (signalLanded d p m false)
  if Config.freedWaited x.1 then count x.2 .weir m 0x110 1 else x.2

theorem writeLayer_eq (v : Version) (p : Pass) (layer : Nat) (d : Dev) (m : Nat) :
    writeLayer v p layer [] d m =
      if layer < Mdl.nLayer v.desc then freeSlot p m (modPass d p.id (fun q => { q with bad := q.bad ++ layerPoison d v.uid layer m }))
      else if ctlBit d .weir m 0 && decide ((p.next.getD m (0, 0)).1 = layer - Mdl.nLayer v.desc)
        then freeSlot p m (modPass d p.id (·.withNext m (layer - Mdl.nLayer v.desc + 1, (p.next.getD m (0, 0)).2)))
      else d := by
  simp only [writeLayer, withErrors_nil]
  rfl

/-- Of the registers only the mere's count of waits may change, by one. -/
theorem freeSlot_spec (p : Pass) (m : Nat) (d : Dev) : (freeSlot p m d).mem = d.mem ∧ (freeSlot p m d).eng = d.eng ∧
    (∀ i, ctlBit (freeSlot p m d) .weir i 0 = ctlBit d .weir i 0) ∧
    (∀ i, i ≠ m → live (freeSlot p m d) (regA .weir i 0x110) = live d (regA .weir i 0x110)) ∧
    (live (freeSlot p m d) (regA .weir m 0x110) = live d (regA .weir m 0x110) ∨
      live (freeSlot p m d) (regA .weir m 0x110) = live d (regA .weir m 0x110) + 1) := by
  unfold freeSlot
  dsimp only
  split
  · refine ⟨rfl, rfl, fun i => ?_, fun i ne => ?_, .inr ?_⟩
    · have other : regA .weir m 0x110 ≠ regA .weir i 0x10 := regA_ne_of_off (by decide) (by decide) (by decide)
      rw [ctlBit, liveN, live_count, if_neg other]
      rfl
    · rw [live_count, if_neg (regA_weir_ne (Ne.symm ne) 0x110)]
      rfl
    · rw [live_count, if_pos rfl]
      rfl
  · exact ⟨rfl, rfl, fun _ => rfl, fun _ _ => rfl, .inl rfl⟩

theorem layerPoison_congr {d e : Dev} (mem : e.mem = d.mem) (uid layer m : Nat) : layerPoison e uid layer m = layerPoison d uid layer m := by
  simp only [layerPoison, modelAt, framesPoison, mem]

/-- A mere that writes the layer frees a slot, of a state with the same memories and registers. -/
theorem Written.freed {done : List Nat} {e : Dev} {m : Nat} (h : Written d0 v p layer done d) (fresh : m ∉ done) (on : writes d0 v p layer m = true)
    (mem : e.mem = d.mem) (regs : e.regs = d.regs)
    (pass : ∃ q, passAt e p.id = some q ∧ { q with next := p.next, bad := p.bad } = { p with written := p.written + 1 } ∧
      q.bad = p.bad ++ (if layer < Mdl.nLayer v.desc then (done ++ [m]).flatMap (layerPoison d0 v.uid layer) else []) ∧
      ∀ i, i < 4 → q.next.getD i (0, 0) = if i ∈ done ++ [m] ∧ Mdl.nLayer v.desc ≤ layer ∧ writes d0 v p layer i = true
        then (layer - Mdl.nLayer v.desc + 1, (p.next.getD i (0, 0)).2) else p.next.getD i (0, 0)) :
    Written d0 v p layer (done ++ [m]) (freeSlot p m e) := by
  obtain ⟨mem', eng', control', others', own'⟩ := freeSlot_spec p m e
  have word : ∀ i, live e (regA .weir i 0x110) = live d (regA .weir i 0x110) := fun i => live_congr regs _
  refine ⟨mem'.trans (mem.trans h.mem), fun i => ?_, ?_, fun i => ?_⟩
  · rw [control', ctlBit, liveN, live_congr regs]
    exact h.control i
  · rwa [passAt, eng']
  · by_cases here : i = m
    · subst here
      have before := (h.waits i).resolve_right fun more => fresh more.1
      rw [word i, before] at own'
      exact own'.imp id fun more => ⟨List.mem_append_right _ (List.mem_singleton_self _), on, more⟩
    · rw [others' i here, word i]
      exact (h.waits i).imp id fun more => ⟨List.mem_append_left _ more.1, more.2⟩

theorem Written.step {done : List Nat} {m : Nat} (h : Written d0 v p layer done d) (fresh : m ∉ done) :
    Written d0 v p layer (done ++ [m]) (writeLayer v p layer [] d m) := by
  obtain ⟨q, found, rest, bad, next⟩ := h.pass
  rw [writeLayer_eq]
  by_cases own : layer < Mdl.nLayer v.desc
  · have on : writes d0 v p layer m = true := by simp [writes, own]
    rw [if_pos own]
    refine h.freed fresh on rfl rfl ⟨_, passAt_modPass found fun _ => rfl, rest, ?_, fun i lt => ?_⟩
    · show q.bad ++ _ = _
      rw [bad, if_pos own, if_pos own, layerPoison_congr h.mem, List.append_assoc, List.flatMap_append, List.flatMap_singleton]
    · refine (next i lt).trans ?_
      rw [if_neg (by omega), if_neg (by omega)]
  · have law : writes d0 v p layer m = (ctlBit d .weir m 0 && decide ((p.next.getD m (0, 0)).1 = layer - Mdl.nLayer v.desc)) := by
      simp [writes, own, h.control m]
    rw [if_neg own, ← law]
    by_cases on : writes d0 v p layer m = true
    · rw [if_pos on]
      refine h.freed fresh on rfl rfl ⟨_, passAt_modPass found fun _ => rfl, rest, ?_, fun i lt => ?_⟩
      · refine bad.trans ?_
        rw [if_neg own, if_neg own]
      · rw [Pass.withNext_getD _ _ _ lt, next i lt]
        by_cases here : i = m
        · subst here
          simp [Nat.not_lt.1 own, on]
        · simp [here]
    · rw [if_neg on]
      refine ⟨h.mem, h.control, ⟨q, found, rest, ?_, fun i lt => ?_⟩, fun i => ?_⟩
      · rw [bad, if_neg own, if_neg own]
      · rw [next i lt]
        by_cases here : i = m
        · simp [here, on]
        · simp [here]
      · exact (h.waits i).imp id fun more => ⟨List.mem_append_left _ more.1, more.2⟩

theorem layerWriteOp_writes (found : passAt d0 p.id = some p) (ver : findVer d0 p.model = some v) (turn : layer = p.written)
    (limit : layer < layerLimit d0 v) (room : layer < p.landed + Mdl.window v.desc) (calm : ∀ m, m < 4 → isArmed d0 .weir m = false) :
    Written d0 v p layer (List.range 4) (layerWriteOp d0 p.id layer []) := by
  have found' : d0.eng.passes.find? (fun q => decide (q.id = p.id)) = some p := found
  have none0 : (List.range 4).any (fun m => isArmed d0 .weir m) = false := List.any_eq_false.2 fun m lt => by simp [calm m (List.mem_range.1 lt)]
  have goes : ¬(layer ≠ p.written ∨ layerLimit d0 v ≤ layer ∨ p.landed + Mdl.window v.desc ≤ layer ∨ (List.range 4).any (fun m => isArmed d0 .weir m) = true) := by
    rw [none0]
    simp only [Bool.false_eq_true, or_false]
    omega
  have start : Written d0 v p layer [] (modPass d0 p.id (fun q => { q with written := q.written + 1 })) :=
    ⟨rfl, fun _ => rfl, ⟨_, passAt_modPass found fun _ => rfl, rfl, by simp, fun i _ => by simp⟩, fun i => .inl rfl⟩
  simp only [layerWriteOp, found', ver, if_neg goes]
  exact foldl_done (P := Written d0 v p layer) (fun done a m h fresh => h.step fresh) (List.range 4) [] start List.nodup_range

theorem layerWriteOp_other (found : passAt d0 p.id = some p) (out : layer ≠ p.written ∨ ∃ m, m < 4 ∧ isArmed d0 .weir m = true) (errs : List ReadError) :
    layerWriteOp d0 p.id layer errs = d0 := by
  have found' : d0.eng.passes.find? (fun q => decide (q.id = p.id)) = some p := found
  have stays : ∀ v, layer ≠ p.written ∨ layerLimit d0 v ≤ layer ∨ p.landed + Mdl.window v.desc ≤ layer ∨ (List.range 4).any (fun m => isArmed d0 .weir m) = true :=
    fun v => out.imp id fun ⟨m, lt, armed⟩ => .inr (.inr (List.any_eq_true.2 ⟨m, List.mem_range.2 lt, armed⟩))
  simp only [layerWriteOp, found', if_pos (stays _)]
  split <;> rfl

end

/-! ### Prefetched layers that no pass has taken (R375) -/

theorem liveN_count_self (d : Dev) (k : Blk) (i off n : Nat) : liveN (count d k i off n) k i off = (liveN d k i off + n) % 2 ^ 32 := by
  rw [liveN, live_count, if_pos rfl, BitVec.toNat_add, BitVec.toNat_ofNat, Nat.add_mod_mod]
  rfl

end Sys2Proof.Machine

namespace Sys2Proof.Proofs

open Sys2Proof.Machine Sys2Proof.Claims

section
variable {s : State} {p : Pass} {layer : Nat} {v : Version} (found : passAt s.dev p.id = some p)
include found

theorem layer_lands (ver : findVer s.dev p.model = some v) (turn : layer = p.landed) (written : layer < p.written) :
    ∃ t, exec (.layerLanded p.id layer) s = .next t ∧ Aside s t ∧
      (∃ q, t.dev.eng.passes.find? (fun q => decide (q.id = p.id)) = some q ∧ { q with next := p.next } = { p with landed := p.landed + 1 } ∧
        (∀ m, m < 4 → q.next.getD m (0, 0) = (p.next.getD m (0, 0)).map id (fun n =>
          if Mdl.nLayer v.desc ≤ layer ∧ lands v p layer m = true then layer - Mdl.nLayer v.desc + 1 else n))) ∧
      (∀ m, m < 4 → live t.dev (regA .weir m 0x108) = live s.dev (regA .weir m 0x108) + (if lands v p layer m then 1 else 0) ∧
        SMap.get (fun _ => 0) t.dev.eng.weirBytes m = SMap.get (fun _ => 0) s.dev.eng.weirBytes m +
          (if lands v p layer m then layerBytes s.dev v layer m else 0)) ∧ t.dev.mem = s.dev.mem := by
  obtain ⟨mem, ⟨q, own, rest, next⟩, layers, bytes⟩ := layerLandedOp_lands found ver turn written
  refine ⟨on s (layerLandedOp s.dev p.id layer), rfl, ⟨rfl, rfl, rfl⟩, ⟨q, own, rest, fun m lt => ?_⟩, fun m lt => ⟨?_, ?_⟩, mem⟩
  · rw [next m lt]
    by_cases held : Mdl.nLayer v.desc ≤ layer ∧ lands v p layer m = true
    · simp [held, lt, Prod.map]
    · rw [if_neg fun h => held h.2, Prod.map, if_neg held]
      rfl
  · simpa [lt] using layers m
  · simpa [lt] using bytes m

theorem layer_written (ver : findVer s.dev p.model = some v) (turn : layer = p.written) (limit : layer < layerLimit s.dev v)
    (room : layer < p.landed + Mdl.window v.desc) (calm : ∀ m, m < 4 → isArmed s.dev .weir m = false) :
    ∃ t q, exec (.weirLayerWrite layer ⟨p.id, []⟩) s = .next t ∧ Aside s t ∧
      t.dev.eng.passes.find? (fun q => decide (q.id = p.id)) = some q ∧
      { q with next := p.next, bad := p.bad } = { p with written := p.written + 1 } ∧
      q.bad = p.bad ++ (if layer < Mdl.nLayer v.desc then (List.range 4).flatMap (layerPoison s.dev v.uid layer) else []) ∧
      (∀ m, m < 4 → q.next.getD m (0, 0) = (p.next.getD m (0, 0)).map
          (fun n => if Mdl.nLayer v.desc ≤ layer ∧ writes s.dev v p layer m = true then layer - Mdl.nLayer v.desc + 1 else n) id ∧
        (live t.dev (regA .weir m 0x110) = live s.dev (regA .weir m 0x110) ∨ (writes s.dev v p layer m = true ∧
          live t.dev (regA .weir m 0x110) = live s.dev (regA .weir m 0x110) + 1))) ∧ t.dev.mem = s.dev.mem := by
  obtain ⟨mem, -, ⟨q, own, rest, bad, next⟩, waits⟩ := layerWriteOp_writes found ver turn limit room calm
  refine ⟨on s (layerWriteOp s.dev p.id layer []), q, rfl, ⟨rfl, rfl, rfl⟩, own, rest, bad, fun m lt => ⟨?_, (waits m).imp id fun more => more.2⟩, mem⟩
  rw [next m lt]
  by_cases held : Mdl.nLayer v.desc ≤ layer ∧ writes s.dev v p layer m = true
  · simp [held, lt, Prod.map]
  · rw [if_neg fun h => held h.2, Prod.map, if_neg held]
    rfl
end

theorem prefetch_drops {s : State} {m : Nat} {e : Nat × Nat × Nat × Nat × Nat} (held : s.dev.eng.prefetch.find? (fun q => decide (q.1 = m)) = some e) :
    ∃ t, exec (.prefetchDrop m) s = .next t ∧ Aside s t ∧ (∀ q ∈ t.dev.eng.prefetch, q.1 ≠ m) ∧
      t.dev.now = max s.dev.now (e.2.2.2.1 + msCycles 1) ∧ t.dev.eng.passes = s.dev.eng.passes ∧
      reg t .weir m 0x10C = (reg s .weir m 0x10C + ((s.dev.eng.prefetch.filter (fun q => decide (q.1 = m))).map (·.2.2.1)).sum) % 2 ^ 32 ∧
      (∀ q ∈ s.dev.eng.prefetch, q.1 ≠ m → q ∈ t.dev.eng.prefetch) := by
  have drops : prefetchDropOp s.dev m = dropPrefetch (advanceTo s.dev (e.2.2.2.1 + msCycles 1)) m := by simp only [prefetchDropOp, held]
  refine ⟨on s (prefetchDropOp s.dev m), rfl, ⟨rfl, rfl, rfl⟩, fun q mem => ?_, by rw [drops]; rfl, by rw [drops]; rfl, ?_, fun q mem ne => ?_⟩
  · rw [drops] at mem
    simpa using (List.mem_filter.1 mem).2
  · show liveN (prefetchDropOp s.dev m) .weir m 0x10C = _
    rw [drops]
    exact liveN_count_self _ _ _ _ _
  · rw [drops]
    exact List.mem_filter.2 ⟨mem, by simp [ne]⟩

/-- Settles O35: loads by the operations that end and fail them, layers by a loop over the meres that says what each done mere has changed. -/
theorem modelsAndLayers : Obligations.ModelsAndLayers := by
  refine ⟨fun s uid v found => ⟨fun model kept away still want fits => ?_, fun x loads read dead => modelLoad_ends found loads read dead,
      fun frame hdr loads read apart => modelLoad_fails found loads read apart⟩,
    fun s p layer found => ⟨fun v ver turn written => layer_lands found ver turn written, fun out => ?_,
      fun v ver turn limit room calm => layer_written found ver turn limit room calm, fun out errs => ?_, fun m e held => prefetch_drops held⟩⟩
  · exact congrArg (fun d => Host.Outcome.next (on s d)) (loadStartOp_fits found model kept away still want fits)
  · exact congrArg (fun d => Host.Outcome.next (on s d)) (layerLandedOp_other found out)
  · exact congrArg (fun d => Host.Outcome.next (on s d)) (layerWriteOp_other found out errs)

end Sys2Proof.Proofs
